-- ==== Sys2Proof/Word.lean ====
section
/-! DEFINITION. Word.lean: the word types of the manual (R1, R5) and the type of sparse maps. Only abbreviations:
everything that computes stands in `Sys2Proof/Machine/`. -/

namespace Sys2Proof

/-- One byte. -/
abbrev U8 := BitVec 8
abbrev U16 := BitVec 16
/-- One register of BAR0 (R8), one lane, one scalar register. -/
abbrev U32 := BitVec 32
abbrev U64 := BitVec 64

/-- A sparse map with natural-number keys, kept in ONE canonical form: keys strictly rising, no entry equal to the
value an unlisted key reads as (`Sys2Proof.SMapWf`, `Sys2Proof/Machine/Maps.lean`). -/
abbrev SMap (α : Type) := List (Nat × α)

/-- A byte string, byte 0 first (R5). -/
abbrev Bytes := List U8

/-- Stream number (R1). -/
abbrev StreamId := BitVec 14
/-- Stream generation (R1), modulo 16. -/
abbrev Gen := BitVec 4
/-- Step stamp (R20), modulo 2^20. -/
abbrev Stamp := BitVec 20
/-- Knot number (R1). -/
abbrev KnotId := BitVec 12
/-- Chip identifier on the Passages (R1). -/
abbrev ChipId := BitVec 12
/-- Global ring pair number (R73). -/
abbrev PairId := BitVec 10
/-- Function number: 0 the PF, 1 to 63 a VF. -/
abbrev FnId := BitVec 6
/-- Model slot (R1). -/
abbrev SlotId := BitVec 8

end Sys2Proof
end

