-- ==== Sys2Proof/Syntax.lean ====
section
/-! DEFINITION. Syntax.lean: the commands of the block, one constructor per row of spec/opcode_table.json.
Operands carry what comes from outside the device; what the device itself keeps in flight is named by its place in a
list of the state. -/

namespace Sys2Proof

/-- What an error-correcting code finds in one word or sector (R355, R356): its number within what is read, and
whether the error is uncorrectable. -/
structure Finding where
  at_ : Nat
  uncorr : Bool
  deriving DecidableEq, Repr

/-- What comes with the header and payload of a received data flit (R369, R371, R393): whether its FEC codewords
decoded, the corrected symbols of lanes 0 to 3, eight bits each, and its CRC word. -/
structure FlitRx where
  fec : Bool
  corr : U32
  crc : U32
  deriving DecidableEq, Repr

/-- A link flit that port `p` receives with a good CRC: its header and its payload bytes 1 to 4 (R370). -/
structure LinkFlit where
  p : BitVec 2
  hdr : U32
  credits : U32
  deriving DecidableEq, Repr

/-- An offset within BAR0, or BAR4 if `bar4` (R70). -/
structure BarAddr where
  bar4 : Bool
  off : BitVec 20
  deriving DecidableEq, Repr

/-- The packet error code of an SMBus write (R473). -/
inductive Pec where
  | absent
  | good
  | bad
  deriving DecidableEq, Repr

/-- The rates that have a Physical Layer capability (R69). -/
inductive PhyRate where
  | g16
  | g32
  | g64
  deriving DecidableEq, Repr

/-- The registers of configuration space (R65, R68 to R70), each a 32-bit word. -/
inductive CfgReg where
  /-- Vendor ID and Device ID. -/
  | id
  /-- Command and Status. -/
  | command
  /-- Revision ID and class code. -/
  | classRev
  | bar (k : BitVec 3)
  /-- Subsystem vendor ID and subsystem ID. -/
  | subsystem
  | rom
  | pmCap
  | pmCtl
  | msixCtl
  | msixTable
  | msixPba
  /-- PCI Express Capabilities: the version and the Device/Port Type. -/
  | expCap
  | devCap
  | devCtl
  | linkCap
  | linkCtl
  | devCap2
  | devCtl2
  | devCap3
  | devCtl3
  | aerUncStatus
  | aerUncMask
  | aerUncSeverity
  | aerCorrStatus
  | aerCorrMask
  /-- Advanced Error Capabilities and Control: the First Error Pointer. -/
  | aerCap
  | aerHeader (k : BitVec 2)
  | serial (hi : Bool)
  | sriovCap
  /-- SR-IOV control; VF Enable is bit 0. -/
  | sriovCtl
  /-- InitialVFs and TotalVFs. -/
  | sriovVfs
  | sriovNum
  /-- First VF Offset and VF Stride. -/
  | sriovOffset
  | sriovDevice
  | vfBar (k : BitVec 3)
  | ari
  | l1ssCap
  | l1ssCtl
  | ltr
  /-- Secondary PCI Express: Link Control 3, Lane Error Status, and the equalisation controls of two lanes a word. -/
  | secLinkCtl
  | laneError
  | laneEq (k : BitVec 3)
  /-- Data Link Feature: capabilities and status. -/
  | dlfCap
  | dlfStatus
  /-- Physical Layer of a rate: capabilities, control, status, and the equalisation controls of four lanes a word. -/
  | phyCap (r : PhyRate)
  | phyCtl (r : PhyRate)
  | phyStatus (r : PhyRate)
  | phyEq (r : PhyRate) (k : BitVec 2)
  /-- Data parity mismatches at 16.0 GT/s: local, and of the first and the second retimer. -/
  | parity (k : BitVec 2)
  /-- Modified TS data at 32.0 GT/s: two words received, two sent. -/
  | modTs (k : BitVec 2)
  /-- Lane Margining at the Receiver: the port, and control and status of a lane. -/
  | marginPort
  | marginLane (k : BitVec 4)
  deriving DecidableEq, Repr

/-- What a configuration request does (R449; the fields are those of R48, R68, R69, R102 and R446). -/
inductive CfgOp where
  | read (r : CfgReg)
  | write (r : CfgReg) (w : U32)
  /-- A write of the power state: 0 D0, 3 D3hot (R65). -/
  | powerState (d : BitVec 2)
  | busMaster (v : Bool)
  | pmeEn (v : Bool)
  /-- A write of 1 to PME_Status. -/
  | pmeStatusClear
  | msixEnable (v : Bool)
  | functionMask (v : Bool)
  /-- SR-IOV VF Enable, of the PF. -/
  | vfEnable (v : Bool)
  deriving DecidableEq, Repr

/-- The commands. -/
inductive Instr where
  /-- DOORBELL. A write of `len` bytes holding `w` at offset `off` of doorbell page `page` of `fn` (R80, R81). -/
  | doorbell (fn : FnId) (page : BitVec 10) (off : BitVec 12) (len : Nat) (w : U64)
  /-- DESCRIPTOR_FETCH. One fetch of at most `n` descriptors from the SQ that R79 chooses. -/
  | descriptorFetch (n : Nat)
  /-- NOP. The start of the fetched descriptor of SQ entry `idx` of ring pair `pair` (R90). -/
  | nop (pair : PairId) (idx : U16)
  /-- KNOT_SIGNAL. The start of the fetched descriptor of SQ entry `idx` of ring pair `pair` (R90). -/
  | knotSignal (pair : PairId) (idx : U16)
  /-- KNOT_WAIT. The start of the fetched descriptor of SQ entry `idx` of ring pair `pair` (R90). -/
  | knotWait (pair : PairId) (idx : U16)
  /-- STREAM_OPEN. The start of the fetched descriptor of SQ entry `idx` of ring pair `pair` (R90). -/
  | streamOpen (pair : PairId) (idx : U16)
  /-- STREAM_CLOSE. The start of the fetched descriptor of SQ entry `idx` of ring pair `pair` (R90). -/
  | streamClose (pair : PairId) (idx : U16)
  /-- STREAM_STATUS. The start of the fetched descriptor of SQ entry `idx` of ring pair `pair` (R90). -/
  | streamStatus (pair : PairId) (idx : U16)
  /-- INGEST. The start of the fetched descriptor of SQ entry `idx` of ring pair `pair` (R90). -/
  | ingest (pair : PairId) (idx : U16)
  /-- INGEST_STEP_READ. The ring engine reads the announced samples of the open step of stream `st` (R52). -/
  | ingestStepRead (st : StreamId)
  /-- SLOT_LOAD. The start of a fetched SLOT_LOAD descriptor (R90). -/
  | slotLoad (pair : PairId) (idx : U16)
  /-- SLOT_LOAD_COMPLETE. The pending load of `slot` completes (R141, R190). -/
  | slotLoadComplete (slot : SlotId)
  /-- VERSION_RETIRE. The old version of `slot` is retired (R190). -/
  | versionRetire (slot : SlotId)
  /-- JOB_RUN. The start of the fetched descriptor of SQ entry `idx` of ring pair `pair` (R90). -/
  | jobRun (pair : PairId) (idx : U16)
  /-- TRAIN_STEP. The start of the fetched descriptor of SQ entry `idx` of ring pair `pair` (R90). -/
  | trainStep (pair : PairId) (idx : U16)
  /-- DMA_COPY. The start of the fetched descriptor of SQ entry `idx` of ring pair `pair` (R90). -/
  | dmaCopy (pair : PairId) (idx : U16)
  /-- PACK. The start of the fetched descriptor of SQ entry `idx` of ring pair `pair` (R90). -/
  | pack (pair : PairId) (idx : U16)
  /-- UNPACK. The start of the fetched descriptor of SQ entry `idx` of ring pair `pair` (R90). -/
  | unpack (pair : PairId) (idx : U16)
  /-- COMPLETION_WRITE. The completion sequencer takes its next completion of `pair` (R92, R94). -/
  | completionWrite (pair : PairId)
  /-- REPORT_WRITE. The oldest held report of stream `st` is written (R97). -/
  | reportWrite (st : StreamId)
  /-- NOTIFY_WRITE. The oldest held record of stream `st` is written (R350). -/
  | notifyWrite (st : StreamId)
  /-- HOLDOFF_EXPIRY. The holdoff of the CQ (or NQ) of `pair` has run out (R102). -/
  | holdoffExpiry (pair : PairId) (nq : Bool)
  /-- MSIX_UNMASK. The host clears the mask bit of vector `vec` of `fn` (R102). -/
  | msixUnmask (fn : FnId) (vec : BitVec 11)
  /-- RING_ENABLE. A write of HIF_RING_CTRL with ENABLE 1, ABORT 0 to the pair selected by `fn` (R75). -/
  | ringEnable (fn : FnId) (prio : BitVec 2)
  /-- RING_DISABLE. A write of HIF_RING_CTRL with ENABLE 0, ABORT 0 (R77). -/
  | ringDisable (fn : FnId) (prio : BitVec 2)
  /-- RING_ABORT. A write of HIF_RING_CTRL with ABORT 1 (R77). -/
  | ringAbort (fn : FnId) (prio : BitVec 2) (en : Bool)
  /-- RING_DRAINED. No work of `pair` remains (R77). -/
  | ringDrained (pair : PairId)
  /-- STAGE. PROT_CMD.STAGE (R104). -/
  | protStage
  /-- COMMIT. PROT_CMD.COMMIT (R105). -/
  | protCommit
  /-- DISCARD. PROT_CMD.DISCARD (R104). -/
  | protDiscard
  /-- PROT_COMMIT_DONE. Every job that touched a revoked right has ended (R107). -/
  | protCommitDone
  /-- FLR. Function-level reset of `fn` (R108). -/
  | flr (fn : FnId)
  /-- HIF_CSC_CLEAR_CLR. HIF_CSC_CLEAR.CLR (R64). -/
  | cscClear
  /-- CLR_STREAMS. HIF_CSC_CLEAR.CLR_STREAMS (R63). -/
  | clrStreams
  /-- HIF_FN_CLEAR. HIF_FN_CLEAR.CLR of `fn` (R110). -/
  | fnClear (fn : FnId)
  /-- BAD_BAR0_ACCESS. A BAR0 access that R10 refuses. -/
  | badBar0Access (fn : FnId) (off : BitVec 20) (size : Nat) (write : Bool)
  /-- REGISTER_WRITE. A 32-bit write of `w` at offset `off` of BAR0 of `fn`, or of its MSI-X table in BAR4 if `msix` (R11, R70). -/
  | registerWrite (fn : FnId) (msix : Bool) (off : BitVec 20) (w : U32)
  /-- FRONTEND_RUN. An Edging engine runs the front-end of the open step of `st` (R308). -/
  | frontendRun (st : StreamId)
  /-- CONVERT. An Edging engine converts the staging frame of `st` (R151). -/
  | convert (st : StreamId)
  /-- EVENT_ARRIVE. The `k`-th event in flight reaches its core (R131). -/
  | eventArrive (k : Nat)
  /-- STEP_CLOSE. The step closure unit closes the open step of `st` (R144). -/
  | stepClose (st : StreamId)
  /-- ON_RESULT. The `k`-th result in flight reaches the cascade sequencer (R31, R36). -/
  | onResult (k : Nat)
  /-- DEFERRED_ACTION_RESUME. A decision or result of `st` that waited under R46 is tried again. -/
  | deferredResume (st : StreamId)
  /-- SNAPSHOT_WAIT_RESUME. The closure that has waited longest for a snapshot buffer is tried again (R348). -/
  | snapshotResume
  /-- CLOSE_COMPLETE. Nothing of the closing stream `st` remains in flight (R56). -/
  | closeComplete (st : StreamId)
  /-- PIC_SLOT_RANGE_WRITE. A write of PIC_SLOT_RANGE_A, or _B if `b` (R159). -/
  | picRangeWrite (b : Bool) (w : U32)
  /-- PIC_BRIDGE_WRITE. A write of PIC_BRIDGE (R160). -/
  | picBridgeWrite (w : U32)
  /-- PIC_CLEAR. PIC_CLEAR.CLR (R158). -/
  | picClear
  /-- BUNDLE_ISSUE. Bobbin core `c` (logical y in [7:4], x in [3:0]) issues the bundle at its PC (R169). -/
  | bundleIssue (c : BitVec 8)
  /-- ADD. Core `c` issues a bundle whose S slot is ADD sD, sA, sB (R172). -/
  | iAdd (c : BitVec 8) (d a b : BitVec 5)
  /-- SUB. Core `c` issues a bundle whose S slot is SUB sD, sA, sB (R172). -/
  | iSub (c : BitVec 8) (d a b : BitVec 5)
  /-- AND. Core `c` issues a bundle whose S slot is AND sD, sA, sB (R172). -/
  | iAnd (c : BitVec 8) (d a b : BitVec 5)
  /-- OR. Core `c` issues a bundle whose S slot is OR sD, sA, sB (R172). -/
  | iOr (c : BitVec 8) (d a b : BitVec 5)
  /-- XOR. Core `c` issues a bundle whose S slot is XOR sD, sA, sB (R172). -/
  | iXor (c : BitVec 8) (d a b : BitVec 5)
  /-- SHL. Core `c` issues a bundle whose S slot is SHL sD, sA, sB (R172). -/
  | iShl (c : BitVec 8) (d a b : BitVec 5)
  /-- SHR. Core `c` issues a bundle whose S slot is SHR sD, sA, sB (R172). -/
  | iShr (c : BitVec 8) (d a b : BitVec 5)
  /-- SRA. Core `c` issues a bundle whose S slot is SRA sD, sA, sB (R172). -/
  | iSra (c : BitVec 8) (d a b : BitVec 5)
  /-- SLT. Core `c` issues a bundle whose S slot is SLT sD, sA, sB (R172). -/
  | iSlt (c : BitVec 8) (d a b : BitVec 5)
  /-- SLTU. Core `c` issues a bundle whose S slot is SLTU sD, sA, sB (R172). -/
  | iSltu (c : BitVec 8) (d a b : BitVec 5)
  /-- MIN. Core `c` issues a bundle whose S slot is MIN sD, sA, sB (R172). -/
  | iMin (c : BitVec 8) (d a b : BitVec 5)
  /-- MAX. Core `c` issues a bundle whose S slot is MAX sD, sA, sB (R172). -/
  | iMax (c : BitVec 8) (d a b : BitVec 5)
  /-- MUL. Core `c` issues a bundle whose S slot is MUL sD, sA, sB (R172). -/
  | iMul (c : BitVec 8) (d a b : BitVec 5)
  /-- MULH. Core `c` issues a bundle whose S slot is MULH sD, sA, sB (R172). -/
  | iMulh (c : BitVec 8) (d a b : BitVec 5)
  /-- ADDI. S slot ADDI (R172). -/
  | iAddi (c : BitVec 8) (d a : BitVec 5) (i : BitVec 6)
  /-- SHLI. S slot SHLI; `i` is 0 to 31 (R172). -/
  | iShli (c : BitVec 8) (d a : BitVec 5) (i : BitVec 6)
  /-- SHRI. S slot SHRI; `i` is 0 to 31 (R172). -/
  | iShri (c : BitVec 8) (d a : BitVec 5) (i : BitVec 6)
  /-- SRAI. S slot SRAI; `i` is 0 to 31 (R172). -/
  | iSrai (c : BitVec 8) (d a : BitVec 5) (i : BitVec 6)
  /-- MOVI. S slot MOVI (R172). -/
  | iMovi (c : BitVec 8) (d : BitVec 5) (i : BitVec 11)
  /-- LI. S slot LI in a FORM 1 bundle (R172). -/
  | iLi (c : BitVec 8) (d : BitVec 5) (i : U32)
  /-- LW. S slot LW (R172). -/
  | iLw (c : BitVec 8) (d a : BitVec 5) (i : BitVec 6)
  /-- SW. S slot SW (R172). -/
  | iSw (c : BitVec 8) (d a : BitVec 5) (i : BitVec 6)
  /-- LWP. S slot LWP (R172). -/
  | iLwp (c : BitVec 8) (d a : BitVec 5) (i : BitVec 6)
  /-- SWP. S slot SWP (R172). -/
  | iSwp (c : BitVec 8) (d a : BitVec 5) (i : BitVec 6)
  /-- VLD. S slot VLD (R172). -/
  | iVld (c : BitVec 8) (d : BitVec 4) (a : BitVec 5) (i : BitVec 6)
  /-- VST. S slot VST (R172). -/
  | iVst (c : BitVec 8) (d : BitVec 4) (a : BitVec 5) (i : BitVec 6)
  /-- VLDP. S slot VLDP (R172). -/
  | iVldp (c : BitVec 8) (d : BitVec 4) (a : BitVec 5) (i : BitVec 6)
  /-- VSTP. S slot VSTP (R172). -/
  | iVstp (c : BitVec 8) (d : BitVec 4) (a : BitVec 5) (i : BitVec 6)
  /-- VSPLAT. S slot VSPLAT (R172). -/
  | iVsplat (c : BitVec 8) (d : BitVec 4) (a : BitVec 5) (t : BitVec 2)
  /-- VEXT. S slot VEXT of lane `l` (R172). -/
  | iVext (c : BitVec 8) (d : BitVec 5) (a l : BitVec 4)
  /-- BEQZ. S slot BEQZ (R172). -/
  | iBeqz (c : BitVec 8) (a : BitVec 5) (off : BitVec 11)
  /-- BNEZ. S slot BNEZ (R172). -/
  | iBnez (c : BitVec 8) (a : BitVec 5) (off : BitVec 11)
  /-- BLTZ. S slot BLTZ (R172). -/
  | iBltz (c : BitVec 8) (a : BitVec 5) (off : BitVec 11)
  /-- BGEZ. S slot BGEZ (R172). -/
  | iBgez (c : BitVec 8) (a : BitVec 5) (off : BitVec 11)
  /-- JMP. S slot JMP (R172). -/
  | iJmp (c : BitVec 8) (off : BitVec 11)
  /-- CALL. S slot CALL (R172). -/
  | iCall (c : BitVec 8) (off : BitVec 11)
  /-- JR. S slot JR (R172). -/
  | iJr (c : BitVec 8) (a : BitVec 5)
  /-- LOOP. S slot LOOP (R173). -/
  | iLoop (c : BitVec 8) (a : BitVec 5) (i : BitVec 6)
  /-- CSRR. S slot CSRR (R174). -/
  | iCsrr (c : BitVec 8) (d : BitVec 5) (i : BitVec 11)
  /-- CSRW. S slot CSRW (R174). -/
  | iCsrw (c : BitVec 8) (d : BitVec 5) (i : BitVec 11)
  /-- SYNC. S slot SYNC (R172). -/
  | iSync (c : BitVec 8)
  /-- END. S slot END (R172). -/
  | iEnd (c : BitVec 8)
  /-- MOP. M slot MOP (R175). -/
  | iMop (c : BitVec 8) (tile : BitVec 3) (a b m : BitVec 4)
  /-- MZERO. M slot MZERO (R175). -/
  | iMzero (c : BitVec 8) (tile : BitVec 3)
  /-- MRD. M slot MRD (R175). -/
  | iMrd (c : BitVec 8) (d : BitVec 4) (tile : BitVec 3) (row : BitVec 5) (half : Bool)
  /-- MWR. M slot MWR (R175). -/
  | iMwr (c : BitVec 8) (tile : BitVec 3) (a : BitVec 4) (row : BitVec 5) (half : Bool)
  /-- VADD. M slot VADD (R175). -/
  | iVadd (c : BitVec 8) (d a b : BitVec 4) (t : BitVec 2)
  /-- VSUB. M slot VSUB (R175). -/
  | iVsub (c : BitVec 8) (d a b : BitVec 4) (t : BitVec 2)
  /-- VMUL. M slot VMUL (R175). -/
  | iVmul (c : BitVec 8) (d a b : BitVec 4) (t : BitVec 2)
  /-- VFMA. M slot VFMA (R175). -/
  | iVfma (c : BitVec 8) (d a b : BitVec 4)
  /-- VMIN. M slot VMIN (R175). -/
  | iVmin (c : BitVec 8) (d a b : BitVec 4) (t : BitVec 2)
  /-- VMAX. M slot VMAX (R175). -/
  | iVmax (c : BitVec 8) (d a b : BitVec 4) (t : BitVec 2)
  /-- VAND. M slot VAND (R175). -/
  | iVand (c : BitVec 8) (d a b : BitVec 4)
  /-- VOR. M slot VOR (R175). -/
  | iVor (c : BitVec 8) (d a b : BitVec 4)
  /-- VXOR. M slot VXOR (R175). -/
  | iVxor (c : BitVec 8) (d a b : BitVec 4)
  /-- VSHR. M slot VSHR (R175). -/
  | iVshr (c : BitVec 8) (d a b : BitVec 4) (t : BitVec 2)
  /-- VCVT. M slot VCVT from format `src` to format `dst` (R176). -/
  | iVcvt (c : BitVec 8) (d a dst src : BitVec 4)
  /-- VPERM. M slot VPERM (R175). -/
  | iVperm (c : BitVec 8) (d a b : BitVec 4)
  /-- VSUM. M slot VSUM of INT32 lanes, or of FP32 lanes if `fp` (R175). -/
  | iVsum (c : BitVec 8) (d a : BitVec 4) (fp : Bool)
  /-- VFN. M slot VFN (R175). -/
  | iVfn (c : BitVec 8) (d a : BitVec 4) (fn : BitVec 2)
  /-- VCMP. M slot VCMP; `op` 0 EQ, 1 LT, 2 LE (R175). -/
  | iVcmp (c : BitVec 8) (d a b : BitVec 4) (t op : BitVec 2)
  /-- PTB. M slot PTB (R184). -/
  | iPtb (c : BitVec 8) (buf : Bool) (a kind : BitVec 4) (m : BitVec 2)
  /-- PTA. M slot PTA (R184). -/
  | iPta (c : BitVec 8) (tile : BitVec 3) (a : BitVec 4) (m : BitVec 2)
  /-- CBLD. M slot CBLD (R175). -/
  | iCbld (c : BitVec 8) (cb : BitVec 2) (a : BitVec 4)
  /-- DMA. X slot DMA (R177). -/
  | iDma (c : BitVec 8) (a : BitVec 5) (ch : BitVec 2)
  /-- DMAW. X slot DMAW (R177). -/
  | iDmaw (c : BitVec 8) (ch : BitVec 2)
  /-- SEND. X slot SEND (R205). -/
  | iSend (c : BitVec 8) (a b : BitVec 5)
  /-- RECV. X slot RECV (R177). -/
  | iRecv (c : BitVec 8) (a : BitVec 5)
  /-- RPOP. X slot RPOP (R206). -/
  | iRpop (c : BitVec 8)
  /-- KSIG. X slot KSIG (R229). -/
  | iKsig (c : BitVec 8) (a b : BitVec 5)
  /-- KWAIT. X slot KWAIT (R230). -/
  | iKwait (c : BitVec 8) (a b : BitVec 5)
  /-- EPEEK. X slot EPEEK (R177). -/
  | iEpeek (c : BitVec 8) (a : BitVec 5)
  /-- EPOP. X slot EPOP (R177). -/
  | iEpop (c : BitVec 8)
  /-- COPY. Channel `ch` of core `c` runs the COPY descriptor at the head of its queue (R182). -/
  | dmaRunCopy (c : BitVec 8) (ch : BitVec 2)
  /-- EXPAND. Channel `ch` of core `c` runs the EXPAND descriptor at the head of its queue (R182). -/
  | dmaRunExpand (c : BitVec 8) (ch : BitVec 2)
  /-- TERN_UNPACK. Channel `ch` of core `c` runs the TERN_UNPACK descriptor at the head of its queue (R182). -/
  | dmaRunTern (c : BitVec 8) (ch : BitVec 2)
  /-- DMA_DESCRIPTOR_DONE. The descriptor that channel `ch` of core `c` has run completes (R180). -/
  | dmaDone (c : BitVec 8) (ch : BitVec 2)
  /-- MESSAGE_RECEIVE. The `k`-th message in the mesh reaches its core (R212). -/
  | messageReceive (k : Nat)
  /-- BOUNCE_RETURN. The `k`-th bounce in the mesh reaches its sender (R213). -/
  | bounceReturn (k : Nat)
  /-- PARTITION_TAKE_JOB. Placement A (B if `inB`) of Tier 1 slot `slot` takes its next job (R192). -/
  | partitionTakeJob (slot : SlotId) (inB : Bool)
  /-- JOB_END. The job of that placement ends (R193). -/
  | jobEnd (slot : SlotId) (inB : Bool)
  /-- KNOT_ADD. The `k`-th knot operation on the control net reaches the knot store (R218). -/
  | knotAdd (k : Nat)
  /-- KNOT_RESET. The `k`-th knot operation on the control net reaches the knot store (R218). -/
  | knotReset (k : Nat)
  /-- KNOT_WAIT_ARRIVE. The `k`-th knot operation on the control net reaches the knot store (R218). -/
  | knotWaitArrive (k : Nat)
  /-- KNOT_CMD_RESET. BOB_KNOT_CMD.RESET (R235). -/
  | knotCmdReset
  /-- BIND. BOB_KNOT_CMD.BIND (R226). -/
  | knotBind
  /-- UNBIND. BOB_KNOT_CMD.UNBIND (R235). -/
  | knotUnbind
  /-- ENGINE_GRANT. The free logical Chamber engine `e` is granted (R289). -/
  | engineGrant (e : BitVec 4)
  /-- CONV. The next layer of Tier 2 job `j`, a CONV layer, runs (R290). -/
  | layerConv (j : Nat)
  /-- GCONV. The next layer of Tier 2 job `j`, a GCONV layer, runs (R290). -/
  | layerGconv (j : Nat)
  /-- MATMUL. The next layer of Tier 2 job `j`, a MATMUL layer, runs (R290). -/
  | layerMatmul (j : Nat)
  /-- LAYER_ADD. The next layer of Tier 2 job `j`, a LAYER_ADD layer, runs (R290). -/
  | layerAdd (j : Nat)
  /-- POOL. The next layer of Tier 2 job `j`, a POOL layer, runs (R290). -/
  | layerPool (j : Nat)
  /-- RESULT. The next layer of Tier 2 job `j`, a RESULT layer, runs (R290). -/
  | layerResult (j : Nat)
  /-- EDG_LAYER_PIECE. Edging engine `e` runs one piece of the EDG layer of Tier 2 job `j` (R305). -/
  | edgLayerPiece (j : Nat) (e : BitVec 2)
  /-- TIER2_JOB_END. Tier 2 job `j` ends (R293). -/
  | tier2JobEnd (j : Nat)
  /-- SAT_CFG_WRITE. A write of FLT_SAT_CFG, or of FLT_SAT_THRESH if `thresh` (R262). -/
  | satCfgWrite (thresh : Bool) (w : U32)
  /-- CLR. FLT_SAT_CMD.CLR (R262). -/
  | satClr
  /-- CLR_ALL. FLT_SAT_CMD.CLR_ALL (R262). -/
  | satClrAll
  /-- BOB_CLEAR. BOB_CLEAR.CLR. -/
  | bobClear
  /-- BOB_MSG_CLEAR. BOB_MSG_CLEAR.CLR. -/
  | bobMsgClear
  /-- CHM_CLEAR. CHM_CLEAR.CLR. -/
  | chmClear
  /-- EDG_CLEAR. EDG_CLEAR.CLR. -/
  | edgClear
  /-- BOB_SLOT_PLACE_WRITE. A write of BOB_SLOT_PLACE_A, or _B if `b` (R189). -/
  | bobPlaceWrite (b : Bool) (w : U32)
  /-- CHM_SLOT_PLACE_WRITE. A write of CHM_SLOT_PLACE_A, or _B if `b` (R314). -/
  | chmPlaceWrite (b : Bool) (w : U32)
  /-- GAL_CODEC_CLEAR. GAL_CODEC_CLEAR.CLR (R338). -/
  | galCodecClear
  /-- GAL_CLEAR. GAL_CLEAR.CLR (R363). -/
  | galClear
  /-- SRAM_SCRUB. The Gallery scrubber reads its next line, with what the ECC of its words finds (R358). -/
  | sramScrub (finds : List Finding)
  /-- DRAM_SCRUB. The DRAM scrubber reads the next unit of every pseudo-channel, with what the code of their sectors finds (R358). -/
  | dramScrub (finds : List Finding)
  /-- STACK_TEMPERATURE. A temperature reading of a DRAM stack, in degrees Celsius (R354). -/
  | stackTemperature (stack : BitVec 3) (temp : U8)
  /-- PORT_EN_WRITE. A write of PSG_PORT_CTRL.EN of the selected port (R367). -/
  | portEnWrite (en : Bool)
  /-- PORT_TRAIN_STEP. The present training step of port `p` completes (R367). -/
  | portTrainStep (p : BitVec 2)
  /-- PORT_TRAIN_TIMEOUT. The present training step of port `p` exceeds its limit (R367). -/
  | portTrainTimeout (p : BitVec 2)
  /-- DATA_FLIT. Port `p` receives a data flit with the header `hdr` and the payload (R369); `lanes`: lanes whose marker parity failed in its interval (R371, R393). -/
  | dataFlit (p : BitVec 2) (rx : FlitRx) (lanes : BitVec 4) (hdr : U32) (payload : Bytes)
  /-- LINK_IDLE. Port `p` receives a LINK_IDLE flit with a good CRC, header `hdr`, payload bytes 1 to 4 `credits` (R370). -/
  | linkIdle (p : BitVec 2) (hdr credits : U32)
  /-- LINK_NAK. Port `p` receives a LINK_NAK flit with a good CRC, header `hdr`, payload bytes 1 to 4 `credits` (R370). -/
  | linkNak (p : BitVec 2) (hdr credits : U32) (seq : BitVec 12)
  /-- LINK_IDENT. A port receives the IDENT flit `f` (R370). -/
  | linkIdent (f : LinkFlit) (chip : ChipId) (port : BitVec 2) (lanes : BitVec 3) (rev : U8)
  /-- LINK_LEAVING. Port `p` receives a LEAVING flit (R389). -/
  | linkLeaving (p : BitVec 2)
  /-- LINK_RETRAIN. A port receives the RETRAIN flit `f` (R394). -/
  | linkRetrain (f : LinkFlit)
  /-- CREDIT_FLIT_DUE. The transmitter of port `p` has owed credits for 32 slots (R370). -/
  | creditFlitDue (p : BitVec 2)
  /-- PEER_TIMEOUT. The no-flit window or the retrain window of port `p` has run out (R389). -/
  | peerTimeout (p : BitVec 2)
  /-- RETRAIN. PSG_PORT_CTRL.RETRAIN of the selected port (R394). -/
  | portRetrain
  /-- REVIVE. PSG_PORT_CTRL.REVIVE of the selected port (R395). -/
  | portRevive
  /-- XSTART. The `k`-th delivered Passage message, a XSTART, reaches its unit (R374). -/
  | rxXstart (k : Nat)
  /-- XDATA. The `k`-th delivered Passage message, a XDATA, reaches its unit (R374). -/
  | rxXdata (k : Nat)
  /-- XEND. The `k`-th delivered Passage message, a XEND, reaches its unit (R374). -/
  | rxXend (k : Nat)
  /-- XABORT. The `k`-th delivered Passage message, a XABORT, reaches its unit (R374). -/
  | rxXabort (k : Nat)
  /-- XACK. The `k`-th delivered Passage message, a XACK, reaches its unit (R374). -/
  | rxXack (k : Nat)
  /-- EVENTS. The `k`-th delivered Passage message, a EVENTS, reaches its unit (R374). -/
  | rxEvents (k : Nat)
  /-- STEP_END. The `k`-th delivered Passage message, a STEP_END, reaches its unit (R374). -/
  | rxStepEnd (k : Nat)
  /-- STEP_ACK. The `k`-th delivered Passage message, a STEP_ACK, reaches its unit (R374). -/
  | rxStepAck (k : Nat)
  /-- KOP. The `k`-th delivered Passage message, a KOP, reaches its unit (R374). -/
  | rxKop (k : Nat)
  /-- KOP_REPLY. The `k`-th delivered Passage message, a KOP_REPLY, reaches its unit (R374). -/
  | rxKopReply (k : Nat)
  /-- SUBSCRIBE. The `k`-th delivered Passage message, a SUBSCRIBE, reaches its unit (R374). -/
  | rxSubscribe (k : Nat)
  /-- SUB_REPLY. The `k`-th delivered Passage message, a SUB_REPLY, reaches its unit (R374). -/
  | rxSubReply (k : Nat)
  /-- UPDATE. The `k`-th delivered Passage message, a UPDATE, reaches its unit (R374). -/
  | rxUpdate (k : Nat)
  /-- UNSUBSCRIBE. The `k`-th delivered Passage message, a UNSUBSCRIBE, reaches its unit (R374). -/
  | rxUnsubscribe (k : Nat)
  /-- LOSS. The `k`-th delivered Passage message, a LOSS, reaches its unit (R374). -/
  | rxLoss (k : Nat)
  /-- RREAD. The `k`-th delivered Passage message, a RREAD, reaches its unit (R374). -/
  | rxRread (k : Nat)
  /-- RREAD_REPLY. The `k`-th delivered Passage message, a RREAD_REPLY, reaches its unit (R374). -/
  | rxRreadReply (k : Nat)
  /-- GO. PSG_RREG_CHIP.GO (R388). -/
  | rregGo
  /-- CONDUIT_ENABLE. A write of PSG_CND_CTRL of the selected conduit (R378). -/
  | conduitEnable (w : U32)
  /-- CONDUIT_TRIGGER. Conduit `n` looks at its trigger knot (R379). -/
  | conduitTrigger (n : U8)
  /-- CHIP_RETURN. PSG_ROUTE_STATE.LOST of the selected chip is cleared (R392). -/
  | chipReturn
  /-- PSG_CLEAR. PSG_CLEAR.CLR (R397). -/
  | psgClear
  /-- LOGIC_CHECK_FAIL. A logic check of the unit fails (logical number); `rerunFails`: the rerun of R410 on the unit fails too. -/
  | logicCheckFail (utype : BitVec 4) (unit : BitVec 12) (check : U64) (rerunFails : Bool)
  /-- SPARE_BRINGUP_DONE. The bring-up of the spare of the repair in progress ends (R411). -/
  | spareBringupDone
  /-- PICOT_CORE_MOVE. The Picot core of the repair in progress is copied to its spare (R413). -/
  | picotCoreMove
  /-- BANK_COPY_DONE. The bank copy of the repair in progress ends (R414). -/
  | bankCopyDone
  /-- FLT_LOG_TAIL_WRITE. A write of FLT_LOG_TAIL (R404). -/
  | fltLogTailWrite (w : U32)
  /-- RETIRE. FLT_REPAIR_CMD written with OP 1 and GO (R425). -/
  | fltRetire (utype : BitVec 4) (unit : BitVec 12)
  /-- RESTORE. FLT_REPAIR_CMD written with OP 2 and GO (R425). -/
  | fltRestore (utype : BitVec 4) (unit : BitVec 12)
  /-- FLT_CLEAR. FLT_CLEAR.CLR (R426). -/
  | fltClear
  /-- PLL_WINDOW. A window of PLL `p` ends with `count` (R430). -/
  | pllWindow (p : BitVec 3) (count : BitVec 17)
  /-- PLL_EN_WRITE. A write of CLK_PLL_CTRL of the selected PLL (R431). -/
  | pllEnWrite (w : U32)
  /-- PASSAGE_PLL_RETRY. 2^20 REFCLK cycles have passed since a PASSAGE clock fault (R431). -/
  | passagePllRetry
  /-- REFCLK_LOSS. The missing-edge detector sees REFCLK stop (R432). -/
  | refclkLoss
  /-- SWITCH. A write of CLK_DOM_CTRL of the selected domain that switches it (R435). -/
  | domSwitch (w : U32)
  /-- CLK_OBS_WRITE. A write of CLK_OBS (R437). -/
  | clkObsWrite (w : U32)
  /-- GOVERNOR_INTERVAL. A governor interval ends with input power `p` (0.1 W), hottest junction `t` and the rail levels in mV (R441, R454). -/
  | governorInterval (p : U16) (t : U8) (rails : List (BitVec 12))
  /-- RAIL_WARNING. Rail 0x10 + `rail` falls below its warning level, to `mv` (R439). -/
  | railWarning (rail : BitVec 4) (mv : BitVec 12)
  /-- RAIL_RECOVERED. Every rail has stayed at or above warning for 1,024 cycles (R439). -/
  | railRecovered
  /-- RAIL_RESET. Rail 0x10 + `rail` falls below its reset level (R440). -/
  | railReset (rail : BitVec 4) (mv : BitVec 12)
  /-- TIER_UP. The Bobbin tier (Chamber if `chm`) powers up (R444). -/
  | tierUp (chm : Bool)
  /-- TIER_DOWN. The tier has been idle for TIER_HOLD (R444). -/
  | tierDown (chm : Bool)
  /-- WATCH_ENTRY. The conditions of R445 have held for WATCH_DELAY. -/
  | watchEntry
  /-- WATCH_EXIT. A condition of R445 is broken. -/
  | watchExit
  /-- RETAIN_ENTRY. The conditions of R446 hold. -/
  | retainEntry
  /-- RETAIN_EXIT. CLKREQ# is asserted in Retain (R446). -/
  | retainExit
  /-- SEQUENCE_STEP_DONE. The present step of the power sequence ends (R450). -/
  | sequenceStepDone
  /-- PERST_ASSERT. PERST# is asserted (R447). -/
  | perstAssert
  /-- PERST_DEASSERT. PERST# is deasserted (R447). -/
  | perstDeassert
  /-- WARM_RESET. PCIe hot reset or link-down (R14). -/
  | warmReset
  /-- POWER_ON. 48 V is applied (R466). -/
  | powerOn
  /-- UNDERVOLTAGE. The input falls below its falling undervoltage level (R485). -/
  | undervoltage
  /-- THERMAL_TRIP. A junction or stack reaches its trip temperature (R491). -/
  | thermalTrip
  /-- PWR_CLEAR. PWR_CLEAR.CLR (R453). -/
  | pwrClear
  /-- PWR_RES_CLEAR. PWR_RES_CLEAR.CLR (R451). -/
  | pwrResClear
  /-- ADDR. SMBus ADDR (R473). -/
  | smbAddr (a : U16) (pec : Pec)
  /-- READ32. SMBus READ32 (R473). -/
  | smbRead32
  /-- WRITE32. SMBus WRITE32 with the block `data` (R473). -/
  | smbWrite32 (data : Bytes) (pec : Pec)
  /-- RDADDR. SMBus RDADDR with the block `data` (R473). -/
  | smbRdaddr (data : Bytes) (pec : Pec)
  /-- STATUS. SMBus STATUS (R473). -/
  | smbStatus
  /-- WAKE. SMBus WAKE (R477). -/
  | smbWake (pec : Pec)
  /-- IDENT. SMBus IDENT (R473). -/
  | smbIdent
  /-- ALERT_RESPONSE. The controller addresses the Alert Response Address (R478). -/
  | smbAlertResponse
  /-- COMMIT_RECORD. LNT_FLASH_CMD.GO over BAR0, or over the SMBus if `smb` (R467). -/
  | commitRecord (smb : Bool)
  /-- COMMIT_MICROCODE. LNT_FLASH_CMD.GO over BAR0, or over the SMBus if `smb` (R467). -/
  | commitMicrocode (smb : Bool)
  /-- FLASH_COMMIT_DONE. Step 4 of R467 ends; `ok`: the sector read back as written. -/
  | flashCommitDone (ok : Bool)
  /-- RELEASE. LNT_STAGE_CTRL.RELEASE (R469). -/
  | stageRelease (smb : Bool)
  /-- STAGE_ADDR_WRITE. A write of LNT_STAGE_ADDR (R469). -/
  | stageAddrWrite (smb : Bool) (w : U32)
  /-- STAGE_DATA_ACCESS. An access to LNT_STAGE_DATA (R479). -/
  | stageDataAccess (smb write : Bool) (w : U32)
  /-- BANK_WRITE. A write of the write-limited setting at LNT_ offset `off` (R470). -/
  | bankWrite (smb : Bool) (off : U8) (w : U32)
  /-- LNT_CLEAR. LNT_CLEAR.CLR (R479). -/
  | lntClear
  /-- CONFIGURATION_REQUEST. A PCIe configuration request (R449). -/
  | configRequest (fn : FnId) (op : CfgOp)
  /-- PCIE_LINK_UP. Link training ends in L0 (R66). -/
  | pcieLinkUp (speed : BitVec 3) (width : BitVec 5) (flit : Bool)
  /-- ASPM_L1_ENTRY. The idle link enters L1.`sub` (R433). -/
  | aspmL1Entry (sub : BitVec 2)
  /-- LOW_HALF_READ. A 32-bit host read: of the low half of a 64-bit register, which latches the high half, or of any other word (R9, R69). -/
  | lowHalfRead (fn : FnId) (r : BarAddr)
  /-- UNLISTED_COMMAND_CODE. An SMBus transaction with a code that R473 does not list. -/
  | smbUnlisted (code : U8)
  deriving DecidableEq, Repr

end Sys2Proof
end

