-- ==== Sys2Proof/Machine/State.lean ====
section
/-! DEFINITION. State.lean: the state of the block, plain data, and the state right after reset.

Registers that only hold what is written to them, and counters that only count, live in the sparse maps `regs` and
`ctrs`, keyed by their BAR0 offset (`Machine/Ops.lean` holds their reset values). Everything else is a
named field. A sparse map is canonical (`smWf`): the value of an unlisted key is the `init` of its type. -/

namespace Sys2Proof.Machine

/-! ## Outcomes -/

/-- Why the block stops. -/
inductive Fault where
  /-- An operand of the command is outside what the spec lets it be (`WellFormed.lean`); raised by meanings whose
  operands carry a list or a length. Safe: no such command exists on the wire. -/
  | illFormed (what : String)
  deriving DecidableEq, Repr

/-- Why a command has no meaning. -/
inductive Refusal where
  /-- The command of that mnemonic has no meaning in this model; only `Machine/Dispatch.lean` raises it. Safe. -/
  | notModelled (mnemonic : String)
  deriving DecidableEq, Repr

abbrev Out (σ : Type) := Host.Outcome σ Fault Refusal

/-! ## What leaves the device -/

/-- Messages that have left the device and answers to reads (newest first in `State.out`). Writes into host memory
are not here: host memory is memory. -/
inductive OutMsg where
  | msix (fn : FnId) (vec : BitVec 11)
  /-- PM_PME of a function (R48). -/
  | pme (fn : FnId)
  /-- AER Corrected Internal Error (R403). -/
  | aerCorrected
  /-- AER Uncorrectable Internal Error (R402). -/
  | aerUncorrectable
  /-- The answer to a BAR0 read. -/
  | readData (fn : FnId) (off : BitVec 20) (w : U32)
  /-- The answer to a read of the MSI-X table or PBA in BAR4 (R69, R70). -/
  | msixData (fn : FnId) (off : BitVec 20) (w : U32)
  /-- A configuration request answered: `retry` is Configuration Request Retry Status (R447); the word that a read returns. -/
  | cfgAnswer (fn : FnId) (retry : Bool) (w : U32)
  /-- The SMBus target's answer: `ack`, the bytes it returns (R473), and the PEC that follows them (R472). -/
  | smbus (ack : Bool) (bytes : Bytes) (pec : Option U8)
  /-- A flit sent by a Passage port (R369): its header word, its 248 B payload and its CRC. -/
  | flit (port : BitVec 2) (hdr : U32) (payload : Bytes) (crc : U32)
  deriving DecidableEq, Repr

/-! ## Functions (R68 to R70, R100 to R102, R110) -/

/-- One vector of a function's MSI-X table. -/
structure MsixVec where
  addr : U64 := 0
  data : U32 := 0
  masked : Bool := true
  pend : Bool := false
  deriving DecidableEq, Repr

structure Fn where
  /-- 0: D0; 3: D3hot. -/
  dstate : BitVec 2 := 0
  bme : Bool := false
  pmeEn : Bool := false
  pmeStatus : Bool := false
  msixEn : Bool := false
  fmask : Bool := false
  vecs : SMap MsixVec := []
  ringSel : PairId := 0
  errVec : BitVec 11 := 0
  errIen : Bool := false
  dbErr : Nat := 0
  descErr : Nat := 0
  dbLog : U64 := 0
  dbCause : BitVec 3 := 0
  dbPage : BitVec 10 := 0
  dbValid : Bool := false
  stale : Nat := 0
  prot : Nat := 0
  irqLost : Nat := 0
  /-- High halves latched by R9, by the offset of the high half. -/
  latch : SMap U32 := []
  /-- Configuration registers that hold what is written or what happens, by `cfgKey`, where not at `cfgInit` (R65, R68 to R70). -/
  cfg : SMap U32 := []
  deriving DecidableEq, Repr

/-! ## Ring pairs (R73 to R79, R84 to R98) -/

/-- The end of a descriptor, waiting for its turn (R91, R94). -/
structure Compl where
  status : U8
  res0 : U32 := 0
  res1 : U64 := 0
  res2 : U64 := 0
  deriving DecidableEq, Repr

/-- What every message of a descriptor's work carries (R78): the ring pair, its RGEN, the job tag and its generation. -/
structure DescRef where
  pair : PairId
  rgen : BitVec 4
  tag : BitVec 12
  tgen : BitVec 4
  deriving DecidableEq, Repr

/-- A fetched descriptor. -/
structure Desc where
  /-- Its SQ entry. -/
  idx : U16
  bytes : Bytes
  /-- The owner of the pair at the fetch. -/
  fn : FnId
  started : Bool := false
  done : Option Compl := none
  /-- Its start waits for a free entry of a report hold and has been counted in HIF_CSC_DEFER (R46, R97). -/
  deferred : Bool := false
  deriving DecidableEq, Repr

structure Ring where
  sqBase : U64 := 0
  cqBase : U64 := 0
  nqBase : U64 := 0
  sqLog2 : BitVec 4 := 4
  cqLog2 : BitVec 4 := 4
  nqLog2 : BitVec 4 := 0
  enabled : Bool := false
  abort : Bool := false
  /-- Set by a disable or an abort until R77's last sentence. -/
  draining : Bool := false
  prio : BitVec 2 := 0
  cqVec : BitVec 11 := 0
  cqIen : Bool := false
  nqVec : BitVec 11 := 0
  nqIen : Bool := false
  count : U8 := 1
  holdoff : U16 := 0
  sqHead : U16 := 0
  sqTail : U16 := 0
  cqTail : U16 := 0
  cqHead : U16 := 0
  nqTail : U16 := 0
  nqHead : U16 := 0
  cfgErr : Bool := false
  dbErr : Bool := false
  dmaErr : Bool := false
  rgen : BitVec 4 := 0
  /-- Fetched descriptors whose completion has not been written or suppressed, in SQ order. -/
  inflight : List Desc := []
  /-- Entries written and not yet announced (R102). -/
  cqUnann : Nat := 0
  nqUnann : Nat := 0
  /-- R79: fetch number at which the ring began to wait, and fetches since then that went to higher levels. -/
  waitSince : Option Nat := none
  passedBy : Nat := 0
  deriving DecidableEq, Repr

/-! ## Streams (R23, R24, R31 to R62) -/

structure StageEntry where
  tier : BitVec 2 := 0
  notify : Bool := false
  report : Bool := false
  slot : SlotId := 0
  wake : U8 := 0
  prewake : U8 := 0
  hold : U8 := 0
  holdCount : U8 := 0
  nwake : U8 := 0
  nprewake : U8 := 0
  nhold : U8 := 0
  nholdCount : U8 := 0
  inputSteps : BitVec 10 := 0
  deriving DecidableEq, Repr

/-- The stream context of R23. -/
structure StreamCtx where
  kind : BitVec 4 := 0
  sfmt : BitVec 4 := 0
  chan : BitVec 4 := 0
  gen : Gen := 0
  nstage : BitVec 3 := 0
  /-- 0 CLOSED, 1 OPEN, 2 CLOSING, 3 SUSPENDED, 4 FAULTED (R25). -/
  state : BitVec 3 := 0
  lag : Bool := false
  peer : Bool := false
  rate : BitVec 24 := 0
  stepLen : U16 := 0
  histSteps : U16 := 0
  frameUnits : U8 := 0
  lagDepth : U8 := 0
  owner : FnId := 0
  ingestRing : PairId := 0
  notifyRing : PairId := 0
  sampleInStep : U16 := 0
  nextSample : U64 := 0
  stages : List StageEntry := []
  curStep : Stamp := 0
  holdRun : U8 := 0
  armed : Bool := false
  /-- 0 IDLE, 1 SPEC, 2 SPEC_HELD, 3 ACTIVE (R30). -/
  ep : BitVec 3 := 0
  specStamp : Stamp := 0
  backlog : BitVec 7 := 0
  actStage : BitVec 3 := 0
  stPrewake : Nat := 0
  stPromote : Nat := 0
  stCancel : Nat := 0
  stNotify : Nat := 0
  deriving DecidableEq, Repr

/-- What a stage's job delivers (R29), with the identity that R36 compares. -/
structure CascResult where
  st : StreamId
  gen : Gen
  stage : BitVec 3
  stamp : Stamp
  status : U8
  cls : U16
  conf : U8
  slot : SlotId
  /-- The job was issued speculatively. -/
  spec : Bool := false
  /-- The job was withdrawn (R35): its result is dropped. -/
  withdrawn : Bool := false
  /-- It was withdrawn while speculative: its report is CANCELLED_SPECULATIVE (R495). -/
  cancelled : Bool := false
  /-- Nothing of the job is left but its report. -/
  reportOnly : Bool := false
  /-- Its wait for a free entry of the report hold has been counted in HIF_CSC_DEFER (R97). -/
  counted : Bool := false
  deriving DecidableEq, Repr

/-- The stream's outstanding job (R36) and the snapshot buffer of its episode (R347). -/
structure OutJob where
  stage : BitVec 3
  stamp : Stamp
  gen : Gen
  job : Nat
  buf : Nat
  deriving DecidableEq, Repr

/-- A record of R42 as it waits (LAGF and PEERF are put in at its posting). -/
structure Record where
  last : Bool
  specf : Bool
  seq : BitVec 12
  gen : Gen
  stage : BitVec 3
  tier : BitVec 2
  status : U8
  cls : U16
  conf : U8
  first : U64
  count : U32
  stamp : Stamp
  slot : SlotId
  /-- Order of production, for R44. -/
  order : Nat
  /-- It stands in the second entry of the notification hold (R349). -/
  second : Bool := false
  deriving DecidableEq, Repr

/-- A cascade report of R93 as it waits. -/
structure Report where
  status : U8
  gen : Gen
  stage : BitVec 3
  tier : BitVec 2
  spec : Bool
  slot : SlotId
  cls : U16
  conf : U8
  stamp : Stamp
  /-- It stands in the second entry of the report hold (R349). -/
  second : Bool := false
  deriving DecidableEq, Repr

/-- An accepted INGEST whose samples have not all been read (R52). -/
structure IngestJob where
  ref : DescRef
  buf : Nat
  unit : Nat
  count : Nat
  taken : Nat
  /-- NEXT_SAMPLE after the descriptor. -/
  next : U64
  deriving DecidableEq, Repr

/-- A closure that waits before its decision (R46, R348). -/
structure WaitDecision where
  stamp : Stamp
  conf : U8
  cls : U16
  /-- Events of the step were lost with their peer (R62). -/
  lost : Bool := false
  /-- It has been counted in HIF_CSC_DEFER (R46). -/
  counted : Bool := false
  deriving DecidableEq, Repr

/-- What befalls a stream from without, and withdraws its job. -/
inductive StreamAct where
  /-- A USE right is gone (R106). -/
  | suspend
  /-- A Picot core has no spare (R412). -/
  | fault
  /-- A threshold at byte `b` of stage `k` does not match its complement (R61, R439). -/
  | check (k b : Nat)
  /-- The right to the stream is gone (R58); `desc`: a close that was asked for before. -/
  | close (desc : Option DescRef)
  deriving DecidableEq, Repr

structure Stream where
  ctx : StreamCtx := {}
  seq : BitVec 12 := 0
  recOrder : Nat := 0
  /-- NEXT_SAMPLE of the open-stream image, and steps closed since the stream was opened (R20, R41, R43, R346). -/
  openSample : U64 := 0
  closedSteps : Nat := 0
  /-- The episode began with a speculative job (R42 SPECF). -/
  specf : Bool := false
  job : Option OutJob := none
  held : Option CascResult := none
  latched : Option CascResult := none
  waiting : Option WaitDecision := none
  hold : List Record := []
  slotRec : Option Record := none
  /-- Status records of CHECK_FAIL and UNCORRECTABLE that wait for the status slot, oldest first (R46). -/
  slotWait : List Record := []
  reports : List Report := []
  /-- The result of a speculative job that was neither promoted nor cancelled when it was dropped: its report is posted
  as the job is cancelled (R495). -/
  specOwed : Option CascResult := none
  ingests : List IngestJob := []
  /-- Samples of the open step read so far (R52, R448). -/
  stepBuf : Bytes := []
  /-- The staging frame of the open step has been written (R308). -/
  frameReady : Bool := false
  /-- The open step's input is done (R144). -/
  inputDone : Bool := false
  /-- STREAM_CLOSE waiting for R56. -/
  closeDesc : Option DescRef := none
  drain : Bool := false
  clrPending : Bool := false
  /-- USE of a slot of its program has been revoked (R106), to act at its next step boundary. -/
  useRevoked : Bool := false
  /-- What is to befall the stream as soon as its report hold has room for the report that this posts (R46, R97). -/
  act : Option StreamAct := none
  deriving DecidableEq, Repr

/-- A snapshot buffer in use: the stream that holds it (R347). -/
abbrev SnapOwner := StreamId

/-! ## Model slots (R60, R90, R137 to R141, R186 to R190, R281 to R288) -/

structure Version where
  number : U16
  image : Bytes
  /-- Front-end coefficient units of a Tier 0 version (R343). -/
  coef : List Nat := []
  deriving DecidableEq, Repr

/-- A SLOT_LOAD whose completion is pending. -/
structure LoadInFlight where
  ref : DescRef
  /-- The descriptor is gone with its function (R108): the load goes on for the slot alone. -/
  mute : Bool := false
  /-- A Tier 0 image for the active range, which takes its place as the load completes (R141, R159). -/
  image : Option Bytes := none
  deriving DecidableEq, Repr

structure Slot where
  /-- PIC_SLOT_RANGE, BOB_SLOT_PLACE or CHM_SLOT_PLACE, A and B. -/
  placeA : U32 := 0
  placeB : U32 := 0
  activeB : Bool := false
  rangeErr : Bool := false
  moving : Bool := false
  verNo : U16 := 0
  verA : Option Version := none
  verB : Option Version := none
  load : Option LoadInFlight := none
  /-- Job sequences of the two partitions (R208). -/
  jseqA : U8 := 0
  jseqB : U8 := 0
  /-- Running jobs of the two Tier 1 partitions. -/
  runA : Option Nat := none
  runB : Option Nat := none
  deriving DecidableEq, Repr

/-! ## Picot (R133, R139, R143, R144, R160) -/

/-- The instance of a stream. -/
structure Inst where
  slot : SlotId
  inB : Bool
  idx : Nat
  /-- The range in which it was placed, as PIC_SLOT_RANGE_A or _B then held it (R137, R139). -/
  range : U32 := 0
  openStep : Stamp := 0
  /-- PIC_BRIDGE word waiting for the next step boundary (R160). -/
  bridgePend : Option U32 := none
  /-- The closure waits for STEP_ACK, with the count of remote events sent (R144, R385). -/
  waitAck : Option (Stamp × Nat) := none
  /-- Emissions of the closed step are deferred to the next (R135), to be issued on resume (R448). -/
  deferred : Bool := false
  /-- Remote events that the open step has issued (R147). -/
  remoteOut : Nat := 0
  /-- Remote events accepted into the open step, by the chip that they came from, and the STEP_END that waits for them
  (R148, R384). -/
  remoteIn : SMap Nat := []
  remoteEnd : Option (ChipId × StreamId × Gen × Stamp × Nat) := none
  /-- A step-end record that has come while the step before still closes (R148). -/
  nextEnd : Option (ChipId × StreamId × Gen × Stamp × Nat) := none
  /-- The chip that the last remote event or step-end record came from (R149). -/
  srcChip : Option ChipId := none
  /-- A core of the instance is being replaced: its next closure is held (R413). -/
  heldMove : Bool := false
  /-- Events of the open step were lost with their peer, to show in PEER when it closes (R62, R149). -/
  lost : Bool := false
  /-- The bridge chip was lost at some time in the open step: no STEP_END goes out for it (R149, R392). -/
  cutLost : Bool := false
  /-- Remote events of the open step were refused for want of the event right (R385). -/
  cutRight : Bool := false
  deriving DecidableEq, Repr

/-- An event in flight on the chip (R129, R130). -/
structure Ev where
  word : U64
  egen : Gen
  /-- The bridge chip that it came from: its stamp is then that of the open step on arrival (R148). -/
  src : Option ChipId := none
  deriving DecidableEq, Repr

/-- A remote event held for its chip (R383): its word, its RGEN, and the stream that issued it. -/
structure HeldEv where
  word : U64
  egen : Gen
  st : StreamId
  deriving DecidableEq, Repr

/-! ## Jobs (R191 to R195, R289 to R294, R416 to R420) -/

/-- Who a job belongs to. -/
inductive JobOrigin where
  | host (ref : DescRef)
  | cascade (st : StreamId) (gen : Gen) (stage : BitVec 3) (stamp : Stamp)
  /-- The optimiser apply of a Tier 2 TRAIN_STEP (R294). -/
  | apply (parent : Nat)
  deriving DecidableEq, Repr

inductive JobState where
  | queued
  | running
  /-- A Tier 2 TRAIN_STEP that waits for its apply job (R271). -/
  | applying
  deriving DecidableEq, Repr

/-- One answered knot operation of a job (R420). -/
structure JEntry where
  knot : KnotId
  /-- 0 ADD, 1 RESET, 2 WAIT. -/
  op : BitVec 2
  amount : U32
  status : U8
  epochFound : U16
  deriving DecidableEq, Repr

structure Job where
  origin : JobOrigin
  slot : SlotId
  inB : Bool
  fn : FnId
  /-- Queue level: 0 speculative, 1 to 4 for priorities 0 to 3 (R191). -/
  level : Nat
  st : JobState := .queued
  /-- 0 JOB_RUN, 1 TRAIN_STEP, 2 cascade (R192). -/
  kind : BitVec 2
  mode : BitVec 2 := 0
  lrExp : U8 := 0
  batch : U16 := 1
  inAddr : U64 := 0
  outAddr : U64 := 0
  stateAddr : U64 := 0
  inBytes : Nat := 0
  outBytes : Nat := 0
  stateBytes : Nat := 0
  /-- The scratch area of its version, from its start on (R282, R291). -/
  scratchAddr : U64 := 0
  scratchBytes : Nat := 0
  inSteps : BitVec 10 := 0
  /-- WKNOT: knot, epoch, value; `none` once satisfied or when not enabled (R224). -/
  wait : Option (KnotId × U16 × U32) := none
  sig : Option (KnotId × U16 × U32) := none
  spec : Bool := false
  /-- Withdrawn while running (R35): its result is discarded. -/
  withdrawn : Bool := false
  /-- Withdrawn while speculative (R495). -/
  cancelled : Bool := false
  buf : Option Nat := none
  /-- A status that ends the job, the first that arose (R194, R293, R329). -/
  err : Option U8 := none
  prot : Bool := false
  /-- It touched a right revoked while it ran (R107). -/
  revoked : Bool := false
  /-- Rights that its accesses have used, by `touchKey` and `touchKnot` (R107). -/
  touched : List Nat := []
  satEvents : Nat := 0
  driftEvents : Nat := 0
  attempt : Nat := 1
  /-- Its present attempt began with one of its units on a spare (R418). -/
  onSpare : Bool := false
  /-- A repair must end before it restarts (R417). -/
  awaitRepair : Bool := false
  /-- Logic checks that failed: the attempt, `utype * 4096 + physical unit`, and the check (R410). -/
  checks : List (Nat × Nat × U64) := []
  replayable : Bool := true
  journal : List JEntry := []
  journalPos : SMap Nat := []
  /-- Tier 2: engines granted, layer to run next, backward program, item, pieces of the layer done (R289, R290). -/
  engines : List (BitVec 4) := []
  started : Bool := false
  layer : Nat := 0
  back : Bool := false
  item : Nat := 0
  piece : Nat := 0
  /-- The Edging engine that runs its present EDG layer (R290, R305). -/
  edgEng : Option (BitVec 2) := none
  finished : Bool := false
  cls : U16 := 0
  conf : U8 := 0
  /-- Status that the answer of its SKNOT operation is to give. -/
  sigStatus : Option U8 := none
  deriving DecidableEq, Repr

/-! ## Bobbin (R164, R174, R192, R205 to R215) -/

structure LoopFrame where
  first : Nat
  len : Nat
  left : Nat
  deriving DecidableEq, Repr

/-- A queued DMA descriptor (R181). -/
structure DmaDesc where
  ch : BitVec 2
  src : U64
  dst : U64
  rowBytes : Nat
  rows : Nat
  op : U8
  srcLoc : Bool
  dstLoc : Bool
  layout : Bool
  srcStride : U32
  dstStride : U32
  /-- Its effect has taken place; it completes with DMA_DESCRIPTOR_DONE. -/
  ran : Bool := false
  /-- Local address of the descriptor, for BOB_FAULT_ADDR. -/
  addr : Nat
  /-- Issue order on the core, for R229. -/
  order : Nat
  deriving DecidableEq, Repr

/-- A KSIG that has issued and not yet left its core (R229). -/
structure KsigPend where
  word : U32
  amount : U32
  order : Nat
  deriving DecidableEq, Repr

/-- 0 unassigned; 1 idle; 2 running; 3 waiting; 4 ended; 5 faulted (BOB_CORE_STATE). -/
abbrev CoreSt := BitVec 3

structure Core where
  /-- Role (R196): slot 0 is unassigned. -/
  slot : SlotId := 0
  inB : Bool := false
  rank : U8 := 0
  epoch : U16 := 0
  st : CoreSt := 0
  job : Option Nat := none
  jseq : U8 := 0
  s : SMap U32 := []
  v : SMap (BitVec 512) := []
  /-- Tile words, `tile * 1024 + row * 32 + column`. -/
  acc : SMap U32 := []
  cb : SMap (BitVec 128) := []
  /-- PT words, `buffer * 512 + j * 16 + c`. -/
  pt : SMap U16 := []
  pc : BitVec 17 := 0
  lastPc : BitVec 17 := 0
  loops : List LoopFrame := []
  ptpCol : BitVec 5 := 0
  ptpRow : BitVec 5 := 0
  satgrp : BitVec 12 := 0
  cyclesHi : U32 := 0
  dmaDone : SMap U32 := []
  dmas : List DmaDesc := []
  /-- Inbox ring: head entry, and the messages held in order (R206). -/
  inboxHead : Nat := 0
  inbox : List Bytes := []
  eqHead : Nat := 0
  eq : List Bytes := []
  eqOvf : Bool := false
  /-- Outbound entries in use: issue order of each send and copies still out (R209). -/
  outb : List (Nat × Nat) := []
  ksigs : List KsigPend := []
  /-- Knot operations sent and not yet acknowledged (R229). -/
  unacked : Nat := 0
  /-- A KWAIT at the knot store, and its answer once it has come. -/
  waitOut : Bool := false
  waitDone : Bool := false
  /-- Issue counter of sends, DMA descriptors and KSIGs. -/
  order : Nat := 0
  ending : Bool := false
  jobBlock : Bytes := []
  deriving DecidableEq, Repr

/-- A message, or a bounce, in the data mesh (R206, R207). -/
structure Msg where
  dst : BitVec 9
  depoch : U16
  src : BitVec 9
  sepoch : U16
  jseq : U8
  srcRank : U8
  dstRank : U8
  hdr : U32
  payload : Bytes
  /-- Issue order of its SEND on the sender (R211). -/
  order : Nat
  /-- On a bounce: the role epoch found. -/
  found : U16 := 0
  deriving DecidableEq, Repr

/-! ## Knots (R217 to R228) -/

structure Knot where
  value : U32 := 0
  nvalue : U32 := 0xFFFFFFFF
  epoch : U16 := 0
  nepoch : U16 := 0xFFFF
  broken : Bool := false
  sat : Bool := false
  mirror : Bool := false
  lost : Bool := false
  bindPend : Bool := false
  bindErr : Bool := false
  /-- RCHIP and RKNOT of BOB_KNOT_MIRROR. -/
  rchip : ChipId := 0
  rknot : KnotId := 0
  /-- The home that the knot is bound to, or that its pending bind asks (R226). -/
  hchip : ChipId := 0
  hknot : KnotId := 0
  deriving DecidableEq, Repr

/-- Who hears the answer to a knot operation (R223). -/
inductive KOrigin where
  | core (c : BitVec 8) (wait : Bool) (word : U32)
  | jobWait (j : Nat)
  | jobSig (j : Nat) (ref : DescRef)
  | ring (ref : DescRef)
  | conduitAck (n : U8)
  | conduitDone (x : Nat)
  | conduitTrig (n : U8)
  | remote (chip : ChipId) (token : U32)
  | nobody
  deriving DecidableEq, Repr

/-- A knot operation on the control net (R217). -/
structure KnotOp where
  /-- 0 ADD, 1 RESET, 2 WAIT. -/
  op : BitVec 2
  knot : KnotId
  epoch : U16
  amount : U32
  /-- OP reserved or a reserved field not 0 (R217). -/
  malformed : Bool := false
  /-- Bits [15:12] of the operand word: OP and the reserved field (R217). -/
  upper : BitVec 4 := 0
  /-- The function of R225, or the sending chip of R228. -/
  fn : FnId
  chip : Option ChipId := none
  origin : KOrigin
  deriving DecidableEq, Repr

/-- A WAIT held at the store. -/
structure KnotWait where
  knot : KnotId
  value : U32
  /-- The knot's epoch when the WAIT arrived (R214). -/
  epoch : U16
  origin : KOrigin
  deriving DecidableEq, Repr

/-- An ADD that a mirror has forwarded (R227). -/
structure FwdAdd where
  token : U32
  op : KnotOp
  /-- The chip that it went to. -/
  chip : ChipId
  /-- The knot's epoch when the ADD arrived (R214). -/
  epoch : U16
  deriving DecidableEq, Repr

/-- A mirror's subscription at its home (R226). -/
structure Sub where
  knot : KnotId
  chip : ChipId
  /-- The mirror's own number on its chip. -/
  rknot : KnotId
  deriving DecidableEq, Repr

/-! ## Saturation counters (R256, R261) -/

structure SatCtr where
  winLog2 : BitVec 5 := 0x14
  thresh : U32 := 0
  winSat : Nat := 0
  winOut : Nat := 0
  evt : Nat := 0
  outs : Nat := 0
  winDrift : Bool := false
  drift : Bool := false
  drifts : Nat := 0
  holder : SlotId := 0
  deriving DecidableEq, Repr

/-! ## Passages (R365 to R398) -/

/-- A message of R373, header fields and body. -/
structure PMsg where
  cls : BitVec 2
  mtype : BitVec 4
  dest : ChipId
  src : ChipId
  hops : BitVec 4
  route : BitVec 28
  hopcount : BitVec 12
  tagw : U32
  body : Bytes
  /-- The port whose receive buffer holds it (R372); `none`: it began on this device, or its credit is no longer owed. -/
  via : Option (BitVec 2) := none
  deriving DecidableEq, Repr

/-- 0 signal detect, 1 equalisation, 2 lock, 3 IDENT (R367, steps 1 to 4); `none` when not training. -/
abbrev TrainStep := Option (BitVec 2)

structure Port where
  en : Bool := false
  train : TrainStep := none
  up : Bool := false
  idConflict : Bool := false
  retired : Bool := false
  retrain : Bool := false
  laneRet : BitVec 4 := 0
  twoLanes : Bool := false
  /-- IDENT received in this training: chip, port. -/
  ident : Bool := false
  peerChip : ChipId := 0
  peerPort : BitVec 2 := 0
  txSeq : BitVec 12 := 0
  rxSeq : BitVec 12 := 0
  /-- Retry buffer: SEQ, class and payload of each unacknowledged data flit, oldest first. -/
  retry : List (BitVec 12 × BitVec 2 × Bytes) := []
  /-- Messages handed to the port and not yet sent. -/
  queue : List PMsg := []
  /-- Credits held and owed, classes 0 to 3. -/
  credits : List Nat := [64, 32, 16, 8]
  owed : List Nat := [0, 0, 0, 0]
  nakSent : Bool := false
  /-- A flit has been accepted since the last initial values (ACKV). -/
  acked : Bool := false
  lastNak : BitVec 12 := 0
  nakRun : Nat := 0
  /-- R372: slots since the last bulk slot while a bulk flit waits. -/
  bulkWait : Nat := 0
  txFlits : Nat := 0
  rxFlits : Nat := 0
  fecUncorr : Nat := 0
  naks : Nat := 0
  retrains : Nat := 0
  laneCorr : U32 := 0
  /-- Windows of R393: flits left and charges per lane, of the port, and retrains. -/
  laneWin : List (Nat × Nat) := [(0, 0), (0, 0), (0, 0), (0, 0)]
  portWin : Nat × Nat := (0, 0)
  trainWin : Nat × Nat := (0, 0)
  deriving DecidableEq, Repr

/-- A conduit (R378). -/
structure Conduit where
  ctrl : U32 := 0
  src : U64 := 0
  dst : U64 := 0
  stg : U64 := 0
  rstg : U64 := 0
  len : U32 := 0
  stgMax : U32 := 0
  trig : U32 := 0
  tinc : U32 := 1
  done : U32 := 0
  ack : U32 := 0
  /-- 0 disabled; 1 waiting; 2 sending; 3 ERROR. -/
  state : BitVec 2 := 0
  status : U8 := 0
  next : U32 := 0
  count : U32 := 0
  /-- Its trigger WAIT is at the knot store, or on its way there. -/
  armed : Bool := false
  /-- The WAIT has been released: the next transfer may run. -/
  ready : Bool := false
  /-- XID of the transfer that is being sent. -/
  xid : BitVec 12 := 0
  deriving DecidableEq, Repr

/-- A transfer being received (R380). -/
structure Xfer where
  chip : ChipId
  xid : BitVec 12
  dst : U64
  rstg : U64
  bytes : Nat
  codec : BitVec 2
  rfn : FnId
  dknot : Option (KnotId × U16)
  data : Bytes := []
  /-- XEND has been checked and the DKNOT operation is on its way. -/
  ending : Bool := false
  deriving DecidableEq, Repr

/-! ## Clocks and power (R428 to R454) -/

structure Pll where
  ndiv : U8
  fdiv : U16
  pdiv : BitVec 2
  en : Bool
  tol : BitVec 11 := 500
  locked : Bool
  fault : Bool := false
  last : BitVec 17 := 0
  fails : Nat := 0
  /-- Lock judgement under way: windows done, consecutive passes (R430). -/
  judge : Option (Nat × Nat) := none
  deriving DecidableEq, Repr

structure Dom where
  src : Bool := false
  /-- SRC as written. -/
  srcReq : Bool := false
  switching : Bool := false
  smin : BitVec 6 := 0
  stretch : BitVec 6 := 0
  running : Bool := false
  deriving DecidableEq, Repr

/-- The power state of PWR_STATE.STATE, Off added. -/
inductive PState where
  | run
  | idle
  | watch
  | retain
  | off
  deriving DecidableEq, Repr

structure Power where
  state : PState := .idle
  bobUp : Bool := false
  chmUp : Bool := false
  /-- Delay-table entries still to pass in the sequence in progress, the present one first (R450). -/
  seq : List U8 := []
  /-- The state that the sequence ends in. -/
  goal : PState := .idle
  /-- The tier that a sequence C or D moves: the Chamber's. -/
  seqChm : Bool := false
  /-- A sequence that starts as soon as the one in progress ends, or at its next step boundary (R449). -/
  thenB : Bool := false
  thenF : Bool := false
  thenH : Bool := false
  perstHigh : Bool := true
  refclk : Bool := true
  /-- Retain was entered by request (R446). -/
  byRequest : Bool := false
  /-- A supply dip holds the Chamber and Bobbin domains (R439): lowest rail, lowest level, held. -/
  dip : Option (BitVec 4 × BitVec 12) := none
  dipHeld : Bool := false
  /-- A rail fell below its reset level and the rails have not recovered (R440). -/
  railReset : Bool := false
  supplyReset : Bool := false
  clkEarly : Bool := false
  dipEvent : Bool := false
  govLimit : Bool := false
  clockFault : Bool := false
  limitMiss : Bool := false
  inputP : U16 := 0
  peak : U16 := 0
  tj : U8 := 0
  /-- The levels of the rails as last read, the lowest since the last clear, mV, and the rails below their warning
  level. A rail that has not been read has no entry. -/
  railMv : SMap (BitVec 12) := []
  railMin : SMap (BitVec 12) := []
  railWarn : SMap Bool := []
  /-- DRAM has lost its contents and must pass A6 to A9 (R431, R447). -/
  dramDead : Bool := false
  /-- THERM_TRIP# is latched (R491). -/
  tripped : Bool := false
  /-- PWR_GOOD is released to its pull-up: driven high, or without power (R440, R482, R483). -/
  pwrGood : Bool := true
  /-- CLKREQ# and WAKE# as the device drives them: `true` asserted. -/
  clkreq : Bool := true
  wake : Bool := false
  cfgErr : Bool := false
  /-- The rails that were on when sequence H began, bit r for rail 0x10 + r (R438, R450). -/
  hRails : BitVec 11 := 0
  deriving DecidableEq, Repr

/-- The PCIe link (R48, R66). -/
inductive LinkState where
  | down
  | l0
  | l0p
  | l1 (sub : BitVec 2)
  | l2
  deriving DecidableEq, Repr

structure Link where
  st : LinkState := .down
  speed : BitVec 3 := 0
  width : BitVec 5 := 0
  flit : Bool := false
  degraded : Bool := false
  deriving DecidableEq, Repr

/-! ## Fault manager (R399 to R427) -/

/-- A retirement or repair (R423): unit type, logical unit, and whether it is a RESTORE. -/
structure Repair where
  utype : BitVec 4
  unit : BitVec 12
  restore : Bool
  /-- The spare chosen (physical number). -/
  spare : Nat
  /-- Started by FLT_REPAIR_CMD. -/
  cmd : Bool
  deriving DecidableEq, Repr

/-- A retirement for which the fault manager has cause (R410), with the count and the log2 length of its window: of a
logical unit, or of a DRAM row, or pseudo-channel if `whole`, in place (R415). -/
inductive Verdict where
  | unit (utype unit n len : Nat)
  | row (st p row n len : Nat) (whole : Bool)
  deriving DecidableEq, Repr

/-- State under the last row of R399: a protection table entry, the registers of a ring pair, the completion
sequencer's own state. -/
inductive CtlWord where
  | prot (t i : Nat)
  | ring (p : Nat)
  | seq
  deriving DecidableEq, Repr

/-- What befalls the block from outside its commands. -/
inductive Upset where
  | none
  /-- The protected word of a byte of memory holds an error that its code corrects, or detects only, if `two` (R179,
  R276, R355, R356, R410). -/
  | flip (key : Nat) (two : Bool)
  /-- Bits of a knot's VALUE and EPOCH change against their complements (R218). -/
  | knot (k : KnotId) (value : U32) (epoch : U16)
  /-- Bits of a threshold or hold count of a stream's stage change against their complements (R24): 0 WAKE, 1 PREWAKE,
  2 HOLD, 3 HOLD_COUNT. -/
  | context (st : StreamId) (stage : Nat) (byte : BitVec 2) (mask : U8)
  /-- A packet on a control-net hop is requested again `n` times before the hop accepts it (R233). -/
  | hop (h : BitVec 12) (n : Nat)
  /-- A protection table entry, a ring pair's base, head or tail, or a part of the completion sequencer's state no
  longer matches its complement (R399); its next use finds that (R400). -/
  | control (w : CtlWord)
  /-- The host ends a fetch or a write of a ring pair with an error completion (R74). -/
  | dmaError (p : PairId)
  /-- The PCIe link goes to a state that the link partner asks for (R48, R65). -/
  | link (st : LinkState)
  /-- A function finds an error of the PCIe base specification, with the header of the TLP that it is in (R69). -/
  | aer (fn : FnId) (corr : Bool) (bit : BitVec 5) (hdr : BitVec 128)
  /-- The link finds errors of its lanes, or an equalisation request: bits of a status register that a write of 1 clears
  (R69). -/
  | lanes (r : CfgReg) (bits : U32)
  deriving DecidableEq, Repr, Inhabited

structure FaultMgr where
  fatal : Bool := false
  logOvf : Bool := false
  head : BitVec 9 := 0
  tail : BitVec 9 := 0
  rseq : U16 := 0
  log : SMap (BitVec 256) := []
  fatalLog : BitVec 256 := 0
  repair : Option Repair := none
  repairQ : List Repair := []
  cmdBusy : Bool := false
  cmdStatus : U8 := 0
  /-- Retired DRAM rows and pseudo-channels, FLT_DRAM_RET words. -/
  dramRet : List U32 := []
  /-- Windows of R409: failures, and operations left, by `winKey`. -/
  wins : SMap (Nat × Nat) := []
  /-- Maps of R411: logical number to physical, where not the identity, by `utype * 4096 + logical`. -/
  map : SMap Nat := []
  /-- Physical units retired, by `utype * 4096 + physical`. -/
  retired : SMap Bool := []
  /-- Logical units out of service (R412), in the same form. -/
  outOf : SMap Bool := []
  /-- State under the last row of R399 that does not match its complement, and has not been used since. -/
  ctlBad : List CtlWord := []
  /-- Those of them that the command in progress has used. -/
  ctlMet : List CtlWord := []
  /-- Retirements that the fault manager has still to take up. -/
  due : List Verdict := []
  /-- Role epochs of physical Bobbin cores that serve no logical core (R196, R198). -/
  physEpoch : SMap U16 := []
  deriving DecidableEq, Repr

/-! ## Lantern (R455 to R480) -/

structure Lantern where
  recovery : Bool := false
  cfgCopy : Bool := false
  cfgOther : Bool := false
  ucCopy : Bool := false
  ucOther : Bool := false
  ucFused : Bool := false
  ucEpoch : U8 := 0
  cfgSeq : U32 := 0
  ucSeq : U32 := 0
  applied : BitVec 13 := 0
  itemErr : BitVec 13 := 0
  protErr : Bool := false
  /-- The boot configuration store: the items of the record in force, KEY and VALUE, in order (R461). -/
  store : List (U32 × U32) := []
  /-- Records held until the fault manager runs (R461): copy and SEQ word as read. -/
  heldRecs : List (Bool × U32) := []
  pecReq : Bool := false
  smbLock : Bool := false
  alert : BitVec 7 := 0
  alertMask : BitVec 7 := 0x40
  /-- SMB_ALERT# has been released by R478 since the last bit was set. -/
  alertQuiet : Bool := false
  smbAddr : BitVec 7 := 0x4E
  /-- Address that takes effect at the next STOP (R470). -/
  smbAddrNow : BitVec 7 := 0x4E
  smbLeft : BitVec 5 := 16
  epoch : U8 := 0
  epochLeft : BitVec 7 := 64
  /-- MAP in [7:0], POL in [11:8], LEFT in [15:12]. -/
  laneCfg : SMap U16 := []
  stageAddr : U16 := 0
  /-- 0 none; 1 BAR0; 2 SMBus. -/
  stageOwner : BitVec 2 := 0
  flashOp : BitVec 2 := 0
  flashBusy : Bool := false
  flashStatus : U8 := 0
  flashTarget : Bool := false
  flashDone : Bool := false
  /-- Copy being written, while BUSY. -/
  flashTgtNow : BitVec 2 := 0
  /-- Copies (by flash offset / 64 KiB) that have been erased and not been verified since: their contents are
  undefined, and they are invalid (R468). -/
  flashBad : SMap Bool := []
  flashLen : BitVec 17 := 0
  smbErr : Nat := 0
  smbCmds : Nat := 0
  /-- The SMBus pointer, its latch of R203/R474 and the NA bit of STATUS. -/
  ptr : U16 := 0
  latch : SMap U32 := []
  na : Bool := false
  deriving DecidableEq, Repr

/-! ## Engines -/

/-- A Chamber engine by logical number. -/
structure Engine where
  job : Option Nat := none
  deriving DecidableEq, Repr

/-- The protection tables: entries by `table * 0x10000 + index`; those not listed read as their default. -/
structure Prot where
  active : SMap (BitVec 128) := []
  shadow : SMap (BitVec 128) := []
  staging : BitVec 128 := 0
  conflict : Bool := false
  cmdLost : Bool := false
  commits : U16 := 0
  busy : Bool := false
  /-- The tables before the commit in progress: what they grant and the active ones do not is revoked (R107). -/
  old : SMap (BitVec 128) := []
  deriving DecidableEq, Repr

/-- The logs of R338 and R363. -/
structure MemLogs where
  codec : U32 := 0
  codecBlk : U32 := 0
  err : U32 := 0
  errAddr : U64 := 0
  sramPos : Nat := 0
  dramPos : Nat := 0
  sramPass : U16 := 0
  dramPass : U16 := 0
  snapPeak : Nat := 0
  deriving DecidableEq, Repr

structure Rreg where
  chip : ChipId := 0
  busy : Bool := false
  status : U8 := 0
  data : U32 := 0
  deriving DecidableEq, Repr

/-! ## The block -/

structure State where
  /-- The commands that wait, first in first out. -/
  pending : List Instr := []
  /-- Every addressed memory of the device and the host's, `Machine/Memory.lean` gives the key of a byte. -/
  mem : List Host.Cell := []
  /-- Losses of R359: how often each memory region has been lost. -/
  lost : SMap Nat := []
  /-- Poisoned words and sectors, by the key of their first byte (R355, R356). -/
  poison : SMap Bool := []
  /-- Protected words that hold an error, by the key of their first byte: 1 correctable, 2 not, 3 a table word of a Picot
  core that is not and has been counted. -/
  flaws : SMap (BitVec 2) := []
  regs : SMap U32 := []
  ctrs : SMap Nat := []
  /-- The model's own field: how many free values have been taken (`Config.lean`). -/
  freeCtr : Nat := 0
  out : List OutMsg := []
  fns : SMap Fn := []
  vfEnable : Bool := false
  /-- Subsystem vendor ID and subsystem ID of the configuration record; `none`: the defaults of R460. -/
  subsys : Option U32 := none
  rings : SMap Ring := []
  /-- R79: number of fetches made, and the pair last served at each level. -/
  fetches : Nat := 0
  lastServed : SMap Nat := []
  prot : Prot := {}
  streams : SMap Stream := []
  slots : SMap Slot := []
  insts : SMap (Option Inst) := []
  events : List Ev := []
  results : List CascResult := []
  snaps : SMap (Option SnapOwner) := []
  /-- Streams whose front-end waits, the oldest ready step first (R305). -/
  feLine : List StreamId := []
  /-- Streams that wait for a snapshot buffer, oldest first (R348). -/
  snapWait : List StreamId := []
  jobs : SMap (Option Job) := []
  nextJob : Nat := 0
  cores : SMap Core := []
  msgs : List Msg := []
  bounces : List Msg := []
  knots : SMap Knot := []
  knotOps : List KnotOp := []
  knotWaits : List KnotWait := []
  /-- ADDs forwarded by mirrors that wait for their answer (R227). -/
  kfwd : List FwdAdd := []
  kToken : Nat := 0
  subs : List Sub := []
  satCtrs : SMap SatCtr := []
  engines : SMap Engine := []
  memLogs : MemLogs := {}
  stackTemp : SMap U8 := []
  stackHot : SMap Bool := []
  ports : SMap Port := []
  delivered : List PMsg := []
  lostChips : SMap Bool := []
  /-- Lost chips whose dependents have not been told yet (R377, R391). -/
  lossDue : List ChipId := []
  /-- Remote events held for a chip until there are 26 of them or a step ends (R383). -/
  evHold : SMap (List HeldEv) := []
  conduits : SMap Conduit := []
  xfers : List Xfer := []
  nextXid : BitVec 12 := 0
  rreg : Rreg := {}
  link : Link := {}
  pwr : Power := {}
  plls : List Pll := []
  doms : List Dom := []
  flt : FaultMgr := {}
  lnt : Lantern := {}
  deriving DecidableEq, Repr

/-- The PLL rows of R429, enabled and locked as R460 and the boot leave them: PLL 6 is off while every port is. -/
def resetPlls : List Pll :=
  [⟨20, 0, 1, true, 500, true, false, 0, 0, none⟩, ⟨25, 0, 1, true, 500, true, false, 0, 0, none⟩,
   ⟨30, 0, 1, true, 500, true, false, 0, 0, none⟩, ⟨30, 0, 1, true, 500, true, false, 0, 0, none⟩,
   ⟨27, 22528, 0, true, 500, true, false, 0, 0, none⟩, ⟨160, 0, 0, true, 500, true, false, 0, 0, none⟩,
   ⟨140, 0, 0, false, 500, false, false, 0, 0, none⟩]

/-- HOST and MESH run in Idle; the tiers are down (R443). -/
def resetDoms : List Dom :=
  [{ running := true }, { running := true }, {}, {}]

/-- The bytes of a flash copy whose words are given, as memory lists them: the flash is space 3. -/
def flashCells (base : Nat) (words : List U32) : List Host.Cell :=
  let bytes := words.flatMap (fun w => [w.extractLsb' 0 8, w.extractLsb' 8 8, w.extractLsb' 16 8, w.extractLsb' 24 8])
  bytes.zipIdx.filterMap (fun e => if e.1 = 0 then none else some (3 * 2 ^ 64 + base + e.2, e.1))

/-- The flash as it leaves the factory (R494): in both copies a record of no items, and a microcode of an empty body
and EPOCH 0; copy 0 carries SEQ 1, copy 1 SEQ 0. -/
def factoryFlash : List Host.Cell :=
  flashCells 0x00000 [0x5243424E, 0xADBCBDB1, 0x00000001, 0xFFFFFFFE, 0x00000001, 0xFFFFFFFE, 0x00000028, 0xFFFFFFD7, 0xAA5D5213, 0x55A2ADEC] ++
  flashCells 0x10000 [0x5243424E, 0xADBCBDB1, 0x00000001, 0xFFFFFFFE, 0x00000000, 0xFFFFFFFF, 0x00000028, 0xFFFFFFD7, 0x9F908FED, 0x606F7012] ++
  flashCells 0x20000 [0x5543424E, 0xAABCBDB1, 0x00000001, 0xFFFFFFFE, 0x00000001, 0xFFFFFFFE, 0x00000028, 0xFFFFFFD7, 0x966BA706, 0x699458F9] ++
  flashCells 0x30000 [0x5543424E, 0xAABCBDB1, 0x00000001, 0xFFFFFFFE, 0x00000000, 0xFFFFFFFF, 0x00000028, 0xFFFFFFD7, 0xA3A67AF8, 0x5C598507]

/-- The machine when its first cold boot has ended in Idle (R466), with the factory record of R494: no items, so the
defaults of R460. PWR_ENT_IDLE reads 1 (R451). The staging buffer (region 4 of `regionOf`) is undefined (R469). -/
def State.reset : State :=
  { ctrs := [(0x7015C, 1)]
    mem := factoryFlash
    lost := [(4, 1)]
    plls := resetPlls
    doms := resetDoms
    lnt := { cfgSeq := 1, cfgOther := true, ucSeq := 1, ucOther := true } }

end Sys2Proof.Machine
end

