-- ==== Sys2Proof/Config.lean ====
section
/-! DEFINITION. Config.lean: the free values. Each is a constant without a body: nothing can evaluate it, so a claim
about the block holds whatever it is. A function of a number takes `State.freeCtr`, which each use advances. -/

namespace Sys2Proof.Config

/-- A byte whose contents R359 calls lost: `epoch` counts the losses of its region. -/
opaque lostByte (epoch key : Nat) : U8

/-- The error of VFN within the bound of R175, in units in the last place, for a function code and an operand. -/
opaque vfnError (fn : Nat) (x : U32) : Int

/-- VFN of an operand for which R175 states no result: the logarithm, reciprocal or root of 0, a logarithm or root of
a negative number, any function of an infinity. -/
opaque vfnOpen (fn : Nat) (x : U32) : U32

/-- VMIN (VMAX if `max`) of FP32 lanes where R166 and R175 state no result: a NaN operand, or zeros of two signs. -/
opaque minMaxOpen (max : Bool) (a b : U32) : U32

/-- The lane at leaf `k` of the fixed pairwise tree of an FP32 VSUM (R175); read only if it is a permutation. -/
opaque sumLeaf (k : Nat) : Nat

/-- The error of the front-end's LOG2 within the bound of R310, for an operand. -/
opaque log2Error (x : U32) : Int

/-- The positions of a block that the compiler chose for the layer at a place of an image (R295). -/
opaque positionBlock (image : List U8) (place : Nat) : Nat

/-- The order in which the array adds within a tile of `rows` rows (R275): of `n` partial sums left, the first (`k` = 0)
and the second (`k` = 1) of the next two that are added. -/
opaque mergePick (rows n k : Nat) : Nat

/-- What a command reads where the spec states no value (R184, an unstated result). -/
opaque freeWord (n : Nat) : U32

/-- Whether a free choice of the device falls one way. -/
opaque freeBit (n : Nat) : Bool

/-- A byte of an inbox or error-queue entry that holds no message (R206, R214), by the number of the read. -/
opaque emptyByte (n off : Nat) : U8

/-- AUX of a poison-read record (R407): the code of the reader in row `row` of R357. -/
opaque readerCode (row : Nat) : U16

/-- DETAIL of a stream-context record (R407): how it holds the failing stage and byte. -/
opaque stageByte (stage byte : Nat) : U64

/-- DETAIL2 of records 0x0A, 0x0E and 0x0F (R407): how it holds a job's tag and ring pair. -/
opaque tagPair (tag pair : Nat) : U32

/-- What befalls the block in a cycle without a command, by the number of the draw. -/
opaque upset (n : Nat) : Machine.Upset

/-- What a peek reads of a word that holds an error, which it does not correct (R203). -/
opaque rawWord (key : Nat) (w : U32) : U32

/-- The PCI vendor ID, from fuse (R68). -/
opaque vendorId : U16

/-- The Device Serial Number, from fuse (R69). -/
opaque serial : U64

/-- What a link register of configuration space that follows the link, or the implementation, holds (R69). -/
opaque linkCfg (key : Nat) : U32

/-- What the margining of a lane answers to a command (R69). -/
opaque marginStatus (lane : Nat) (cmd : Nat) : U16

end Sys2Proof.Config
end

