-- ==== Sys2Proof/Machine/Maps.lean ====
section
/-! DEFINITION. Maps.lean: the operations of sparse maps, and bytes, bit fields, saturation and the CRC of R497. -/

namespace Sys2Proof

/-- The entry at `k`, or `d` where none is listed. -/
def smGet {α : Type} (d : α) : SMap α → Nat → α
  | [], _ => d
  | (k', v) :: r, k => if k = k' then v else if k < k' then d else smGet d r k

/-- The map with `v` at `k`, where an unlisted `k` reads as `d`. -/
def smSet {α : Type} [DecidableEq α] (d : α) (m : SMap α) (k : Nat) (v : α) : SMap α :=
  match m with
  | [] => if v = d then [] else [(k, v)]
  | (k', v') :: r =>
    if k < k' then (if v = d then (k', v') :: r else (k, v) :: (k', v') :: r)
    else if k = k' then (if v = d then r else (k, v) :: r)
    else (k', v') :: smSet d r k v

def smUpd {α : Type} [DecidableEq α] (d : α) (m : SMap α) (k : Nat) (f : α → α) : SMap α :=
  smSet d m k (f (smGet d m k))

/-- `f` on every listed entry; an entry that becomes the default is listed no more. -/
def smMap {α : Type} [DecidableEq α] (d : α) (m : SMap α) (f : Nat → α → α) : SMap α :=
  (m.map (fun e => (e.1, f e.1 e.2))).filter (fun e => !decide (e.2 = d))

/-- Every listed key is above `b`, and keys rise strictly. -/
def smRising {α : Type} : Nat → SMap α → Bool
  | _, [] => true
  | b, (k, _) :: r => decide (b < k) && smRising k r

/-- The canonical form: keys strictly rising, no entry at its default. -/
def smWf {α : Type} [DecidableEq α] (d : Nat → α) (m : SMap α) : Bool :=
  (match m with
   | [] => true
   | (k, _) :: r => smRising k r) && m.all (fun e => !decide (e.2 = d e.1))

/-- The map without its keys in `[lo, lo + n)`. -/
def smClearRange {α : Type} (m : SMap α) (lo n : Nat) : SMap α :=
  m.filter (fun e => decide (e.1 < lo) || decide (lo + n ≤ e.1))

/-! Bytes and fields (R5). -/

/-- The little-endian value of a byte string. -/
def leNat : Bytes → Nat
  | [] => 0
  | b :: r => b.toNat + 256 * leNat r

/-- `n` bytes of `v`, least significant first. -/
def natLE : Nat → Nat → Bytes
  | 0, _ => []
  | n + 1, v => BitVec.ofNat 8 v :: natLE n (v / 256)

/-- Bits `[lo + n - 1 : lo]` of `x`. -/
def fld (x lo n : Nat) : Nat := (x >>> lo) % 2 ^ n

/-- Bit `i` of `x`. -/
def bitOf (x i : Nat) : Bool := x.testBit i

def b2n (b : Bool) : Nat := if b then 1 else 0

/-- `n` bytes of a byte string from offset `o`; bytes past its end read 0. -/
def bytesAt (bs : Bytes) (o n : Nat) : Bytes :=
  let t := (bs.drop o).take n
  t ++ List.replicate (n - t.length) 0

/-- The little-endian field of `n` bytes at offset `o`. -/
def leAt (bs : Bytes) (o n : Nat) : Nat := leNat ((bs.drop o).take n)

def allZero (bs : Bytes) : Bool := bs.all (· == 0)

/-- `bs` with the bytes `v` written from offset `o` (what lies past its end is discarded). -/
def bytesPut (bs : Bytes) (o : Nat) (v : Bytes) : Bytes :=
  if o < bs.length then bs.take o ++ v.take (bs.length - o) ++ bs.drop (o + v.length) else bs

/-- A byte string padded with zeros to a multiple of `k`. -/
def padTo (k : Nat) (bs : Bytes) : Bytes :=
  bs ++ List.replicate ((k - bs.length % k) % k) 0

/-- `n` bits of `v` read as two's complement. -/
def sext (n v : Nat) : Int := if v % 2 ^ n < 2 ^ (n - 1) then ((v % 2 ^ n : Nat) : Int) else ((v % 2 ^ n : Nat) : Int) - 2 ^ n

/-- An integer as `n` bits of two's complement. -/
def twos (n : Nat) (i : Int) : Nat := (i % (2 ^ n : Nat)).toNat

def clampI (lo hi x : Int) : Int := if x < lo then lo else if hi < x then hi else x

/-- A counter's addition, saturating at `2^w - 1` (R13). -/
def satAdd (w a b : Nat) : Nat := if a + b < 2 ^ w then a + b else 2 ^ w - 1

/-- `v / 2^k` rounded to the nearest integer, ties to even. -/
def rneShift (v : Int) (k : Nat) : Int :=
  let d : Int := 2 ^ k
  let q := v / d           -- floor: the remainder is never negative
  let r := v % d
  if 2 * r < d then q else if d < 2 * r then q + 1 else if q % 2 = 0 then q else q + 1

/-- `n / d` rounded to nearest, ties to even, for `0 < d`. -/
def rneDiv (n : Int) (d : Nat) : Int :=
  if d = 0 then 0 else
  let q := n / (d : Int)
  let r := n % (d : Int)
  if 2 * r < d then q else if (d : Int) < 2 * r then q + 1 else if q % 2 = 0 then q else q + 1

/-- One bit of the reflected CRC-32 (R497). -/
def crcBit (c : U32) : U32 := if c.getLsbD 0 then (c >>> 1) ^^^ 0xEDB88320#32 else c >>> 1

def crcByte (c : U32) (b : U8) : U32 :=
  (List.range 8).foldl (fun x _ => crcBit x) (c ^^^ b.setWidth 32)

/-- The CRC-32 of R497: reflected 0x04C1_1DB7, initial value and final inversion 0xFFFF_FFFF. -/
def crc32 (bs : Bytes) : U32 := ~~~ (bs.foldl crcByte 0xFFFFFFFF#32)

/-- The first natural below `n` that satisfies `p`. -/
def findBelow (p : Nat → Bool) : Nat → Option Nat
  | 0 => none
  | n + 1 => match findBelow p n with
    | some i => some i
    | none => if p n then some n else none

/-- `xs` with its `i`-th element replaced. -/
def setNth {α : Type} (xs : List α) (i : Nat) (f : α → α) : List α := xs.modify i f

def getNth {α : Type} (xs : List α) (i : Nat) : Option α := xs[i]?

def dropNth {α : Type} (xs : List α) (i : Nat) : List α := xs.eraseIdx i

end Sys2Proof
end

