-- ==== Sys2Proof/Machine/Memory.lean ====
section
/-! DEFINITION. Memory.lean: the memories of the device and the host's, their keys, losses (R359) and poison
(R355, R356, R415). The key of a byte is its space times 2^64 plus its offset. -/

namespace Sys2Proof.Machine

/-! ## Keys -/

def spHost : Nat := 0
def spDram : Nat := 1
def spGal : Nat := 2
def spFlash : Nat := 3
def spStage : Nat := 4
/-- Picot state memory of logical core `c` (R114). -/
def spPicot (c : Nat) : Nat := 0x100 + c
/-- SRAM of logical Bobbin core `c`. -/
def spBobbin (c : Nat) : Nat := 0x1000 + c
/-- Buffer of logical Chamber engine `e`. -/
def spChamber (e : Nat) : Nat := 0x2000 + e

def mkey (space off : Nat) : Nat := space * 2 ^ 64 + off
def keySpace (k : Nat) : Nat := k / 2 ^ 64
def keyOff (k : Nat) : Nat := k % 2 ^ 64

/-- Areas of Gallery (R342). -/
def galHistory : Nat := 0
def galStream : Nat := 0x6000000
def galSnap : Nat := 0x9C00000
def galCoef : Nat := 0xA200000
def galShared : Nat := 0xB200000
def galSize : Nat := 0xC000000
def dramSize : Nat := 0x3000000000
/-- The slot store (R353). -/
def slotStore : Nat := 0x2FC0000000

def regDram : Nat := 1
def regSnap : Nat := 2
def regShared : Nat := 3
def regStage : Nat := 4

/-- The region of R359 that a byte belongs to; 0: memory that no event of the model loses. -/
def regionOf (k : Nat) : Nat :=
  let sp := keySpace k
  let o := keyOff k
  if sp = spDram then regDram
  else if sp = spGal then
    (if galSnap ≤ o ∧ o < galCoef then regSnap else if galShared ≤ o then regShared else 0)
  else if 0x2000 ≤ sp then (if 0x200000 ≤ o then sp else sp + 0x1000)
  else if 0x1000 ≤ sp then sp
  else if sp = spStage then regStage
  else 0

/-- The losses of the region of a byte: odd while its contents are lost, even while they have been zeroed since. -/
def lossOf (s : State) (k : Nat) : Nat := smGet 0 s.lost (regionOf k)

/-- The unlisted bytes of the byte's region read as 0. -/
def isZeroed (s : State) (k : Nat) : Bool := lossOf s k % 2 == 0

/-- What a byte that is not listed reads as: 0, or an undefined byte once its region has been lost (R359). -/
def unlisted (s : State) (k : Nat) : U8 :=
  if isZeroed s k then 0 else Config.lostByte (lossOf s k) k

/-- The value listed for a key, if any. -/
def smFind {α : Type} : SMap α → Nat → Option α
  | [], _ => none
  | (k', v) :: r, k => if k = k' then some v else if k < k' then none else smFind r k

/-- The map with `v` listed at `k`, whatever `v` is. -/
def smPut {α : Type} (m : SMap α) (k : Nat) (v : α) : SMap α :=
  match m with
  | [] => [(k, v)]
  | (k', v') :: r =>
    if k < k' then (k, v) :: (k', v') :: r
    else if k = k' then (k, v) :: r
    else (k', v') :: smPut r k v

def peek1 (s : State) (k : Nat) : U8 := (smFind s.mem k).getD (unlisted s k)

/-- A byte written: a zeroed region lists no byte of 0; a lost one lists every byte written. -/
def poke1 (s : State) (k : Nat) (v : U8) : State :=
  if isZeroed s k then { s with mem := smSet 0 s.mem k v } else { s with mem := smPut s.mem k v }

def peek (s : State) (k : Nat) : Nat → Bytes
  | 0 => []
  | n + 1 => peek1 s k :: peek s (k + 1) n

def poke (s : State) (k : Nat) : Bytes → State
  | [] => s
  | b :: r => poke (poke1 s k b) (k + 1) r

/-- The canonical form of memory: keys rise, and no byte equal to 0 is listed where an unlisted byte reads 0. -/
def Memory.wf (s : State) : Bool :=
  (match s.mem with
   | [] => true
   | (k, _) :: r => smRising k r) && s.mem.all (fun e => !isZeroed s e.1 || !decide (e.2 = 0))

/-- Bytes `[k, k + n)` of a lost region are listed as 0. -/
def listZeros (s : State) (k : Nat) : Nat → State
  | 0 => s
  | n + 1 => listZeros { s with mem := smPut s.mem k 0 } (k + 1) n

/-- Every byte of `[k, k + n)`, a range within one region, becomes 0. -/
def zeroRange (s : State) (k n : Nat) : State :=
  let s := { s with mem := smClearRange s.mem k n, poison := smClearRange s.poison k n, flaws := smClearRange s.flaws k n }
  if isZeroed s k then s else listZeros s k n

/-- The region is lost: its contents are undefined until written, and hold no poison (R359). -/
def loseRegion (s : State) (r : Nat) : State :=
  { s with mem := s.mem.filter (fun e => !decide (regionOf e.1 = r))
           poison := s.poison.filter (fun e => !decide (regionOf e.1 = r))
           flaws := s.flaws.filter (fun e => !decide (regionOf e.1 = r))
           lost := smUpd 0 s.lost r (fun n => n + 1 + n % 2) }

/-- Every byte of the region becomes 0. -/
def zeroRegion (s : State) (r : Nat) : State :=
  { s with mem := s.mem.filter (fun e => !decide (regionOf e.1 = r))
           poison := s.poison.filter (fun e => !decide (regionOf e.1 = r))
           flaws := s.flaws.filter (fun e => !decide (regionOf e.1 = r))
           lost := smUpd 0 s.lost r (fun n => n + n % 2) }

/-! ## Poison -/

/-- The size of the word that ECC protects as one: 8 B, but 32 B in DRAM (R356), and a state word of a Picot core. -/
def eccUnit (k : Nat) : Nat :=
  if keySpace k = spDram then 32 else if 0x100 ≤ keySpace k ∧ keySpace k < 0x1000 then 4 else 8

/-- First byte of the protected word of a byte. -/
def eccBase (k : Nat) : Nat := k - k % eccUnit k

/-- The pieces of a DRAM offset (R352): stack, pseudo-channel, unit within it. -/
def dramDecode (off : Nat) : Nat × Nat × Nat :=
  let g := off / 256
  let u := g / 512
  (((g ^^^ u) % 8), (g / 8) % 64, u)

/-- Whether a FLT_DRAM_RET word covers the byte at a DRAM offset (R415). -/
def retCovers (w : U32) (off : Nat) : Bool :=
  let (st, p, u) := dramDecode off
  let n := w.toNat
  bitOf n 31 && fld n 0 3 == st && fld n 3 6 == p && (bitOf n 30 || fld n 9 18 == u / 8)

def isRetired (s : State) (k : Nat) : Bool :=
  keySpace k == spDram && s.flt.dramRet.any (fun w => retCovers w (keyOff k))

/-- Whether the protected word of a byte cannot be read: it is poisoned, or holds an uncorrectable error. -/
def isPoisoned (s : State) (k : Nat) : Bool := smGet false s.poison (eccBase k) || smGet 0 s.flaws (eccBase k) == 2 || isRetired s k

/-- A word as a peek register shows it. -/
def peekWord (s : State) (k : Nat) : Nat :=
  let w := leNat (peek s k 4)
  if smGet 0 s.flaws (eccBase k) = 0 then w else (Config.rawWord k (BitVec.ofNat 32 w)).toNat

/-- The first poisoned byte of `[k, k + n)`, as an offset from `k`. -/
def firstPoison (s : State) (k n : Nat) : Option Nat :=
  if s.poison.isEmpty && s.flaws.isEmpty && s.flt.dramRet.isEmpty then none
  else findBelow (fun i => isPoisoned s (k + i)) n

def setPoison (s : State) (k : Nat) : State := { s with poison := smSet false s.poison (eccBase k) true }

/-- `[k, k + n)` holds the whole of the protected word at `b`. -/
def wholeIn (k n b : Nat) : Bool := decide (k ≤ b) && decide (b + eccUnit b ≤ k + n)

/-- A write of whole words ends their errors. -/
def clearFlaws (s : State) (k n : Nat) : State := { s with flaws := s.flaws.filter (fun e => !wholeIn k n e.1) }

/-- A write of whole words clears their poison; a partial one leaves it (R355, R356). -/
def clearPoison (s : State) (k n : Nat) : State :=
  { clearFlaws s k n with poison := s.poison.filter (fun e => !wholeIn k n e.1) }

/-- A write as the ECC sees it: bytes of retired DRAM are discarded (R415). -/
def pokeEcc (s : State) (k : Nat) (bs : Bytes) : State :=
  let s' := clearPoison s k bs.length
  if s.flt.dramRet.isEmpty then poke s' k bs
  else (bs.zipIdx).foldl (fun t (b, i) => if isRetired s (k + i) then t else poke1 t (k + i) b) s'

end Sys2Proof.Machine
end

