-- ==== Sys2Proof/Machine/Ops.lean ====
section
/-! DEFINITION. Ops.lean: the operations that every unit shares: counters, the log of the fault manager, vectors,
protection checks, device-space accesses, the ends of descriptors, snapshot buffers. -/

namespace Sys2Proof.Machine

/-! ## Parts of the state -/

def getFn (s : State) (f : Nat) : Fn := smGet {} s.fns f
def modFn (s : State) (f : Nat) (g : Fn → Fn) : State := { s with fns := smUpd {} s.fns f g }
def getRing (s : State) (p : Nat) : Ring := smGet {} s.rings p
def modRing (s : State) (p : Nat) (g : Ring → Ring) : State := { s with rings := smUpd {} s.rings p g }
def getStream (s : State) (i : Nat) : Stream := smGet {} s.streams i
def modStream (s : State) (i : Nat) (g : Stream → Stream) : State := { s with streams := smUpd {} s.streams i g }
def modCtx (s : State) (i : Nat) (g : StreamCtx → StreamCtx) : State :=
  modStream s i (fun x => { x with ctx := g x.ctx })
def getSlot (s : State) (i : Nat) : Slot := smGet {} s.slots i
def modSlot (s : State) (i : Nat) (g : Slot → Slot) : State := { s with slots := smUpd {} s.slots i g }
def getInst (s : State) (i : Nat) : Option Inst := smGet none s.insts i
def setInst (s : State) (i : Nat) (v : Option Inst) : State := { s with insts := smSet none s.insts i v }
def modInst (s : State) (i : Nat) (g : Inst → Inst) : State := setInst s i ((getInst s i).map g)
def getJob (s : State) (j : Nat) : Option Job := smGet none s.jobs j
def setJob (s : State) (j : Nat) (v : Option Job) : State := { s with jobs := smSet none s.jobs j v }
def modJob (s : State) (j : Nat) (g : Job → Job) : State := setJob s j ((getJob s j).map g)
def getCore (s : State) (c : Nat) : Core := smGet {} s.cores c
def modCore (s : State) (c : Nat) (g : Core → Core) : State := { s with cores := smUpd {} s.cores c g }
def getKnot (s : State) (k : Nat) : Knot := smGet {} s.knots k
def modKnot (s : State) (k : Nat) (g : Knot → Knot) : State := { s with knots := smUpd {} s.knots k g }
def getPort (s : State) (p : Nat) : Port := smGet {} s.ports p
def modPort (s : State) (p : Nat) (g : Port → Port) : State := { s with ports := smUpd {} s.ports p g }
def getConduit (s : State) (n : Nat) : Conduit := smGet {} s.conduits n
def modConduit (s : State) (n : Nat) (g : Conduit → Conduit) : State := { s with conduits := smUpd {} s.conduits n g }
def getSat (s : State) (n : Nat) : SatCtr := smGet {} s.satCtrs n
def modSat (s : State) (n : Nat) (g : SatCtr → SatCtr) : State := { s with satCtrs := smUpd {} s.satCtrs n g }
def modPll (s : State) (p : Nat) (g : Pll → Pll) : State := { s with plls := setNth s.plls p g }
def modDom (s : State) (d : Nat) (g : Dom → Dom) : State := { s with doms := setNth s.doms d g }
def modPwr (s : State) (g : Power → Power) : State := { s with pwr := g s.pwr }
def emit (s : State) (m : OutMsg) : State := { s with out := m :: s.out }

/-- The next free value's number. -/
def takeFree (s : State) : Nat × State := (s.freeCtr, { s with freeCtr := s.freeCtr + 1 })

/-! ## Registers that only hold and counters (R11, R13) -/

/-- The Reset values other than 0 of the registers in `State.regs`. -/
def regReset (off : Nat) : U32 :=
  match off with
  | 0x08000 => 0x6
  | 0xA000C => 16
  | 0x90004 => 0x6E
  | 0x50030 => 0xE0403
  | 0x30020 => 0x40
  | 0x40020 => 0xC0
  | 0x70100 => 0x10105
  | 0x70108 => 1250
  | 0x7010C => 105
  | _ => 0

def reg (s : State) (off : Nat) : Nat := (smGet (regReset off) s.regs off).toNat
def setReg (s : State) (off v : Nat) : State := { s with regs := smSet (regReset off) s.regs off (BitVec.ofNat 32 v) }
def ctr (s : State) (off : Nat) : Nat := smGet 0 s.ctrs off
/-- A 32-bit counter counts `n`. -/
def c32 (s : State) (off n : Nat) : State := { s with ctrs := smUpd 0 s.ctrs off (satAdd 32 · n) }
/-- A 64-bit counter, named by the offset of its low half, counts `n`. -/
def c64 (s : State) (off n : Nat) : State := { s with ctrs := smUpd 0 s.ctrs off (satAdd 64 · n) }
def clearCtrs (s : State) (offs : List Nat) : State :=
  { s with ctrs := s.ctrs.filter (fun e => !offs.contains e.1) }

/-- The Revision ID of every ordering code (R494). -/
def revision : U8 := 0x11
/-- FLT_STALE: every stale drop, refusal and completion (R426). -/
def fltStale (s : State) (n : Nat) : State := c64 s 0x90060 n
/-- FLT_CHECK (R400). -/
def fltCheck (s : State) : State := c32 s 0x9006C 1
def chipId (s : State) : Nat := reg s 0xA0004 % 0x1000
/-- Vectors of a function (R100). -/
def tableSize (s : State) (f : Nat) : Nat :=
  let v := reg s 0xA000C % 64
  if f = 0 then 2048 - 63 * v else v

/-! ## Functions -/

/-- `cfgKey` of NumVFs, and the VFs it asks for. After a reset it holds 63 (PRESUMED, log entry 18). -/
def numVfsKey : Nat := 0x16C
def numVfs (s : State) : Nat := (smGet 63 (getFn s 0).cfg numVfsKey).toNat % 64

/-- Function `f` exists: a VF needs VF Enable and a place in NumVFs (R69), and is absent in recovery mode (R465). -/
def fnPresent (s : State) (f : Nat) : Bool := f == 0 || (s.vfEnable && !s.lnt.recovery && decide (f ≤ numVfs s))
/-- The function is in D0 and masters the bus. -/
def fnMaster (s : State) (f : Nat) : Bool := (getFn s f).dstate == 0 && (getFn s f).bme
def linkUp (s : State) : Bool := s.link.st == .l0 || s.link.st == .l0p
/-- The device can read and write host memory for the function (R48). -/
def canMaster (s : State) (f : Nat) : Bool := linkUp s && fnMaster s f && !s.flt.fatal

/-! ## MSI-X (R101, R102) -/

/-- Vector `v` of function `f` is sent, or kept pending. -/
def sendVec (s : State) (f v : Nat) : State :=
  if tableSize s f ≤ v then s else
  let fn := getFn s f
  let e := smGet {} fn.vecs v
  if fn.msixEn && !fn.fmask && !e.masked then emit s (.msix (BitVec.ofNat 6 f) (BitVec.ofNat 11 v))
  else modFn s f (fun x => { x with vecs := smUpd {} x.vecs v (fun e => { e with pend := true }) })

/-- Pending vectors that may now be sent are sent, in rising order. -/
def flushVecs (s : State) (f : Nat) : State :=
  let fn := getFn s f
  if fn.msixEn && !fn.fmask then
    let go := fn.vecs.filter (fun e => e.2.pend && !e.2.masked)
    go.foldl (fun t e => modFn (emit t (.msix (BitVec.ofNat 6 f) (BitVec.ofNat 11 e.1))) f
      (fun x => { x with vecs := smUpd {} x.vecs e.1 (fun q => { q with pend := false }) })) s
  else s

/-- The error vector of a function (R403). -/
def errVec (s : State) (f : Nat) : State :=
  if (getFn s f).errIen then sendVec s f (getFn s f).errVec.toNat else s

/-! ## Lantern's alerts (R478) -/

def setAlert (s : State) (bit : Nat) : State :=
  { s with lnt := { s.lnt with
      alert := s.lnt.alert ||| BitVec.ofNat 7 (2 ^ bit)
      alertQuiet := s.lnt.alertQuiet && s.lnt.alert.getLsbD bit } }

/-! ## AER (R402, R403, R69) -/

/-- `cfgKey` of the AER status registers. -/
def aerUncKey : Nat := 0x104
def aerCorrKey : Nat := 0x110
def aerHdrKey : Nat := 0x11C

/-- The errors of the base specification that apply to an endpoint (R69), by bit of their status register. PRESUMED. -/
def aerBits (corr : Bool) : List Nat := if corr then [0, 6, 7, 8, 12, 13, 14, 15] else [4, 12, 13, 14, 15, 16, 17, 18, 19, 20, 22]

/-- A function finds an error of the base specification (R69): its status bit is set, the first uncorrectable one that is
not masked gives the First Error Pointer and the header log, and the message leaves. PRESUMED. -/
def aerError (s : State) (fn : Nat) (corr : Bool) (bit : Nat) (hdr : BitVec 128) : State :=
  if !(aerBits corr).contains bit then s
  else
    let f := getFn s fn
    let old := (smGet 0 f.cfg (if corr then aerCorrKey else aerUncKey)).toNat
    let mask := (smGet (if corr then 0xE000 else 0x400000) f.cfg (if corr then 0x114 else 0x108)).toNat
    let s := modFn s fn (fun f => { f with cfg := smUpd 0 f.cfg (if corr then aerCorrKey else aerUncKey) (· ||| BitVec.ofNat 32 (2 ^ bit)) })
    if bitOf mask bit then s
    else if corr then emit s .aerCorrected
    else
      let first := (List.range 32).all (fun i => !bitOf old i || bitOf mask i)
      let s := if !first then s else modFn s fn (fun f => { f with
        cfg := smSet 0 ((List.range 4).foldl (fun m k => smSet 0 m (aerHdrKey + 4 * k) (BitVec.ofNat 32 (fld hdr.toNat (32 * k) 32))) f.cfg)
          0x118 (BitVec.ofNat 32 bit) })
      emit s .aerUncorrectable

/-- The PF reports a Corrected, or an Uncorrectable, Internal Error: the status bit is set and the message leaves. -/
def reportAer (s : State) (corr : Bool) : State :=
  let bit : U32 := if corr then 0x4000 else 0x400000
  let key := if corr then aerCorrKey else aerUncKey
  let s := modFn s 0 (fun f => { f with cfg := smUpd 0 f.cfg key (· ||| bit) })
  emit s (if corr then .aerCorrected else .aerUncorrectable)

/-! ## The log of the fault manager (R403 to R407) -/

/-- What a record says beside its code and class. -/
structure LogInfo where
  scrub : Bool := false
  status : Nat := 0
  fn : Option Nat := none
  slot : Option Nat := none
  utype : Nat := 0
  unit : Nat := 0
  aux : Nat := 0
  count : Nat := 0
  detail : Nat := 0
  detail2 : Nat := 0

/-- The 32 B of a record (R405), byte 0 lowest. -/
def logWords (rseq : Nat) (code cls : Nat) (i : LogInfo) : BitVec 256 :=
  let w0 := code % 256 + (cls % 4) * 2 ^ 8 + b2n i.scrub * 2 ^ 10 + (rseq % 65536) * 2 ^ 16
  let w1 := i.status % 256 + (i.fn.getD 0 % 64) * 2 ^ 8 + b2n i.fn.isSome * 2 ^ 14 + b2n i.slot.isSome * 2 ^ 15 +
    (i.slot.getD 0 % 256) * 2 ^ 16
  let w2 := i.utype % 16 + (i.unit % 4096) * 2 ^ 4 + (i.aux % 65536) * 2 ^ 16
  BitVec.ofNat 256 (w0 + w1 * 2 ^ 32 + w2 * 2 ^ 64 + (i.count % 2 ^ 32) * 2 ^ 96 + (i.detail % 2 ^ 64) * 2 ^ 128 +
    (i.detail2 % 2 ^ 32) * 2 ^ 192 + (0xFFFFFFFF - w0) * 2 ^ 224)

/-- FLT_CORR, FLT_DEFER, FLT_CONTAINED. -/
def classCtr (s : State) (cls : Nat) : State :=
  if cls = 0 then c32 s 0x90040 1 else if cls = 1 then c32 s 0x90044 1 else if cls = 2 then c32 s 0x90048 1 else s

/-- The signals of a record (R403); a drift record has the code 0x05. -/
def logSignals (s : State) (code cls : Nat) (f : Option Nat) : State :=
  let c := reg s 0x90004
  let s := if cls = 0 ∧ bitOf c 4 then reportAer s true else s
  let pf := if code = 5 then bitOf c 3 else decide (cls < 3) && bitOf c cls
  let s := if pf then errVec s 0 else s
  match f with
  | some n => if n = 0 ∧ pf then s else errVec s n
  | none => s

/-- The ring of R404: a record that finds 511 unread entries is discarded. -/
def logPut (s : State) (w : BitVec 256) : State :=
  if (s.flt.head - s.flt.tail).toNat = 511 then
    c32 { s with flt := { s.flt with logOvf := true, rseq := s.flt.rseq + 1 } } 0x9004C 1
  else { s with flt := { s.flt with
           log := smSet 0 s.flt.log s.flt.head.toNat w, head := s.flt.head + 1, rseq := s.flt.rseq + 1 } }

/-- The fault manager produces a record. -/
def logRec (s : State) (code cls : Nat) (i : LogInfo) : State :=
  let w := logWords s.flt.rseq.toNat code cls i
  logSignals (logPut (classCtr s cls) w) code cls i.fn

/-! ## Protection tables (R103, R460) -/

/-- The default of entry `i` of table `t` (R460). -/
def protDefault (t i : Nat) : BitVec 128 :=
  if t = 0 ∧ i < 16384 then 0x40
  else if t = 1 ∧ i < 64 then BitVec.ofNat 128 (i * 64 + 2 ^ 12)
  else if t = 2 ∧ i < 256 then BitVec.ofNat 128 (1 + 2 ^ 70)
  else if t = 3 ∧ i = 0 then BitVec.ofNat 128 (98304 * 2 ^ 17 + 2 ^ 40 + 2 ^ 41 + 2 ^ 43)
  else if t = 3 ∧ i = 1 then BitVec.ofNat 128 (96 * 2 ^ 17 + 2 ^ 40 + 2 ^ 41 + 2 ^ 42 + 2 ^ 43)
  else if t = 4 ∧ i < 4096 then 0x40
  else if t = 5 ∧ i = 0 then BitVec.ofNat 128 (0xF + 4095 * 2 ^ 16 + 2 ^ 28)
  else 0

/-- Entries of each table, and the width of an entry. -/
def protCount (t : Nat) : Nat := [16384, 1024, 256, 1024, 4096, 64].getD t 0
def protWidth (t : Nat) : Nat := [7, 13, 71, 44, 7, 29].getD t 0
def protKey (t i : Nat) : Nat := t * 0x10000 + i
def protIn (m : SMap (BitVec 128)) (t i : Nat) : Nat := (smGet (protDefault t i) m (protKey t i)).toNat
def protGet (s : State) (t i : Nat) : Nat := protIn s.prot.active t i

/-- The entries of table `t` that are listed, with the first two, whose defaults are not 0. -/
def protListed (m : SMap (BitVec 128)) (t : Nat) : List Nat :=
  [0, 1] ++ (m.filter (fun e => e.1 / 0x10000 == t)).map (fun e => e.1 % 0x10000)

def validOwner (e fn validBit : Nat) : Bool := bitOf e validBit && fld e 0 6 == fn
def ownsStream (s : State) (fn st : Nat) : Bool := validOwner (protGet s 0 st) fn 6
def ownsRing (s : State) (fn p : Nat) : Bool := validOwner (protGet s 1 p) fn 12
/-- The function that owns a ring pair. -/
def ringOwner (s : State) (p : Nat) : Option Nat :=
  let e := protGet s 1 p
  if bitOf e 12 then some (fld e 0 6) else none
def mayUse (s : State) (fn sl : Nat) : Bool := bitOf (protGet s 2 sl) fn
def mayLoad (s : State) (fn sl : Nat) : Bool := bitOf (protGet s 2 sl) 70 && fld (protGet s 2 sl) 64 6 == fn
def ownsKnot (s : State) (fn k : Nat) : Bool := validOwner (protGet s 4 k) fn 6
/-- The Passage right of R103 for a class and a chip. -/
def passageRight (s : State) (fn cls chip : Nat) : Bool :=
  let e := protGet s 5 fn
  bitOf e 28 && bitOf e cls && decide (fld e 4 12 ≤ chip) && decide (chip ≤ fld e 16 12)

/-- One window entry grants `[off, off + n)` of a region (R88, R103). -/
def windowGrants (e fn region off n : Nat) (wr : Bool) : Bool :=
  bitOf e 43 && fld e 34 6 == fn && fld e 42 1 == region && (if wr then bitOf e 41 else bitOf e 40) &&
  decide (fld e 0 17 * 2 ^ 21 ≤ off) && decide (off + n ≤ (fld e 0 17 + fld e 17 17) * 2 ^ 21)

/-- One window of the function grants the whole range (R88). -/
def windowOk (s : State) (fn region off n : Nat) (wr : Bool) : Bool :=
  (protListed s.prot.active 3).any (fun i => windowGrants (protGet s 3 i) fn region off n wr)

/-- The state with the tables as they stood before the commit in progress, if one is (R107). -/
def before (s : State) : State := if s.prot.busy then { s with prot := { s.prot with active := s.prot.old } } else s

/-- The local number of a ring pair of a VF, looked up (R72): only listed entries name a VF. -/
def vfPair (s : State) (fn k : Nat) : Option Nat :=
  (protListed s.prot.active 1).find? (fun p =>
    ownsRing s fn p && fld (protGet s 1 p) 6 6 == k)

/-! ## Windows of operations (R409, R411) -/

/-- The physical unit that serves a logical one (R411); `utype` is that of R406. -/
def physOf (s : State) (utype logical : Nat) : Nat := (smFind s.flt.map (utype * 4096 + logical)).getD logical

/-- Key of a window: 2 to 5, the unit type of a logic check, by physical unit; 0x16 and 0x26, uncorrectable and
corrected words of a physical bank; 0x17 and 0x27, the same of a DRAM row; 0x37, of a pseudo-channel; 0x12 to 0x14,
uncorrectable words of a Picot core, a Bobbin core's SRAM, a Chamber engine's buffer; 0x1A, resends of a control-net hop. -/
def winKey (kind id : Nat) : Nat := kind * 2 ^ 40 + id

/-- `n` operations of the resource have passed. -/
def winPass (s : State) (key n : Nat) : State :=
  match smFind s.flt.wins key with
  | none => s
  | some (c, left) => { s with flt := { s.flt with wins := smSet (0, 0) s.flt.wins key (if left ≤ n then (0, 0) else (c, left - n)) } }

/-- A failure is counted in the resource's window of `len` operations; the answer is the window's count. -/
def winCount (s : State) (key len : Nat) : Nat × State :=
  let (c, left) := (smFind s.flt.wins key).getD (0, len)
  (c + 1, { s with flt := { s.flt with wins := smSet (0, 0) s.flt.wins key (c + 1, left) } })

/-- Accesses of the resource of a window that an access to `[off, off + n)` makes: one for each 128 B line of a bank,
one for each 256 B unit of a pseudo-channel. -/
def winAccesses (s : State) (key sp off n : Nat) : Nat :=
  let kind := key / 2 ^ 40
  let id := key % 2 ^ 40
  if n = 0 then 0
  else if sp = spGal ∧ kind % 16 = 6 then
    ((List.range ((off + n - 1) / 128 + 1 - off / 128)).filter (fun i => physOf s 6 ((off / 128 + i) % 32) == id)).length
  else if sp = spDram ∧ kind % 16 = 7 then
    ((List.range ((off + n - 1) / 256 + 1 - off / 256)).filter (fun i =>
      let (st, p, _) := dramDecode (256 * (off / 256 + i))
      st + 8 * p == id % 512)).length
  else 0

/-- An access passes in the windows of the memory's banks, rows and pseudo-channels. -/
def memOps (s : State) (sp off n : Nat) : State :=
  if s.flt.wins.isEmpty then s
  else { s with flt := { s.flt with wins := s.flt.wins.filterMap (fun e =>
    let k := winAccesses s e.1 sp off n
    if k ≠ 0 ∧ e.2.2 ≤ k then none else some (e.1, (e.2.1, e.2.2 - k))) } }

/-! ## Addresses and device-space accesses (R87, R88, R344, R353) -/

/-- The space and offset that a 64-bit address names; `none`: it has not the form of R87: a reserved bit is set, the
region is reserved, or the offset lies beyond the region. -/
def addrOf (a : Nat) : Option (Nat × Nat) :=
  if !bitOf a 63 then some (spHost, a % 2 ^ 63)
  else if fld a 40 23 ≠ 0 then none
  else if fld a 38 2 = 0 ∧ fld a 0 38 < dramSize then some (spDram, fld a 0 38)
  else if fld a 38 2 = 1 ∧ fld a 0 38 < galSize then some (spGal, fld a 0 38)
  else none

/-- The device address (R87) of a DRAM or Gallery key. -/
def devAddr (k : Nat) : Nat := 2 ^ 63 + (if keySpace k = spGal then 2 ^ 38 else 0) + keyOff k

/-- Whether R344 or R353 keeps functions out of the range, whatever the windows grant. `inr` is the IN range of the
job that makes the access, as a Gallery offset and a length. -/
def areaRefused (sp off n : Nat) (inr : Option (Nat × Nat)) : Bool :=
  if sp = spGal then
    !(decide (galShared ≤ off ∧ off + n ≤ galSize) ||
      (match inr with | some (o, l) => decide (o ≤ off ∧ off + n ≤ o + l) | none => false))
  else if sp = spDram then decide (slotStore < off + n) else false

/-- Whether a read lies in the snapshot that the job received as its IN (R183). -/
def inOwnSnap (sp off n : Nat) (wr : Bool) (inr : Option (Nat × Nat)) : Bool :=
  sp == spGal && !wr && (match inr with | some (o, l) => decide (galSnap ≤ o ∧ o < galCoef ∧ o ≤ off ∧ off + n ≤ o + l) | none => false)

/-- The command in progress uses the state of `words` (R399, R400). -/
def noteCtl (s : State) (words : CtlWord → Bool) : State :=
  if s.flt.ctlBad.isEmpty then s
  else { s with flt := { s.flt with ctlMet := s.flt.ctlMet ++ s.flt.ctlBad.filter (fun w => words w && !s.flt.ctlMet.contains w) } }

/-- An entry of a protection table. -/
def protWord (t i : Nat) (w : CtlWord) : Bool := w == .prot t i

/-- Every entry of a protection table: of the window table, an access may use any. -/
def tableWords (t : Nat) (w : CtlWord) : Bool := match w with | .prot u _ => t == u | _ => false
def windowWords (w : CtlWord) : Bool := tableWords 3 w

/-- A device-space access by a function: allowed or not, and the state with GAL_PROT counted. Host space is the
IOMMU's affair. A snapshot handed to a cascade job needs no window of the function (it lies in an area that no
window can serve, R344). -/
def devCheck (s : State) (fn sp off n : Nat) (wr : Bool) (inr : Option (Nat × Nat)) : Bool × State :=
  if sp = spHost then (true, s)
  else if areaRefused sp off n (if wr then none else inr) then (false, c32 s 0x50058 1)
  else if inOwnSnap sp off n wr inr then (true, s)
  else (windowOk s fn (if sp = spGal then 1 else 0) off n wr, noteCtl s windowWords)

/-- Bytes read from and written to Gallery and DRAM (R363). -/
def cntRd (s : State) (sp n : Nat) : State := if sp = spGal then c64 s 0x50060 n else if sp = spDram then c64 s 0x50070 n else s
def cntWr (s : State) (sp n : Nat) : State := if sp = spGal then c64 s 0x50068 n else if sp = spDram then c64 s 0x50078 n else s

/-- UTYPE and UNIT of the memory that holds a byte (R341, R352, R406). -/
def memUnit (s : State) (k : Nat) : Nat × Nat :=
  if keySpace k = spGal then (6, physOf s 6 (keyOff k / 128 % 32))
  else
    let (st, p, _) := dramDecode (keyOff k)
    (7, st + p * 8)

/-! ## Errors in words (R355, R356, R410, R415) -/

def addVerdict (s : State) (v : Verdict) : State :=
  if s.flt.due.contains v then s else { s with flt := { s.flt with due := s.flt.due ++ [v] } }

/-- GAL_ERR_LOG, if it is free (R364). `mem`: 1 Gallery, 2 DRAM. -/
def memErrLog (s : State) (mem k : Nat) (scrub : Bool) : State :=
  if bitOf s.memLogs.err.toNat 31 then s
  else { s with memLogs := { s.memLogs with err := BitVec.ofNat 32 (mem + b2n scrub * 4 + 2 ^ 31), errAddr := BitVec.ofNat 64 (devAddr k) } }

/-- An uncorrectable word or sector is poisoned and recorded. -/
def poisonWord (s : State) (mem k n : Nat) (scrub : Bool) : State :=
  let (ut, un) := memUnit s k
  logRec (memErrLog (setPoison s k) mem k scrub) 0x08 1 { scrub := scrub, utype := ut, unit := un, count := n, detail := devAddr k }

/-- An error in a Gallery word (R355, R410). -/
def galError (s : State) (k : Nat) (two scrub : Bool) : State :=
  let bank := keyOff k / 128 % 32
  let p := physOf s 6 bank
  let (n, s) := if two then winCount (c32 s 0x50044 1) (winKey 0x16 p) (2 ^ 32)
    else winCount (c32 (c32 s 0x50040 1) 0x90040 1) (winKey 0x26 p) (2 ^ 32)
  let s := if two then poisonWord s 1 k n scrub else s
  if (if two then 16 else 65536) ≤ n then addVerdict s (.unit 6 bank n 32) else s

/-- An error in a DRAM sector (R356, R410, R415). -/
def dramError (s : State) (k : Nat) (two scrub : Bool) : State :=
  if isRetired s k then s
  else
    let (st, p, u) := dramDecode (keyOff k)
    let row := winKey 0 (st + p * 8 + u / 8 * 512)
    if two then
      let (n, s) := winCount (c32 s 0x5004C 1) (winKey 0x17 0 + row) (2 ^ 24)
      let (m, s) := winCount s (winKey 0x37 (st + p * 8)) (2 ^ 30)
      let s := poisonWord s 2 k n scrub
      let s := if 2 ≤ n then addVerdict s (.row st p (u / 8) n 24 false) else s
      if 64 ≤ m then addVerdict s (.row st p 0 m 30 true) else s
    else
      let (n, s) := winCount (c32 (c32 s 0x50048 1) 0x90040 1) (winKey 0x27 0 + row) (2 ^ 24)
      if 4096 ≤ n then addVerdict s (.row st p (u / 8) n 24 false) else s

def memError (s : State) (k : Nat) (two scrub : Bool) : State :=
  if keySpace k = spGal then galError s k two scrub else if keySpace k = spDram then dramError s k two scrub else s

/-- The errors that `[k, k + n)` holds, and the words without them. -/
def takeFlaws (s : State) (k n : Nat) : SMap (BitVec 2) × State :=
  let here (e : Nat × BitVec 2) : Bool := decide (k < e.1 + eccUnit e.1) && decide (e.1 < k + n)
  (s.flaws.filter here, { s with flaws := s.flaws.filter (fun e => !here e) })

/-- The errors that a read of `[k, k + n)` meets in a memory without poison: one that is corrected is gone, one that is
not stays until its word is written (R425). -/
def meetFlaws (s : State) (k n : Nat) : SMap (BitVec 2) × State :=
  let here (e : Nat × BitVec 2) : Bool := decide (k < e.1 + eccUnit e.1) && decide (e.1 < k + n)
  (s.flaws.filter here, { s with flaws := s.flaws.filter (fun e => !here e || e.2 == 2) })

/-- The ranges that a write of `[a, a + n)` has to read first, its unit of ECC being `u`: the words of which it writes a
part (R180). A range of length 0 stands for an access that reads nothing. -/
def partWords (u a n : Nat) : List (Nat × Nat) :=
  let lo := a / u * u
  let hi := (a + n) / u * u
  let ps := (if 0 < n ∧ (a % u ≠ 0 ∨ hi = lo) then [(lo, u)] else []) ++ (if (a + n) % u ≠ 0 ∧ hi ≠ lo then [(hi, u)] else [])
  if ps.isEmpty then [(lo, 0)] else ps

/-- A failure counted `n` times at once (R410). -/
def winAdd (s : State) (key n len : Nat) : Nat × State :=
  let (c, left) := (smFind s.flt.wins key).getD (0, len)
  (c + n, { s with flt := { s.flt with wins := smSet (0, 0) s.flt.wins key (c + n, left) } })

/-- A read, or a scrubber, meets the errors in `[k, k + n)`: they are corrected, or their words poisoned (R355, R356). -/
def eccRead (s : State) (k n : Nat) (scrub : Bool) : State :=
  if s.flaws.isEmpty then s
  else
    let (fs, s) := takeFlaws s k n
    fs.foldl (fun t e => memError t e.1 (e.2 == 2) scrub) s

/-- A read of memory by an agent of the device. -/
def memRd (s : State) (sp off n : Nat) : Bytes × State :=
  (peek s (mkey sp off) n, cntRd (memOps (eccRead s (mkey sp off) n false) sp off n) sp n)
/-- A write of memory by an agent of the device. -/
def memWr (s : State) (sp off : Nat) (bs : Bytes) : State := cntWr (memOps (pokeEcc s (mkey sp off) bs) sp off bs.length) sp bs.length

/-- A read found poisoned data (R357): counted and logged. `row`: the reader's row of R357, from 0. -/
def poisonRead (s : State) (row : Nat) (k : Nat) (fn : Option Nat) (status : Nat) : State :=
  let (ut, un) := memUnit s k
  let s := eccRead s k 1 false
  logRec (c32 s 0x50050 1) 0x09 2
    { aux := (Config.readerCode row).toNat, detail := devAddr k, fn := fn, status := status, utype := ut, unit := un }

/-! ## The ends of descriptors (R91, R94, R110) -/

def stOk : Nat := 0x00
def stCancelled : Nat := 0x01
def stStale : Nat := 0x02
def stCheckFail : Nat := 0x03
def stTableGenMiss : Nat := 0x04
def stDrift : Nat := 0x05
def stProtection : Nat := 0x06
def stReplayed : Nat := 0x07
def stAborted : Nat := 0x08
def stBad : Nat := 0x09
def stRole : Nat := 0x0A
def stPeerLost : Nat := 0x0B
def stUncorr : Nat := 0x0C
def stShape : Nat := 0x0D
def stLagging : Nat := 0x0E

/-- The counters of the owning function that a completion's status moves (R110, R426). -/
def countStatus (s : State) (fn st : Nat) : State :=
  if st = stCheckFail ∨ st = stBad then modFn s fn (fun f => { f with descErr := satAdd 32 f.descErr 1 })
  else if st = stProtection then modFn s fn (fun f => { f with prot := satAdd 32 f.prot 1 })
  else if st = stStale then fltStale (modFn s fn (fun f => { f with stale := satAdd 32 f.stale 1 })) 1
  else s

def descH (b : Bytes) : Nat := leAt b 0 4
def descTag (b : Bytes) : Nat := fld (descH b) 16 12
def descTgen (b : Bytes) : Nat := fld (descH b) 28 4

/-- What the messages of a descriptor's work carry (R78). -/
def refOf (s : State) (p : PairId) (d : Desc) : DescRef :=
  { pair := p, rgen := (getRing s p.toNat).rgen, tag := BitVec.ofNat 12 (descTag d.bytes), tgen := BitVec.ofNat 4 (descTgen d.bytes) }

/-- The descriptor has not ended and carries the tag and tag generation. -/
def bearsTag (d : Desc) (tag : BitVec 12) (tgen : BitVec 4) : Bool :=
  d.done.isNone && BitVec.ofNat 12 (descTag d.bytes) == tag && BitVec.ofNat 4 (descTgen d.bytes) == tgen

/-- The in-flight descriptor of the pair that a message belongs to (R78). -/
def isRef (r : Ring) (q : DescRef) (d : Desc) : Bool := r.rgen == q.rgen && bearsTag d q.tag q.tgen

def findDesc (s : State) (q : DescRef) : Option Desc :=
  let r := getRing s q.pair.toNat
  r.inflight.find? (isRef r q)

def modDesc (s : State) (q : DescRef) (g : Desc → Desc) : State :=
  modRing s q.pair.toNat (fun r => { r with inflight := r.inflight.map (fun d => if isRef r q d then g d else d) })

/-- A completion without results. -/
def plain (st : Nat) : Compl := { status := BitVec.ofNat 8 st }

/-- A message that matches no in-flight job of its pair is dropped and counted (R78, R426). -/
def dropStale (s : State) (p : Nat) : State :=
  match ringOwner s p with
  | some f => fltStale (modFn s f (fun x => { x with stale := satAdd 32 x.stale 1 })) 1
  | none => fltStale s 1

/-- The descriptor that a message belongs to ends; its completion waits for its turn (R94). -/
def finish (s : State) (q : DescRef) (c : Compl) : State :=
  match findDesc s q with
  | none => dropStale s q.pair.toNat
  | some d => countStatus (modDesc s q (fun d => { d with started := true, done := some c })) d.fn.toNat c.status.toNat

/-! ## Snapshot buffers (R347, R348, R363) -/

def snapUsed (s : State) : Nat := s.snaps.length
/-- The lowest free buffer. -/
def freeSnap (s : State) : Option Nat := findBelow (fun i => smGet none s.snaps i == none) 1024
def takeSnap (s : State) (n : Nat) (st : StreamId) : State :=
  let s := { s with snaps := smSet none s.snaps n (some st) }
  { s with memLogs := { s.memLogs with snapPeak := max s.memLogs.snapPeak (snapUsed s) } }
def dropSnap (s : State) (n : Nat) : State := { s with snaps := smSet none s.snaps n none }

/-! ## The link and power (R48) -/

/-- Work for the host finds the link or the function in a low-power state (R48). -/
def hostWake (s : State) (f : Nat) : State :=
  let fn := getFn s f
  let exitL1 (s : State) : State :=
    match s.link.st with
    | .l1 sub =>
      let s := if sub = 0 then s else { s with pwr := { s.pwr with clkreq := true } }
      { s with link := { s.link with st := .l0 } }
    | _ => s
  match s.link.st with
  | .l2 => { s with pwr := { s.pwr with wake := true } }
  | .down => s
  | _ =>
    if fn.dstate = 0 then exitL1 s
    else if fn.pmeEn then
      if fn.pmeStatus then s
      else modFn (emit (exitL1 s) (.pme (BitVec.ofNat 6 f))) f (fun x => { x with pmeStatus := true })
    else s

/-- Knot operations go to the control net (R217). -/
def sendKnotOp (s : State) (o : KnotOp) : State := { s with knotOps := s.knotOps ++ [o] }

def tierOf (slot : Nat) : Nat := if slot < 64 then 0 else if slot < 192 then 1 else 2

/-- The HOST domain runs: Run, Idle or Watch, or a sequence that has not left them yet (R428, R443). -/
def hostOn (s : State) : Bool := s.pwr.state == .run || s.pwr.state == .idle || s.pwr.state == .watch

/-- The step in progress is one of those from `lo` to `hi`. -/
def stepIn (s : State) (lo hi : Nat) : Bool := match s.pwr.seq.head? with | some e => decide (lo ≤ e.toNat ∧ e.toNat ≤ hi) | none => false

/-- The source of a domain's clock runs: REFCLK, or its own PLL once locked (R430, R435), until step G3 has stopped the
clocks (R450). -/
def clocked (s : State) (d : Nat) : Bool :=
  !stepIn s 0x43 0x45 && (match s.doms[d]? with
    | some x => if x.src then s.pwr.refclk else (match s.plls[d]? with | some p => p.locked | none => false)
    | none => false)

/-- The HOST domain and the registers in it run (R428, R430). -/
def hostRuns (s : State) : Bool := hostOn s && clocked s 0

/-- A clock domain runs (CLK_DOM_STATE). -/
def domRuns (s : State) (d : Nat) : Bool := match s.doms[d]? with | some x => x.running | none => false
/-- Sequence D takes the tier down: its clock has stopped, and no job is taken (R199, R450). -/
def tierFalls (s : State) (chm : Bool) : Bool := stepIn s 0x28 0x2A && s.pwr.seqChm == chm
/-- The tier is powered, its clock runs, and no supply dip holds it (R435, R439, R444). -/
def bobRuns (s : State) : Bool := s.pwr.bobUp && !s.pwr.dipHeld && domRuns s 2 && !tierFalls s false
def chmRuns (s : State) : Bool := s.pwr.chmUp && !s.pwr.dipHeld && domRuns s 3 && !tierFalls s true
/-- DRAM takes accesses: its PLL is locked, and it need not pass steps A6 to A9 (R431, R447). -/
def pllLocked (s : State) (p : Nat) : Bool := match s.plls[p]? with | some x => x.locked | none => false
def pllFault (s : State) (p : Nat) : Bool := match s.plls[p]? with | some x => x.fault | none => false
def dramOn (s : State) : Bool := !s.pwr.dramDead && pllLocked s 4
/-- Accesses to DRAM wait; after a fault of its PLL they fail (R431). -/
def dramWaits (s : State) : Bool := !dramOn s && !pllFault s 4

/-- Sequence E is in progress. -/
def inE (s : State) : Bool := match s.pwr.seq.head? with | some e => decide (0x30 ≤ e.toNat ∧ e.toNat ≤ 0x32) | none => false

/-- Work that needs DRAM or the shared area waits for sequences E and F to end (R445, R449). -/
def memAwake (s : State) : Bool := (s.pwr.state == .run || s.pwr.state == .idle) && !inE s

/-- The descriptor's address field at `o` does not name DRAM, or an access to DRAM need not wait. -/
def addrOn (s : State) (b : Bytes) (o : Nat) : Bool :=
  match addrOf (leAt b o 8) with
  | some (sp, _) => sp != spDram || !dramWaits s
  | none => true

/-- Work on DRAM ends, its PLL having failed (R431). -/
def dramFails (s : State) (sp : Nat) : Bool := sp == spDram && pllFault s 4

/-- Work on a device address waits while its memory is not awake (R445, R449). -/
def memWaits (s : State) (a : Nat) : Bool :=
  match addrOf a with
  | some (sp, _) => sp != spHost && (!memAwake s || (sp == spDram && dramWaits s))
  | none => false

end Sys2Proof.Machine
end

