-- ==== Sys2Proof/Machine/Fatal.lean ====
section
/-! DEFINITION. Fatal.lean: where a stream stands in its samples (R20, R52), the end of all work (R14, R109), fatal
events (R402), and the state whose complement is checked at each use (R399, R400). -/

namespace Sys2Proof.Machine

/-! ## Samples of a stream (R20, R23, R52) -/

/-- Sample index of the first sample of the step with ordinal `i` since the stream was opened (R20). -/
def stepFirst (x : Stream) (i : Nat) : Nat := x.openSample.toNat + i * x.ctx.stepLen.toNat

/-- The first sample of the stream not yet read (R52). -/
def firstUnread (x : Stream) : Nat := stepFirst x x.closedSteps + x.ctx.sampleInStep.toNat

/-- Steps announced and not yet closed, saturating at 127 (R23, R52). -/
def backlogOf (x : Stream) : Nat :=
  min 127 ((x.ctx.nextSample.toNat - x.openSample.toNat) / x.ctx.stepLen.toNat - x.closedSteps)

/-- The descriptors whose samples have not all been read are gone, and NEXT_SAMPLE goes back to the first sample not
read (R52, R448). It stands where no descriptor is accepted, as for a stream that takes no INGEST. DESIGN CHOICE (log
entry 195). -/
def dropUnread (x : Stream) : Stream :=
  if x.ingests.isEmpty then x
  else { x with ingests := [], ctx := { x.ctx with nextSample := BitVec.ofNat 64 (firstUnread x) } }

/-- BACKLOG with what NEXT_SAMPLE has become. -/
def freshBacklog (x : Stream) : Stream := { x with ctx := { x.ctx with backlog := BitVec.ofNat 7 (backlogOf x) } }

/-! ## Link flits (R369, R370, R389) -/

/-- The CRC of a flit, over its bytes 0 to 251 (R369, R497). -/
def flitCrc (hdr : U32) (pay : Bytes) : U32 := crc32 (natLE 4 hdr.toNat ++ pay)

/-- A flit leaves the port. -/
def sendFlit (s : State) (i : Nat) (hdr : U32) (pay : Bytes) : State := emit s (.flit (BitVec.ofNat 2 i) hdr pay (flitCrc hdr pay))

/-- The header word of a flit; ACKSEQ is the last data flit accepted. -/
def flitHeader (p : Port) (seq : BitVec 12) (cls : BitVec 2) (link : Bool) : U32 :=
  BitVec.ofNat 32 (seq.toNat + (p.rxSeq - 1).toNat * 2 ^ 12 + cls.toNat * 2 ^ 24 + b2n link * 2 ^ 26 + b2n p.acked * 2 ^ 27)

/-- A link flit: its subtype, and what stands from payload byte 6 on; owed credits go with it (R370). -/
def sendLinkFlit (s : State) (i sub : Nat) (rest : Bytes) : State :=
  let p := getPort s i
  let owed := (List.range 4).map (fun c => min 255 (p.owed[c]?.getD 0))
  let pay := bytesAt (natLE 1 sub ++ owed.map (fun n => BitVec.ofNat 8 n) ++ [0] ++ rest) 0 248
  let s := sendFlit s i (flitHeader p 0 0 true) pay
  modPort s i (fun p => { p with owed := (List.range 4).map (fun c => p.owed[c]?.getD 0 - min 255 (p.owed[c]?.getD 0)) })

/-- A LEAVING flit goes out on an UP port (R389). -/
def sendLeaving (s : State) (i : Nat) : State := if (getPort s i).up then sendLinkFlit s i 3 [] else s

/-! ## The end of all work (R14, R109, R402) -/

/-- A stream without its job, its descriptors and its reports. -/
def endStreamWork (x : Stream) : Stream :=
  freshBacklog (dropUnread { x with job := none, closeDesc := none, reports := [], specOwed := none, act := none })

/-- A core that keeps its role, its contents and its epoch, and nothing of a job. -/
def quietCore (k : Core) : Core :=
  { slot := k.slot, inB := k.inB, rank := k.rank, epoch := k.epoch, st := if k.slot = 0 then 0 else 1, jseq := k.jseq
    inboxHead := k.inboxHead, eqHead := k.eqHead }

/-- Descriptors, jobs, messages, knot operations and transfers end without completion, notification or signal. -/
def endAllWork (s : State) : State :=
  { s with
    rings := smMap {} s.rings (fun _ r => { r with inflight := [], enabled := r.enabled && !r.abort, abort := false, draining := false })
    slots := smMap {} s.slots (fun _ x => { x with load := none, runA := none, runB := none })
    streams := smMap {} s.streams (fun _ x => endStreamWork x)
    events := [], results := [], snaps := [], snapWait := [], feLine := [], jobs := [], engines := []
    cores := smMap {} s.cores (fun _ k => quietCore k)
    msgs := [], bounces := [], knotOps := [], knotWaits := [], kfwd := []
    conduits := smMap {} s.conduits (fun _ x => { x with armed := false, ready := false })
    xfers := [], delivered := [], rreg := { s.rreg with busy := false } }

/-- A fatal event (R402). Cause: 1 mismatch, 2 REFCLK, 3 clock fault, 4 control net, 5 last Edging engine. -/
def fatalEvent (s : State) (cause : Nat) : State :=
  if s.flt.fatal then s
  else
    let s := (List.range 4).foldl sendLeaving (endAllWork s)
    let (n, s) := takeFree s
    let w := logWords s.flt.rseq.toNat 0x19 3 { aux := cause, detail := (Config.freeWord n).toNat }
    let s := logPut s w
    let s := setAlert { s with flt := { s.flt with fatal := true, fatalLog := w } } 0
    reportAer s false

/-! ## State that is checked at each use (R399, R400) -/

/-- The words `met` have been found not to match their complements: each is counted, and the event is fatal. -/
def ctlFatal (s : State) (met : List CtlWord) : State :=
  let s := { s with flt := { s.flt with ctlBad := s.flt.ctlBad.filter (fun w => !met.contains w) } }
  fatalEvent (met.foldl (fun t _ => fltCheck t) s) 1

/-- What `g` does uses the state of `words`: a word that does not match its complement is fatal, and nothing else
happens. -/
def useCtl (s : State) (words : CtlWord → Bool) (g : State → State) : State :=
  if s.flt.ctlBad.any words then ctlFatal s (s.flt.ctlBad.filter words) else g s

/-- What `g` does, unless it uses state that does not match its complement: then that is fatal, and nothing else
happens. -/
def checked (s : State) (g : State → State) : State :=
  if s.flt.ctlBad.isEmpty then g s
  else
    let t := g s
    if t.flt.ctlMet.isEmpty then t else ctlFatal s t.flt.ctlMet

/-- The registers of ring pair `p`, its owner, and the completion sequencer. -/
def ringWords (p : Nat) (w : CtlWord) : Bool := w == .ring p || w == .prot 1 p || w == .seq

/-! ## When a command acts -/

/-- What the fault manager does while its clock runs, after a fatal event too. -/
def fltLive (s : State) (g : State → State) : State := if hostOn s then checked s g else s

/-- The state answers `g`, unless a fatal event has ended all work (R402), or the device is in no state that works. It
needs no clock: the work of Lantern's sequencer, of a core in its own domain. -/
def awake (s : State) (g : State → State) : State := if s.flt.fatal || !hostOn s then s else checked s g

/-- The same for what the HOST domain does alone (R428). -/
def hostLive (s : State) (g : State → State) : State := if s.flt.fatal || !hostRuns s then s else checked s g

/-- The same for work of both the HOST and the MESH domain (R428). -/
def live (s : State) (g : State → State) : State := if s.flt.fatal || !hostRuns s || !clocked s 1 then s else checked s g

/-- BAR0 answers: the HOST domain runs, and after a fatal event it stays readable whatever ended all work (R402). -/
def regsRun (s : State) : Bool := hostOn s && (clocked s 0 || s.flt.fatal)

/-- An access that R10 refuses is counted in the corrected class. -/
def countBad (s : State) : State := c32 s 0x90040 1

/-- A write of a BAR0 register by a function: an absent function writes nothing, recovery mode leaves only LNT_ and CAP_
(R465), and after a fatal event only FLT_ takes writes (R402). `flt`: the register is in FLT_. -/
def bar0 (s : State) (fn : Nat) (flt : Bool) (g : State → State) : State :=
  if !regsRun s || !fnPresent s fn then s
  else if s.lnt.recovery then countBad s
  else if s.flt.fatal && !flt then s
  else checked s g

end Sys2Proof.Machine
end

