-- ==== Sys2Proof/Machine/Jobs.lean ====
section
/-! DEFINITION. Jobs.lean: the job queues (R191, R289): a job enters, is promoted, is withdrawn;
and the sections of slot images (R155). -/

namespace Sys2Proof.Machine

/-! ## Sections of a slot image (R155) -/

/-- The sections of an image: type, COUNT, first byte after the header, bytes after the header. -/
def secsFrom (img : Bytes) (off : Nat) : Nat → List (Nat × Nat × Nat × Nat)
  | 0 => []
  | n + 1 =>
    let l := leAt img (off + 4) 4
    (leAt img off 2, leAt img (off + 2) 2, off + 8, l - 8) :: secsFrom img (off + max l 8) n

def sections (img : Bytes) : List (Nat × Nat × Nat × Nat) := secsFrom img 32 (leAt img 6 2)
def findSec (img : Bytes) (ty : Nat) : Option (Nat × Nat × Nat) := ((sections img).find? (fun x => x.1 == ty)).map (·.2)
def secsOf (img : Bytes) (ty : Nat) : List (Nat × Nat × Nat) := ((sections img).filter (fun x => x.1 == ty)).map (·.2)

/-- Item sizes that an image declares: IN_ITEM, OUT_ITEM, STATE_ITEM (R186, R282). -/
def itemSizes (slot : Nat) (img : Bytes) : Nat × Nat × Nat :=
  let o := if tierOf slot = 1 then 4 else 8
  match findSec img (if tierOf slot = 1 then 0x21 else 0x41) with
  | some (_, b, _) => (leAt img (b + o) 4, leAt img (b + o + 4) 4, leAt img (b + o + 8) 4)
  | none => (0, 0, 0)

/-- The version of a slot in force, for the placement that is active. -/
def versionOf (x : Slot) (inB : Bool) : Option Version := if inB then x.verB else x.verA
def activeVersion (s : State) (slot : Nat) : Option Version :=
  let x := getSlot s slot
  versionOf x x.activeB

/-- A unit that serves the placement is out of service (R412), or the clock of its tier has failed and not been
relocked (R431); `utype` is that of R406. -/
def slotOut (s : State) (slot : Nat) (inB : Bool) : Bool :=
  let gone (utype u : Nat) : Bool := smGet false s.flt.outOf (utype * 4096 + u)
  if tierOf slot = 1 then pllFault s 2 || s.cores.any (fun e => e.2.slot.toNat == slot && e.2.inB == inB && gone 3 e.1)
  else if tierOf slot = 2 then
    pllFault s 3 ||
    let x := getSlot s slot
    let n := match versionOf x inB with
      | some v => (match findSec v.image 0x41 with | some (_, o, _) => leAt v.image o 1 | none => 0)
      | none => 0
    (((List.range 16).filter (fun e => bitOf (if inB then x.placeB else x.placeA).toNat e)).take n).any (gone 4)
  else false

/-- ENGINES.BATCH of a Tier 2 image binds the jobs of the slot to another batch than 1, that of a cascade job (R282). -/
def cascBatchBad (slot : Nat) (img : Bytes) : Bool :=
  tierOf slot == 2 && (match findSec img 0x41 with
    | some (_, o, _) => decide (1 < leAt img (o + 0x14) 2)
    | none => false)

/-- A packet passes on the control net, a knot operation, a release or a hand-off (R204): it counts in the windows of the
hops (R410). -/
def hopPass (s : State) : State :=
  if s.flt.wins.isEmpty then s
  else { s with flt := { s.flt with wins := s.flt.wins.filterMap (fun e =>
    if e.1 / 2 ^ 40 ≠ 0x1A then some e else if e.2.2 ≤ 1 then none else some (e.1, (e.2.1, e.2.2 - 1))) } }

/-- A job enters the queue of its slot; its number is its issue order. -/
def addJob (s : State) (j : Job) : State :=
  { setJob s s.nextJob (some j) with nextJob := s.nextJob + 1 }

/-- Cascade level of HIF_CSC_CTRL.CASC_PRIO: 1 to 4 for priorities 0 to 3. -/
def cascLevel (s : State) : Nat := fld (reg s 0x08000) 0 2 + 1

/-- The job of a promoted episode takes CASC_PRIO (R191). -/
def raisePriority (s : State) (j : Nat) : State := modJob s j (fun x => { x with level := cascLevel s })

/-- The engines granted to a job are free. -/
def freeEngines (s : State) (jn : Nat) : State :=
  { s with engines := s.engines.filter (fun e => e.2.job != some jn) }

/-- The WAITs of an originator that is gone end, at the knot store and on their way there. -/
def endWaitsOf (s : State) (mine : KOrigin → Bool) : State :=
  { s with knotOps := s.knotOps.filter (fun o => !(mine o.origin && o.op == 2))
           knotWaits := s.knotWaits.filter (fun w => !mine w.origin) }

/-- The ADDs of an originator that is gone reach the store for nobody. -/
def muteAdds (s : State) (mine : KOrigin → Bool) : State :=
  { s with knotOps := s.knotOps.map (fun o => if mine o.origin then { o with origin := .nobody } else o)
           kfwd := s.kfwd.map (fun e => if mine e.op.origin then { e with op := { e.op with origin := .nobody } } else e) }

def isJobWait (jn : Nat) (o : KOrigin) : Bool := match o with | .jobWait i => i == jn | _ => false

/-- The job leaves its queue without having run. -/
def removeJob (s : State) (jn : Nat) : State := freeEngines (setJob (endWaitsOf s (isJobWait jn)) jn none) jn

/-- The job is still in the device: queued or running. -/
def jobIn (s : State) (j : Nat) : Bool := (getJob s j).isSome
/-- The job has not been taken yet; an abandoned attempt counts as running (R422). -/
def jobQueued (s : State) (j : Nat) : Bool :=
  match getJob s j with
  | some x => x.st == .queued && decide (x.attempt ≤ 1)
  | none => false
/-- An attempt of the job runs on its units. -/
def jobRuns (s : State) (j : Nat) : Bool :=
  match getJob s j with
  | some x => x.st == .running
  | none => false

end Sys2Proof.Machine
end

