-- ==== Sys2Proof/Machine/Cascade.lean ====
section
/-! DEFINITION. Cascade.lean: the decision rules of the cascade sequencer (R31 to R47), the records and reports it
produces (R42, R43, R93), lagging (R50), the complement check (R61) and lookback (R40, R41, R346, R347). -/

namespace Sys2Proof.Machine

/-! ## Stages, thresholds and steps -/

/-- `a - b` in steps (R21). -/
def stampDiff (a b : Stamp) : Int := (a - b).toInt

def stageOf (c : StreamCtx) (k : Nat) : StageEntry := c.stages[k]?.getD {}

/-- The value agrees with its complement (R61). -/
def wakeOk (e : StageEntry) : Bool := e.nwake == ~~~e.wake
def prewakeOk (e : StageEntry) : Bool := e.nprewake == ~~~e.prewake
def holdOk (e : StageEntry) : Bool := e.nhold == ~~~e.hold
def holdCountOk (e : StageEntry) : Bool := e.nholdCount == ~~~e.holdCount

/-! ## Records (R42 to R46, R349) -/

/-- Gallery offset of an entry of the notification hold (0xE00), the report hold (0xE40) or of the status slot (0xE80)
(R349). -/
def holdOff (st base : Nat) (second : Bool) : Nat := galStream + 3840 * st + base + (if second then 32 else 0)
def holdKey (st base : Nat) (second : Bool) : Nat := mkey spGal (holdOff st base second)
/-- An entry of a hold, or the status slot, is written in Gallery (R349). -/
def writeRecordSpace (s : State) (st base : Nat) (second : Bool) (bs : Bytes) : State := memWr s spGal (holdOff st base second) bs

/-- The 32 B of a notification record (R42), with LAGF and PEERF as they are now. -/
def recordBytes (st : Nat) (x : Stream) (r : Record) : Bytes :=
  let h := 0xE0 + b2n r.last * 2 ^ 8 + b2n x.ctx.lag * 2 ^ 9 + b2n x.ctx.peer * 2 ^ 10 + b2n r.specf * 2 ^ 11 +
    r.seq.toNat * 2 ^ 16 + r.gen.toNat * 2 ^ 28
  natLE 4 h ++ natLE 4 (0xFFFFFFFF - h) ++ natLE 2 st ++ natLE 1 (r.stage.toNat + r.tier.toNat * 8) ++ natLE 1 r.status.toNat ++
  natLE 2 r.cls.toNat ++ natLE 1 r.conf.toNat ++ natLE 1 0 ++ natLE 8 r.first.toNat ++ natLE 4 r.count.toNat ++
  natLE 4 (r.stamp.toNat + r.slot.toNat * 2 ^ 20)

/-- The 32 B of a cascade report (R91, R93). -/
def reportBytes (st : Nat) (rgen : BitVec 4) (r : Report) : Bytes :=
  let h := 0xE1 + r.gen.toNat * 2 ^ 28
  natLE 4 h ++ natLE 4 (0xFFFFFFFF - h) ++ natLE 2 0xFFFF ++ natLE 1 rgen.toNat ++ natLE 1 r.status.toNat ++
  natLE 4 (st + r.stage.toNat * 2 ^ 16 + r.tier.toNat * 2 ^ 19 + b2n r.spec * 2 ^ 21 + r.slot.toNat * 2 ^ 24) ++
  natLE 2 r.cls.toNat ++ natLE 1 r.conf.toNat ++ natLE 1 0 ++ natLE 4 r.stamp.toNat ++ natLE 8 0

/-- What R43 gives a notification of stage `k` issued at the step with ordinal `ord`. -/
def rangeOf (x : Stream) (k ord : Nat) : Nat × Nat :=
  if k = 0 then (stepFirst x ord, x.ctx.stepLen.toNat)
  else
    let n := (stageOf x.ctx k).inputSteps.toNat
    let f := ord + 1 - n
    (stepFirst x f, (ord + 1 - f) * x.ctx.stepLen.toNat)

/-- Ordinal of the step with stamp `t`, the last closed step being CUR_STEP. -/
def ordinalOf (x : Stream) (t : Stamp) : Nat := x.closedSteps - 1 - (x.ctx.curStep - t).toNat

def mkRecord (x : Stream) (k : Nat) (stamp : Stamp) (conf : U8) (cls : U16) (status : Nat) : Record :=
  let e := stageOf x.ctx k
  let (first, count) := rangeOf x k (ordinalOf x stamp)
  { last := k + 1 == x.ctx.nstage.toNat, specf := x.specf, seq := x.seq, gen := x.ctx.gen
    stage := BitVec.ofNat 3 k, tier := e.tier, status := BitVec.ofNat 8 status, cls := cls, conf := conf
    first := BitVec.ofNat 64 first, count := BitVec.ofNat 32 count, stamp := stamp, slot := e.slot, order := x.recOrder }

/-- A status record (R43): `count` is SAMPLE_COUNT. -/
def mkStatus (x : Stream) (status count : Nat) : Record :=
  { last := x.ctx.nstage == 1, specf := false, seq := x.seq, gen := x.ctx.gen
    stage := 0, tier := 0, status := BitVec.ofNat 8 status, cls := 0, conf := 0
    first := BitVec.ofNat 64 (stepFirst x x.closedSteps), count := BitVec.ofNat 32 count
    stamp := x.ctx.curStep, slot := (stageOf x.ctx 0).slot, order := x.recOrder }

/-- A record enters the notification hold with the stream's next SEQ (R43, R45). -/
def notify (s : State) (st k : Nat) (stamp : Stamp) (conf : U8) (cls : U16) (status : Nat) : State :=
  let x := getStream s st
  let r := { mkRecord x k stamp conf cls status with second := match x.hold with | h :: _ => !h.second | [] => false }
  let s := writeRecordSpace s st 0xE00 r.second (recordBytes st x r)
  let s := modStream s st (fun x => { x with hold := x.hold ++ [r], seq := x.seq + 1, recOrder := x.recOrder + 1 })
  hostWake s x.ctx.owner.toNat

/-- A status record enters the status slot; the caller has seen that it is free. -/
def putStatus (s : State) (st : Nat) (r : Record) : State :=
  let x := getStream s st
  let r := { r with seq := x.seq, order := x.recOrder }
  let s := writeRecordSpace s st 0xE80 false (recordBytes st x r)
  let s := modStream s st (fun x => { x with slotRec := some r, seq := x.seq + 1, recOrder := x.recOrder + 1 })
  hostWake s (getStream s st).ctx.owner.toNat

/-- A status record that is never omitted: it waits while the slot is taken (R46). -/
def putStatusOrWait (s : State) (st : Nat) (r : Record) : State :=
  if (getStream s st).slotRec.isNone then putStatus s st r
  else modStream s st (fun x => { x with slotWait := x.slotWait ++ [r] })

/-- A report enters the report hold; the caller has seen that there is room (R97). -/
def postReport (s : State) (st : Nat) (r : Report) : State :=
  let x := getStream s st
  let r := { r with second := match x.reports with | h :: _ => !h.second | [] => false }
  let s := writeRecordSpace s st 0xE40 r.second (reportBytes st (getRing s x.ctx.ingestRing.toNat).rgen r)
  modStream s st (fun x => { x with reports := x.reports ++ [r] })

def mkReport (gen : Gen) (k : Nat) (e : StageEntry) (spec : Bool) (stamp : Stamp) (status : Nat) (cls : U16) (conf : U8) : Report :=
  { status := BitVec.ofNat 8 status, gen := gen, stage := BitVec.ofNat 3 k, tier := e.tier, spec := spec, slot := e.slot,
    cls := cls, conf := conf, stamp := stamp }

/-- The report of a job whose result is `r`: its own status, or CANCELLED_SPECULATIVE if it was cancelled (R38, R495). -/
def reportOf (e : StageEntry) (r : CascResult) : Report :=
  if r.cancelled then mkReport r.gen r.stage.toNat e r.spec r.stamp stCancelled 0 0
  else mkReport r.gen r.stage.toNat e r.spec r.stamp r.status.toNat r.cls r.conf

/-- Whether records fit the notification hold and the report hold (R46). -/
def recordsFit (x : Stream) (notes reports : Nat) : Bool :=
  decide (x.hold.length + notes ≤ 2) && decide (x.reports.length + reports ≤ 2)

/-- held_full (R37). -/
def heldFull (x : Stream) : Bool := decide (2 ≤ x.hold.length) || decide (2 ≤ x.reports.length)

/-! ## Lagging (R50, R52) -/

/-- BACKLOG takes its present value, with the effects of R50. -/
def updBacklog (s : State) (st : Nat) : State :=
  let x := getStream s st
  let b := backlogOf x
  let s := modCtx s st (fun c => { c with backlog := BitVec.ofNat 7 b })
  if decide (x.ctx.lagDepth.toNat < b) && !x.ctx.lag then
    let s := modCtx s st (fun c => { c with lag := true })
    let x := getStream s st
    if x.slotRec.isNone && x.slotWait.isEmpty then putStatus s st (mkStatus x stLagging (x.ctx.stepLen.toNat * b))
    else c32 s 0x08050 1
  else if x.ctx.lag && decide (b ≤ x.ctx.lagDepth.toNat / 2) then modCtx s st (fun c => { c with lag := false })
  else s

/-! ## Lookback (R39 to R41, R346) -/

def historyOff (st : Nat) : Nat := 6144 * st
def snapOff (n : Nat) : Nat := galSnap + 6144 * n
def frameBytes (c : StreamCtx) : Nat := c.frameUnits.toNat * 8
/-- Gallery offset of the frame of the step with ordinal `i`. -/
def frameOff (st : Nat) (c : StreamCtx) (i : Nat) : Nat := historyOff st + (i % c.histSteps.toNat) * frameBytes c

/-- Gallery bytes copied with their poison, each poisoned word read being counted (R357). -/
def copyWord (s : State) (src dst : Nat) : State :=
  let k := mkey spGal src
  let s := eccRead s k 8 false
  let bs := peek s k 8
  let s' := memWr (cntRd s spGal 8) spGal dst bs
  if isPoisoned s k then setPoison (poisonRead s' 1 k none 0) (mkey spGal dst) else s'

def copyWords (s : State) (src dst : Nat) : Nat → State
  | 0 => s
  | n + 1 => copyWords (copyWord s src dst) (src + 8) (dst + 8) n

/-- The snapshot of R40: `n` frames that end at the step with ordinal `cnt - 1`, the oldest at byte 0; frames
before the first step are zero (R41). -/
def copySnap (s : State) (st buf n cnt : Nat) : State :=
  let c := (getStream s st).ctx
  let fb := frameBytes c
  (List.range n).foldl (fun t i =>
    if cnt + i < n then memWr t spGal (snapOff buf + i * fb) (List.replicate fb 0)
    else copyWords t (frameOff st c (cnt + i - n)) (snapOff buf + i * fb) c.frameUnits.toNat) s

/-! ## Issue, withdrawal and the end of an episode (R31, R35, R40) -/

/-- A stage `k` job is issued with its snapshot in buffer `buf`. A slot that holds no version fails it at once
(R195), and so does one with a unit out of service (R412) or one that is bound to another BATCH (R282); Tier 2 jobs are never speculative (R289).
Where the slot is empty and a unit or the tier's clock is out too, the job ends with UNCORRECTABLE, a host job with
BAD_DESCRIPTOR: R195 and R431 give no order. DESIGN CHOICE (log entry 205). -/
def issueCasc (s : State) (st k buf : Nat) (stamp : Stamp) (spec : Bool) : State :=
  let x := getStream s st
  let e := stageOf x.ctx k
  let n := e.inputSteps.toNat
  let s := copySnap s st buf n (ordinalOf x stamp + 1)
  let o : OutJob := { stage := BitVec.ofNat 3 k, stamp := stamp, gen := x.ctx.gen, job := s.nextJob, buf := buf }
  let s := modStream s st (fun x => { x with job := some o, ctx := { x.ctx with actStage := BitVec.ofNat 3 k } })
  let out := slotOut s e.slot.toNat (getSlot s e.slot.toNat).activeB
  let unfit := match activeVersion s e.slot.toNat with | some v => cascBatchBad e.slot.toNat v.image | none => true
  if unfit || out then
    { s with nextJob := s.nextJob + 1,
             results := s.results ++ [{ st := BitVec.ofNat 14 st, gen := x.ctx.gen, stage := o.stage, stamp := stamp,
                                        status := BitVec.ofNat 8 (if out then stUncorr else stBad), cls := 0, conf := 0,
                                        slot := e.slot, spec := spec }] }
  else
    addJob (hopPass s)
      { origin := .cascade (BitVec.ofNat 14 st) x.ctx.gen o.stage stamp, slot := e.slot
        inB := (getSlot s e.slot.toNat).activeB, fn := x.ctx.owner, level := if spec ∧ tierOf e.slot.toNat ≠ 2 then 0 else cascLevel s
        kind := 2, inAddr := BitVec.ofNat 64 (2 ^ 63 + 2 ^ 38 + snapOff buf)
        inBytes := n * frameBytes x.ctx, inSteps := e.inputSteps, spec := spec, buf := some buf }

/-- EP becomes IDLE and ARMED follows the hold run (R33). -/
def closeEpisode (s : State) (st : Nat) : State :=
  modStream s st (fun x =>
    let armed := decide ((stageOf x.ctx 0).holdCount.toNat ≤ x.ctx.holdRun.toNat)
    { x with job := none, held := none, latched := none, ctx := { x.ctx with ep := 0, armed := armed } })

/-- The episode ends (R31 `end`, R33); its buffer is free, since its job has left the device (R347). -/
def endEpisode (s : State) (st : Nat) : State :=
  let x := getStream s st
  let s := match x.job with
    | some o => if jobIn s o.job then s else dropSnap s o.buf
    | none => s
  closeEpisode s st

/-- ST_CANCEL and HIF_CSC_CANCEL. -/
def countCancel (s : State) (st : Nat) : State :=
  c64 (modCtx s st (fun c => { c with stCancel := satAdd 32 c.stCancel 1 })) 0x08028 1

/-- The job has left the device and its result is with the sequencer, or it is still in its queue: its withdrawal
takes it away at once. -/
def jobAtHand (s : State) (x : Stream) : Bool :=
  match x.job with
  | none => false
  | some o => jobQueued s o.job || (!jobIn s o.job && (x.held.isSome || x.latched.isSome))

/-- The withdrawal of the stream's job posts its report at once (R35, R495). -/
def owesReport (s : State) (x : Stream) : Bool :=
  x.specOwed.isSome || (jobAtHand s x && (match x.job with | some o => (stageOf x.ctx o.stage.toNat).report | none => false))

/-- Room for another report in the hold of R97. -/
def reportRoom (x : Stream) : Bool := decide (x.reports.length < 2)

/-- A report that is due now: it enters the hold, or waits on its way to the sequencer (R97), counted once. -/
def oweReport (s : State) (st : Nat) (r : CascResult) : State :=
  let x := getStream s st
  let e := stageOf x.ctx r.stage.toNat
  if !e.report then s
  else if reportRoom x then postReport s st (reportOf e r)
  else { c32 s 0x0804C 1 with results := s.results ++ [{ r with reportOnly := true, withdrawn := true, counted := true }] }

/-- The result belongs to the job of `o`. -/
def resultOf (st : Nat) (o : OutJob) (r : CascResult) : Bool :=
  r.st.toNat == st && r.gen == o.gen && r.stage == o.stage && r.stamp == o.stamp && !r.withdrawn

/-- The stream's job is withdrawn (R35): a queued one is removed; a running one goes on and frees its buffer when it
ends; the result of one that has left the device is discarded. `cancel`: it is speculative. -/
def withdrawJob (s : State) (st : Nat) (cancel : Bool) : State :=
  let x := getStream s st
  match x.job with
  | none => (match x.specOwed with
    | some r => oweReport (modStream s st (fun x => { x with specOwed := none })) st { r with cancelled := cancel }
    | none => s)
  | some o =>
    match getJob s o.job with
    | some j =>
      if jobQueued s o.job then
        oweReport (dropSnap (removeJob s o.job) o.buf) st
          { st := BitVec.ofNat 14 st, gen := o.gen, stage := o.stage, stamp := o.stamp, status := BitVec.ofNat 8 stCancelled
            cls := 0, conf := 0, slot := j.slot, spec := j.spec, cancelled := true }
      else setJob s o.job (some { j with withdrawn := true, cancelled := cancel })
    | none =>
      let s := dropSnap s o.buf
      match (if x.held.isSome then x.held else x.latched) with
      | some r => oweReport s st { r with cancelled := cancel }
      | none => { s with results := s.results.map (fun r =>
          if resultOf st o r then { r with withdrawn := true, cancelled := cancel } else r) }

/-- The present episode is given up without notification: its job is withdrawn (R35, R55, R61, R106). A speculative job
counts in ST_CANCEL and HIF_CSC_CANCEL, also where R61 says only that it is withdrawn (DEDUCED, log entry 194). -/
def abandon (s : State) (st : Nat) : State :=
  let x := getStream s st
  let spec := x.ctx.ep == 1 || x.ctx.ep == 2
  let s := if spec then countCancel s st else s
  modStream (withdrawJob s st spec) st (fun x =>
    { x with job := none, held := none, latched := none, ctx := { x.ctx with ep := 0 } })

/-! ## Leaving OPEN (R52) -/

/-- Every accepted INGEST that is not wholly read completes with STALE_DROPPED, and NEXT_SAMPLE goes back to the
first sample not read. That of a stream that takes no INGEST stands, here and in a reset. DESIGN CHOICE (log entry
195). -/
def dropIngests (s : State) (st : Nat) : State :=
  let x := getStream s st
  let s := x.ingests.foldl (fun t g => finish t g.ref
    { status := BitVec.ofNat 8 stStale, res0 := BitVec.ofNat 32 g.taken, res1 := BitVec.ofNat 64 (firstUnread x) }) s
  updBacklog (modStream s st dropUnread) st

/-! ## The complement check (R61) -/

/-- A threshold of stage `k` at byte `b` of its entry does not match its complement. -/
def checkFail (s : State) (st k b : Nat) : State :=
  let x := getStream s st
  let closing := x.ctx.state == 2
  let s := fltCheck s
  let s := logRec s 0x03 2 { status := stCheckFail, fn := some x.ctx.owner.toNat, slot := some (stageOf x.ctx k).slot.toNat,
                             aux := st, detail := (Config.stageByte k b).toNat }
  let s := abandon s st
  let s := if closing then s else dropIngests (modCtx s st (fun c => { c with state := 4 })) st
  putStatusOrWait s st (mkStatus (getStream s st) stCheckFail 0)

/-! ## The decision (R31) -/

/-- What a decision comes to. -/
inductive Act where
  | nothing
  | defer
  | begin (spec : Bool)
  | promote
  | cancel
  /-- A value of stage `k` at byte `b` failed its check. -/
  | bad (k b : Nat)
  deriving DecidableEq, Repr

/-- Where `on_result` leads for a result of stage `k` (R31), EP not being SPEC. -/
inductive ResAct where
  | fail
  | reject
  | last
  | advance
  | bad (k b : Nat)
  deriving DecidableEq, Repr

def resAct (c : StreamCtx) (k : Nat) (r : CascResult) : ResAct :=
  let e := stageOf c k
  let endBad := !holdCountOk (stageOf c 0)
  if r.status ≠ 0 then (if endBad then .bad 0 5 else .fail)
  else if !wakeOk e then .bad k 2
  else if r.conf < e.wake then (if endBad then .bad 0 5 else .reject)
  else if k + 1 = c.nstage.toNat then (if endBad then .bad 0 5 else .last)
  else .advance

/-- The values that `on_step_close` uses, in its order, and what it decides; `c` has CUR_STEP and HOLD_RUN set. A
promotion uses those of the held result too. -/
def decideAct (s : State) (x : Stream) (c : StreamCtx) (step : Stamp) (conf : U8) : Act × StreamCtx :=
  let e := stageOf c 0
  let specEn := bitOf (reg s 0x08000) 2
  if !holdOk e then (.bad 0 4, c) else
  if c.ep = 0 then
    if !c.armed && !holdCountOk e then (.bad 0 5, c) else
    let c := if !c.armed && decide (e.holdCount.toNat ≤ c.holdRun.toNat) then { c with armed := true } else c
    if !c.armed then (.nothing, c)
    else if !wakeOk e then (.bad 0 2, c)
    else if e.wake ≤ conf then (if heldFull x then .defer else .begin false, c)
    else if !prewakeOk e then (.bad 0 3, c)
    else if e.prewake ≤ conf && specEn then (if heldFull x then .defer else .begin true, c)
    else (.nothing, c)
  else if c.ep = 1 ∨ c.ep = 2 then
    if !wakeOk e then (.bad 0 2, c)
    else if e.wake ≤ conf then
      (match (if c.ep = 2 then x.held else none) with
        | some r => (match resAct c 1 r with | .bad k b => (.bad k b, c) | _ => (.promote, c))
        | none => (.promote, c))
    else if !holdCountOk e then (.bad 0 5, c)
    else if e.holdCount ≤ c.holdRun || decide (((stageOf c 1).inputSteps.toNat : Int) ≤ stampDiff step c.specStamp) then (.cancel, c)
    else (.nothing, c)
  else (.nothing, c)

/-- Notifications that the action posts. -/
def resNotes (c : StreamCtx) (k : Nat) : ResAct → Nat
  | .fail => 1
  | .last => 1
  | .advance => b2n (stageOf c k).notify
  | _ => 0

/-- `on_result` with room for its records, EP not being SPEC; the job's report goes with it (R38, R495). -/
def actResult (s : State) (st k : Nat) (r : CascResult) : State :=
  let x := getStream s st
  let e := stageOf x.ctx k
  let a := resAct x.ctx k r
  let s := if e.report then postReport s st (mkReport r.gen k e r.spec r.stamp r.status.toNat r.cls r.conf) else s
  match a with
  | .bad k b => checkFail s st k b
  | .fail => endEpisode (notify s st k r.stamp r.conf r.cls r.status.toNat) st
  | .reject => endEpisode (c64 s 0x08030 1) st
  | .last => endEpisode (notify s st k r.stamp r.conf r.cls stOk) st
  | .advance =>
    let s := if e.notify then notify s st k r.stamp r.conf r.cls stOk else s
    match x.job with
    | some o => issueCasc s st (k + 1) o.buf x.ctx.curStep false
    | none => s

/-- A result that the sequencer accepts is acted on, or held while speculative; `none`: its records do not fit
(R46). -/
def tryResult (s : State) (st : Nat) (r : CascResult) : Option State :=
  let x := getStream s st
  let k := r.stage.toNat
  if x.ctx.ep = 1 then some (modStream s st (fun x => { x with held := some r, ctx := { x.ctx with ep := 2 } }))
  else if recordsFit x (resNotes x.ctx k (resAct x.ctx k r)) (b2n (stageOf x.ctx k).report) then some (actResult s st k r)
  else none

/-- The records that a decision posts: notifications and reports (R46). -/
def actNeeds (s : State) (x : Stream) : Act → Nat × Nat
  | .begin spec => (if x.ctx.nstage = 1 then 1 else if spec then 0 else b2n (stageOf x.ctx 0).notify, 0)
  | .promote =>
    let n := b2n (stageOf x.ctx 0).notify
    match x.held with
    | some r => if x.ctx.ep = 2 then (n + resNotes x.ctx 1 (resAct x.ctx 1 r), b2n (stageOf x.ctx 1).report) else (n, 0)
    | none => (n, 0)
  | .cancel | .bad _ _ => (0, b2n (owesReport s x))
  | _ => (0, 0)

/-- `begin` of R31; the buffer is the lowest free one. -/
def beginEpisode (s : State) (st : Nat) (step : Stamp) (conf : U8) (cls : U16) (spec : Bool) : State :=
  let x := getStream s st
  let s := modStream s st (fun x => { x with specf := spec, ctx := { x.ctx with armed := false } })
  if x.ctx.nstage = 1 then notify s st 0 step conf cls stOk
  else
    match freeSnap s with
    | none => s
    | some b =>
      let s := takeSnap s b (BitVec.ofNat 14 st)
      let s := modCtx s st (fun c => { c with specStamp := step })
      let s := issueCasc s st 1 b step spec
      if spec then
        c64 (modCtx s st (fun c => { c with ep := 1, stPrewake := satAdd 32 c.stPrewake 1 })) 0x08018 1
      else
        let s := c64 (modCtx s st (fun c => { c with ep := 3, stPromote := satAdd 32 c.stPromote 1 })) 0x08020 1
        if (stageOf x.ctx 0).notify then notify s st 0 step conf cls stOk else s

/-- `promote` of R31. -/
def promoteEpisode (s : State) (st : Nat) (step : Stamp) (conf : U8) (cls : U16) : State :=
  let x := getStream s st
  let s := c64 (modCtx s st (fun c => { c with ep := 3, stPromote := satAdd 32 c.stPromote 1 })) 0x08020 1
  let s := if (stageOf x.ctx 0).notify then notify s st 0 step conf cls stOk else s
  match x.held with
  | some r => if x.ctx.ep = 2 then actResult (modStream s st (fun x => { x with held := none })) st 1 r else s
  | none => match x.job with
    | some o => raisePriority s o.job
    | none => s

/-- `cancel` of R31 (R35, R495): ARMED follows the hold run. -/
def cancelEpisode (s : State) (st : Nat) : State := closeEpisode (abandon s st) st

def applyAct (s : State) (st : Nat) (step : Stamp) (conf : U8) (cls : U16) : Act → State
  | .nothing => s
  | .defer => c32 s 0x0804C 1
  | .begin spec => beginEpisode s st step conf cls spec
  | .promote => promoteEpisode s st step conf cls
  | .cancel => cancelEpisode s st
  | .bad k b => checkFail s st k b

/-- A snapshot buffer is free for the stream: those that began to wait before it come first (R348). -/
def snapAvail (s : State) (st : Nat) : Bool :=
  decide (snapUsed s + (s.snapWait.takeWhile (fun q => q.toNat != st)).length < 1024)

/-- Why a decision waits. -/
inductive Wait where
  | holds
  | snap
  deriving DecidableEq, Repr

/-- A stream that closes step `step`: CUR_STEP, the count of closed steps, no sample read of the next, and PEER if
events of the step were lost with their peer (R62). -/
def closedCtx (s : State) (st : Nat) (step : Stamp) (lost : Bool) : State :=
  modStream s st (fun x => { x with closedSteps := x.closedSteps + 1,
                                    ctx := { x.ctx with curStep := step, sampleInStep := 0, peer := x.ctx.peer || lost } })

/-- The decision of a closure (R31): the state after it, or why it waits with none of its effects (R46, R348). -/
def decideClose (s : State) (st : Nat) (w : WaitDecision) : State ⊕ Wait :=
  let x := getStream s st
  if x.ctx.state ≠ 1 then .inl (closedCtx s st w.stamp w.lost)
  else
    let hr : U8 := if (stageOf x.ctx 0).hold ≤ w.conf then 0 else if x.ctx.holdRun = 255 then 255 else x.ctx.holdRun + 1
    let (a, c) := decideAct s x { x.ctx with curStep := w.stamp, holdRun := hr, sampleInStep := 0, peer := x.ctx.peer || w.lost } w.stamp w.conf
    let (n, m) := actNeeds s x a
    if !recordsFit x n m then .inr .holds
    else if (match a with | .begin _ => x.ctx.nstage != 1 && !snapAvail s st | _ => false) then .inr .snap
    else
      let s := closedCtx s st w.stamp w.lost
      match a with
      | .bad k b => .inl (checkFail s st k b)
      | _ => .inl (applyAct (modStream s st (fun x => { x with ctx := c })) st w.stamp w.conf w.cls a)

/-! ## Results (R36) -/

/-- The result is of the stream's outstanding job, and the stream acts on results (R31, R36). -/
def acceptable (x : Stream) (r : CascResult) : Bool :=
  (x.ctx.state == 1 || (x.ctx.state == 2 && x.drain)) && r.gen == x.ctx.gen && r.stage == x.ctx.actStage && x.ctx.ep != 0 &&
  !r.withdrawn && !r.reportOnly && (match x.job with | some o => o.stamp == r.stamp && o.stage == r.stage | none => false)

/-- The result of a speculative job that has been neither promoted nor cancelled, on a stream that acts on no result:
its report waits for the cancellation (R495). -/
def unsettled (x : Stream) (r : CascResult) : Bool :=
  x.ctx.ep == 1 && r.spec && (match x.job with | some o => resultOf r.st.toNat o r | none => false)

/-- A result dropped under R36, with the report that its job still owes (R35, R38, R495): while the report hold is full
the result waits (R97). -/
def dropResult (s : State) (r : CascResult) : State :=
  let st := r.st.toNat
  let x := getStream s st
  let e := stageOf x.ctx r.stage.toNat
  let owes := e.report && x.ctx.state != 0
  if owes && !reportRoom x && !unsettled x r then
    let s := if r.counted then s else c32 s 0x0804C 1
    { s with results := s.results ++ [{ r with counted := true }] }
  else
    let s := if r.reportOnly then s else fltStale (c64 s 0x08040 1) 1
    -- a stream that acts on no result has no outstanding job any more (R31): its buffer is free (R347)
    let mine := match x.job with | some o => resultOf st o r | none => false
    let s := match x.job with
      | some o => if mine then modStream (dropSnap s o.buf) st (fun x => { x with job := none }) else s
      | none => s
    if !owes then s
    else if unsettled x r then modStream s st (fun x => { x with specOwed := some r })
    else postReport s st (reportOf e r)

/-- A result reaches the sequencer. -/
def arriveResult (s : State) (r : CascResult) : State :=
  let st := r.st.toNat
  let x := getStream s st
  if acceptable x r then
    match tryResult s st r with
    | some s' => s'
    | none => modStream (c32 s 0x0804C 1) st (fun x => { x with latched := some r })
  else dropResult s r

/-- The latched result of a stream is tried again; the answer says whether none is left. -/
def retryLatched (s : State) (st : Nat) : Bool × State :=
  let x := getStream s st
  match x.latched with
  | none => (true, s)
  | some r =>
    if acceptable x r then
      match tryResult (modStream s st (fun x => { x with latched := none })) st r with
      | some s' => (true, s')
      | none => (false, s)
    else (true, dropResult (modStream s st (fun x => { x with latched := none })) r)

end Sys2Proof.Machine
end

