-- ==== Sys2Proof/Machine/Rings.lean ====
section
/-! DEFINITION. Rings.lean: doorbells (R80 to R83), descriptor fetch and checks (R79, R84 to R90, R96), completions,
records and reports on their way to the host (R91 to R98), interrupts (R101, R102), and the state of a ring pair
(R73 to R77). -/

namespace Sys2Proof.Machine

/-! ## Ring arithmetic -/

def sqSize (r : Ring) : Nat := 2 ^ r.sqLog2.toNat
def cqSize (r : Ring) : Nat := 2 ^ r.cqLog2.toNat
/-- Entries of the NQ; 0: no NQ (R73). -/
def nqSize (r : Ring) : Nat := if r.nqLog2 = 0 then 0 else 2 ^ r.nqLog2.toNat
/-- `a - b` in a ring of `n` entries. -/
def ringDist (n : Nat) (a b : U16) : Nat := if n = 0 then 0 else (a - b).toNat % n
def ringNext (n : Nat) (a : U16) : U16 := if n = 0 then 0 else BitVec.ofNat 16 ((a.toNat + 1) % n)
/-- Work of the pair is still in the device (R74, R77). -/
def ringBusy (r : Ring) : Bool := r.draining || !r.inflight.isEmpty
/-- Unconsumed entries of the CQ and the NQ. -/
def cqUsed (r : Ring) : Nat := ringDist (cqSize r) r.cqTail r.cqHead
def nqUsed (r : Ring) : Nat := ringDist (nqSize r) r.nqTail r.nqHead
/-- Free CQ entries, one always staying empty (R96). -/
def cqFree (r : Ring) : Nat := cqSize r - 1 - cqUsed r
def nqFree (r : Ring) : Nat := nqSize r - 1 - nqUsed r

/-! ## Interrupts (R101, R102) -/

/-- All entries of the CQ (NQ) written so far are announced. -/
def announce (s : State) (p : Nat) (nq : Bool) : State :=
  let r := getRing s p
  let n := if nq then r.nqUnann else r.cqUnann
  let v := (if nq then r.nqVec else r.cqVec).toNat
  let s := modRing s p (fun r => if nq then { r with nqUnann := 0 } else { r with cqUnann := 0 })
  match ringOwner s p with
  | none => s
  | some f =>
    if tableSize s f ≤ v then modFn s f (fun x => { x with irqLost := satAdd 32 x.irqLost n })
    else sendVec s f v

/-- The conditions of R102 after an entry has been written, or when IEN becomes 1. -/
def checkAnnounce (s : State) (p : Nat) (nq irq : Bool) : State :=
  let r := getRing s p
  let n := if nq then r.nqUnann else r.cqUnann
  let ien := if nq then r.nqIen else r.cqIen
  let cnt := if r.count = 0 then 1 else r.count.toNat
  if ien && decide (0 < n) && (irq || decide (cnt ≤ n)) then announce s p nq else s

/-- HOLDOFF_EXPIRY (R102): HOLDOFF × 16 REFCLK cycles have passed since the oldest unannounced entry. -/
def execHoldoffExpiry (p : PairId) (nq : Bool) (s : State) : Out State :=
  let r := getRing s p.toNat
  let n := if nq then r.nqUnann else r.cqUnann
  let ien := if nq then r.nqIen else r.cqIen
  .next (hostLive s fun s => if ien && decide (0 < n) && r.holdoff != 0 then announce s p.toNat nq else s)

/-- MSIX_UNMASK (R102): the mask bit of a vector is cleared, and what is pending is sent. -/
def execMsixUnmask (fn : FnId) (vec : BitVec 11) (s : State) : Out State :=
  if !fnPresent s fn.toNat || tableSize s fn.toNat ≤ vec.toNat then .next s
  else .next (flushVecs (modFn s fn.toNat (fun f =>
    { f with vecs := smUpd {} f.vecs vec.toNat (fun e => { e with masked := false }) })) fn.toNat)

/-! ## Doorbells (R80 to R83) -/

inductive DbCause where
  | form
  | check
  | ring
  | state
  | range
  deriving DecidableEq, Repr

def DbCauseCode : DbCause → Nat
  | .form => 1
  | .check => 2
  | .ring => 3
  | .state => 4
  | .range => 5

/-- The ring pair to which a doorbell page belongs (R72). -/
def pagePair (s : State) (fn page : Nat) : Option Nat :=
  if fn = 0 then some page else if page < 64 then vfPair s fn page else none

/-- A rejected doorbell (R82); a damaged complement is counted in FLT_CHECK (R399, R400). -/
def rejectDoorbell (s : State) (fn page : Nat) (w : U64) (c : DbCause) : State :=
  let s := if c = .check then fltCheck s else s
  let s := modFn s fn (fun f => { f with dbErr := satAdd 32 f.dbErr 1 })
  let s := if (getFn s fn).dbValid then s else modFn s fn (fun f =>
    { f with dbLog := w, dbCause := BitVec.ofNat 3 (DbCauseCode c), dbPage := BitVec.ofNat 10 page, dbValid := true })
  let p := pagePair s fn page
  let s := match p with
    | some p => modRing s p (fun r => { r with dbErr := true })
    | none => s
  logRec s 0x01 0 { fn := some fn, utype := 1, unit := p.getD 0x3FF, aux := page, detail := w.toNat, detail2 := DbCauseCode c }

/-- What R81 makes of a doorbell: its ring and new pointer, or why it is rejected. `kind`: 0 SQ, 1 CQ, 2 NQ. -/
def checkDoorbell (s : State) (fn page off len : Nat) (w : U64) : DbCause ⊕ (Nat × Nat × U16) :=
  if len ≠ 8 ∨ off ≠ 0 then .inl .form else
  let v := w.extractLsb' 0 16
  let nv := w.extractLsb' 16 16
  let id := w.extractLsb' 32 16
  let nid := w.extractLsb' 48 16
  if v ^^^ nv ≠ 0xFFFF ∨ id ^^^ nid ≠ 0xFFFF then .inl .check else
  let pair := id.toNat % 1024
  let kind := fld id.toNat 10 2
  if fld id.toNat 12 4 ≠ 0 ∨ kind = 3 then .inl .form else
  if pagePair s fn page ≠ some pair ∨ !ownsRing s fn pair then .inl .ring else
  let r := getRing s pair
  if !r.enabled ∨ (kind = 2 ∧ r.nqLog2 = 0) then .inl .state else
  let size := if kind = 0 then sqSize r else if kind = 1 then cqSize r else nqSize r
  if size ≤ v.toNat then .inl .range else
  if kind = 0 then
    if ringDist size v r.sqHead < ringDist size r.sqTail r.sqHead then .inl .range else .inr (pair, kind, v)
  else
    let tail := if kind = 1 then r.cqTail else r.nqTail
    let head := if kind = 1 then r.cqHead else r.nqHead
    if ringDist size tail head < ringDist size tail v then .inl .range else .inr (pair, kind, v)

/-- An accepted doorbell moves its pointer; consumed entries are no longer unannounced (R102). -/
def applyDoorbell (s : State) (pair kind : Nat) (v : U16) : State :=
  if kind = 0 then modRing s pair (fun r => { r with sqTail := v })
  else if kind = 1 then modRing s pair (fun r =>
    let r := { r with cqHead := v }
    { r with cqUnann := min r.cqUnann (cqUsed r) })
  else modRing s pair (fun r =>
    let r := { r with nqHead := v }
    { r with nqUnann := min r.nqUnann (nqUsed r) })

/-- DOORBELL (R81); in recovery mode a write to BAR2 is discarded (R465). -/
def execDoorbell (fn : FnId) (page : BitVec 10) (off : BitVec 12) (len : Nat) (w : U64) (s : State) : Out State :=
  .next (hostLive s fun s =>
    if s.lnt.recovery || !fnPresent s fn.toNat then s
    else useCtl s (fun c => match pagePair s fn.toNat page.toNat with | some p => c == .ring p || protWord 1 p c | none => false) fun s =>
      match checkDoorbell s fn.toNat page.toNat off.toNat len w with
      | .inl c => rejectDoorbell s fn.toNat page.toNat w c
      | .inr (p, k, v) => applyDoorbell s p k v)

/-! ## Descriptors (R84 to R90) -/

def opNop : Nat := 0x01
def opKnotSignal : Nat := 0x02
def opKnotWait : Nat := 0x03
def opStreamOpen : Nat := 0x10
def opStreamClose : Nat := 0x11
def opStreamStatus : Nat := 0x12
def opIngest : Nat := 0x13
def opSlotLoad : Nat := 0x20
def opJobRun : Nat := 0x30
def opTrainStep : Nat := 0x31
def opDmaCopy : Nat := 0x40

def descOp (b : Bytes) : Nat := leAt b 0 1
def descCqe (b : Bytes) : Bool := bitOf (descH b) 8
def descIrq (b : Bytes) : Bool := bitOf (descH b) 9
def descFence (b : Bytes) : Bool := bitOf (descH b) 10
def descOptA (b : Bytes) : Bool := bitOf (descH b) 11
def descOptB (b : Bytes) : Bool := bitOf (descH b) 12
/-- Step 1 of R85. -/
def headerOk (b : Bytes) : Bool := leAt b 4 4 + descH b == 0xFFFFFFFF
def descStream (b : Bytes) : Nat := leAt b 8 2 % 16384
def descSgen (b : Bytes) : Nat := leAt b 10 1 % 16

def hostOps : List Nat :=
  [opNop, opKnotSignal, opKnotWait, opStreamOpen, opStreamClose, opStreamStatus, opIngest, opSlotLoad, opJobRun,
   opTrainStep, opDmaCopy]

/-- The named bits of the body, as (byte offset, bytes, bits) (R90). -/
def bodyFields (op : Nat) : List (Nat × Nat) :=
  let stream := [(8, 14), (10, 4)]
  if op = opKnotSignal ∨ op = opKnotWait then [(8, 12), (10, 16), (12, 32)]
  else if op = opStreamOpen ∨ op = opStreamStatus then stream ++ [(16, 64)]
  else if op = opStreamClose then stream
  else if op = opIngest then stream ++ [(12, 16), (16, 64), (24, 64), (32, 32)]
  else if op = opSlotLoad then [(8, 8), (16, 64), (24, 32)]
  else if op = opJobRun then
    [(8, 8), (9, 2), (10, 16), (16, 64), (24, 64), (40, 12), (42, 16), (44, 32), (48, 12), (50, 16), (52, 32)]
  else if op = opTrainStep then
    [(8, 8), (9, 2), (10, 16), (16, 64), (24, 64), (32, 64), (40, 12), (42, 16), (44, 32), (48, 12), (50, 16), (52, 32),
     (56, 8), (57, 2)]
  else if op = opDmaCopy then [(8, 2), (16, 64), (24, 64), (32, 32), (36, 32)]
  else []

/-- The bits of a descriptor that its opcode names. -/
def descMask (op : Nat) : Nat :=
  (bodyFields op).foldl (fun m (o, n) => m + (2 ^ n - 1) * 2 ^ (8 * o)) (0xFFFFFFFFFFFF1FFF)

/-- Address fields of the body (R87). -/
def addrFields (op : Nat) : List Nat :=
  if op = opStreamOpen ∨ op = opStreamStatus ∨ op = opSlotLoad then [16]
  else if op = opIngest then [24]
  else if op = opJobRun ∨ op = opDmaCopy then [16, 24]
  else if op = opTrainStep then [16, 24, 32]
  else []

/-- Step 3 of R85: no reserved bit is set (R7, R84, R87, R90). -/
def reservedOk (b : Bytes) : Bool :=
  let v := leNat b
  (v &&& descMask (descOp b)) == v && (addrFields (descOp b)).all (fun o => (addrOf (leAt b o 8)).isSome)

/-- The function's window right over a range of an address field (R88, R344, R353). -/
def rangeRight (s : State) (fn a n : Nat) (wr : Bool) : Bool × State :=
  match addrOf a with
  | some (sp, off) => if n = 0 then (true, s) else devCheck s fn sp off n wr none
  | none => (false, s)

/-- Ranges that the descriptor names: address, length, write (R90). The lengths of a job follow from its slot. -/
def descRanges (s : State) (b : Bytes) : List (Nat × Nat × Bool) :=
  let op := descOp b
  if op = opStreamOpen then [(leAt b 16 8, 128, false)]
  else if op = opStreamStatus then [(leAt b 16 8, 128, true)]
  else if op = opIngest then [(leAt b 24 8, leAt b 32 4 * leAt b 12 2, false)]
  else if op = opSlotLoad then [(leAt b 16 8, leAt b 24 4, false)]
  else if op = opDmaCopy then
    [(leAt b 16 8, leAt b 32 4, false), (leAt b 24 8, if leAt b 8 1 = 0 then leAt b 32 4 else leAt b 36 4, true)]
  else if op = opJobRun ∨ op = opTrainStep then
    match activeVersion s (leAt b 8 1) with
    | none => []
    | some v =>
      let n := leAt b 10 2
      let (i, o, st) := itemSizes (leAt b 8 1) v.image
      if op = opJobRun then [(leAt b 16 8, i * n, false), (leAt b 24 8, o * n, true)]
      else
        (if leAt b 57 1 % 4 = 2 then [] else [(leAt b 16 8, i * n, false), (leAt b 24 8, o * n, false)]) ++
        [(leAt b 32 8, st, false), (leAt b 32 8, st, true)]
  else []

/-- The knot operations that a descriptor names are all allowed (R225). -/
def descKnotsOk (s : State) (fn : Nat) (b : Bytes) : Bool :=
  let op := descOp b
  if op = opKnotSignal ∨ op = opKnotWait then ownsKnot s fn (leAt b 8 2 % 4096)
  else if op = opJobRun ∨ op = opTrainStep then
    (!descOptA b || ownsKnot s fn (leAt b 40 2 % 4096)) && (!descOptB b || ownsKnot s fn (leAt b 48 2 % 4096))
  else true

/-- Step 5 of R85: every right that the descriptor names. A knot operation that is not allowed is counted (R225). -/
def descRights (s : State) (fn : Nat) (b : Bytes) : Bool × State :=
  let op := descOp b
  let own :=
    if op = opStreamOpen ∨ op = opStreamClose ∨ op = opStreamStatus ∨ op = opIngest then ownsStream s fn (descStream b)
    else if op = opSlotLoad then mayLoad s fn (leAt b 8 1)
    else if op = opJobRun ∨ op = opTrainStep then
      mayUse s fn (leAt b 8 1)
    else true
  if !own then (false, s)
  else if !descKnotsOk s fn b then (false, c32 s 0x3012C 1)
  else (descRanges s b).foldl (fun (ok, t) (a, n, w) =>
    if ok then rangeRight t fn a n w else (false, t)) (true, s)

/-- The end of a STREAM_OPEN or STREAM_CLOSE: RES0 is GEN and RES1 is NEXT_SAMPLE (R91). -/
def streamCompl (s : State) (st status : Nat) : Compl :=
  let c := (getStream s st).ctx
  { status := BitVec.ofNat 8 status, res0 := BitVec.ofNat 32 c.gen.toNat, res1 := c.nextSample }

def endStreamOp (s : State) (q : DescRef) (st status : Nat) : State := finish s q (streamCompl s st status)

/-- The number of the version of a slot in force, as RES0 gives it (R91). -/
def verNow (s : State) (slot : Nat) : U32 := match activeVersion s slot with | some v => v.number.setWidth 32 | none => 0

/-- The completion of a descriptor that does nothing, with the RES that R91 gives its opcode. A header that cannot be
read names none. -/
def refusal (s : State) (b : Bytes) (status : Nat) : Compl :=
  if !headerOk b then plain status
  else if descOp b = opStreamOpen ∨ descOp b = opStreamClose then streamCompl s (descStream b) status
  else if descOp b = opIngest then { status := BitVec.ofNat 8 status, res1 := (getStream s (descStream b)).ctx.nextSample }
  else if descOp b = opSlotLoad then { status := BitVec.ofNat 8 status, res0 := verNow s (leAt b 8 1) }
  else plain status

/-- What the checks of a descriptor read of the protection tables (R85, R106). -/
def descWords (s : State) (b : Bytes) (w : CtlWord) : Bool :=
  let op := descOp b
  (hostOps.contains op && !(descRanges s b).isEmpty && windowWords w) ||
  (if op = opStreamOpen ∨ op = opStreamClose ∨ op = opStreamStatus ∨ op = opIngest then protWord 0 (descStream b) w
   else if op = opSlotLoad then protWord 2 (leAt b 8 1) w
   else if op = opKnotSignal ∨ op = opKnotWait then protWord 4 (leAt b 8 2 % 4096) w
   else if op = opJobRun ∨ op = opTrainStep then
     protWord 2 (leAt b 8 1) w || (descOptA b && protWord 4 (leAt b 40 2 % 4096) w) || (descOptB b && protWord 4 (leAt b 48 2 % 4096) w)
   else false)

/-- Steps 1 to 5 of R85 on a fetched descriptor that is not yet among those in flight: its status, if a check fails.
A zeroed entry fails step 1, which comes before the step 2 that R89 names for it: DEDUCED (log entry 199). -/
def checkDesc (s : State) (p : Nat) (d : Desc) : Option Nat × State :=
  let b := d.bytes
  if !headerOk b then
    let s := fltCheck s
    (some stCheckFail, logRec s 0x02 2 { status := stCheckFail, fn := some d.fn.toNat, utype := 1, unit := p, aux := d.idx.toNat,
                                         detail := descH b + leAt b 4 4 * 2 ^ 32 })
  else if !hostOps.contains (descOp b) then (some stBad, s)
  else if !reservedOk b then (some stBad, s)
  else if (getRing s p).inflight.any (fun e => e.done.isNone && descTag e.bytes == descTag b) then (some stBad, s)
  else match descRights s d.fn.toNat b with
    | (true, s) => (none, s)
    | (false, s) => (some stProtection, s)

/-! ## The fetch (R51, R79, R96) -/

/-- A descriptor that R51 holds: an INGEST with a sound header for a stream whose BACKLOG has reached 64. -/
def heldByBacklog (s : State) (b : Bytes) : Bool :=
  headerOk b && descOp b == opIngest && decide (64 ≤ (getStream s (descStream b)).ctx.backlog.toNat)

def sqEntry (s : State) (r : Ring) (i : Nat) : Bytes :=
  peek s (mkey spHost ((r.sqBase.toNat + 64 * ((r.sqHead.toNat + i) % sqSize r)) % 2 ^ 63)) 64

/-- A cascade report waits for the CQ of the pair (R96). -/
def reportWaits (s : State) (p : Nat) : Bool :=
  s.streams.any (fun e => e.2.ctx.ingestRing.toNat == p && !e.2.reports.isEmpty && ringOwner s p == some e.2.ctx.owner.toNat)

/-- How many descriptors a fetch of at most `n` reads from the pair's SQ. -/
def fetchable (s : State) (p n : Nat) : Nat :=
  let r := getRing s p
  match ringOwner s p with
  | none => 0
  | some f =>
    if !r.enabled || r.abort || !canMaster s f || reportWaits s p then 0
    else
      let m := min n (min (ringDist (sqSize r) r.sqTail r.sqHead) (cqFree r - r.inflight.length))
      (findBelow (fun i => heldByBacklog s (sqEntry s r i)) m).getD m

/-- Ring pairs that wait for a fetch. -/
def waitingRings (s : State) : List Nat := (s.rings.map (·.1)).filter (fun p => decide (0 < fetchable s p 1))

/-- A pair has waited while 64 fetches went to higher levels. -/
def starved (s : State) (p : Nat) : Bool :=
  let r := getRing s p
  r.waitSince.isSome && decide (64 ≤ r.passedBy)

/-- The earlier of two pairs, by when they began to wait and then by number. -/
def olderRing (s : State) (a b : Nat) : Nat :=
  let wa := (getRing s a).waitSince.getD s.fetches
  let wb := (getRing s b).waitSince.getD s.fetches
  if wa < wb then a else if wb < wa then b else min a b

/-- Round robin: the first pair above the one last served, else the lowest. -/
def nextRobin (last : Nat) (ps : List Nat) : Option Nat :=
  match ps.filter (fun p => decide (last < p)) with
  | p :: _ => some p
  | [] => ps.head?

/-- The pair that R79 serves next. -/
def pickRing (s : State) : Option Nat :=
  let ps := waitingRings s
  match ps.filter (starved s) with
  | p :: r => some (r.foldl (olderRing s) p)
  | [] =>
    let level := ps.foldl (fun m p => max m (getRing s p).prio.toNat) 0
    match nextRobin (smGet 1024 s.lastServed level) (ps.filter (fun p => (getRing s p).prio.toNat == level)) with
    | some p => some p
    | none => none

/-- What a fetch for pair `p` does to the waits of the other pairs (R79). A pair that cannot be served at this fetch
does not wait: its count starts again. DESIGN CHOICE (log entry 200). -/
def ageRings (s : State) (p : Nat) : State :=
  let level := (getRing s p).prio
  let ps := waitingRings s
  { s with
    rings := smMap {} s.rings (fun q r =>
      if q = p ∨ !ps.contains q then { r with waitSince := none, passedBy := 0 }
      else { r with
        waitSince := some (r.waitSince.getD s.fetches)
        passedBy := if r.prio < level then r.passedBy + 1 else r.passedBy })
    fetches := s.fetches + 1
    lastServed := smSet 1024 s.lastServed level.toNat p }

/-- One descriptor is fetched and checked. -/
def fetchOne (s : State) (p f : Nat) : State :=
  let r := getRing s p
  let d : Desc := { idx := r.sqHead, bytes := sqEntry s r 0, fn := BitVec.ofNat 6 f }
  let s := modRing s p (fun r => { r with sqHead := ringNext (sqSize r) r.sqHead })
  let enter (s : State) (d : Desc) : State := modRing s p (fun r => { r with inflight := r.inflight ++ [d] })
  useCtl s (descWords s d.bytes) fun s =>
    match checkDesc s p d with
    | (none, s) => enter s d
    | (some st, s) => countStatus (enter s { d with started := true, done := some (refusal s d.bytes st) }) f st

def fetchMany (s : State) (p f : Nat) : Nat → State
  | 0 => s
  | n + 1 =>
    let s := fetchOne s p f
    if s.flt.fatal then s else fetchMany s p f n

/-- DESCRIPTOR_FETCH (R79): at most `n` descriptors, 1 to 64. -/
def execDescriptorFetch (n : Nat) (s : State) : Out State :=
  if n = 0 ∨ 64 < n then .fault (.illFormed "DESCRIPTOR_FETCH: 1 to 64 descriptors (R79)")
  else .next (hostLive s fun s =>
    match pickRing s with
    | none => s
    | some p => match ringOwner s p with
      | none => s
      | some f => useCtl s (ringWords p) fun s => fetchMany (ageRings s p) p f (fetchable s p n))

/-! ## Starts (R85, R86, R106) -/

/-- The first descriptor that has not started, with those before it. -/
def nextStart (r : Ring) : Option (Desc × List Desc) :=
  match r.inflight.dropWhile (fun d => d.started || d.done.isSome) with
  | [] => none
  | d :: _ => some (d, r.inflight.takeWhile (fun d => d.started || d.done.isSome))

/-- The descriptor of SQ entry `idx` may start: those before it have started, none of them is a KNOT_WAIT that still
waits, and with FENCE all have completed (R86). -/
def mayStart (r : Ring) (idx : Nat) : Option Desc :=
  match nextStart r with
  | none => none
  | some (d, before) =>
    if d.idx.toNat = idx ∧ before.all (fun e => e.done.isSome || (descOp e.bytes != opKnotWait && !descFence d.bytes)) then some d
    else none

/-- A descriptor with opcode `op` starts: rights are checked again (R106), then `g` runs on it and on what its messages
carry. -/
def startDesc (s : State) (p : PairId) (idx : U16) (op : Nat) (g : State → DescRef → Desc → State) : State :=
  match mayStart (getRing s p.toNat) idx.toNat with
  | none => s
  | some d =>
    if descOp d.bytes ≠ op then s
    else
      let q := refOf s p d
      useCtl s (fun w => w == .seq || descWords s d.bytes w) fun s =>
        match descRights s d.fn.toNat d.bytes with
        | (false, s) => finish s q (refusal s d.bytes stProtection)
        | (true, s) => g (modDesc s q (fun d => { d with started := true })) q d

/-- NOP (R90). -/
def execNop (p : PairId) (idx : U16) (s : State) : Out State :=
  .next (hostLive s fun s => startDesc s p idx opNop fun s q _ => finish s q (plain stOk))

/-- The knot operation of a descriptor (R90, R217, R218). -/
def ringKnotOp (s : State) (q : DescRef) (d : Desc) (op : BitVec 2) : State :=
  sendKnotOp s { op := op, knot := BitVec.ofNat 12 (leAt d.bytes 8 2), epoch := BitVec.ofNat 16 (leAt d.bytes 10 2)
                 amount := BitVec.ofNat 32 (leAt d.bytes 12 4), fn := d.fn, origin := .ring q }

/-- KNOT_SIGNAL (R90, R231): the ADD goes to the knot store, whose answer ends the descriptor. -/
def execKnotSignal (p : PairId) (idx : U16) (s : State) : Out State :=
  .next (live s fun s => startDesc s p idx opKnotSignal fun s q d => ringKnotOp s q d 0)

/-- KNOT_WAIT (R90): the WAIT goes to the knot store, whose answer ends the descriptor. -/
def execKnotWait (p : PairId) (idx : U16) (s : State) : Out State :=
  .next (live s fun s => startDesc s p idx opKnotWait fun s q d => ringKnotOp s q d 2)

/-! ## Completions (R91 to R96) -/

/-- The 32 B of a completion (R91); an unreadable header gives H = 0x0000_00FF (R85). -/
def complBytes (d : Desc) (rgen : BitVec 4) (c : Compl) : Bytes :=
  let h := if headerOk d.bytes then descH d.bytes else 0xFF
  natLE 4 h ++ natLE 4 (0xFFFFFFFF - h) ++ natLE 2 d.idx.toNat ++ natLE 1 rgen.toNat ++ natLE 1 c.status.toNat ++
  natLE 4 c.res0.toNat ++ natLE 8 c.res1.toNat ++ natLE 8 c.res2.toNat

/-- Host memory is written. -/
def hostWrite (s : State) (a : Nat) (bs : Bytes) : State := poke s (mkey spHost (a % 2 ^ 63)) bs

/-- An entry goes to the CQ: bytes 8 to 31 first, bytes 0 to 7 second (R92); `irq`: its descriptor had IRQ. -/
def writeCq (s : State) (p : Nat) (bs : Bytes) (irq : Bool) : State :=
  let r := getRing s p
  let a := r.cqBase.toNat + 32 * r.cqTail.toNat
  let s := hostWrite (hostWrite s (a + 8) (bs.drop 8)) a (bs.take 8)
  let s := modRing s p (fun r => { r with cqTail := ringNext (cqSize r) r.cqTail, cqUnann := r.cqUnann + 1 })
  checkAnnounce s p false irq

def writeNq (s : State) (p : Nat) (bs : Bytes) : State :=
  let r := getRing s p
  let a := r.nqBase.toNat + 32 * r.nqTail.toNat
  let s := hostWrite (hostWrite s (a + 8) (bs.drop 8)) a (bs.take 8)
  let s := modRing s p (fun r => { r with nqTail := ringNext (nqSize r) r.nqTail, nqUnann := r.nqUnann + 1 })
  checkAnnounce s p true false

/-- COMPLETION_WRITE (R92, R94): the first descriptor of the SQ that is in flight has ended; OK without CQE writes
nothing, and a completion for a former owner of the pair is discarded (R106). -/
def execCompletionWrite (p : PairId) (s : State) : Out State :=
  .next (hostLive s fun s =>
    let r := getRing s p.toNat
    match r.inflight with
    | [] => s
    | d :: rest =>
      match d.done with
      | none => s
      | some c => useCtl s (ringWords p.toNat) fun s =>
        let s' := modRing s p.toNat (fun r => { r with inflight := rest })
        if c.status = 0 ∧ headerOk d.bytes ∧ !descCqe d.bytes then s'
        else if ringOwner s p.toNat ≠ some d.fn.toNat then c32 s' 0x9005C 1
        else if !canMaster s d.fn.toNat then s
        else writeCq s' p.toNat (complBytes d r.rgen c) (headerOk d.bytes && descIrq d.bytes))

/-! ## Reports and notifications (R42, R93, R97, R98, R350) -/

/-- A poisoned word lies in an entry of a hold or in the status slot. -/
def holdPoisoned (s : State) (st base : Nat) (second : Bool) : Bool := (firstPoison s (holdKey st base second) 32).isSome

/-- A held report that reads poisoned (R357). -/
def lostReport (r : Report) : Report := { r with status := BitVec.ofNat 8 stUncorr, cls := 0, conf := 0 }
def lostRecord (r : Record) : Record := { r with status := BitVec.ofNat 8 stUncorr, cls := 0, conf := 0 }

/-- REPORT_WRITE (R97, R350): the oldest held report goes to the CQ of INGEST_RING when it has an entry that no
fetched descriptor has reserved; one for a former owner of the pair is discarded and counted (R106). -/
def execReportWrite (st : StreamId) (s : State) : Out State :=
  .next (hostLive s fun s =>
    let x := getStream s st.toNat
    let p := x.ctx.ingestRing.toNat
    let r := getRing s p
    match x.reports with
    | [] => s
    | rp :: rest => useCtl s (ringWords p) fun s =>
      match ringOwner s p with
      | none => c32 (modStream s st.toNat (fun x => { x with reports := rest })) 0x9005C 1
      | some f =>
        if f = x.ctx.owner.toNat && (r.enabled || r.draining) && canMaster s f && decide (r.inflight.length < cqFree r) then
          let s := (memRd s spGal (holdOff st.toNat 0xE40 rp.second) 32).2
          let bad := holdPoisoned s st.toNat 0xE40 rp.second
          let s := if bad then poisonRead s 3 (holdKey st.toNat 0xE40 rp.second) (some f) stUncorr else s
          writeCq (modStream s st.toNat (fun x => { x with reports := rest })) p
            (reportBytes st.toNat r.rgen (if bad then lostReport rp else rp)) false
        else if f ≠ x.ctx.owner.toNat then c32 (modStream s st.toNat (fun x => { x with reports := rest })) 0x9005C 1
        else s)

/-- The next record of the stream in the order of R44; `true`: it is in the status slot. -/
def nextRecord (x : Stream) : Option (Record × Bool) :=
  match x.hold, x.slotRec with
  | h :: _, some r => if h.order ≤ r.order then some (h, false) else some (r, true)
  | h :: _, none => some (h, false)
  | [], some r => some (r, true)
  | [], none => none

/-- NOTIFY_WRITE (R350, R98): the oldest held record goes to the NQ; a low-power state is answered by R48. -/
def execNotifyWrite (st : StreamId) (s : State) : Out State :=
  .next (hostLive s fun s =>
    let x := getStream s st.toNat
    let p := x.ctx.notifyRing.toNat
    let r := getRing s p
    match nextRecord x with
    | none => s
    | some (rec, inSlot) => useCtl s (ringWords p) fun s =>
      match ringOwner s p with
      | none => s
      | some f =>
        if f ≠ x.ctx.owner.toNat then s
        else if !canMaster s f then hostWake s f
        else if (r.enabled || r.draining) && r.nqLog2 != 0 && decide (0 < nqFree r) then
          let base := if inSlot then 0xE80 else 0xE00
          let s := (memRd s spGal (holdOff st.toNat base rec.second) 32).2
          let bad := holdPoisoned s st.toNat base rec.second
          let s := if bad then poisonRead s 3 (holdKey st.toNat base rec.second) (some f) stUncorr else s
          let s := modStream s st.toNat (fun x => if inSlot then { x with slotRec := none } else { x with hold := x.hold.tail })
          let s := match (getStream s st.toNat).slotWait with
            | w :: rest => if inSlot then putStatus (modStream s st.toNat (fun x => { x with slotWait := rest })) st.toNat w else s
            | [] => s
          let s := c64 (modCtx s st.toNat (fun c => { c with stNotify := satAdd 32 c.stNotify 1 })) 0x08038 1
          writeNq s p (recordBytes st.toNat x (if bad then lostRecord rec else rec))
        else s)

/-! ## The state of a ring pair (R73, R75, R77) -/

/-- The pair that a function's HIF_RING_SEL names, if the function owns it (R74). -/
def selPair (s : State) (fn : Nat) : Option Nat :=
  let q := (getFn s fn).ringSel.toNat
  if fn = 0 then (if ownsRing s 0 q then some q else none) else if q < 64 then vfPair s fn q else none

def ringLogOk (n : BitVec 4) : Bool := decide (4 ≤ n.toNat)

/-- The conditions of R75 on a pair that the function owns. -/
def enableOk (r : Ring) : Bool :=
  !ringBusy r && r.sqBase.toNat % 4096 == 0 && r.cqBase.toNat % 4096 == 0 && (r.nqLog2 == 0 || r.nqBase.toNat % 4096 == 0) &&
  ringLogOk r.sqLog2 && ringLogOk r.cqLog2 && (r.nqLog2 == 0 || ringLogOk r.nqLog2) && decide (r.sqLog2 ≤ r.cqLog2)

/-- Heads and tails are 0 on enable (R75). -/
def enableRing (r : Ring) : Ring :=
  { r with enabled := true, sqHead := 0, sqTail := 0, cqHead := 0, cqTail := 0, nqHead := 0, nqTail := 0, cqUnann := 0, nqUnann := 0 }

/-- RING_ENABLE (R75). A pair that is enabled already stays as it is, but for PRIO. -/
def execRingEnable (fn : FnId) (prio : BitVec 2) (s : State) : Out State :=
  .next (bar0 s fn.toNat false fun s =>
    match selPair s fn.toNat with
    | none => s
    | some p => useCtl s (ringWords p) fun s => modRing s p (fun r =>
        let r := { r with prio := prio }
        if r.enabled then r else if enableOk r then enableRing r else { r with cfgErr := true }))

/-- A pair stops fetching and drains (R77). -/
def drainRing (r : Ring) : Ring := if r.enabled then { r with enabled := false, draining := true } else r

/-- RING_DISABLE (R77). -/
def execRingDisable (fn : FnId) (prio : BitVec 2) (s : State) : Out State :=
  .next (bar0 s fn.toNat false fun s =>
    match selPair s fn.toNat with
    | none => s
    | some p => useCtl s (ringWords p) fun s => modRing s p (fun r => drainRing { r with prio := prio }))

/-- The host jobs of pair `p` that no unit has taken yet. -/
def queuedOf (s : State) (p : Nat) : List (Nat × DescRef) :=
  s.jobs.filterMap (fun e => match e.2 with
    | some j => (match j.origin with
      | .host q => if q.pair.toNat = p ∧ jobQueued s e.1 = true then some (e.1, q) else none
      | _ => none)
    | none => none)

/-- Every fetched descriptor that has not started, and every job that still waits in its queue, ends with
ABORTED_BY_RESET; the pair fetches no more, and is disabled once it has drained (R77). -/
def abortRing (s : State) (p : Nat) : State :=
  let s := (queuedOf s p).foldl (fun t e => finish (removeJob t e.1) e.2 (plain stAborted)) s
  modRing s p (fun r => { r with
    draining := true, abort := true
    inflight := r.inflight.map (fun d => if d.started || d.done.isSome then d else { d with started := true, done := some (refusal s d.bytes stAborted) }) })

/-- RING_ABORT (R77); ABORT disables the pair whatever ENABLE the same write holds. -/
def execRingAbort (fn : FnId) (prio : BitVec 2) (_en : Bool) (s : State) : Out State :=
  .next (bar0 s fn.toNat false fun s =>
    match selPair s fn.toNat with
    | none => s
    | some p => useCtl s (ringWords p) fun s => abortRing (modRing s p (fun r => { r with prio := prio })) p)

/-- RING_DRAINED (R77): no work of the pair remains. -/
def execRingDrained (p : PairId) (s : State) : Out State :=
  .next (hostLive s fun s =>
    let r := getRing s p.toNat
    if r.draining && r.inflight.isEmpty then
      useCtl s (ringWords p.toNat) fun s => modRing s p.toNat (fun r => { r with enabled := r.enabled && !r.abort, draining := false, abort := false, rgen := r.rgen + 1 })
    else s)

/-! ## Clears (R63, R64, R110) -/

/-- HIF_FN_CLEAR (R110). -/
def execFnClear (fn : FnId) (s : State) : Out State :=
  .next (bar0 s fn.toNat false fun s =>
    modFn s fn.toNat (fun f => { f with dbErr := 0, descErr := 0, stale := 0, prot := 0, irqLost := 0 }))

/-- HIF_CSC_CLEAR.CLR (R64). -/
def execCscClear (s : State) : Out State :=
  .next (bar0 s 0 false fun s =>
    clearCtrs s [0x08010, 0x08018, 0x08020, 0x08028, 0x08030, 0x08038, 0x08040, 0x08048, 0x0804C, 0x08050])

/-- HIF_CSC_CLEAR.CLR_STREAMS (R63): every open stream clears its counters at its next step boundary. -/
def execClrStreams (s : State) : Out State :=
  .next (bar0 s 0 false fun s =>
    { s with streams := smMap {} s.streams (fun _ x =>
        if x.ctx.state = 1 ∨ x.ctx.state = 2 then { x with clrPending := true } else x) })

end Sys2Proof.Machine
end

