-- ==== Sys2Proof/Machine/PassageOps.lean ====
section
/-! DEFINITION. PassageOps.lean: how a message leaves on a Passage port (R369 to R377). -/

namespace Sys2Proof.Machine

/-! ## Routes and lost chips (R376, R390) -/

/-- Where the route table stands in `State.regs`. -/
def routeKey (chip : Nat) : Nat := 0x1000000 + chip
def routeWord (s : State) (chip : Nat) : Nat := reg s (routeKey chip)
/-- HOPS of a route; 15 acts as 0 (R397). -/
def routeHops (w : Nat) : Nat := if w % 16 = 15 then 0 else w % 16
/-- The chip is lost, or has no route and so counts as lost (R377). -/
def chipLost (s : State) (chip : Nat) : Bool := smGet false s.lostChips chip || routeHops (routeWord s chip) == 0

/-- Bits of PSG_EVENT become 1; the PF's error vector goes with them (R392). -/
def psgEvent (s : State) (bits : Nat) : State := errVec (setReg s 0x60008 (reg s 0x60008 ||| bits)) 0

/-- A chip is lost (R390): its flag, its event and its record; what depends on it is told by `settleLoss`. `row`: the
condition of R389, 0 for a LOSS message or a want of a route. -/
def markLost (s : State) (chip row port : Nat) : State :=
  if smGet false s.lostChips chip then s
  else
    let s := { s with lostChips := smSet false s.lostChips chip true, lossDue := s.lossDue ++ [BitVec.ofNat 12 chip]
                      evHold := smSet [] s.evHold chip [] }
    let s := logRec s 0x14 2 { status := stPeerLost, utype := if row = 0 then 0 else 9, unit := if row = 0 then 0 else port + 28
                               aux := chip, detail := row }
    psgEvent s 0x100

/-- A sender that finds no route to a chip treats it as lost (R377). -/
def needRoute (s : State) (chip : Nat) : State := if routeHops (routeWord s chip) = 0 then markLost s chip 0 0 else s

/-- The path to a chip is up, as far as the device sees it: its route starts on a port that is UP (R392). -/
def pathUp (s : State) (chip : Nat) : Bool :=
  let w := routeWord s chip
  routeHops w != 0 && (getPort s (w / 16 % 4)).up

/-! ## Messages (R373) -/

/-- The message header of R373. -/
def msgHeader (m : PMsg) : Bytes :=
  natLE 4 (m.dest.toNat + m.src.toNat * 2 ^ 12 + m.hops.toNat * 2 ^ 24 + m.mtype.toNat * 2 ^ 28) ++ natLE 4 m.route.toNat ++
  natLE 4 (m.hopcount.toNat + m.body.length * 2 ^ 12) ++ natLE 4 m.tagw.toNat

def msgPayload (m : PMsg) : Bytes := bytesAt (msgHeader m ++ m.body) 0 248

/-- A data flit leaves the port. -/
def emitData (s : State) (i : Nat) (seq : BitVec 12) (cls : BitVec 2) (pay : Bytes) : State :=
  let s := sendFlit s i (flitHeader (getPort s i) seq cls false) pay
  modPort s i (fun p => { p with txFlits := satAdd 64 p.txFlits 1 })

/-- Receive buffers of a port, and so the credits of its peer, classes 0 to 3 (R372). -/
def rxBuffers : List Nat := [64, 32, 16, 8]

/-- The message stands in a receive buffer of port `i`, class `c`. -/
def holdsBuffer (i c : Nat) (m : PMsg) : Bool :=
  (match m.via with | some v => v.toNat == i | none => false) && m.cls.toNat == c

/-- Receive buffers of port `i`, class `c`, that hold a message: one that has not reached its unit, or that waits for a
port on its way to another chip. -/
def rxUsed (s : State) (i c : Nat) : Nat :=
  (s.delivered.filter (holdsBuffer i c)).length +
    ((List.range 4).map (fun o => ((getPort s o).queue.filter (holdsBuffer i c)).length)).sum

/-- A message leaves the receive buffer that holds it, whose credit is owed from now on (R372). -/
def leaveBuffer (s : State) (m : PMsg) : State :=
  match m.via with
  | some i => modPort s i.toNat (fun p => { p with owed := setNth p.owed m.cls.toNat (· + 1) })
  | none => s

/-- The credits of port `i` start anew: nothing is owed for what its buffers still hold. -/
def forgetBuffers (s : State) (i : Nat) : State :=
  let g (m : PMsg) : PMsg := if m.via = some (BitVec.ofNat 2 i) then { m with via := none } else m
  (List.range 4).foldl (fun t o => modPort t o (fun p => { p with queue := p.queue.map g })) { s with delivered := s.delivered.map g }

/-- The classes in the order of R372. -/
def classOrder : List Nat := [2, 3, 1, 0]

/-- The class of the next data flit: strict priority, a waiting bulk flit having one slot in 8 (R372). -/
def pickClass (p : Port) : Option Nat :=
  let ready := classOrder.filter (fun c => p.queue.any (fun m => m.cls.toNat == c) && decide (0 < p.credits[c]?.getD 0))
  if ready.contains 0 && decide (7 ≤ p.bulkWait) then some 0 else ready.head?

/-- The port sends what its credits and its retry buffer of 512 flits let it send (R371, R372). -/
def pump (s : State) (i : Nat) : Nat → State
  | 0 => s
  | n + 1 =>
    let p := getPort s i
    if !p.up || p.retrain || decide (512 ≤ p.retry.length) then s else
    match pickClass p with
    | none => s
    | some c =>
      match p.queue.find? (fun m => m.cls.toNat == c) with
      | none => s
      | some m =>
        let pay := msgPayload m
        let s := modPort s i (fun p => { p with
          queue := p.queue.eraseIdx (p.queue.findIdx (fun m => m.cls.toNat == c))
          credits := setNth p.credits c (· - 1)
          bulkWait := if c = 0 then 0 else if p.queue.any (fun m => m.cls == 0) then p.bulkWait + 1 else 0
          retry := p.retry ++ [(p.txSeq, m.cls, pay)]
          txSeq := p.txSeq + 1 })
        pump (leaveBuffer (emitData s i p.txSeq m.cls pay) m) i n

def pumpPort (s : State) (i : Nat) : State := pump s i ((getPort s i).queue.length)

/-- A message goes out on the next hop of its route (R376). -/
def forward (s : State) (m : PMsg) : State :=
  let i := m.route.toNat % 4
  if (getPort s i).up then
    let m' := { m with route := m.route >>> 2, hops := m.hops - 1, hopcount := m.hopcount + 1 }
    pumpPort (modPort s i (fun p => { p with queue := p.queue ++ [m'] })) i
  else c32 (leaveBuffer s m) 0x60068 1

/-- A message of this device to a chip; one for a lost chip is discarded (R390). -/
def psgSend (s : State) (cls mtype dest tagw : Nat) (body : Bytes) : State :=
  if chipLost s dest then c32 (needRoute s dest) 0x60068 1
  else
    let w := routeWord s dest
    forward s { cls := BitVec.ofNat 2 cls, mtype := BitVec.ofNat 4 mtype, dest := BitVec.ofNat 12 dest
                src := BitVec.ofNat 12 (chipId s), hops := BitVec.ofNat 4 (routeHops w), route := BitVec.ofNat 28 (w / 16)
                hopcount := 0, tagw := BitVec.ofNat 32 tagw, body := body }

/-! ## Remote events (R383) -/

/-- The body of an EVENTS message. -/
def eventsBody (es : List HeldEv) : Bytes :=
  let ev := bytesAt (es.flatMap (fun e => natLE 8 e.word.toNat)) 0 208
  let nib := (es.zipIdx).foldl (fun a (e, k) => a + e.egen.toNat * 2 ^ (4 * k)) 0
  ev ++ natLE 13 nib ++ List.replicate 11 0

/-- The events held for a chip leave as one batch. -/
def sendBatch (s : State) (chip : Nat) : State :=
  let es := smGet [] s.evHold chip
  if es.isEmpty then s
  else psgSend { s with evHold := smSet [] s.evHold chip [] } 1 0 chip es.length (eventsBody es)

/-- A remote event is held for its chip; the 26th sends the batch. -/
def holdEvent (s : State) (chip : Nat) (e : HeldEv) : State :=
  let es := smGet [] s.evHold chip ++ [e]
  let s := { s with evHold := smSet [] s.evHold chip es }
  if 26 ≤ es.length then sendBatch s chip else s

end Sys2Proof.Machine
end

