-- ==== Sys2Proof/Machine/PicotOps.lean ====
section
/-! DEFINITION. PicotOps.lean: the state memory of a Picot core (R114 to R116), the micro-ops (R118 to R123), synapses
and events (R124 to R136), instances (R137 to R139, R152), the converter (R150, R151) and the readout (R153, R154). -/

namespace Sys2Proof.Machine

/-! ## Tier 0 images -/

/-- SPAN and NPC of a Tier 0 image (R137). -/
def t0Span (img : Bytes) : Nat := match findSec img 3 with | some (_, o, _) => leAt img o 1 % 128 | none => 0
def t0Npc (img : Bytes) : Nat := match findSec img 3 with | some (_, o, _) => fld (leAt img o 4) 16 13 | none => 0
def hasConverter (img : Bytes) : Bool := (findSec img 2).isSome

/-! ## Ranges and instances (R137, R139) -/

def rangeBase (w : Nat) : Nat := fld w 0 9
def rangeCount (w : Nat) : Nat := fld w 9 10
def rangeOf0 (x : Slot) (b : Bool) : Nat := (if b then x.placeB else x.placeA).toNat
def perGroup (npc : Nat) : Nat := if npc = 0 then 0 else min (4096 / npc) 160
def t0Capacity (w span npc : Nat) : Nat := if span = 0 then 0 else (rangeCount w / span) * perGroup npc

/-- Where an instance lies: its image, its first core, its number within its group, its first neuron. -/
structure Place where
  img : Bytes
  core : Nat
  span : Nat
  j : Nat
  base : Nat

/-- Instance `idx` of the version of a slot in range A (B if `inB`), the range being the word `w`. -/
def placeOf (s : State) (slot : Nat) (inB : Bool) (w idx : Nat) : Place :=
  let x := getSlot s slot
  let img := match versionOf x inB with | some v => v.image | none => []
  let per := perGroup (t0Npc img)
  let g := if per = 0 then 0 else idx / per
  let j := if per = 0 then 0 else idx % per
  { img := img, core := rangeBase w + g * t0Span img, span := t0Span img, j := j, base := j * t0Npc img }

/-- A core of a range is out of service (R412). -/
def rangeOut (s : State) (w : Nat) : Bool := s.flt.outOf.any (fun e => e.1 / 4096 == 2 && decide (rangeBase w ≤ e.1 % 4096 ∧ e.1 % 4096 < rangeBase w + rangeCount w))

def instPlace (s : State) (i : Inst) : Place := placeOf s i.slot.toNat i.inB i.range.toNat i.idx
def remoteFed (s : State) (i : Inst) : Bool := !hasConverter (instPlace s i).img

/-! ## The state memory of a core (R114) -/

def coreRd (s : State) (c off n : Nat) : Nat := leNat (peek s (mkey (spPicot c) off) n)
def coreWr (s : State) (c off n v : Nat) : State := poke s (mkey (spPicot c) off) (natLE n v)
def neuronOff (n : Nat) : Nat := 4 * (n % 4096)
def accOff (n : Nat) : Nat := 0x4000 + 4 * (n % 4096)
def opOff (model k : Nat) : Nat := 0x8000 + model * 128 + 2 * k
def paramOff (set k : Nat) : Nat := 0x8400 + set * 64 + 4 * k
def dirOff (e : Nat) : Nat := 0x8800 + 16 * e
def popOff (p : Nat) : Nat := 0x9800 + 32 * p
def portOff (p : Nat) : Nat := 0x9F00 + 32 * p
def mcOff (i : Nat) : Nat := 0xA000 + 8 * i
def windowOff (w step : Nat) : Nat := 0xE000 + 256 * w + 8 * (step % 32)
def kernelOff : Nat := 0x18000
def denseOff : Nat := 0x28000

/-- An error in a word of a core's state memory is met (R410): one that is corrected is gone; a neuron or accumulator
word that cannot be corrected is taken as 0 and rewritten; a table word that cannot keeps its error, marked 3 once it has
been counted. -/
def mendWord (s : State) (c : Nat) (e : Nat × BitVec 2) : State :=
  if e.2 = 1 then c32 { s with flaws := smSet 0 s.flaws e.1 0 } 0x90040 1
  else if e.2 = 3 then s
  else
    let s := if keyOff e.1 < 0x8000 then poke { s with flaws := smSet 0 s.flaws e.1 0 } e.1 [0, 0, 0, 0]
      else { s with flaws := smSet 0 s.flaws e.1 3 }
    let (n, s) := winCount (c32 s 0x90048 1) (winKey 0x12 (physOf s 2 c)) (2 ^ 32)
    if 16 ≤ n then addVerdict s (.unit 2 c n 32) else s

/-- The errors in a core's state memory are met. -/
def mendPicot (s : State) (c : Nat) : State :=
  if s.flaws.isEmpty then s
  else (s.flaws.filter (fun e => keySpace e.1 == spPicot c)).foldl (fun t e => mendWord t c e) s

/-! ## The neuron program (R118 to R122) -/

/-- What a run reads and writes. -/
structure NRun where
  mem : Int := 0
  acc : Int := 0
  t : Int := 0
  u : Int := 0
  pair : Int := 0
  aux : Nat := 0
  c : Bool := false
  emitted : Bool := false
  /-- The emission of this run: graded or not, and its value. -/
  emit : Option (Bool × Int) := none
  sats : Nat := 0
  clips : Nat := 0
  doubles : Nat := 0
  uops : Nat := 0
  ended : Bool := false
  skip : Nat := 0

def memMax : Int := 8388607
def memMin : Int := -8388608
def sat24 (v : Int) : Int := clampI memMin memMax v

/-- The operand of code `code` as a source. -/
def srcVal (r : NRun) (par : Nat → Int) (code imm : Nat) : Int :=
  match code with
  | 0 => r.mem
  | 1 => r.acc
  | 2 => r.t
  | 3 => r.u
  | 4 => r.pair
  | 5 => r.aux
  | 6 => par (imm % 16)
  | _ => sext 6 imm

/-- The operand of code `code` as a destination; AUX saturates at 0 and 15. -/
def putDst (r : NRun) (code : Nat) (v : Int) : NRun :=
  match code with
  | 0 => { r with mem := v }
  | 1 => { r with acc := v }
  | 2 => { r with t := v }
  | 3 => { r with u := v }
  | 4 => { r with pair := v }
  | 5 => { r with aux := (clampI 0 15 v).toNat }
  | _ => r

/-- A saturating result; a clamp on MEM, T, U or PAIR is counted (R119). -/
def putSat (r : NRun) (code : Nat) (v : Int) : NRun :=
  let r' := putDst r code (sat24 v)
  if sat24 v ≠ v ∧ (code = 0 ∨ code = 2 ∨ code = 3 ∨ code = 4) then { r' with sats := r'.sats + 1 } else r'

/-- An emission of the neuron: the second of a step is suppressed (R121). -/
def emitRun (r : NRun) (graded : Bool) (v : Int) : NRun :=
  if r.emitted then { r with doubles := r.doubles + 1 } else { r with emitted := true, emit := some (graded, v) }

/-- FIRE (R120). -/
def fireRun (r : NRun) (par : Nat → Int) (mode : Nat) (clip : Bool) (theta : Int) : NRun :=
  if theta ≤ 0 ∨ r.mem < theta then { r with c := false }
  else
    let m := min (r.mem / theta) 15
    let r' := match mode with
      | 0 =>
        let v := r.mem - m * theta
        if clip ∧ par 14 < v then { r with mem := par 14, clips := r.clips + 1 } else { r with mem := v }
      | 1 => { r with mem := 0 }
      | _ => r
    { emitRun r' false m with c := true }

/-- One micro-op (R119). -/
def uop (r : NRun) (par : Nat → Int) (w : Nat) : NRun :=
  let d := fld w 9 3
  let sc := fld w 6 3
  let imm := fld w 0 6
  let dv := srcVal r par d imm
  let sv := srcVal r par sc imm
  match fld w 12 4 with
  | 0x0 => { r with ended := true }
  | 0x1 => putDst r d sv
  | 0x2 => putSat r d (dv + sv)
  | 0x3 => putSat r d (dv - sv)
  | 0x4 => if imm % 16 = 0 then r else putDst r d (dv - dv / 2 ^ (imm % 16))
  | 0x5 =>
    let n := sext 6 imm
    if 0 < n then putSat r d (dv * 2 ^ n.toNat) else if n < 0 then putSat r d (rneShift dv (-n).toNat) else r
  | 0x6 => { r with c := decide (sv ≤ dv) }
  | 0x7 => { r with c := decide (dv = sv) }
  | 0x8 => if d = 0 ∨ (d = 1 ∧ r.c) ∨ (d = 2 ∧ !r.c) then { r with skip := imm } else r
  | 0x9 => fireRun r par (d % 4) (bitOf d 2) sv
  | 0xA =>
    let q := clampI (-8) 7 (rneShift sv d)
    let r' := if q ≠ 0 then emitRun r true q else r
    { r' with u := q * 2 ^ d, c := decide (q ≠ 0) }
  | 0xB =>
    match d with
    | 0 => { r with aux := imm % 16 }
    | 1 => { r with aux := r.aux - 1, c := decide (r.aux - 1 ≠ 0) }
    | _ => { r with c := decide (r.aux ≠ 0) }
  | 0xC => putSat r d (rneShift (dv * sv) 12)
  | 0xD => let a : Int := if sv < 0 then -sv else sv; putDst r d (clampI (-a) a dv)
  | _ => r

/-- A program runs from micro-op `pc` until END, forward only (R122). -/
def runOps (ops : Nat → Nat) (par : Nat → Int) (r : NRun) (pc : Nat) : Nat → NRun
  | 0 => r
  | n + 1 =>
    if r.ended ∨ 64 ≤ pc then r
    else if r.skip ≠ 0 then runOps ops par { r with skip := r.skip - 1 } (pc + 1) n
    else runOps ops par { uop r par (ops pc) with uops := r.uops + 1 } (pc + 1) n

/-- Parameter word `k` of a neuron's set as a signed value (R123). -/
def paramVal (s : State) (c set k : Nat) : Int := sext 24 (coreRd s c (paramOff set k) 4)
def controlWord (s : State) (c set : Nat) : Nat := coreRd s c (paramOff set 15) 4

/-- A neuron's program runs from `entry` with T = `t0`; at a close ACC, TOUCHED and EMITTED are then cleared (R117).
The answer holds the emission. -/
def runNeuron (s : State) (c n entry : Nat) (t0 : Int) (close : Bool) : State × Option (Bool × Int) :=
  let w := coreRd s c (neuronOff n) 4
  let a := coreRd s c (accOff n) 4
  let pn := n ^^^ 1
  let pw := coreRd s c (neuronOff pn) 4
  let set := fld w 28 4
  let model := controlWord s c set % 8
  let r0 : NRun := { mem := sext 24 w, acc := sext 24 a, t := t0, pair := sext 24 pw, aux := fld w 24 4, emitted := bitOf a 30 }
  let r := runOps (fun k => coreRd s c (opOff model k) 2) (paramVal s c set) r0 entry 64
  let s := coreWr s c (neuronOff pn) 4 (twos 24 r.pair + fld pw 24 8 * 2 ^ 24)
  let s := coreWr s c (neuronOff n) 4 (twos 24 r.mem + r.aux * 2 ^ 24 + set * 2 ^ 28)
  let acc := if close then fld a 24 5 * 2 ^ 24
    else twos 24 r.acc + fld a 24 5 * 2 ^ 24 + b2n (bitOf a 29) * 2 ^ 29 + b2n r.emitted * 2 ^ 30
  let s := coreWr s c (accOff n) 4 acc
  let s := winPass s (winKey 2 (physOf s 2 c)) r.uops
  let s := c32 (c32 (c32 (c64 s 0x20050 r.uops) 0x20068 r.sats) 0x20064 r.clips) 0x2006C r.doubles
  (s, r.emit)

/-! ## Populations and emissions (R124, R132 to R136) -/

structure Pop where
  off : Nat
  pset : Nat
  count : Nat
  rank : Nat
  readout : Bool
  graded : Bool
  mcCount : Nat
  mcBase : Nat

def popAt (s : State) (c p : Nat) : Pop :=
  let o := popOff p
  let w := coreRd s c o 2
  let f := coreRd s c (o + 4) 1
  { off := fld w 0 12, pset := fld w 12 4, count := fld (coreRd s c (o + 2) 2) 0 13, rank := fld f 0 3, readout := bitOf f 3
    graded := bitOf f 4, mcCount := fld (coreRd s c (o + 5) 1) 0 7, mcBase := fld (coreRd s c (o + 6) 2) 0 11 }

/-- The population that holds the neuron at `rel` of the instance's block. -/
def popHolding (s : State) (c rel : Nat) : Option Pop :=
  (findBelow (fun p => let q := popAt s c p; decide (q.off ≤ rel ∧ rel < q.off + q.count)) 56).map (popAt s c)

/-- Words of the directory entry of an instance on a core of its span (R133). -/
def dirWord (s : State) (c j k : Nat) : Nat := coreRd s c (dirOff j + 4 * k) 4
def dirSgen (s : State) (c j : Nat) : Nat := fld (dirWord s c j 0) 14 4

/-- The event word (R129). -/
def eventWord (st core pos stamp : Nat) (v : Int) (graded : Bool) (port : Nat) : U64 :=
  BitVec.ofNat 64 (st * 2 ^ 50 + core * 2 ^ 41 + (pos % 4096) * 2 ^ 29 + stamp * 2 ^ 9 + twos 4 v * 2 ^ 5 + b2n graded * 2 ^ 3 + port)

/-- Which events of an emission go out: those at once, or those that were deferred (R135). -/
inductive Issue where
  | now
  | later
  deriving DecidableEq, Repr

/-- Whether an entry's destination takes its event in the same step: a higher rank, an unused port, or a remote. -/
def sameStep (s : State) (pl : Place) (mc rank : Nat) : Bool :=
  bitOf mc 0 ||
    (let dc := pl.core + fld mc 1 9
     let po := portOff (fld mc 10 3)
     let ty := coreRd s dc po 1 % 4
     ty == 0 || decide (rank < (popAt s dc (coreRd s dc (po + 1) 1 % 64)).rank))

/-- One multicast entry of an emission (R134 to R136): the state, and the local event that it yields. A remote event is
held for its chip; once the right of R385 has been missing in the step, or the chip lost (R149), it is only counted for
the step. -/
def mcEvent (s : State) (st : Nat) (i : Inst) (pl : Place) (c idx : Nat) (graded : Bool) (v : Int) (mc stamp : Nat) : State × List Ev :=
  let pos := idx + fld mc 13 12
  if bitOf mc 0 then
    let b := dirWord s c pl.j 2
    let chip := fld b 0 12
    if bitOf b 30 then
      let s := noteCtl s (protWord 5 (getStream s st).ctx.owner.toNat)
      let right := passageRight s (getStream s st).ctx.owner.toNat 1 chip
      let s := modInst s st (fun i => { i with remoteOut := i.remoteOut + 1, cutRight := i.cutRight || !right
                                               cutLost := i.cutLost || chipLost s chip })
      let cut := match getInst s st with | some i => i.cutRight || i.cutLost | none => true
      if cut then (s, [])
      else
        (holdEvent s chip { word := eventWord (fld b 12 14) (fld mc 1 9) pos i.openStep.toNat v graded (fld mc 10 3)
                            egen := BitVec.ofNat 4 (fld b 26 4), st := BitVec.ofNat 14 st }, [])
    else (c32 s 0x2005C 1, [])
  else
    let e : Ev := { word := eventWord st (pl.core + fld mc 1 9) pos stamp v graded (fld mc 10 3), egen := BitVec.ofNat 4 (dirSgen s c pl.j) }
    (s, [e])

/-- The events of an emission of neuron `idx` of population `q` on core `c`. `which`: those issued at once, or the
deferred ones. -/
def emission (s : State) (st c : Nat) (q : Pop) (idx : Nat) (graded : Bool) (v : Int) (which : Issue) (stamp : Nat) : State × List Ev :=
  match getInst s st with
  | none => (s, [])
  | some i =>
    let pl := instPlace s i
    (List.range q.mcCount).foldl (fun (t, es) k =>
      let mc := coreRd t c (mcOff (q.mcBase + k)) 8
      if sameStep t pl mc q.rank == (which == .now) then
        let (t, e) := mcEvent t st i pl c idx graded v mc stamp
        (t, es ++ e)
      else (t, es)) (s, [])

/-- Whether some entry of a population defers its events. -/
def defers (s : State) (pl : Place) (c : Nat) (q : Pop) : Bool :=
  (List.range q.mcCount).any (fun k => !sameStep s pl (coreRd s c (mcOff (q.mcBase + k)) 8) q.rank)

/-- A neuron's emission: its immediate events, its deferral in DVAL, and its count in the readout window. -/
def emitNeuron (s : State) (st c n : Nat) (graded : Bool) (v : Int) : State × List Ev :=
  match getInst s st with
  | none => (s, [])
  | some i =>
    let pl := instPlace s i
    match popHolding s c (n - pl.base) with
    | none => (s, [])
    | some q =>
      let idx := n - pl.base - q.off
      let s := if defers s pl c q then
          let a := coreRd s c (accOff n) 4
          coreWr s c (accOff n) 4 (a - fld a 24 5 * 2 ^ 24 + twos 4 v * 2 ^ 24 + b2n graded * 2 ^ 28)
        else s
      let s := if q.readout ∧ !graded then
          let o := windowOff pl.j i.openStep.toNat + idx / 2
          let b := coreRd s c o 1
          coreWr s c o 1 (if idx % 2 = 0 then fld b 4 4 * 16 + v.toNat else v.toNat * 16 + fld b 0 4)
        else s
      emission s st c q idx graded v .now i.openStep.toNat

/-! ## Delivery (R126, R131) -/

/-- One synaptic operation (R126). -/
def addContribution (s : State) (st c n : Nat) (x : Int) : State × List Ev :=
  let s := winPass (c64 s 0x20048 1) (winKey 0x12 (physOf s 2 c)) 1
  let w := coreRd s c (neuronOff n) 4
  let entry := fld (controlWord s c (fld w 28 4)) 4 6
  let touch (s : State) : State :=
    let a := coreRd s c (accOff n) 4
    coreWr s c (accOff n) 4 (if bitOf a 29 then a else a + 2 ^ 29)
  if entry ≠ 0 then
    let (s, e) := runNeuron s c n entry x false
    match e with
    | some (g, v) => let (s, es) := emitNeuron s st c n g v; (touch s, es)
    | none => (touch s, [])
  else
    let a := coreRd s c (accOff n) 4
    let v := sext 24 a + x
    let s := if sat24 v ≠ v then c32 s 0x20060 1 else s
    (touch (coreWr s c (accOff n) 4 (twos 24 (sat24 v) + fld a 24 8 * 2 ^ 24)), [])

/-- The targets of an event at a port, as neurons of the population with their contributions; `none`: the position
is outside the input (R126). -/
def portTargets (s : State) (c port pos : Nat) (v : Int) : Option (List (Nat × Int)) :=
  let o := portOff port
  let ksh := coreRd s c (o + 14) 1 % 8
  let tab := 8 * coreRd s c (o + 2) 2
  let contribution (w : Nat) (n : Nat) : List (Nat × Int) :=
    if w = 0 then [] else [(n, sext 8 w * v * 2 ^ ksh)]
  if coreRd s c o 1 % 4 = 1 then
    let iw := coreRd s c (o + 4) 1
    let ih := coreRd s c (o + 5) 1
    let ic := coreRd s c (o + 6) 1 % 32
    let ow := coreRd s c (o + 8) 1
    let oh := coreRd s c (o + 9) 1
    let oc := coreRd s c (o + 10) 1 % 128
    let k := coreRd s c (o + 11) 1
    let p := coreRd s c (o + 12) 1
    let kw := fld k 0 3
    let kh := fld k 3 3
    let px := fld p 0 3
    let py := fld p 3 3
    let stride := max 1 (coreRd s c (o + 13) 1 % 4)
    if iw = 0 ∨ ic = 0 then none else
    let ch := pos % ic
    let x := (pos / ic) % iw
    let y := pos / (ic * iw)
    if ih ≤ y then none else
    some ((List.range kh).flatMap (fun ky => (List.range kw).flatMap (fun kx =>
      if x + px < kx ∨ y + py < ky then [] else
      let tx := x + px - kx
      let ty := y + py - ky
      if tx % stride ≠ 0 ∨ ty % stride ≠ 0 then [] else
      let ox := tx / stride
      let oy := ty / stride
      if ow ≤ ox ∨ oh ≤ oy then [] else
      (List.range oc).flatMap (fun q =>
        contribution (coreRd s c (kernelOff + tab + (((q * kh + ky) * kw + kx) * ic + ch)) 1) ((oy * ow + ox) * oc + q)))))
  else
    let rows := coreRd s c (o + 4) 2 % 8192
    let cols := coreRd s c (o + 6) 2 % 8192
    if rows ≤ pos then none else
    some ((List.range cols).flatMap (fun q => contribution (coreRd s c (denseOff + tab + pos * cols + q) 1) q))

/-- The core of an event's stream: its directory number, where the core holds a valid entry for it (R131). -/
def eventHome (s : State) (w : Nat) : Option (Inst × Place) :=
  let st := fld w 50 14
  let c := fld w 41 9
  match getInst s st with
  | none => none
  | some i =>
    let pl := instPlace s i
    if pl.core ≤ c ∧ c < pl.core + pl.span then some (i, pl) else none

/-- An event is accepted at its core: dropped under R131, or its contributions are added. -/
def deliver (s : State) (e : Ev) : State × List Ev :=
  let s := c64 s 0x20040 1
  let w := e.word.toNat
  let st := fld w 50 14
  let c := fld w 41 9
  let stale (s : State) : State × List Ev := (fltStale (c32 s 0x20058 1) 1, [])
  match eventHome s w with
  | none => stale s
  | some (i, pl) =>
    if e.egen.toNat ≠ dirSgen s c pl.j then stale s
    else if e.src.isNone = true ∧ fld w 9 20 ≠ i.openStep.toNat then stale s
    else
      let bad (s : State) : State × List Ev := (c32 s 0x2005C 1, [])
      let kind := fld w 3 2
      let m := fld w 5 4
      let port := fld w 0 3
      if 2 ≤ kind ∨ m = 0 ∨ coreRd s c (portOff port) 1 % 4 = 0 then bad s
      else
        let v : Int := if kind = 0 then m else sext 4 m
        match portTargets s c port (fld w 29 12) v with
        | none => bad s
        | some ts =>
          let q := popAt s c (coreRd s c (portOff port + 1) 1 % 64)
          if ts.any (fun t => decide (q.count ≤ t.1)) then bad s
          else ts.foldl (fun (t, es) x =>
            let (t, e) := addContribution t st c (pl.base + q.off + x.1) x.2
            (t, es ++ e)) (mendPicot s c, [])

/-- Events delivered inside a closure, with those that their contributions yield: ranks rise, so eight rounds end it. -/
def deliverAll (s : State) : Nat → List Ev → State
  | 0, es => { s with events := s.events ++ es }
  | n + 1, es =>
    if es.isEmpty then s else
    let (s, next) := es.foldl (fun (t, acc) e => let (t, x) := deliver t e; (t, acc ++ x)) (s, [])
    deliverAll s n next

/-! ## The evaluation of a rank (R144, R145) -/

/-- A neuron of the rank, if it is to be evaluated. -/
def evalNeuron (s : State) (st c n : Nat) : State × List Ev :=
  let w := coreRd s c (neuronOff n) 4
  let a := coreRd s c (accOff n) 4
  let always := bitOf (controlWord s c (fld w 28 4)) 3
  if bitOf a 29 || fld w 0 24 != 0 || fld w 24 4 != 0 || always then
    let (s, e) := runNeuron s c n 0 0 true
    match e with
    | some (g, v) => emitNeuron s st c n g v
    | none => (s, [])
  else (s, [])

/-- The neurons of rank `k` of one core that are even, or odd if `par` is 1. -/
def evalParity (s : State) (st : Nat) (pl : Place) (c k par : Nat) (es : List Ev) : State × List Ev :=
  (List.range 56).foldl (fun (s, es) p =>
    let q := popAt s c p
    if q.count = 0 ∨ q.rank ≠ k then (s, es)
    else (List.range q.count).foldl (fun (s, es) j =>
      let n := pl.base + q.off + j
      if n % 2 ≠ par then (s, es)
      else
        let (s, x) := evalNeuron s st c n
        (s, es ++ x)) (s, es)) (s, es)

/-- All neurons of rank `k` of an instance, core by core, the even ones before the odd ones (R122). -/
def evalRank (s : State) (st : Nat) (pl : Place) (k : Nat) : State × List Ev :=
  (List.range pl.span).foldl (fun (s, es) o =>
    let (s, es) := evalParity s st pl (pl.core + o) k 0 es
    evalParity s st pl (pl.core + o) k 1 es) (s, [])

/-- Ranks `k` to 7, each rank's events being accepted before the next. -/
def evalRanks (s : State) (st : Nat) (pl : Place) (k : Nat) : Nat → State
  | 0 => s
  | n + 1 =>
    let (s, es) := evalRank s st pl k
    evalRanks (deliverAll s 8 es) st pl (k + 1) n

/-! ## Deferred emissions (R135) -/

/-- The deferred events of an instance are issued with its open step's stamp; DVAL and DGRADED are then cleared. -/
def issueDeferred (s : State) (st : Nat) : State :=
  match getInst s st with
  | none => s
  | some i =>
    let pl := instPlace s i
    let (s, es) := (List.range pl.span).foldl (fun (s, es) o =>
      let c := pl.core + o
      (List.range 56).foldl (fun (s, es) p =>
        let q := popAt s c p
        (List.range q.count).foldl (fun (s, es) j =>
          let n := pl.base + q.off + j
          let a := coreRd s c (accOff n) 4
          if fld a 24 4 = 0 then (s, es)
          else
            let g := bitOf a 28
            let v : Int := if g then sext 4 (fld a 24 4) else fld a 24 4
            let s := coreWr s c (accOff n) 4 (a - fld a 24 5 * 2 ^ 24)
            let (s, x) := emission s st c q j g v .later i.openStep.toNat
            (s, es ++ x)) (s, es)) (s, es)) (s, ([] : List Ev))
    { modInst s st (fun i => { i with deferred := false }) with events := s.events ++ es }

/-! ## The readout (R153, R154) -/

/-- The count of class `c` in the window slot of a step. -/
def windowCount (s : State) (home w step c : Nat) : Nat :=
  let b := coreRd s home (windowOff w step + c / 2) 1
  if c % 2 = 0 then fld b 0 4 else fld b 4 4

/-- The lowest index with the greatest sum, among classes other than `skip`. -/
def topClass (sums : List Nat) (skip : Nat) : Option Nat :=
  (List.range sums.length).foldl (fun t c =>
    if c = skip then t else match t with
      | none => some c
      | some b => if sums[b]?.getD 0 < sums[c]?.getD 0 then some c else some b) none

/-- Confidence and class of a closing step. -/
def readout (s : State) (pl : Place) (step : Nat) : U8 × U16 :=
  match findSec pl.img 0x0B with
  | none => (0, 0)
  | some (_, o, _) =>
    let w := leAt pl.img o 8
    let ncls := fld w 0 5
    let win := fld w 5 6
    let bg := fld w 12 5
    let sums := (List.range ncls).map (fun c => (List.range win).foldl (fun a k => a + windowCount s pl.core pl.j (step + 2 ^ 20 - k) c) 0)
    match topClass sums bg with
    | none => (0, 0)
    | some top =>
      let v : Int := sums[top]?.getD 0
      let v := if bitOf w 11 then (match topClass sums top with | some c => v - sums[c]?.getD 0 | none => v) else v
      (BitVec.ofInt 8 (clampI 0 255 (rneShift (v * fld w 17 8) (fld w 25 4))), BitVec.ofNat 16 (fld w 32 16 + top))

/-! ## Placing and freeing instances (R133, R139, R152) -/

/-- The Gallery record of a stream (R349). -/
def recordOff (st : Nat) : Nat := galStream + 3840 * st
def stagingOff (st : Nat) : Nat := recordOff st
def feStateOff (st : Nat) : Nat := recordOff st + 0x400
def convStateOff (st : Nat) : Nat := recordOff st + 0x600

/-- Bytes `[off, off + n)` of Gallery become 0, as a write of the device. -/
def galZero (s : State) (off n : Nat) : State := cntWr (zeroRange s (mkey spGal off) n) spGal n

/-- The directory entry of an instance is written on every core of its span. -/
def writeDir (s : State) (st : Nat) (gen : Gen) (pl : Place) (fed : Bool) (bridge : Nat) : State :=
  (List.range pl.span).foldl (fun s o =>
    let w0 := st + gen.toNat * 2 ^ 14 + 2 ^ 18 + b2n (o == 0) * 2 ^ 19 + pl.base * 2 ^ 20
    let w1 := pl.j + b2n fed * 2 ^ 8
    poke s (mkey (spPicot (pl.core + o)) (dirOff pl.j)) (natLE 4 w0 ++ natLE 4 w1 ++ natLE 4 bridge ++ natLE 4 0)) s

/-- SGEN of every directory entry of the instance (R53). -/
def writeSgen (s : State) (st : Nat) (gen : Gen) : State :=
  match getInst s st with
  | none => s
  | some i =>
    let pl := instPlace s i
    writeDir s st gen pl (remoteFed s i) (dirWord s pl.core pl.j 2)

/-- The bridge word of every directory entry of the instance (R160). -/
def writeBridge (s : State) (st : Nat) (w : Nat) : State :=
  match getInst s st with
  | none => s
  | some i =>
    let pl := instPlace s i
    writeDir s st (BitVec.ofNat 4 (dirSgen s pl.core pl.j)) pl (remoteFed s i) w

/-- The lowest instance of a range that no stream holds. -/
def freeIdx (s : State) (slot : Nat) (inB : Bool) (cap : Nat) : Option Nat :=
  let used := s.insts.filterMap (fun e => match e.2 with
    | some i => if i.slot.toNat = slot ∧ i.inB = inB then some i.idx else none
    | none => none)
  findBelow (fun k => !used.contains k) cap

/-- A block is set to its state at placement: MEM 0, AUX 0, PSET of its population, accumulators and window 0. -/
def clearBlock (s : State) (pl : Place) : State :=
  let npc := t0Npc pl.img
  let s := (List.range pl.span).foldl (fun s o =>
    let c := pl.core + o
    let s := zeroRange s (mkey (spPicot c) (neuronOff pl.base)) (4 * npc)
    let s := zeroRange s (mkey (spPicot c) (accOff pl.base)) (4 * npc)
    (List.range 56).foldl (fun s p =>
      let q := popAt s c p
      if q.pset = 0 then s
      else (List.range q.count).foldl (fun s j => coreWr s c (neuronOff (pl.base + q.off + j)) 4 (q.pset * 2 ^ 28)) s) s) s
  zeroRange s (mkey (spPicot pl.core) (windowOff pl.j 0)) 256

/-- A core of the place is being replaced: its instances hold their closures until the move ends (R413). -/
def coreMoves (s : State) (pl : Place) : Bool :=
  match s.flt.repair with
  | some r => r.utype == 2 && !r.restore && decide (pl.core ≤ r.unit.toNat ∧ r.unit.toNat < pl.core + pl.span)
  | none => false

/-- Stream `st` gets instance `idx` of a range of the slot, its Tier 0 state starting from zero (R139, R142). -/
def placeInst (s : State) (st slot : Nat) (inB : Bool) (idx : Nat) (gen : Gen) (openStep : Stamp) : State :=
  let w := rangeOf0 (getSlot s slot) inB
  let pl := placeOf s slot inB w idx
  let s := setInst s st (some { slot := BitVec.ofNat 8 slot, inB := inB, idx := idx, range := BitVec.ofNat 32 w, openStep := openStep
                                heldMove := coreMoves s pl })
  let s := writeDir (clearBlock s pl) st gen pl (!hasConverter pl.img) 0
  galZero s (recordOff st) 0xE00

/-- The instance of a stream is freed (R139); its converter state is zero after a close (R152). -/
def freeInst (s : State) (st : Nat) : State :=
  match getInst s st with
  | none => s
  | some i =>
    let pl := instPlace s i
    let s := (List.range pl.span).foldl (fun s o => zeroRange s (mkey (spPicot (pl.core + o)) (dirOff pl.j)) 16) s
    galZero (setInst s st none) (convStateOff st) 2048

end Sys2Proof.Machine
end

