-- ==== Sys2Proof/Machine/Closure.lean ====
section
/-! DEFINITION. Closure.lean: step closure (R143 to R149), from the rank loop to the decision, and what happens at a
stream's step boundary (R63, R106, R141, R142, R160). -/

namespace Sys2Proof.Machine

/-! ## The step boundary -/

/-- The stream moves to the active version of its slot, starting from zero (R141, R142). -/
def moveInst (s : State) (st : Nat) : State :=
  match getInst s st with
  | none => s
  | some i =>
    let x := getSlot s i.slot.toNat
    let pl := instPlace s i
    let img := match versionOf x x.activeB with | some v => v.image | none => []
    let cap := t0Capacity (rangeOf0 x x.activeB) (t0Span img) (t0Npc img)
    match freeIdx s i.slot.toNat x.activeB cap with
    | none => s
    | some idx =>
      let bridge := dirWord s pl.core pl.j 2
      let s := (List.range pl.span).foldl (fun s o => zeroRange s (mkey (spPicot (pl.core + o)) (dirOff pl.j)) 16) s
      let s := placeInst s st i.slot.toNat x.activeB idx (getStream s st).ctx.gen i.openStep
      modInst (writeBridge s st bridge) st (fun n => { n with
        nextEnd := i.nextEnd, srcChip := i.srcChip, bridgePend := i.bridgePend, lost := i.lost
        remoteOut := i.remoteOut, remoteIn := i.remoteIn, remoteEnd := i.remoteEnd, cutLost := i.cutLost, cutRight := i.cutRight })

/-- The stream has an instance on the version that its slot is leaving. -/
def toMove (s : State) (st : Nat) : Bool :=
  match getInst s st with
  | none => false
  | some i => (getSlot s i.slot.toNat).moving && i.inB != (getSlot s i.slot.toNat).activeB

/-- A SUSPENDED or FAULTED stream whose slot is being replaced moves at once (R141), unless a closure of it is under
way: it then moves at the boundary that this closure makes. -/
def moveIfIdle (s : State) (st : Nat) : State :=
  let x := getStream s st
  let free := match getInst s st with | some i => i.waitAck.isNone | none => false
  if (x.ctx.state = 3 ∨ x.ctx.state = 4) ∧ x.waiting.isNone = true ∧ free = true ∧ toMove s st = true then moveInst s st else s

/-- A stream is taken to SUSPENDED (R58, R106). A close that was under way ends with PROTECTION: a right was revoked
while it was in flight (R99). -/
def suspendStream (s : State) (st : Nat) : State :=
  let x := getStream s st
  let s := dropIngests (modStream s st (fun x => { x with closeDesc := none, drain := false, ctx := { x.ctx with state := 3 } })) st
  let s := match x.closeDesc with | some q => endStreamOp s q st stProtection | none => s
  moveIfIdle s st

/-! ## What befalls a stream from without (R46, R58, R61, R97, R106, R412) -/

/-- A stream enters FAULTED as under R61, with a notification of UNCORRECTABLE; one that is FAULTED stays as it is. -/
def faultNow (s : State) (st : Nat) : State :=
  let x := getStream s st
  if x.ctx.state = 4 then s
  else
    let s := abandon s st
    let s := if x.ctx.state = 2 then s else dropIngests (modCtx s st (fun c => { c with state := 4 })) st
    putStatusOrWait s st (mkStatus (getStream s st) stUncorr 0)

/-- A close takes effect (R55): `drain` as the flag, and the descriptor whose completion R56 posts, if any. -/
def closeStream (s : State) (st : Nat) (drain : Bool) (desc : Option DescRef) : State :=
  let x := getStream s st
  let s := modStream s st (fun x => { x with closeDesc := desc, drain := drain, ctx := { x.ctx with state := 2 } })
  let s := dropIngests s st
  if drain then (if x.ctx.ep = 3 ∧ x.ctx.state = 1 then s else abandon s st)
  else
    modStream (abandon s st) st (fun x =>
      { x with hold := [], slotRec := none, slotWait := [], ctx := { x.ctx with gen := x.ctx.gen + 1 } })

/-- Records of the stream that were still to be posted. -/
def heldRecords (x : Stream) : Nat := x.hold.length + b2n x.slotRec.isSome + x.slotWait.length

/-- The stream is closed as by a close with DRAIN 0; a close that was asked for before still completes (R58). -/
def closeNoDrain (s : State) (st : Nat) (desc : Option DescRef) : State :=
  let x := getStream s st
  if x.ctx.state = 0 then s
  else if x.ctx.state = 2 ∧ !x.drain then modStream s st (fun x => { x with closeDesc := desc })
  else closeStream s st false desc

/-- The act takes place. -/
def runAct (s : State) (st : Nat) (a : StreamAct) : State :=
  let x := getStream s st
  moveIfIdle (match a with
    | .suspend => if x.ctx.state = 1 ∨ x.ctx.state = 2 then suspendStream (abandon s st) st else s
    | .fault => faultNow s st
    | .check k b => if x.ctx.state = 1 ∨ x.ctx.state = 3 then checkFail s st k b else s
    | .close d => closeNoDrain (c32 s 0x9005C (heldRecords x)) st d) st

/-- The act posts a report for which the report hold has no room (R97). -/
def actWaits (s : State) (st : Nat) : Bool :=
  let x := getStream s st
  owesReport s x && !reportRoom x

/-- An act takes the place of one that waits if it ranks above it. -/
def actRank : StreamAct → Nat
  | .suspend => 1
  | .fault | .check _ _ => 2
  | .close _ => 3

/-- An act on a stream: at once, or, with none of its effects, once its report hold has room; the wait is counted once
(R46, R97). -/
def startAct (s : State) (st : Nat) (a : StreamAct) : State :=
  let x := getStream s st
  if actRank a ≤ (match x.act with | some b => actRank b | none => 0) then s
  else if actWaits s st then modStream (if x.act.isSome then s else c32 s 0x0804C 1) st (fun x => { x with act := some a })
  else runAct (modStream s st (fun x => { x with act := none })) st a

/-- What waits is tried again. -/
def retryAct (s : State) (st : Nat) : State :=
  match (getStream s st).act with
  | none => s
  | some a => if actWaits s st then s else runAct (modStream s st (fun x => { x with act := none })) st a

/-- A descriptor that the stream's samples come from fails with a status: the descriptors accepted behind it are dropped,
and NEXT_SAMPLE names the first sample not read. -/
def breakIngests (s : State) (st status : Nat) : State :=
  let x := getStream s st
  match x.ingests with
  | [] => s
  | g :: r =>
    let s := finish s g.ref { status := BitVec.ofNat 8 status, res0 := BitVec.ofNat 32 g.taken, res1 := BitVec.ofNat 64 (firstUnread x) }
    dropIngests (modStream s st (fun x => { x with ingests := r })) st

/-- The deferred emissions of the closed step go out, unless a reset keeps them for the resume (R448). -/
def releaseDeferred (s : State) (st : Nat) : State :=
  match getInst s st with
  | some i => if i.deferred then s else issueDeferred s st
  | none => s

/-- The instance has a bridge chip, which is lost. -/
def bridgeCut (s : State) (i : Inst) : Bool :=
  let pl := instPlace s i
  let b := dirWord s pl.core pl.j 2
  bitOf b 30 && chipLost s (fld b 0 12)

/-- What waits for the stream's step boundary takes place: the bridge binding, the clear of its counters, a revoked
USE right, the move to a new version; the deferred emissions are issued last (R144). -/
def stepBoundary (s : State) (st : Nat) : State :=
  let x := getStream s st
  let s := match getInst s st with
    | some i => match i.bridgePend with
      | some w => modInst (writeBridge s st w.toNat) st (fun i => { i with bridgePend := none })
      | none => s
    | none => s
  let s := if x.clrPending then modStream s st (fun x => { x with
      clrPending := false
      ctx := { x.ctx with stPrewake := 0, stPromote := 0, stCancel := 0, stNotify := 0 } }) else s
  let s := if x.useRevoked then startAct (modStream s st (fun x => { x with useRevoked := false })) st .suspend else s
  let s := modInst s st (fun i => { i with cutLost := bridgeCut s i, cutRight := false })
  if toMove s st ∧ (getStream s st).ctx.state ≠ 2 then moveInst s st else releaseDeferred s st

/-! ## Steps from another chip (R148, R384) -/

/-- The body of STEP_END and STEP_ACK (R384). -/
def stepBody (st gen rst rgen stamp count : Nat) : Bytes :=
  natLE 4 (st + gen * 2 ^ 14) ++ natLE 4 (rst + rgen * 2 ^ 14) ++ natLE 4 stamp ++ natLE 4 count

/-- The open step's input is complete once COUNT remote events have been accepted; the acknowledgement goes to the
source (R148, R384). -/
def completeRemote (s : State) (st : Nat) : State :=
  match getInst s st with
  | none => s
  | some i =>
    match i.remoteEnd with
    | none => s
    | some (chip, rst, gen, stamp, count) =>
      if count ≤ smGet 0 i.remoteIn chip.toNat then
        let s := psgSend s 1 2 chip.toNat 0 (stepBody rst.toNat gen.toNat 0 0 stamp.toNat 0 ++ natLE 1 stOk)
        modStream (modInst s st (fun i => { i with remoteEnd := none })) st (fun x => { x with inputDone := true })
      else s

/-- A step-end record that came early belongs to the step that is now open; a step whose source is lost has no more
input (R149). -/
def pullEnd (s : State) (st : Nat) : State :=
  match getInst s st with
  | none => s
  | some i =>
    if i.lost then modStream s st (fun x => { x with inputDone := true })
    else if i.nextEnd.isNone then s
    else completeRemote (modInst s st (fun i => { i with remoteEnd := i.nextEnd, nextEnd := none })) st

/-! ## The decision of a closure -/

/-- The closure is complete: HIF_CSC_STEPS, PIC_STRETCH, BACKLOG, and the step boundary. -/
def completeClosure (s : State) (st : Nat) : State :=
  let x := getStream s st
  let s := c64 s 0x08010 1
  let s := if 2 ≤ x.ctx.backlog.toNat then c32 s 0x20074 1 else s
  let s := { s with snapWait := s.snapWait.filter (fun q => q.toNat != st) }
  let s := modStream s st (fun x => { x with
    waiting := none, inputDone := false, frameReady := false, stepBuf := []
    ctx := { x.ctx with sampleInStep := 0 } })
  pullEnd (stepBoundary (updBacklog s st) st) st

/-- The samples of the open step have all been read, and the step has not closed. -/
def stepRead (x : Stream) : Bool := x.ctx.stepLen != 0 && x.ctx.sampleInStep == x.ctx.stepLen

/-- The front-end of the open step may run (R305, R308). -/
def stepReady (x : Stream) (i : Inst) : Bool :=
  x.ctx.state != 0 && stepRead x && !x.frameReady && !x.inputDone && x.waiting.isNone && i.waitAck.isNone

/-- A stream whose step input is complete waits behind those whose input was complete before (R305). -/
def joinLine (s : State) (st : Nat) : State :=
  if stepRead (getStream s st) then { s with feLine := s.feLine.filter (fun q => q.toNat != st) ++ [BitVec.ofNat 14 st] } else s

/-- The step's frame goes from the staging frame into the history right before the decision of the step, so that the
history holds frames up to CUR_STEP and no later (R308). -/
def copyFrame (s : State) (st : Nat) : State :=
  let x := getStream s st
  if x.ctx.histSteps = 0 then s
  else copyWords s (stagingOff st) (frameOff st x.ctx x.closedSteps) x.ctx.frameUnits.toNat

/-- The decision of the closed step is taken, or waits (R46, R348). `counted`: its wait under R46 has been counted, which
one behind a latched result is not: its own records are looked at only after that result (DEDUCED, log entry 196). -/
def decisionPhase (s : State) (st : Nat) (w : WaitDecision) : State :=
  let (clear, s) := retryLatched s st
  if !clear || (getStream s st).act.isSome then modStream s st (fun x => { x with waiting := some w })
  else match decideClose (copyFrame s st) st w with
    | .inl s' => completeClosure s' st
    | .inr .holds =>
      let s := if w.counted then s else c32 s 0x0804C 1
      modStream s st (fun x => { x with waiting := some { w with counted := true } })
    | .inr .snap =>
      let waits := s.snapWait.any (fun q => q.toNat == st)
      let s := if waits then s else { c32 s 0x50054 1 with snapWait := s.snapWait ++ [BitVec.ofNat 14 st] }
      modStream s st (fun x => { x with waiting := some w })

/-- The closure from the readout on (R144); `lost`: events of the step were lost with their peer (R62). -/
def finishClosure (s : State) (st : Nat) (lost : Bool) : State :=
  match getInst s st with
  | none => s
  | some i =>
    let pl := instPlace s i
    let (conf, cls) := readout s pl i.openStep.toNat
    let s := zeroRange s (mkey (spPicot pl.core) (windowOff pl.j (i.openStep.toNat + 1))) 8
    let s := modInst s st (fun i => { i with
      openStep := i.openStep + 1, waitAck := none, remoteEnd := none, remoteIn := [], lost := false })
    decisionPhase (hopPass s) st { stamp := i.openStep, conf := conf, cls := cls, lost := lost || i.lost }

/-- A step closes with `n` events lost with their peer (R62, R149). -/
def peerLostStep (s : State) (st n : Nat) : State := finishClosure (c32 s 0x20070 n) st true

/-! ## Steps across chips (R147, R383 to R385) -/

/-- The events that a stream has issued and that are still held for their chip are given up. -/
def dropHeld (s : State) (st chip : Nat) : State :=
  { s with evHold := smUpd [] s.evHold chip (fun es =>
      es.filter (fun e => e.st.toNat != st)) }

/-- The rest of the step's events and its STEP_END go to the bridge chip; the closure then waits for the acknowledgement, unless
the chip is lost (R149) or the right is missing (R385). -/
def sendStepEnd (s : State) (st : Nat) : State :=
  match getInst s st with
  | none => s
  | some i =>
    let pl := instPlace s i
    let b := dirWord s pl.core pl.j 2
    let n := i.remoteOut
    let s := modInst s st (fun i => { i with remoteOut := 0 })
    if !bitOf b 30 then finishClosure s st false
    else
      let chip := fld b 0 12
      let s := noteCtl s (protWord 5 (getStream s st).ctx.owner.toNat)
      if i.cutRight || !passageRight s (getStream s st).ctx.owner.toNat 1 chip then
        finishClosure (c32 (dropHeld s st chip) 0x6006C n) st false
      else if i.cutLost || chipLost s chip then peerLostStep (needRoute (dropHeld s st chip) chip) st n
      else
        let s := sendBatch s chip
        let s := psgSend s 1 1 chip 0 (stepBody st (dirSgen s pl.core pl.j) (fld b 12 14) (fld b 26 4) i.openStep.toNat n)
        modInst s st (fun i => { i with waitAck := some (i.openStep, n) })

/-! ## STEP_CLOSE (R144) -/

/-- An event in flight counts toward the open step of the stream; remote events that arrive after the step's
STEP_END belong to the next step. -/
def countsForStep (st : Nat) (fed : Bool) (e : Ev) : Bool := fld e.word.toNat 50 14 == st && !(fed && e.src.isSome)

/-- The open step's input is complete, every event of it has been accepted, and no part of a closure is under way. -/
def closable (s : State) (st : Nat) : Bool :=
  let x := getStream s st
  match getInst s st with
  | none => false
  | some i =>
    x.inputDone && x.waiting.isNone && i.waitAck.isNone && !i.heldMove && x.ctx.state != 0 && x.act.isNone &&
    !s.events.any (countsForStep st (remoteFed s i))

/-- STEP_CLOSE (R144). -/
def execStepClose (st : StreamId) (s : State) : Out State :=
  .next (live s fun s =>
    if closable s st.toNat then
      match getInst s st.toNat with
      | none => s
      | some i =>
        let pl := instPlace s i
        let s := (List.range pl.span).foldl (fun t k => mendPicot t (pl.core + k)) s
        sendStepEnd (evalRanks s st.toNat pl 0 8) st.toNat
    else s)

/-- DEFERRED_ACTION_RESUME (R46): what is to befall the stream, else a latched result, then a decision that waits for the
holds, is tried again. -/
def execDeferredResume (st : StreamId) (s : State) : Out State :=
  .next (live s fun s =>
    if (getStream s st.toNat).act.isSome then retryAct s st.toNat
    else match (getStream s st.toNat).waiting with
    | some w => decisionPhase s st.toNat w
    | none => moveIfIdle (retryLatched s st.toNat).2 st.toNat)

/-- SNAPSHOT_WAIT_RESUME (R348): the stream that has waited longest for a buffer. -/
def execSnapshotResume (s : State) : Out State :=
  .next (live s fun s =>
    match s.snapWait with
    | [] => s
    | st :: _ =>
      match (getStream s st.toNat).waiting with
      | some w => decisionPhase s st.toNat w
      | none => { s with snapWait := s.snapWait.tail })

/-! ## ON_RESULT (R31, R36) -/

/-- ON_RESULT (R31, R36): the `k`-th result in flight arrives; a stream that it takes to FAULTED moves at once (R141). -/
def execOnResult (k : Nat) (s : State) : Out State :=
  .next (live s fun s =>
    match getNth s.results k with
    | none => s
    | some r => moveIfIdle (arriveResult (hopPass { s with results := dropNth s.results k }) r) r.st.toNat)

/-! ## EVENT_ARRIVE (R131, R148) -/

/-- A remote event waits while its stream's step has its input complete: it belongs to the next step. -/
def eventWaits (s : State) (k : Nat) (e : Ev) : Bool :=
  let st := fld e.word.toNat 50 14
  e.src.isSome && ((getStream s st).inputDone || (s.events.take k).any (fun d => d.src.isSome && fld d.word.toNat 50 14 == st))

/-- EVENT_ARRIVE (R131): the `k`-th event in flight reaches its core. A remote one that is dropped counts as accepted
too (R131, R384). -/
def execEventArrive (k : Nat) (s : State) : Out State :=
  .next (live s fun s =>
    match getNth s.events k with
    | none => s
    | some e =>
      if eventWaits s k e then s
      else
        let (s, es) := deliver { s with events := dropNth s.events k } e
        let s := { s with events := s.events ++ es }
        match e.src with
        | none => s
        | some chip =>
          let st := fld e.word.toNat 50 14
          completeRemote (modInst s st (fun i => { i with remoteIn := smUpd 0 i.remoteIn chip.toNat (· + 1) })) st)

/-! ## CONVERT (R150, R151, R357) -/

/-- A word of the stream area that an Edging engine reads: a poisoned word is taken as 0 and rewritten. -/
def mendWords (s : State) (off n : Nat) : State :=
  (List.range (n / 8)).foldl (fun s i =>
    let k := mkey spGal (off + 8 * i)
    if isPoisoned s k then memWr (poisonRead s 2 k none 0) spGal (off + 8 * i) (List.replicate 8 0) else s) s

/-- The converter's fields. -/
structure Conv where
  fmt : Nat
  mode : Nat
  f : Nat
  bias : Int
  gain : Nat
  gsh : Nat
  th : Int
  ndest : Nat
  off : Nat

def convOf (img : Bytes) : Option Conv :=
  match findSec img 2 with
  | none => none
  | some (_, o, _) => some
    { fmt := leAt img o 1 % 16, mode := fld (leAt img o 1) 4 2, f := leAt img (o + 2) 2 % 1024, bias := sext 16 (leAt img (o + 4) 2)
      gain := leAt img (o + 6) 1, gsh := leAt img (o + 7) 1 % 16, th := leAt img (o + 8) 3, ndest := leAt img (o + 12) 1 % 8, off := o }

/-- Channel `j` of a frame. -/
def convIn (c : Conv) (frame : Bytes) (j : Nat) : Int :=
  if c.fmt = 0x9 then sext 16 (leAt frame (2 * j) 2)
  else if c.fmt = 0x5 then sext 8 (leAt frame j 1) else leAt frame j 1

/-- One channel (R151): its new state, its emission (position, graded, value), and its clamps. -/
def convStep (c : Conv) (x st : Int) (j : Nat) : Int × Option (Nat × Bool × Int) × Nat :=
  match c.mode with
  | 0 =>
    let m := rneShift ((x - c.bias) * c.gain) c.gsh
    if 15 < m then (st, some (j, false, 15), 1) else (st, if 0 < m then some (j, false, m) else none, 0)
  | 1 =>
    let d := x - st
    if c.th ≤ d ∨ d ≤ -c.th then
      let m := (if d < 0 then -d else d) / c.th
      let n := if 15 < m then 1 else 0
      let m := min m 15
      if 0 < d then (st + m * c.th, some (2 * j, false, m), n) else (st - m * c.th, some (2 * j + 1, false, m), n)
    else (st, none, 0)
  | _ =>
    let e := st + x
    let n := if sat24 e ≠ e then 1 else 0
    let e := sat24 e
    let q := rneShift e c.gsh
    let n := if clampI (-8) 7 q ≠ q then n + 1 else n
    let q := clampI (-8) 7 q
    if q ≠ 0 then (e - q * 2 ^ c.gsh, some (j, true, q), n) else (e, none, n)

/-- The converter of the stream's open step: its events go in flight, and the step's input is complete. -/
def convertStep (s : State) (st : Nat) (i : Inst) (c : Conv) (img : Bytes) : State :=
  let x := getStream s st
  let pl := instPlace s i
  let fb := frameBytes x.ctx
  let s := mendWords (mendWords s (stagingOff st) fb) (convStateOff st) (8 * ((4 * c.f + 7) / 8))
  let (frame, s) := memRd s spGal (stagingOff st) fb
  let gen := dirSgen s pl.core pl.j
  let s := (List.range c.f).foldl (fun s j =>
    let so := convStateOff st + 4 * j
    let (bs, s) := memRd s spGal so 4
    let (v, em, n) := convStep c (convIn c frame j) (sext 32 (leNat bs)) j
    let s := c32 (memWr s spGal so (natLE 4 (twos 32 v))) 0x2007C n
    match em with
    | none => s
    | some (pos, g, m) =>
      { s with events := s.events ++ (List.range c.ndest).map (fun d =>
          let mc := leAt img (c.off + 16 + 8 * d) 8
          { word := eventWord st (pl.core + fld mc 1 9) (pos + fld mc 13 12) i.openStep.toNat m g (fld mc 10 3)
            egen := BitVec.ofNat 4 gen }) }) s
  modStream s st (fun x => { x with inputDone := true })

end Sys2Proof.Machine
end

