-- ==== Sys2Proof/Machine/Streams.lean ====
section
/-! DEFINITION. Streams.lean: opening, closing and observing streams, and ingest (R19 to R27, R52 to R59), and the
Picot commands of the PF (R158 to R160). -/

namespace Sys2Proof.Machine

/-! ## The context as bytes (R23, R24) -/

def stageBytes (e : StageEntry) : Bytes :=
  [BitVec.ofNat 8 (e.tier.toNat + b2n e.notify * 4 + b2n e.report * 8), e.slot, e.wake, e.prewake, e.hold, e.holdCount,
   e.nwake, e.nprewake, e.nhold, e.nholdCount] ++ natLE 2 e.inputSteps.toNat

def stageFrom (b : Bytes) (o : Nat) : StageEntry :=
  let f := leAt b o 1
  { tier := BitVec.ofNat 2 f, notify := bitOf f 2, report := bitOf f 3, slot := BitVec.ofNat 8 (leAt b (o + 1) 1)
    wake := BitVec.ofNat 8 (leAt b (o + 2) 1), prewake := BitVec.ofNat 8 (leAt b (o + 3) 1), hold := BitVec.ofNat 8 (leAt b (o + 4) 1)
    holdCount := BitVec.ofNat 8 (leAt b (o + 5) 1), nwake := BitVec.ofNat 8 (leAt b (o + 6) 1)
    nprewake := BitVec.ofNat 8 (leAt b (o + 7) 1), nhold := BitVec.ofNat 8 (leAt b (o + 8) 1)
    nholdCount := BitVec.ofNat 8 (leAt b (o + 9) 1), inputSteps := BitVec.ofNat 10 (leAt b (o + 10) 2) }

/-- The 128 B of a context (R23). -/
def ctxBytes (c : StreamCtx) : Bytes :=
  natLE 4 (c.kind.toNat + c.sfmt.toNat * 2 ^ 4 + c.chan.toNat * 2 ^ 8 + c.gen.toNat * 2 ^ 12 + c.nstage.toNat * 2 ^ 16 +
    c.state.toNat * 2 ^ 19 + b2n c.lag * 2 ^ 22 + b2n c.peer * 2 ^ 23) ++
  natLE 4 c.rate.toNat ++ natLE 2 c.stepLen.toNat ++ natLE 2 c.histSteps.toNat ++ [c.frameUnits, c.lagDepth] ++
  natLE 2 c.owner.toNat ++ natLE 2 c.ingestRing.toNat ++ natLE 2 c.notifyRing.toNat ++ natLE 2 c.sampleInStep.toNat ++ natLE 2 0 ++
  natLE 8 c.nextSample.toNat ++ (List.range 6).flatMap (fun k => stageBytes (stageOf c k)) ++
  natLE 4 (c.curStep.toNat + c.holdRun.toNat * 2 ^ 20 + b2n c.armed * 2 ^ 28 + c.ep.toNat * 2 ^ 29) ++
  natLE 4 (c.specStamp.toNat + c.backlog.toNat * 2 ^ 20 + c.actStage.toNat * 2 ^ 27) ++
  natLE 4 c.stPrewake ++ natLE 4 c.stPromote ++ natLE 4 c.stCancel ++ natLE 4 c.stNotify

/-- The fields that an open-stream image gives (R23). -/
def ctxFrom (b : Bytes) (gen : Gen) : StreamCtx :=
  let w := leAt b 0 4
  { kind := BitVec.ofNat 4 w, sfmt := BitVec.ofNat 4 (fld w 4 4), chan := BitVec.ofNat 4 (fld w 8 4), gen := gen
    nstage := BitVec.ofNat 3 (fld w 16 3), state := 1, rate := BitVec.ofNat 24 (leAt b 4 3), stepLen := BitVec.ofNat 16 (leAt b 8 2)
    histSteps := BitVec.ofNat 16 (leAt b 10 2), frameUnits := BitVec.ofNat 8 (leAt b 12 1), lagDepth := BitVec.ofNat 8 (leAt b 13 1)
    owner := BitVec.ofNat 6 (leAt b 14 1), ingestRing := BitVec.ofNat 10 (leAt b 16 2), notifyRing := BitVec.ofNat 10 (leAt b 18 2)
    nextSample := BitVec.ofNat 64 (leAt b 24 8), stages := (List.range 6).map (fun k => stageFrom b (0x20 + 12 * k)), armed := true }

/-- The bits of an image that the host may set: every other bit is a device field or reserved (R23, R27). -/
def imageHostBits (b : Bytes) : Bool :=
  leAt b 0 4 &&& 0x00070FFF == leAt b 0 4 && leAt b 7 1 == 0 && leAt b 14 2 / 64 == 0 && leAt b 16 2 / 1024 == 0 && leAt b 18 2 / 1024 == 0 &&
  leAt b 20 4 == 0 && allZero (bytesAt b 0x68 24) &&
  (List.range 6).all (fun k => leAt b (0x20 + 12 * k) 1 / 16 == 0 && leAt b (0x20 + 12 * k + 10) 2 / 1024 == 0)

def complementsOk (e : StageEntry) : Bool := wakeOk e && prewakeOk e && holdOk e && holdCountOk e

/-- SLOT lies in the range of its tier (R27). -/
def slotInTier (e : StageEntry) : Bool := decide (e.tier.toNat < 3) && tierOf e.slot.toNat == e.tier.toNat

/-- The stage entries of a program against R27. -/
def stagesOk (n : Nat) (st : List StageEntry) (histSteps : Nat) : Bool :=
  let at_ (k : Nat) : StageEntry := st[k]?.getD {}
  let z := at_ 0
  decide (1 ≤ n ∧ n ≤ 6) && (List.range 6).all (fun k =>
    let e := at_ k
    if n ≤ k then allZero (stageBytes e)
    else complementsOk e && slotInTier e &&
      (if k = 0 then
        e.tier == 0 && e.inputSteps == 0 && decide (e.hold ≤ e.prewake) && decide (e.prewake ≤ e.wake) && e.holdCount != 0 &&
        (!(n == 1 || (at_ 1).tier == 2) || e.prewake == e.wake)
      else
        e.tier != 0 && (k == 1 || decide ((at_ (k - 1)).tier ≤ e.tier)) && e.prewake == 0 && e.hold == 0 && e.holdCount == 0 &&
        decide (1 ≤ e.inputSteps.toNat ∧ e.inputSteps.toNat ≤ histSteps))) && z.tier == 0

def sfmtOk (kind sfmt : Nat) : Bool :=
  [0x5, 0x6, 0x9, 0xA, 0xB, 0xC, 0xE].contains sfmt || (sfmt == 0xF && kind == 4)

/-- The rights of the last bullet of R27, and the ring of R90. -/
def programRights (s : State) (fn n : Nat) (c : StreamCtx) : Bool :=
  (List.range n).all (fun k => mayUse s fn (stageOf c k).slot.toNat) && ownsRing s fn c.ingestRing.toNat &&
  ownsRing s fn c.notifyRing.toNat && (getRing s c.notifyRing.toNat).enabled && (getRing s c.notifyRing.toNat).nqLog2 != 0

/-- R27 on the image of a fresh open. -/
def imageOk (s : State) (fn : Nat) (b : Bytes) : Bool :=
  let c := ctxFrom b 0
  imageHostBits b && decide (c.kind.toNat ≤ 4) && sfmtOk c.kind.toNat c.sfmt.toNat && c.stepLen != 0 &&
  decide (1 ≤ c.histSteps.toNat ∧ c.histSteps.toNat ≤ 768) && decide (1 ≤ c.frameUnits.toNat ∧ c.frameUnits.toNat ≤ 128) &&
  decide (c.histSteps.toNat * c.frameUnits.toNat * 8 ≤ 6144) && decide (1 ≤ c.lagDepth.toNat ∧ c.lagDepth.toNat ≤ 64) &&
  c.owner.toNat == fn && stagesOk c.nstage.toNat c.stages c.histSteps.toNat && programRights s fn c.nstage.toNat c

/-! ## The front-end of a Tier 0 version, as far as an open looks at it (R140, R309 to R311) -/

structure FeStage where
  op : Nat
  ofmt : Nat
  nOut : Nat
  sh : Int
  coef : Nat
  param : Nat

structure Front where
  nstage : Nat
  kgrp : Nat
  frameB : Nat
  unitB : Nat
  coefB : Nat
  stages : List FeStage
  /-- Where the coefficients stand in the image. -/
  coefOff : Nat

def frontOf (img : Bytes) : Option Front :=
  match findSec img 1 with
  | none => none
  | some (_, o, _) =>
    let n := leAt img o 1 % 16
    some { nstage := n, kgrp := leAt img (o + 1) 1 % 4, frameB := leAt img (o + 2) 2, unitB := leAt img (o + 4) 2, coefB := leAt img (o + 8) 4
           stages := (List.range n).map (fun k =>
             let p := o + 16 + 16 * k
             { op := leAt img p 1 % 16, ofmt := leAt img (p + 1) 1 % 16, nOut := leAt img (p + 2) 2, sh := sext 8 (leAt img (p + 4) 1)
               coef := leAt img (p + 8) 4, param := leAt img (p + 12) 4 })
           coefOff := o + 16 + 16 * n }

def fmtBytes (f : Nat) : Nat :=
  if f = 0x5 ∨ f = 0x6 then 1 else if f = 0x9 ∨ f = 0xA ∨ f = 0xB then 2 else if f = 0xC then 3 else 4

/-- Bytes of state that the front-end needs for a step length (R311). -/
def feStateBytes (f : Front) (stepLen : Nat) : Nat :=
  ((f.stages.zipIdx).map (fun (g, k) =>
    if g.op = 1 then 2 * (g.nOut - stepLen)
    else if g.op = 6 then (match f.stages[k - 1]? with | some p => p.nOut * fmtBytes p.ofmt | none => 0)
    else 0)).foldl (· + ·) 0

/-- R140 and the checks that R311 makes of an open. -/
def frontFits (f : Front) (c : StreamCtx) : Bool :=
  f.frameB == frameBytes c && (if f.kgrp = 0 then decide (c.kind.toNat ≤ 2) else if f.kgrp = 1 then c.kind == 3 else c.kind == 4) &&
  f.stages.all (fun g =>
    (g.op != 2 || g.nOut == c.stepLen.toNat * (c.chan.toNat + 1)) && (g.op != 1 || decide (g.param % 16 ≤ c.chan.toNat))) &&
  decide (feStateBytes f c.stepLen.toNat ≤ 512)

/-! ## STREAM_OPEN (R27, R53, R57, R139) -/

/-- Streams of a slot that still have to move (R141). -/
def stillToMove (s : State) (slot : Nat) : Nat :=
  (s.insts.filter (fun e => match e.2 with
    | some i => i.slot.toNat == slot && i.inB != (getSlot s slot).activeB && (getStream s e.1).ctx.state != 2
    | none => false)).length

/-- The instance for a newly opened stream: the lowest free one, those reserved for moving streams left over. -/
def openInst (s : State) (slot : Nat) : Option Nat :=
  let x := getSlot s slot
  match versionOf x x.activeB with
  | none => none
  | some v =>
    let cap := t0Capacity (rangeOf0 x x.activeB) (t0Span v.image) (t0Npc v.image)
    let used := (s.insts.filter (fun e => match e.2 with | some i => i.slot.toNat == slot && i.inB == x.activeB | none => false)).length
    if rangeOut s (rangeOf0 x x.activeB) then none
    else if cap ≤ used + (if x.moving then stillToMove s slot else 0) then none else freeIdx s slot x.activeB cap

/-- The completion of an accepted open (R91). -/
def openDone (s : State) (q : DescRef) (st : Nat) : State := endStreamOp s q st stOk

/-- An open with RESUME 0. -/
def openFresh (s : State) (q : DescRef) (d : Desc) (b : Bytes) : State :=
  let st := descStream d.bytes
  let x := getStream s st
  let fail (s : State) (k : Nat) : State := endStreamOp s q st k
  if x.ctx.state ≠ 0 ∨ !imageOk s d.fn.toNat b then fail s stBad
  else
    let c := ctxFrom b x.ctx.gen
    let slot := (stageOf c 0).slot.toNat
    match activeVersion s slot with
    | none => fail s stBad
    | some v =>
      match frontOf v.image with
      | none => fail s stBad
      | some f =>
        if !frontFits f c then fail s stBad
        else if descSgen d.bytes ≠ x.ctx.gen.toNat then fail s stStale
        else match openInst s slot with
          | none => fail (c32 s 0x20078 1) stBad
          | some i =>
            let s := modStream s st (fun _ => { ctx := c, openSample := c.nextSample })
            openDone (placeInst s st slot (getSlot s slot).activeB i c.gen 0) q st

/-- The rings and thresholds that a resume takes from its image (R90). -/
def resumeStage (e g : StageEntry) : StageEntry :=
  { e with wake := g.wake, prewake := g.prewake, hold := g.hold, holdCount := g.holdCount
           nwake := g.nwake, nprewake := g.nprewake, nhold := g.nhold, nholdCount := g.nholdCount }

/-- The leftover of the episode that the suspension found is withdrawn, no counter moving (R53, R347). -/
def dropEpisode (s : State) (st : Nat) : State :=
  let ep := (getStream s st).ctx.ep
  modStream (withdrawJob s st (ep == 1 || ep == 2)) st (fun x => { x with job := none, held := none, latched := none })

/-- An open with RESUME 1 (R53); the front-end of the version now in force must fit, as at any open (R140, R311). -/
def openResume (s : State) (q : DescRef) (d : Desc) (b : Bytes) : State :=
  let st := descStream d.bytes
  let x := getStream s st
  let fail (s : State) (k : Nat) : State := endStreamOp s q st k
  let g := ctxFrom b 0
  let c := { x.ctx with ingestRing := g.ingestRing, notifyRing := g.notifyRing,
                        stages := (List.range 6).map (fun k => resumeStage (stageOf x.ctx k) (stageOf g k)) }
  let fits := match activeVersion s (stageOf x.ctx 0).slot.toNat with
    | some v => (match frontOf v.image with | some f => frontFits f x.ctx | none => false)
    | none => false
  if x.ctx.state ≠ 3 then fail s stBad
  else if !fits ∨ !stagesOk c.nstage.toNat c.stages c.histSteps.toNat ∨ !programRights s d.fn.toNat c.nstage.toNat c ∨
      leAt b 16 2 / 1024 ≠ 0 ∨ leAt b 18 2 / 1024 ≠ 0 then fail s stBad
  else if descSgen d.bytes ≠ x.ctx.gen.toNat then fail s stStale
  else
    let s := dropEpisode s st
    let s := modStream s st (fun x => { x with ctx := { c with state := 1, backlog := 0, lag := false, ep := 0, armed := true } })
    let s := writeSgen s st c.gen
    let s := match getInst s st with
      | some i => if i.deferred then issueDeferred s st else s
      | none => s
    openDone s q st

/-- A descriptor of operation `op` starts, unless its address field at `o` names memory that is not awake. -/
def startAwake (s : State) (p : PairId) (idx : U16) (op o : Nat) (g : State → DescRef → Desc → State) : State :=
  match mayStart (getRing s p.toNat) idx.toNat with
  | none => s
  | some d => if memWaits s (leAt d.bytes o 8) then s else startDesc s p idx op g

/-- The slot holds a version, and a load into its active range is under way: an open waits for its end. -/
def openWaits (s : State) (slot : Nat) : Bool :=
  (activeVersion s slot).isSome && (match (getSlot s slot).load with | some l => l.image.isSome | none => false)

/-- The Tier 0 slot that the image of a fresh open names. -/
def openSlot (s : State) (d : Desc) : Option Nat :=
  if descOp d.bytes ≠ opStreamOpen ∨ descOptA d.bytes then none
  else match addrOf (leAt d.bytes 16 8) with
    | some (sp, off) => some (leAt (peek s (mkey sp off) 128) 0x21 1)
    | none => none

/-- The descriptor that would start is a fresh open whose slot is being loaded. -/
def opensLoading (s : State) (p : PairId) (idx : U16) : Bool :=
  match mayStart (getRing s p.toNat) idx.toNat with
  | some d => (match openSlot s d with | some k => openWaits s k | none => false)
  | none => false

/-- The descriptor is a resume of a suspended stream that would withdraw a job whose report is due at once, into a full
report hold: it waits, whatever its image holds (R53, R97). -/
def resumeWaits (s : State) (d : Desc) : Bool :=
  let x := getStream s (descStream d.bytes)
  descOp d.bytes == opStreamOpen && descOptA d.bytes && ownsStream s d.fn.toNat (descStream d.bytes) &&
  x.ctx.state == 3 && descSgen d.bytes == x.ctx.gen.toNat && owesReport s x && !reportRoom x

/-- The descriptor's action waits for room in the report hold; the wait is counted once (R46, R97). -/
def holdDesc (s : State) (p : PairId) (d : Desc) : State :=
  if d.deferred then s else modDesc (c32 s 0x0804C 1) (refOf s p d) (fun d => { d with deferred := true })

/-- The descriptor that would start is a resume that waits. -/
def opensHeld (s : State) (p : PairId) (idx : U16) : Option Desc :=
  (mayStart (getRing s p.toNat) idx.toNat).filter (resumeWaits s)

/-- STREAM_OPEN (R53, R90): the 128 B image is read, and OPT_A is RESUME. -/
def execStreamOpen (p : PairId) (idx : U16) (s : State) : Out State :=
  .next (live s fun s => match opensHeld s p idx with
   | some d => holdDesc s p d
   | none => if opensLoading s p idx then s else startAwake s p idx opStreamOpen 16 fun s q d =>
    let st := descStream d.bytes
    match addrOf (leAt d.bytes 16 8) with
    | none => endStreamOp s q st stBad
    | some (sp, off) =>
      if off % 128 ≠ 0 then endStreamOp s q st stBad
      else if dramFails s sp then endStreamOp s q st stUncorr
      else match firstPoison s (mkey sp off) 128 with
        | some i => endStreamOp (poisonRead s 6 (mkey sp off + i) (some d.fn.toNat) stUncorr) q st stUncorr
        | none =>
          let (b, s) := memRd s sp off 128
          if descOptA d.bytes then openResume s q d b else openFresh s q d b)

/-! ## STREAM_CLOSE, STREAM_STATUS, CLOSE_COMPLETE (R55, R56, R59) -/

/-- The close would withdraw a job whose report is due at once, into a full report hold: it waits (R97). -/
def closeWaits (s : State) (x : Stream) (drain : Bool) : Bool :=
  owesReport s x && !reportRoom x && !(drain && x.ctx.ep == 3 && x.ctx.state == 1)

/-- STREAM_CLOSE (R55). -/
def execStreamClose (p : PairId) (idx : U16) (s : State) : Out State :=
  .next (live s fun s =>
    match mayStart (getRing s p.toNat) idx.toNat with
    | none => s
    | some d =>
      let st := descStream d.bytes
      let x := getStream s st
      let c := x.ctx
      let fits := descSgen d.bytes = c.gen.toNat ∧ c.state ≠ 0 ∧ c.state ≠ 2
      if descOp d.bytes = opStreamClose ∧ ownsStream s d.fn.toNat st ∧ fits ∧ closeWaits s x (descOptA d.bytes) then
        holdDesc s p d
      else startDesc s p idx opStreamClose fun s q d =>
        if descSgen d.bytes ≠ c.gen.toNat then endStreamOp s q st stStale
        else if c.state = 0 ∨ c.state = 2 then endStreamOp s q st stBad
        else closeStream s st (descOptA d.bytes) (some q))

/-- The context as a snapshot at a step boundary shows it: no sample of a later step has been read (R59). -/
def snapshotOf (c : StreamCtx) : StreamCtx := { c with sampleInStep := 0 }

/-- STREAM_STATUS (R59, R90): the context goes to DEST. -/
def execStreamStatus (p : PairId) (idx : U16) (s : State) : Out State :=
  .next (live s fun s => startAwake s p idx opStreamStatus 16 fun s q d =>
    let c := (getStream s (descStream d.bytes)).ctx
    match addrOf (leAt d.bytes 16 8) with
    | none => finish s q (plain stBad)
    | some (sp, off) =>
      if off % 128 ≠ 0 then finish s q (plain stBad)
      else if descSgen d.bytes ≠ c.gen.toNat then finish s q (plain stStale)
      else if dramFails s sp then finish s q (plain stUncorr)
      else finish (memWr s sp off (ctxBytes (snapshotOf c))) q (plain stOk))

/-- A job of the stream is queued or running. -/
def hasJob (s : State) (st : Nat) : Bool :=
  s.jobs.any (fun e => match e.2 with
    | some j => (match j.origin with | .cascade i _ _ _ => i.toNat == st | _ => false)
    | none => false)

/-- Nothing of a closing stream remains in the device (R56). -/
def closeReady (s : State) (st : Nat) : Bool :=
  let x := getStream s st
  x.ctx.state == 2 && x.waiting.isNone && x.latched.isNone && x.job.isNone && !stepRead x && !x.inputDone && x.reports.isEmpty &&
  x.hold.isEmpty && x.slotRec.isNone && x.slotWait.isEmpty && x.act.isNone && x.ctx.ep == 0 && !hasJob s st &&
  !s.events.any (fun e => fld e.word.toNat 50 14 == st) && !s.results.any (fun r => r.st.toNat == st) &&
  (match getInst s st with | some i => i.waitAck.isNone | none => true)

/-- The stream is CLOSED (R56): after a drain GEN advances now (R55), its instance is freed (R139), and the close
completes, if a descriptor asked for it. -/
def finishClose (s : State) (st : Nat) : State :=
  let x := getStream s st
  let gen := if x.drain then x.ctx.gen + 1 else x.ctx.gen
  let s := freeInst s st
  let s := modStream s st (fun x => { ctx := { x.ctx with state := 0, gen := gen, lag := false, peer := false }, openSample := x.openSample,
                                      closedSteps := x.closedSteps, seq := x.seq })
  match x.closeDesc with
  | none => s
  | some q => endStreamOp s q st stOk

/-- CLOSE_COMPLETE (R56). -/
def execCloseComplete (st : StreamId) (s : State) : Out State :=
  .next (live s fun s => if closeReady s st.toNat then finishClose s st.toNat else s)

/-! ## INGEST (R19, R52, R54, R90) -/

/-- The unit size that R90 asks for. -/
def unitBytes (s : State) (c : StreamCtx) : Nat :=
  if c.kind.toNat ≤ 2 then (c.chan.toNat + 1) * fmtBytes c.sfmt.toNat
  else match activeVersion s (stageOf c 0).slot.toNat with
    | some v => (match frontOf v.image with | some f => f.unitB | none => 0)
    | none => 0

/-- INGEST (R52, R90). -/
def execIngest (p : PairId) (idx : U16) (s : State) : Out State :=
  .next (live s fun s => startDesc s p idx opIngest fun s q d =>
    let st := descStream d.bytes
    let x := getStream s st
    let c := x.ctx
    let unit := leAt d.bytes 12 2
    let count := leAt d.bytes 32 4
    let index := leAt d.bytes 16 8
    let fail (s : State) (k : Nat) : State := finish s q { status := BitVec.ofNat 8 k, res1 := c.nextSample }
    let fed := match getInst s st with | some i => remoteFed s i | none => false
    if count = 0 ∨ 1048576 < count ∨ 2 ^ 24 < count * unit ∨ unit ≠ unitBytes s c ∨ c.ingestRing ≠ p then fail s stBad
    else if descSgen d.bytes ≠ c.gen.toNat then fail s stStale
    else if c.state = 0 ∨ c.state = 3 then fail s stBad
    else if c.state = 2 then fail s stStale
    else if c.state = 4 then fail s stCheckFail
    else if fed then fail s stBad
    else if index ≠ c.nextSample.toNat then fail (c32 s 0x08048 1) stBad
    else
      let nx := c.nextSample + BitVec.ofNat 64 count
      let s := modStream s st (fun x => { x with
        ctx := { x.ctx with nextSample := nx }
        ingests := x.ingests ++ [{ ref := q, buf := leAt d.bytes 24 8, unit := unit, count := count, taken := 0, next := nx }] })
      updBacklog s st)

/-- Up to `n` samples are taken from the accepted descriptors, oldest first: the ranges they lie in, the descriptors
left, those wholly read, and their number. -/
def takeSamples : List IngestJob → Nat → List (Nat × Nat) × List IngestJob × List IngestJob × Nat
  | [], _ => ([], [], [], 0)
  | g :: r, n =>
    if n = 0 then ([], g :: r, [], 0) else
    let k := min n (g.count - g.taken)
    let here := (g.buf + g.taken * g.unit, k * g.unit)
    if g.taken + k = g.count then
      let (more, left, done, m) := takeSamples r (n - k)
      (here :: more, left, g :: done, k + m)
    else ([here], { g with taken := g.taken + k } :: r, [], k)

/-- The bytes of a range of samples: those of a poisoned word are taken as 0 (R357). -/
def readSamples (s : State) (r : Nat × Nat) : Bytes × State :=
  match addrOf r.1 with
  | none => ([], s)
  | some (sp, off) =>
    let (b, s) := memRd s sp off r.2
    match firstPoison s (mkey sp off) r.2 with
    | none => (b, s)
    | some _ =>
      let bad := (List.range r.2).map (fun i => isPoisoned s (mkey sp off + i))
      let firsts := (List.range r.2).filter (fun i =>
        isPoisoned s (mkey sp off + i) && (i == 0 || eccBase (mkey sp off + i) == mkey sp off + i))
      (List.zipWith (fun x p => if p then 0 else x) b bad, firsts.foldl (fun s i => poisonRead s 2 (mkey sp off + i) none 0) s)

def readRanges (s : State) : List (Nat × Nat) → Bytes × State
  | [] => ([], s)
  | r :: rs =>
    let (b, s) := readSamples s r
    let (bs, s) := readRanges s rs
    (b ++ bs, s)

/-- The DRAM that holds the samples of the oldest accepted descriptor has failed (R431). -/
def samplesFail (s : State) (x : Stream) : Bool :=
  match x.ingests with
  | g :: _ => (match addrOf g.buf with | some (sp, _) => dramFails s sp | none => false)
  | [] => false

def samplesWait (s : State) (x : Stream) : Bool := x.ingests.any (fun g => memWaits s g.buf)

/-- The samples that the open step lacks are read, as far as accepted descriptors hold them. -/
def readStep (s : State) (st : Nat) : State :=
  let x := getStream s st
  let (rs, left, done, n) := takeSamples x.ingests (x.ctx.stepLen.toNat - x.ctx.sampleInStep.toNat)
  let (bs, s) := readRanges s rs
  let s := modStream s st (fun x => { x with
    ingests := left, stepBuf := x.stepBuf ++ bs
    ctx := { x.ctx with sampleInStep := x.ctx.sampleInStep + BitVec.ofNat 16 n } })
  done.foldl (fun t g => finish t g.ref
    { status := 0, res0 := BitVec.ofNat 32 g.count, res1 := g.next }) (joinLine s st)

/-- The owner holds no window any more for the samples that the open step would take (R107). -/
def samplesRefused (s : State) (x : Stream) : Bool :=
  (takeSamples x.ingests (x.ctx.stepLen.toNat - x.ctx.sampleInStep.toNat)).1.any (fun r =>
    match addrOf r.1 with
    | some (sp, off) => !(devCheck s x.ctx.owner.toNat sp off r.2 false none).1
    | none => false)

/-- INGEST_STEP_READ (R52): samples of the open step are read; descriptors read to their end complete. -/
def execIngestStepRead (st : StreamId) (s : State) : Out State :=
  .next (live s fun s =>
    let x := getStream s st.toNat
    let c := x.ctx
    if c.state != 1 || x.act.isSome || x.frameReady || x.inputDone || x.waiting.isSome || !canMaster s c.owner.toNat || samplesWait s x ||
        (match getInst s st.toNat with | some i => i.waitAck.isSome | none => true) then s
    else if samplesFail s x then breakIngests s st.toNat stUncorr
    else useCtl s windowWords fun s =>
      if samplesRefused s x then breakIngests s st.toNat stProtection else readStep s st.toNat)

/-! ## The Picot registers that act (R138, R158 to R160) -/

/-- Two ranges of cores share a core. -/
def rangesMeet (a b : Nat) : Bool :=
  decide (0 < rangeCount a ∧ 0 < rangeCount b ∧ rangeBase a < rangeBase b + rangeCount b ∧ rangeBase b < rangeBase a + rangeCount a)

def slotLoaded (s : State) (slot : Nat) : Bool := (getSlot s slot).verA.isSome || (getSlot s slot).verB.isSome

/-- An instance of another slot still stands in the range in which it was placed (R141). -/
def rangeHeld (s : State) (slot w : Nat) : Bool :=
  s.insts.any (fun e => match e.2 with | some i => i.slot.toNat != slot && rangesMeet w i.range.toNat | none => false)

/-- The range would overlap a range of another Tier 0 slot while either holds a version (R138). -/
def rangeClash (s : State) (slot w : Nat) : Bool :=
  rangeHeld s slot w || s.slots.any (fun e => decide (e.1 < 64) && e.1 != slot && (slotLoaded s slot || slotLoaded s e.1) &&
    (rangesMeet w e.2.placeA.toNat || rangesMeet w e.2.placeB.toNat))

def slotInsts (s : State) (slot : Nat) : Nat :=
  (s.insts.filter (fun e => match e.2 with | some i => i.slot.toNat == slot | none => false)).length

/-- The tables of a core (R155) are copied to another core; its directory and readout windows are empty. -/
def copyTables (s : State) (src dst : Nat) : State :=
  let ranges := [(0x8000, 0x800), (0x9800, 0x4800), (0x18000, 0x28000)]
  let s := zeroRange s (mkey (spPicot dst) 0) 0x40000
  ranges.foldl (fun s (o, n) =>
    (s.mem.filter (fun e => decide (mkey (spPicot src) o ≤ e.1 ∧ e.1 < mkey (spPicot src) (o + n)))).foldl
      (fun s e => poke1 s (mkey (spPicot dst) (keyOff e.1)) e.2) s) s

/-- RANGE_COPY (R159): every group of the new range takes the tables of the first group of the old one. -/
def rangeCopy (s : State) (span old new : Nat) : State :=
  if span = 0 then s else
  (List.range (rangeCount new / span * span)).foldl (fun s k => copyTables s (rangeBase old + k % span) (rangeBase new + k)) s

/-- PIC_SLOT_RANGE_WRITE (R159). -/
def execPicRangeWrite (b : Bool) (w : U32) (s : State) : Out State :=
  .next (bar0 s 0 false fun s =>
    let slot := reg s 0x20020 % 64
    let x := getSlot s slot
    let n := w.toNat % 2 ^ 19
    let err (s : State) : State := modSlot s slot (fun x => { x with rangeErr := true })
    let put (s : State) : State := modSlot s slot (fun x =>
      if b then { x with placeB := BitVec.ofNat 32 n } else { x with placeA := BitVec.ofNat 32 n })
    if 512 < rangeBase n + rangeCount n ∨ rangeClash s slot n then err s
    else match versionOf x x.activeB with
      | none => put s
      | some v =>
        if b ≠ x.activeB then put s
        else if slotInsts s slot = 0 ∧ t0Span v.image ≤ rangeCount n ∧ !rangesMeet n (rangeOf0 x x.activeB) then
          put (rangeCopy s (t0Span v.image) (rangeOf0 x x.activeB) n)
        else err s)

/-- PIC_BRIDGE_WRITE (R160): the binding waits for the stream's next step boundary. -/
def execPicBridgeWrite (w : U32) (s : State) : Out State :=
  .next (bar0 s 0 false fun s => modInst s (reg s 0x20038 % 16384) (fun i => { i with bridgePend := some (w &&& 0x7FFFFFFF#32) }))

/-- PIC_CLEAR (R158). -/
def execPicClear (s : State) : Out State :=
  .next (bar0 s 0 false fun s => clearCtrs s [0x20040, 0x20048, 0x20050, 0x20058, 0x2005C, 0x20060, 0x20064, 0x20068, 0x2006C, 0x20070,
    0x20074, 0x20078, 0x2007C])

end Sys2Proof.Machine
end

