-- ==== Sys2Proof/Machine/Formats.lean ====
section
/-! DEFINITION. Formats.lean: the number formats (R237 to R242), the one rounding of R243 and R244, FP32 arithmetic
(R166), the exponent choice of R264, and the saturation counters (R254 to R262). Every finite value is dyadic. -/

namespace Sys2Proof.Machine

/-! ## Exact values -/

/-- A value of any format: `num m e` is `m × 2^e` with `m ≠ 0`. -/
inductive Val where
  | nan
  | inf (neg : Bool)
  | zero (neg : Bool)
  | num (m e : Int)
  deriving DecidableEq, Repr

def bitLen (n : Nat) : Nat := if n = 0 then 0 else Nat.log2 n + 1

def intVal (i : Int) : Val := if i = 0 then .zero false else .num i 0

/-- `v × 2^k`. -/
def scaleVal (v : Val) (k : Int) : Val := match v with | .num m e => .num m (e + k) | x => x
def negVal : Val → Val
  | .nan => .nan
  | .inf n => .inf (!n)
  | .zero n => .zero (!n)
  | .num m e => .num (-m) e
def isNeg : Val → Bool
  | .nan => false
  | .inf n => n
  | .zero n => n
  | .num m _ => decide (m < 0)

/-- The product, exact. -/
def mulVal (a b : Val) : Val :=
  let n := isNeg a != isNeg b
  match a, b with
  | .nan, _ => .nan
  | _, .nan => .nan
  | .inf _, .zero _ => .nan
  | .zero _, .inf _ => .nan
  | .inf _, _ => .inf n
  | _, .inf _ => .inf n
  | .zero _, _ => .zero n
  | _, .zero _ => .zero n
  | .num x e, .num y f => .num (x * y) (e + f)

/-- The sum, exact; an exact zero is +0 unless both terms are -0 (IEEE 754, round to nearest). -/
def addVal (a b : Val) : Val :=
  match a, b with
  | .nan, _ => .nan
  | _, .nan => .nan
  | .inf n, .inf m => if n = m then .inf n else .nan
  | .inf n, _ => .inf n
  | _, .inf n => .inf n
  | .zero n, .zero m => .zero (n && m)
  | .zero _, y => y
  | x, .zero _ => x
  | .num x e, .num y f =>
    let lo := min e f
    let s := x * 2 ^ (e - lo).toNat + y * 2 ^ (f - lo).toNat
    if s = 0 then .zero false else .num s lo

/-- Exact comparison of values that are not NaN: `a < b`. -/
def ltVal (a b : Val) : Bool :=
  match addVal b (negVal a) with
  | .num m _ => decide (0 < m)
  | .inf n => !n
  | _ => false
def eqVal (a b : Val) : Bool :=
  match a, b with
  | .nan, _ => false
  | _, .nan => false
  | .inf n, .inf m => n == m
  | _, _ => (match addVal b (negVal a) with | .zero _ => true | _ => false)

/-! ## Formats (R237 to R242) -/

def fmtBits (f : Nat) : Nat := [2, 2, 4, 4, 4, 8, 8, 8, 8, 16, 16, 16, 24, 32, 32, 4].getD f 0

/-- End points of an integer format (R239, R245 for TERN). -/
def intRange (f : Nat) : Int × Int :=
  match f with
  | 0x0 => (-2, 1)
  | 0x1 => (-1, 1)
  | 0x2 => (-8, 7)
  | 0x3 => (0, 15)
  | 0x5 => (-128, 127)
  | 0x6 => (0, 255)
  | 0x9 => (-32768, 32767)
  | 0xC => (-8388608, 8388607)
  | 0xD => (-2147483648, 2147483647)
  | _ => (0, 15)

/-- Exponent bits, fraction bits and bias of a floating format (R242). -/
def fpParams (f : Nat) : Option (Nat × Nat × Nat) :=
  match f with
  | 0x7 => some (4, 3, 7)
  | 0x8 => some (5, 2, 15)
  | 0xA => some (5, 10, 15)
  | 0xB => some (8, 7, 127)
  | 0xE => some (8, 23, 127)
  | _ => none

/-- The code of the largest finite value of a floating format. -/
def fpMax (f eb fb : Nat) : Nat := if f = 0x7 then 0x7E else (2 ^ eb - 1) * 2 ^ fb - 1

/-- The value of a floating code; FP32 subnormals are zeros (R166). -/
def fpVal (f eb fb bias c : Nat) : Val :=
  let neg := bitOf c (eb + fb)
  let ex := fld c fb eb
  let fr := fld c 0 fb
  let sgn (m : Nat) : Int := if neg then -(m : Int) else m
  if f = 0x7 ∧ ex = 15 ∧ fr = 7 then .nan
  else if f ≠ 0x7 ∧ ex = 2 ^ eb - 1 then (if fr = 0 then .inf neg else .nan)
  else if ex = 0 then
    (if fr = 0 ∨ f = 0xE then .zero neg else .num (sgn fr) (1 - (bias : Int) - fb))
  else .num (sgn (2 ^ fb + fr)) ((ex : Int) - bias - fb)

/-- The value of a code (R237 to R242, R247); a TERN element is a trit, given as two bits. -/
def elemVal (f c : Nat) : Val :=
  match fpParams f with
  | some (eb, fb, bias) => fpVal f eb fb bias c
  | none =>
    if f = 0x4 then
      let e := c % 8
      if e = 0 then .zero false else .num (if bitOf c 3 then -1 else 1) ((e : Int) - 1)
    else if f = 0x3 ∨ f = 0x6 ∨ f = 0xF then intVal c
    else intVal (sext (fmtBits f) c)

/-! ## The conversion of R243 to R245 -/

/-- `|m| × 2^e` on the grid of a floating format without a largest exponent: the code without its sign. -/
def fpMag (fb bias : Nat) (m : Nat) (e : Int) : Nat :=
  let q := max ((bitLen m : Int) - 1 + e - fb) (1 - (bias : Int) - fb)
  let r : Nat :=
    if q ≤ e then m * 2 ^ (e - q).toNat
    else if (bitLen m : Int) + 1 < q - e then 0
    else (rneShift m (q - e).toNat).toNat
  ((q + fb + bias - 1) * 2 ^ fb + r).toNat

/-- The nearest integer to `m × 2^e`, ties to even, limited to what any format or accumulator can hold. -/
def rneInt (m e : Int) : Int :=
  if e ≤ 0 then (if (bitLen m.natAbs : Int) + 1 < -e then 0 else rneShift m (-e).toNat)
  else m * 2 ^ (min e 64).toNat

/-- The nearest LOG4 magnitude exponent field of `a × 2^e`, without an upper bound; 0 is zero (R241, R244). -/
def log4Field (a : Nat) (e : Int) : Nat :=
  let k := (bitLen a : Int) - 1 + e
  -- `a × 2^e` lies in `[2^k, 2^(k+1))`; its middle is `3 × 2^(k-1)`
  let mid := 3 * 2 ^ (bitLen a)
  let two := 4 * a
  if k < -1 then 0
  else if k = -1 then (if a = 2 ^ (bitLen a - 1) then 0 else 1)
  else
    let f := k.toNat + 1
    if two < mid then f else if mid < two then f + 1 else if f % 2 = 0 then f else f + 1

/-- cvt (R244, R245): the code and whether a saturation event is counted. -/
def cvt (f : Nat) (v : Val) : Nat × Bool :=
  match fpParams f with
  | some (eb, fb, bias) =>
    let s (neg : Bool) : Nat := b2n neg * 2 ^ (eb + fb)
    match v with
    | .nan => (if f = 0x7 then 0x7F else (2 ^ eb - 1) * 2 ^ fb + 2 ^ (fb - 1), false)
    | .inf n => if f = 0x7 then (s n + 0x7E, true) else (s n + (2 ^ eb - 1) * 2 ^ fb, false)
    | .zero n => (s n, false)
    | .num m e =>
      let n := decide (m < 0)
      let g := fpMag fb bias m.natAbs e
      if fpMax f eb fb < g then (s n + fpMax f eb fb, true)
      else if f = 0xE ∧ g < 2 ^ fb then (s n, false)
      else (s n + g, false)
  | none =>
    if f = 0x4 then
      match v with
      | .nan => (0, true)
      | .inf n => (7 + b2n n * 8, true)
      | .zero _ => (0, false)
      | .num m e =>
        let g := log4Field m.natAbs e
        let n := b2n (decide (m < 0)) * 8
        if g = 0 then (0, false) else if 7 < g then (7 + n, true) else (g + n, false)
    else
      let (lo, hi) := intRange f
      let code (i : Int) : Nat := twos (fmtBits f) i
      match v with
      | .nan => (0, true)
      | .inf n => (code (if n then lo else hi), true)
      | .zero _ => (0, false)
      | .num m e =>
        let i := rneInt m e
        (code (clampI lo hi i), decide (i < lo) || decide (hi < i))

/-- The value lies within the format's finite values once rounded (R264 `fits`). -/
def fits (f : Nat) (v : Val) : Bool := !(cvt f v).2

/-- dyn_exp (R264): the least exponent from -32 to 31 with which every value fits; 31 if none does. -/
def dynExpFrom (f : Nat) (xs : List Val) (e : Int) : Nat → Int
  | 0 => 31
  | n + 1 => if xs.all (fun x => fits f (scaleVal x (-e))) then e else dynExpFrom f xs (e + 1) n

def dynExp (f : Nat) (xs : List Val) : Int := dynExpFrom f xs (-32) 64

/-! ## FP32 arithmetic (R166) -/

def fpNan : U32 := 0x7FC00000

def fp32Val (w : U32) : Val := elemVal 0xE w.toNat

/-- One rounding to FP32; an overflow is an infinity, a subnormal result a zero of its sign. -/
def fp32Of (v : Val) : U32 :=
  match v with
  | .num m e =>
    let g := fpMag 23 127 m.natAbs e
    let s := b2n (decide (m < 0)) * 2 ^ 31
    BitVec.ofNat 32 (if 0x7F7FFFFF < g then s + 0x7F800000 else if g < 2 ^ 23 then s else s + g)
  | x => BitVec.ofNat 32 (cvt 0xE x).1

def fpAdd (a b : U32) : U32 := fp32Of (addVal (fp32Val a) (fp32Val b))
def fpSub (a b : U32) : U32 := fp32Of (addVal (fp32Val a) (negVal (fp32Val b)))
def fpMul (a b : U32) : U32 := fp32Of (mulVal (fp32Val a) (fp32Val b))
/-- `d + a × b` with one rounding. -/
def fpFma (d a b : U32) : U32 := fp32Of (addVal (fp32Val d) (mulVal (fp32Val a) (fp32Val b)))
def fpLt (a b : U32) : Bool := ltVal (fp32Val a) (fp32Val b)
def fpEq (a b : U32) : Bool := eqVal (fp32Val a) (fp32Val b)
/-- A lane with its subnormal replaced by a zero. -/
def fpFlush (a : U32) : U32 := fp32Of (fp32Val a)

/-- VMIN and VMAX of FP32 lanes. With a NaN operand any FP32 result that R166 admits; of zeros of two signs, either. -/
def fpMinMax (mx : Bool) (a b : U32) : U32 :=
  match fp32Val a, fp32Val b with
  | .nan, _ => fpFlush (Config.minMaxOpen mx a b)
  | _, .nan => fpFlush (Config.minMaxOpen mx a b)
  | .zero n, .zero m => if n = m ∨ (Config.minMaxOpen mx a b).getLsbD 0 = true then fpFlush a else fpFlush b
  | x, y => if ltVal x y != mx then fpFlush a else fpFlush b

/-! ## The functions of VFN (R175) -/

/-- Integer square root by its bits. -/
def isqrtFrom (n acc : Nat) : Nat → Nat
  | 0 => acc
  | k + 1 => if (acc + 2 ^ k) * (acc + 2 ^ k) ≤ n then isqrtFrom n (acc + 2 ^ k) k else isqrtFrom n acc k
def isqrt (n : Nat) : Nat := isqrtFrom n 0 (bitLen n / 2 + 1)

/-- `2^(2^-k)` for `k` from 1, in units of 2^-128. -/
def rootOfTwo : Nat → Nat
  | 0 => 2 ^ 129
  | k + 1 => isqrt (rootOfTwo k * 2 ^ 128)

/-- `2^f` for a fraction of `n` bits, in units of 2^-128. -/
def exp2Frac (f n : Nat) : Nat :=
  (List.range n).foldl (fun a k => if f.testBit (n - 1 - k) then a * rootOfTwo (k + 1) / 2 ^ 128 else a) (2 ^ 128)

/-- Fraction bits of the base-2 logarithm of `m / 2^128` in [1, 2), `n` of them. -/
def log2Frac (m acc : Nat) : Nat → Nat
  | 0 => acc
  | n + 1 =>
    let q := m * m / 2 ^ 128
    if 2 ^ 129 ≤ q then log2Frac (q / 2) (2 * acc + 1) n else log2Frac q (2 * acc) n

/-- The exact function to far more than FP32 precision, for an operand where R175 defines it. -/
def vfnExact (fn : Nat) (m e : Int) : Option Val :=
  let a := m.natAbs
  let k := (bitLen a : Int) - 1 + e
  match fn with
  | 0 =>
    if 10 ≤ k then some (.num 1 (if m < 0 then -4096 else 4096))
    else
      let x : Int := if 60 ≤ -e then m / 2 ^ (-e - 60).toNat else m * 2 ^ (60 + e).toNat
      some (.num ((exp2Frac (x % 2 ^ 60).toNat 60 : Nat) : Int) (x / 2 ^ 60 - 128))
  | 1 =>
    if m < 0 then none
    else
      let f := log2Frac (a * 2 ^ (129 - bitLen a)) 0 96
      let v : Int := k * 2 ^ 96 + (f : Int)
      some (if v = 0 then .zero false else .num v (-96))
  | 2 => some (.num ((if m < 0 then -1 else 1) * ((2 ^ 128 / a : Nat) : Int)) (-128 - e))
  | _ =>
    if m < 0 then none
    else
      let (a, e) := (if e % 2 = 0 then (a, e) else (2 * a, e - 1) : Nat × Int)
      some (.num (Int.ofNat (isqrt (2 ^ 192 / a))) (-96 - e / 2))

/-- A finite result moved by `k` units in the last place, its sign and finiteness kept. -/
def moveUlps (w : U32) (k : Int) : U32 :=
  let g : Nat := w.toNat % 2 ^ 31
  if g < 2 ^ 23 ∨ 0x7F800000 ≤ g then w
  else BitVec.ofNat 32 (w.toNat / 2 ^ 31 * 2 ^ 31 + (clampI 0x800000 0x7F7FFFFF ((g : Int) + k)).toNat)

/-- A value lies within 2^-22 of `v`, relative to `v` (R175). -/
def nearVal (w v : Val) : Bool :=
  match addVal w (negVal v), v with
  | .zero _, _ => true
  | .num d de, .num m e => !ltVal (.num (m.natAbs : Nat) e) (.num (d.natAbs : Nat) (de + 22))
  | _, _ => false

/-- A result of VFN whose exact value is `v`: an FP32 value within the bound, else the nearest one. -/
def vfnNear (fn : Nat) (x : U32) (v : Val) : U32 :=
  let near := fp32Of v
  let w := moveUlps near (clampI (-5) 5 (Config.vfnError fn x))
  if nearVal (fp32Val w) v then w else near

/-- VFN (R175). A result that the spec does not state is any FP32 value that R166 admits. -/
def vfn (fn : Nat) (x : U32) : U32 :=
  match fp32Val x with
  | .nan => fpNan
  | .inf _ => fpFlush (Config.vfnOpen fn x)
  | .zero _ => if fn = 0 then vfnNear fn x (.num 1 0) else fpFlush (Config.vfnOpen fn x)
  | .num m e =>
    match vfnExact fn m e with
    | none => fpFlush (Config.vfnOpen fn x)
    | some v => vfnNear fn x v

/-! ## Saturation counters (R255 to R259) -/

/-- The window length in force; settings below 10 act as 10 (R261). -/
def satWindow (c : SatCtr) : Nat := 2 ^ (max 10 c.winLog2.toNat)

/-- A drift event of job `j` on counter `n` (R259). -/
def driftLog (s : State) (n : Nat) (j : Job) : State :=
  let c := getSat s n
  logRec s 0x05 0 { fn := some j.fn.toNat, slot := some j.slot.toNat, utype := 14, unit := n, aux := n,
                    detail := c.thresh.toNat, detail2 := c.winSat }

/-- One event (R256). -/
def satEvent (s : State) (n jn : Nat) : State :=
  let s := modSat s n (fun c => { c with evt := satAdd 64 c.evt 1, winSat := satAdd 32 c.winSat 1 })
  let s := modJob s jn (fun j => { j with satEvents := j.satEvents + 1 })
  let c := getSat s n
  if c.thresh ≠ 0 ∧ !c.winDrift ∧ c.thresh.toNat ≤ c.winSat then
    let s := modSat s n (fun c => { c with winDrift := true, drift := true, drifts := satAdd 16 c.drifts 1 })
    let s := modJob s jn (fun j => { j with driftEvents := j.driftEvents + 1 })
    match getJob s jn with
    | some j => driftLog s n j
    | none => s
  else s

/-- One output (R256). -/
def satOutput (s : State) (n : Nat) : State :=
  modSat s n (fun c =>
    let c := { c with outs := satAdd 64 c.outs 1, winOut := satAdd 32 c.winOut 1 }
    if satWindow c ≤ c.winOut then { c with winOut := 0, winSat := 0, winDrift := false } else c)

/-- The counter that a job's elements reach: 0 for one that its slot does not hold (R255). -/
def satTarget (s : State) (jn n : Nat) : Nat :=
  match getJob s jn with
  | some j => if n ≠ 0 ∧ (getSat s n).holder = j.slot ∧ j.slot ≠ 0 then n else 0
  | none => 0

/-- Elements with their events, oldest first; each is an output if `outs`. -/
def satElems (s : State) (jn n : Nat) (outs : Bool) (es : List Bool) : State :=
  let t := satTarget s jn n
  es.foldl (fun s ev =>
    let s := if ev then satEvent s t jn else s
    if outs then satOutput s t else s) s

/-! ## The saturation counter commands (R261, R262) -/

def restartWindow (c : SatCtr) : SatCtr := { c with winSat := 0, winOut := 0, winDrift := false }

/-- A write of FLT_SAT_CFG or FLT_SAT_THRESH (R262). -/
def execSatCfgWrite (thresh : Bool) (w : U32) (s : State) : Out State :=
  .next (bar0 s 0 true fun s => modSat s (reg s 0x94000 % 4096) (fun c =>
    restartWindow (if thresh then { c with thresh := w } else { c with winLog2 := BitVec.ofNat 5 w.toNat })))

/-- CLR and CLR_ALL (R262): counts, flags and windows, not the configuration. -/
def clearSat (c : SatCtr) : SatCtr :=
  { c with winSat := 0, winOut := 0, winDrift := false, evt := 0, outs := 0, drift := false, drifts := 0 }

def execSatClr (s : State) : Out State := .next (bar0 s 0 true fun s => modSat s (reg s 0x94000 % 4096) clearSat)

def execSatClrAll (s : State) : Out State :=
  .next (bar0 s 0 true fun s => (s.satCtrs.map (·.1)).foldl (fun s n => modSat s n clearSat) s)

end Sys2Proof.Machine
end

