-- ==== Sys2Proof/Machine/Frontend.lean ====
section
/-! DEFINITION. Frontend.lean: the front-end program of a Tier 0 version on an Edging engine (R308 to R311). -/

namespace Sys2Proof.Machine

/-! ## Coefficients and state -/

/-- Bytes of a front-end coefficient unit (R343). -/
def coefUnitBytes : Nat := 131072

/-- Gallery offset of byte `o` of a version's coefficients; `units` is its unit list (R343). -/
def coefByte (units : List Nat) (o : Nat) : Nat := galCoef + (units[o / coefUnitBytes]?.getD 0) * coefUnitBytes + o % coefUnitBytes

/-- `n` bytes of a version's coefficients from byte `o`, unit by unit; `o` and a unit are multiples of 8. -/
def readCoefs (s : State) (units : List Nat) (o n : Nat) : Nat → Bytes × State
  | 0 => ([], s)
  | fuel + 1 =>
    if n = 0 then ([], s)
    else
      let k := min n (coefUnitBytes - o % coefUnitBytes)
      let off := coefByte units o
      let s := mendWords s off (8 * ((k + 7) / 8))
      let (b, s) := memRd s spGal off k
      let (r, s) := readCoefs s units (o + k) (n - k) fuel
      (b ++ r, s)

/-- Little-endian signed elements of `w` bytes. -/
def signedElems (w n : Nat) (b : Bytes) : List Int := (List.range n).map (fun i => sext (8 * w) (leAt b (w * i) w))

/-- The value of a sample element (R310): its integer value, or its floating value. -/
def sampleVal (sfmt : Nat) (b : Bytes) (i : Nat) : Val := elemVal sfmt (leAt b (fmtBytes sfmt * i) (fmtBytes sfmt))

/-! ## The stages (R310) -/

/-- What a stage works on: the step's samples, the vector before it, its coefficients and its state. -/
structure FeIn where
  sfmt : Nat
  chans : Nat
  stepLen : Nat
  unitB : Nat
  samples : Bytes
  x : List Int
  /-- Format of `x`. -/
  xfmt : Nat
  coefs : Bytes
  state : Bytes

/-- The exact value of one output before its conversion, and what the stage leaves: its clamps before that
conversion, its new state. -/
structure FeOut where
  vals : List Val
  clamps : Nat := 0
  state : Bytes := []
  macs : Nat := 0
  /-- Outputs that take the smallest value of OFMT, uncounted (LOG2 of a value that is not positive). -/
  floor : List Bool := []

/-- WINDOW: the ring of the last `n` values, oldest first. -/
def feWindow (i : FeIn) (g : FeStage) : FeOut :=
  let news := (List.range i.stepLen).map (fun k => cvt 0x9 (scaleVal (sampleVal i.sfmt i.samples (k * i.chans + g.param % 16)) g.sh))
  let old := signedElems 2 (g.nOut - i.stepLen) i.state
  let all := old ++ news.map (fun c => sext 16 c.1)
  let ring := all.drop (all.length - g.nOut)
  let cs := signedElems 2 g.nOut i.coefs
  { vals := (List.range g.nOut).map (fun k => scaleVal (intVal (ring[k]?.getD 0 * cs[k]?.getD 0)) (-15))
    clamps := (news.filter (·.2)).length
    state := (ring.drop (ring.length - (g.nOut - i.stepLen))).flatMap (fun v => natLE 2 (twos 16 v))
    macs := g.nOut }

def feFlat (i : FeIn) (g : FeStage) : FeOut :=
  { vals := (List.range g.nOut).map (fun k => scaleVal (sampleVal i.sfmt i.samples k) g.sh) }

def dotInt (a b : List Int) : Int := (a.zip b).foldl (fun t p => t + p.1 * p.2) 0

def feMatvec (i : FeIn) (g : FeStage) : FeOut :=
  let n := i.x.length
  let w := if bitOf g.param 0 then 2 else 1
  { vals := (List.range g.nOut).map (fun r => scaleVal (intVal (dotInt (signedElems w n (i.coefs.drop (r * n * w))) i.x)) g.sh)
    macs := g.nOut * n }

def fePower (i : FeIn) (g : FeStage) : FeOut :=
  let at_ (k : Nat) : Int := i.x[k]?.getD 0
  let f (k : Nat) : Int :=
    match g.param % 4 with
    | 0 => at_ (2 * k) * at_ (2 * k) + at_ (2 * k + 1) * at_ (2 * k + 1)
    | 1 => at_ k * at_ k
    | _ => ((at_ k).natAbs : Int)
  { vals := (List.range g.nOut).map (fun k => scaleVal (intVal (f k)) g.sh) }

/-- The base-2 logarithm of a positive integer, exact to 2^-96. -/
def intLog2 (x : Nat) : Int := ((bitLen x : Int) - 1) * 2 ^ 96 + (log2Frac (x * 2 ^ (129 - bitLen x)) 0 96 : Nat)

/-- LOG2: within 2^-12 of the exact value, on the scale before or after the shift, whichever is larger. -/
def feLog2 (i : FeIn) (g : FeStage) : FeOut :=
  { vals := i.x.map (fun v =>
      if v ≤ 0 then .zero false
      else
        let e := clampI (-4096) 4096 (Config.log2Error (BitVec.ofInt 32 v))
        addVal (scaleVal (.num (intLog2 v.toNat) (-96)) g.sh)
          (if e = 0 then .zero false else .num e (-24 + max 0 g.sh)))
    floor := i.x.map (fun v => decide (v ≤ 0)) }

def feDiff (i : FeIn) (g : FeStage) : FeOut :=
  let w := fmtBytes i.xfmt
  let p (k : Nat) : Int := if i.xfmt = 0x6 then leAt i.state (w * k) w else sext (8 * w) (leAt i.state (w * k) w)
  { vals := (i.x.zipIdx).map (fun (v, k) => scaleVal (intVal (v - p k)) g.sh)
    state := i.x.flatMap (fun v => natLE w (twos (8 * w) v)) }

def feAffine (i : FeIn) (g : FeStage) : FeOut :=
  { vals := (i.x.zipIdx).map (fun (v, k) =>
      scaleVal (intVal (v * sext 16 (leAt i.coefs (8 * k) 2) + sext 32 (leAt i.coefs (8 * k + 4) 4))) g.sh) }

def fePool2d (i : FeIn) (g : FeStage) : FeOut :=
  let tw := fld g.param 0 10
  let th := fld g.param 10 10
  let tc := fld g.param 20 2 + 1
  let f := 2 ^ fld g.param 22 3
  let last := i.samples.drop ((i.stepLen - 1) * i.unitB)
  let ow := tw / f
  { vals := (List.range (th / f)).flatMap (fun y => (List.range ow).flatMap (fun x => (List.range tc).map (fun c =>
      scaleVal (intVal ((List.range f).foldl (fun a dy => (List.range f).foldl (fun a dx =>
        a + (leAt last (((y * f + dy) * tw + x * f + dx) * tc + c) 1 : Nat)) a) (0 : Int))) g.sh))) }

def feEvbin (i : FeIn) (g : FeStage) : FeOut :=
  let csh := fld g.param 0 4
  let gw := fld g.param 4 12
  let gh := fld g.param 16 12
  let cells := (List.range i.stepLen).filterMap (fun k =>
    let e := i.samples.drop (k * i.unitB)
    let cx := leAt e 0 2 / 2 ^ csh
    let cy := leAt e 2 2 / 2 ^ csh
    if cx < gw ∧ cy < gh then some ((cy * gw + cx) * 2 + leAt e 4 1 % 2) else none)
  { vals := (List.range g.nOut).map (fun k => scaleVal (intVal ((cells.filter (· == k)).length : Nat)) g.sh) }

def feStageRun (i : FeIn) (g : FeStage) : FeOut :=
  match g.op with
  | 1 => feWindow i g
  | 2 => feFlat i g
  | 3 => feMatvec i g
  | 4 => fePower i g
  | 5 => feLog2 i g
  | 6 => feDiff i g
  | 7 => feAffine i g
  | 8 => fePool2d i g
  | _ => feEvbin i g

/-- The outputs of a stage in its format, and how many clamped. -/
def feConvert (o : FeOut) (ofmt : Nat) : List Int × Nat :=
  let r := (o.vals.zipIdx).map (fun (v, k) =>
    if o.floor[k]?.getD false then ((intRange ofmt).1, false)
    else
      let (c, b) := cvt ofmt v
      ((if ofmt = 0x6 then (c : Int) else sext (fmtBits ofmt) c), b))
  (r.map (·.1), (r.filter (·.2)).length)

/-- Bytes of state of stage `k`. -/
def feStateOf (f : Front) (stepLen k : Nat) : Nat :=
  match f.stages[k]? with
  | some g => if g.op = 1 then 2 * (g.nOut - stepLen)
    else if g.op = 6 then (match f.stages[k - 1]? with | some p => p.nOut * fmtBytes p.ofmt | none => 0)
    else 0
  | none => 0

/-- Bytes of coefficients that a stage reads; its input has `nIn` elements. -/
def coefBytesOf (g : FeStage) (nIn : Nat) : Nat :=
  match g.op with
  | 1 => 2 * g.nOut
  | 3 => g.nOut * nIn * (if bitOf g.param 0 then 2 else 1)
  | 7 => 8 * nIn
  | _ => 0

/-- The stages from `k` on, with the offset of their state. -/
def feChain (s : State) (st : Nat) (f : Front) (units : List Nat) (i : FeIn) (k so : Nat) : List FeStage → State × FeIn
  | [] => (s, i)
  | g :: rest =>
    let n := feStateOf f i.stepLen k
    let off := feStateOff st + so
    let (cs, s) := readCoefs s units g.coef (coefBytesOf g i.x.length) 3
    let (sb, s) := memRd s spGal off n
    let o := feStageRun { i with coefs := cs, state := sb } g
    let (xs, cl) := feConvert o g.ofmt
    let s := c64 (c32 s 0x48054 (o.clamps + cl)) 0x48048 o.macs
    let s := if n = 0 then s else memWr s spGal off o.state
    feChain s st f units { i with x := xs, xfmt := g.ofmt } (k + 1) (so + n) rest

/-- A frame or a layer piece passes in the windows of Edging engines (R410); which engine runs a frame is open. -/
def edgPass (s : State) (e : Option Nat) : State :=
  if !s.flt.wins.any (fun w => w.1 / 2 ^ 40 == 5) then s
  else match e with
    | some e => winPass s (winKey 5 e) 1
    | none => let (n, s) := takeFree s; winPass s (winKey 5 ((Config.freeWord n).toNat % 4)) 1

/-- The front-end of the open step of `st` under version `v`: the frame goes to the staging frame. -/
def runFrontend (s : State) (st : Nat) (v : Version) (f : Front) : State :=
  let x := getStream s st
  let c := x.ctx
  let s := mendWords s (feStateOff st) 512
  let i : FeIn := { sfmt := c.sfmt.toNat, chans := c.chan.toNat + 1, stepLen := c.stepLen.toNat, unitB := f.unitB,
                    samples := x.stepBuf, x := [], xfmt := 0, coefs := [], state := [] }
  let (s, i) := feChain s st f v.coef i 0 0 f.stages
  let out := bytesAt (i.x.flatMap (fun w => natLE (fmtBytes i.xfmt) (twos (8 * fmtBytes i.xfmt) w))) 0 f.frameB
  let s := edgPass (c64 (memWr s spGal (stagingOff st) out) 0x48040 1) none
  modStream s st (fun x => { x with frameReady := true })

/-! ## The order of work of an Edging engine (R305) -/

/-- The front-end work of a stream, if its open step is ready: every sample has been read, and the step before has closed. -/
def feWork (s : State) (st : Nat) : Option (Version × Front) :=
  match getInst s st with
  | none => none
  | some i => if !stepReady (getStream s st) i then none
    else match versionOf (getSlot s i.slot.toNat) i.inB with
      | none => none
      | some v => (frontOf v.image).map (fun f => (v, f))

/-- Some front-end waits for an engine. -/
def feWaits (s : State) : Bool := s.insts.any (fun e => (feWork s e.1).isSome)

/-- The stream whose front-end an engine takes next: that with the oldest ready step. -/
def feNext (s : State) : Option Nat := (s.feLine.find? (fun q => (feWork s q.toNat).isSome)).map (·.toNat)

/-- The converter's work of a stream: the staging frame of its open step is ready, and the step before has closed (R143). -/
def convWork (s : State) (st : Nat) : Option (Inst × Conv) :=
  let x := getStream s st
  match getInst s st with
  | none => none
  | some i => if x.frameReady && !x.inputDone && x.waiting.isNone && i.waitAck.isNone then (convOf (instPlace s i).img).map (fun c => (i, c)) else none

def convWaits (s : State) : Bool := s.insts.any (fun e => (convWork s e.1).isSome)

/-- FRONTEND_RUN (R305, R308): front-ends run in the order in which their steps became ready. -/
def execFrontendRun (st : StreamId) (s : State) : Out State :=
  .next (live s fun s => match feWork s st.toNat with
    | none => s
    | some (v, f) =>
      if (feNext s).any (· != st.toNat) then s
      else runFrontend { s with feLine := s.feLine.filter (· != st) } st.toNat v f)

/-- CONVERT (R151, R305): no front-end waits. -/
def execConvert (st : StreamId) (s : State) : Out State :=
  .next (live s fun s => match convWork s st.toNat with
    | none => s
    | some (i, c) => if feWaits s then s else convertStep s st.toNat i c (instPlace s i).img)

/-! ## The checks of SLOT_LOAD on a FRONTEND section (R309 to R311) -/

def feOfmtOk (f : Nat) : Bool := f == 0x5 || f == 0x6 || f == 0x9 || f == 0xD

/-- One stage against R309 and R310; `nIn`: outputs of the stage before, none for the first. -/
def feStageOk (f : Front) (g : FeStage) (nIn : Option Nat) : Bool :=
  let n := nIn.getD 0
  let first := nIn.isNone
  feOfmtOk g.ofmt && decide (1 ≤ g.nOut ∧ g.nOut ≤ 4096) && decide (-32 ≤ g.sh ∧ g.sh ≤ 31) && g.coef % 8 == 0 &&
  (coefBytesOf g n == 0 || decide (g.coef + coefBytesOf g n ≤ f.coefB)) &&
  (match g.op with
   | 1 => first && f.kgrp == 0 && decide (g.param < 16)
   | 2 => first && f.kgrp == 0 && g.param == 0
   | 3 => !first && decide (g.param < 2)
   | 4 => !first && decide (g.param < 3) && (if g.param = 0 then n % 2 == 0 && g.nOut == n / 2 else g.nOut == n)
   | 5 => !first && g.param == 0 && g.nOut == n
   | 6 => !first && g.param == 0 && g.nOut == n
   | 7 => !first && g.param == 0 && g.nOut == n
   | 8 =>
     let tw := fld g.param 0 10
     let th := fld g.param 10 10
     let tc := fld g.param 20 2 + 1
     let k := fld g.param 22 3
     first && f.kgrp == 1 && g.param / 2 ^ 25 == 0 && decide (k ≤ 4) && tw % 2 ^ k == 0 && th % 2 ^ k == 0 &&
       f.unitB == tw * th * tc && g.nOut == (tw / 2 ^ k) * (th / 2 ^ k) * tc
   | 9 => first && f.kgrp == 2 && g.param / 2 ^ 28 == 0 && g.nOut == 2 * fld g.param 4 12 * fld g.param 16 12
   | _ => false)

/-- Reserved bytes of the section (R309), which begins at `o` of the image. -/
def feReservedOk (img : Bytes) (o n : Nat) : Bool :=
  leAt img o 1 / 16 == 0 && leAt img (o + 1) 1 / 4 == 0 && leAt img (o + 6) 2 == 0 && leAt img (o + 12) 4 == 0 &&
  (List.range n).all (fun k =>
    let p := o + 16 + 16 * k
    leAt img p 1 / 16 == 0 && leAt img (p + 1) 1 / 16 == 0 && leAt img (p + 5) 3 == 0)

def feStagesOk (f : Front) : List FeStage → Option Nat → Bool
  | [], _ => true
  | g :: r, n => feStageOk f g n && feStagesOk f r (some g.nOut)

/-- R309 to R311 on the FRONTEND section of an image. -/
def frontOk (img : Bytes) : Bool :=
  match findSec img 1 with
  | none => false
  | some (_, o, l) =>
    match frontOf img with
    | none => false
    | some f =>
      decide (16 ≤ l) && decide (1 ≤ f.nstage ∧ f.nstage ≤ 8) && feReservedOk img o f.nstage && decide (f.kgrp < 3) &&
      decide (8 ≤ f.frameB ∧ f.frameB ≤ 1024) && f.frameB % 8 == 0 && decide (f.coefB ≤ 262144) &&
      (if f.kgrp = 0 then f.unitB == 0 else if f.kgrp = 2 then decide (8 ≤ f.unitB) else true) &&
      decide (16 + 16 * f.nstage + f.coefB ≤ l) && feStagesOk f f.stages none &&
      (match f.stages.getLast? with
       | some g => decide (g.nOut * fmtBytes g.ofmt ≤ f.frameB)
       | none => false)

end Sys2Proof.Machine
end

