-- ==== Sys2Proof/Machine/Codec.lean ====
section
/-! DEFINITION. Codec.lean: basis-residual compression (R315 to R339): the block format, snapshots and decoding,
table building, encoding, and DMA_COPY in its three forms (R90). -/

namespace Sys2Proof.Machine

/-! ## CRC-16 (R321) -/

def crc16Bit (c : U16) : U16 := if c.getLsbD 15 then (c <<< 1) ^^^ 0x1021 else c <<< 1
def crc16Byte (c : U16) (b : U8) : U16 := (List.range 8).foldl (fun x _ => crc16Bit x) (c ^^^ ((b.setWidth 16) <<< 8))
def crc16 (bs : Bytes) : Nat := (bs.foldl crc16Byte 0xFFFF#16).toNat

def wrap8 (v : Int) : Int := (v + 128) % 256 - 128
def i8 (b : U8) : Int := b.toInt

/-! ## Blocks (R317 to R322) -/

structure BlockHdr where
  mode : Nat
  r : Nat
  w : Nat
  shift : Nat
  tgen : Nat
  idx : List Nat
  resv : Nat
  crc : Nat
  deriving DecidableEq, Repr

def blockHdr (b : Bytes) : BlockHdr :=
  let h := leAt b 0 8
  { mode := fld h 0 2, r := fld h 2 3, w := fld h 5 4, shift := fld h 9 4, tgen := fld h 13 4
    idx := [fld h 17 6, fld h 23 6, fld h 29 6, fld h 35 6], resv := fld h 41 7, crc := fld h 48 16 }

/-- The size of a block by its header (R322). -/
def blockSize (h : BlockHdr) : Nat := if h.mode = 1 then 1032 else 8 + 32 * h.r + 128 * h.w

/-- The checks of R320 before the CRC. -/
def hdrOk (h : BlockHdr) : Bool :=
  decide (h.mode ≤ 1 ∧ h.r ≤ 4 ∧ h.w ≤ 8) && h.resv == 0 && (List.range 4).all (fun k => decide (k < h.r) || h.idx[k]?.getD 0 == 0) &&
  (if h.mode = 1 then h.r == 0 && h.w == 8 && h.shift == 0 && h.tgen == 0 else decide (32 * h.r + 128 * h.w < 960))

/-- A table in force: its generation and its vectors. -/
structure Table where
  gen : Nat
  vecs : List (List Int)

/-- Residual element `e` of width `w`. -/
def residual (res : Bytes) (w e : Nat) : Int :=
  if w = 0 then 0 else sext w (fld (leAt res (w * e / 8) 3) (w * e % 8) w)

/-- Element (i, j) of a block (R320). -/
def blockElem (h : BlockHdr) (vs : List (List Int)) (coefs : List Bytes) (res : Bytes) (i j : Nat) : U8 :=
  let a := (vs.zip coefs).foldl (fun t p => t + p.1[i]?.getD 0 * sext 8 (leAt p.2 j 1)) (0 : Int)
  BitVec.ofInt 8 (wrap8 (rneShift a h.shift + residual res h.w (32 * i + j)))

/-- decode_block (R320): the 1,024 bytes, or the status. -/
def decodeBlock (hb pay : Bytes) (tabs : List Table) : Nat ⊕ Bytes :=
  let h := blockHdr hb
  if !hdrOk h then .inl stCheckFail
  else if crc16 (hb.take 6 ++ pay) ≠ h.crc then .inl stCheckFail
  else
    let body (vs : List (List Int)) : Bytes :=
      let coefs := (List.range h.r).map (fun k => (pay.drop (32 * k)).take 32)
      let res := pay.drop (32 * h.r)
      (List.range 32).flatMap (fun i => (List.range 32).map (fun j => blockElem h vs coefs res i j))
    if h.r = 0 then .inr (body [])
    else match tabs.find? (fun t => t.gen == h.tgen) with
      | none => .inl stTableGenMiss
      | some t =>
        if (List.range h.r).any (fun k => decide (t.vecs.length ≤ h.idx[k]?.getD 0)) then .inl stCheckFail
        else .inr (body ((List.range h.r).map (fun k => t.vecs[h.idx[k]?.getD 0]?.getD [])))

/-! ## Snapshots (R324 to R328) -/

/-- How a consumer reads `n` bytes from offset `o` of its tensor; `none`: a poisoned word (R357). -/
abbrev Rd := Nat → Nat → Option Bytes

structure CFail where
  status : Nat
  step : Nat
  tgen : Nat := 0
  blk : Nat := 0xFFFFFFFF
  /-- A slot descriptor does not match its complement (R399). -/
  compl : Bool := false

/-- A read that met poison. -/
def poisonFail : CFail := { status := stUncorr, step := 0 }

structure Snap where
  layout : Bool
  nblk : Nat
  bytes : Nat
  tabs : List Table

/-- The fields of a slot descriptor (R325): generation, validity, vectors, TCRC. -/
structure SlotD where
  gen : Nat
  valid : Bool
  n : Nat
  tcrc : Nat

def slotD (w : Nat) : SlotD := { gen := fld w 0 4, valid := bitOf w 4, n := fld w 8 7, tcrc := fld w 16 16 }

/-- Step 1 of R328 on a tensor header. -/
def tensorHdrOk (h : Bytes) : Bool :=
  leAt h 0 4 == 0x4342424E && leAt h 4 1 == 1 && leAt h 5 1 / 2 == 0 && leAt h 6 2 == 0 && leAt h 12 4 == 0 &&
  allZero (bytesAt h 0x24 26) && leAt h 0x3E 2 == crc16 (h.take 16 ++ (h.drop 0x20).take 30)

/-- A slot descriptor matches its complement. -/
def pairOk (w : Nat) : Bool := fld w 32 32 == 0xFFFFFFFF - fld w 0 32

/-- Step 3 of R328 on a slot descriptor. -/
def slotDOk (w : Nat) : Bool :=
  let d := slotD w
  pairOk w && fld w 5 3 == 0 && !bitOf w 15 &&
  (if d.valid then decide (1 ≤ d.n ∧ d.n ≤ 64) else d.n == 0)

def tableVecs (n : Nat) (b : Bytes) : List (List Int) :=
  (List.range n).map (fun v => (List.range 32).map (fun i => sext 8 (leAt b (32 * v + i) 1)))

/-- The tables of the valid slots, with the ranges read; step 5 of R328. -/
def readTables (rd : Rd) (h : Bytes) : List Nat → (CFail ⊕ List Table) × List (Nat × Nat)
  | [] => (.inr [], [])
  | k :: r =>
    let d := slotD (leAt h (0x10 + 8 * k) 8)
    if !d.valid then readTables rd h r
    else
      let o := 0x40 + 0x800 * k
      match rd o (32 * d.n) with
      | none => (.inl poisonFail, [(o, 32 * d.n)])
      | some b =>
        if crc16 b ≠ d.tcrc then (.inl { status := stCheckFail, step := 5 }, [(o, 32 * d.n)])
        else
          let (x, rs) := readTables rd h r
          (match x with
           | .inl f => .inl f
           | .inr ts => .inr ({ gen := d.gen, vecs := tableVecs d.n b } :: ts), (o, 32 * d.n) :: rs)

/-- The snapshot of a tensor (R327, R328 steps 1 to 5); `want`: the layout that the consumer names, if it names one. -/
def snapshot (rd : Rd) (want : Option Bool) : (CFail ⊕ Snap) × List (Nat × Nat) :=
  match rd 0 64 with
  | none => (.inl poisonFail, [(0, 64)])
  | some h =>
    let fail (k : Nat) : CFail := { status := stCheckFail, step := k }
    let layout := bitOf (leAt h 5 1) 0
    let d0 := leAt h 0x10 8
    let d1 := leAt h 0x18 8
    if !tensorHdrOk h then (.inl (fail 1), [(0, 64)])
    else if (match want with | some l => l != layout | none => false) then (.inl (fail 2), [(0, 64)])
    else if !slotDOk d0 || !slotDOk d1 then (.inl { fail 3 with compl := !pairOk d0 || !pairOk d1 }, [(0, 64)])
    else if (slotD d0).valid && (slotD d1).valid && (slotD d0).gen == (slotD d1).gen then (.inl (fail 4), [(0, 64)])
    else
      let (x, rs) := readTables rd h [0, 1]
      (match x with
       | .inl f => .inl f
       | .inr ts => .inr { layout := layout, nblk := leAt h 8 4, bytes := leAt h 0x20 4, tabs := ts }, (0, 64) :: rs)

/-- Block `n` of a tensor (R328 steps 6 to 8): its bytes and its encoded size, with the ranges read. -/
def readBlock (rd : Rd) (sn : Snap) (n : Nat) : (CFail ⊕ (Bytes × Nat)) × List (Nat × Nat) :=
  if sn.nblk ≤ n then (.inl { status := stCheckFail, step := 6, blk := n }, [])
  else
    let io := 0x1040 + 4 * n
    let ir := if sn.layout then [(io, 8)] else []
    match (if sn.layout then rd io 8 else some []) with
    | none => (.inl { poisonFail with blk := n }, ir)
    | some ix =>
      let o := if sn.layout then 8 * leAt ix 0 4 else 0x1040 + 1032 * n
      match rd o 8 with
      | none => (.inl { poisonFail with blk := n }, ir ++ [(o, 8)])
      | some hb =>
        let h := blockHdr hb
        let size := blockSize h
        if sn.layout ∧ (leAt ix 4 4 : Int) * 8 - leAt ix 0 4 * 8 ≠ size then
          (.inl { status := stCheckFail, step := 7, tgen := h.tgen, blk := n }, ir ++ [(o, 8)])
        else if !hdrOk h then (.inl { status := stCheckFail, step := 8, tgen := h.tgen, blk := n }, ir ++ [(o, 8)])
        else match rd (o + 8) (size - 8) with
          | none => (.inl { poisonFail with blk := n }, ir ++ [(o, size)])
          | some pay => match decodeBlock hb pay sn.tabs with
            | .inl st => (.inl { status := st, step := 8, tgen := h.tgen, blk := n }, ir ++ [(o, size)])
            | .inr y => (.inr (y, size), ir ++ [(o, size)])

/-- `count` blocks from block `n`, up to the first that fails: the bytes, the encoded bytes, the failure. -/
def readBlocks (rd : Rd) (sn : Snap) (n : Nat) : Nat → Bytes × Nat × Option CFail × List (Nat × Nat)
  | 0 => ([], 0, none, [])
  | k + 1 =>
    match readBlock rd sn n with
    | (.inl f, rs) => ([], 0, some f, rs)
    | (.inr (y, z), rs) =>
      let (ys, zs, f, rs') := readBlocks rd sn (n + 1) k
      (y ++ ys, z + zs, f, rs ++ rs')

/-! ## Failures (R329, R338, R339) -/

/-- A decode failure that is not poison: counted, logged if the log is free, and recorded (R407). `src`: SOURCE of
R338; `unit`: its physical unit. -/
def codecFail (s : State) (f : CFail) (src unit utype : Nat) (fn slot : Option Nat) : State :=
  let s := if f.compl then fltCheck s else s
  let s := c32 s (if f.status = stTableGenMiss then 0x58034 else 0x58038) 1
  let w := f.status + src * 2 ^ 8 + f.tgen * 2 ^ 12 + f.step * 2 ^ 16 + (unit % 2048) * 2 ^ 20 + 2 ^ 31
  let s := if bitOf s.memLogs.codec.toNat 31 then s
    else { s with memLogs := { s.memLogs with codec := BitVec.ofNat 32 w, codecBlk := BitVec.ofNat 32 f.blk } }
  logRec s 0x07 2 { status := f.status, fn := fn, slot := slot, utype := utype, unit := unit, detail := f.blk, detail2 := w }

/-! ## Building a table (R330) -/

/-- A block by columns. -/
abbrev Cols := List (List Int)

def blockCols (b : Bytes) : Cols :=
  let v := b.map i8
  (List.range 32).map (fun j => (List.range 32).map (fun i => v[32 * i + j]?.getD 0))

def maxAbs (v : List Int) : Nat := v.foldl (fun m x => max m x.natAbs) 0

def doubleUp (v : List Int) : Nat → List Int
  | 0 => v
  | n + 1 => if maxAbs v ≤ 63 then doubleUp (v.map (2 * ·)) n else v

/-- A column as it would join the table; `none`: it is too small. -/
def normColumn (v : List Int) : Option (List Int) :=
  if maxAbs v < 4 then none
  else
    let v := if maxAbs v = 128 then v.map (rneShift · 1) else v
    let v := doubleUp v 5
    some (match v.find? (· != 0) with | some x => if x < 0 then v.map (- ·) else v | none => v)

/-- A vector of the table lies within the angle of R330. -/
def nearVec (v t : List Int) : Bool :=
  let d := dotInt v t
  decide (15 * dotInt v v * dotInt t t ≤ 16 * d * d)

def addColumn (tab : List (List Int)) (v : List Int) : List (List Int) :=
  match normColumn v with
  | none => tab
  | some v => if tab.length < 64 ∧ !tab.any (nearVec v) then tab ++ [v] else tab

/-- build_table over the `nblk` blocks of `src`. -/
def buildTable (src : Bytes) (nblk : Nat) : List (List Int) :=
  let step := (nblk + 65535) / 65536
  (List.range ((nblk + step - 1) / max 1 step)).foldl (fun t k =>
    (blockCols ((src.drop (1024 * (k * step))).take 1024)).foldl addColumn t) []

/-! ## Encoding (R331) -/

structure Coding where
  raw : Bool
  idx : List Nat
  shift : Nat
  coefs : List (List Int)
  w : Nat
  d : List Int

/-- The score of a table vector: each column's division truncates. -/
def scoreOf (x : Cols) (t : List Int) : Nat :=
  (x.map (fun c => ((dotInt c t) * (dotInt c t)).toNat / (dotInt t t).toNat)).sum

/-- Insertion by falling score; equal scores keep rising index. -/
def insScore (e : Nat × Nat) : List (Nat × Nat) → List (Nat × Nat)
  | [] => [e]
  | f :: r => if f.2 < e.2 then e :: f :: r else f :: insScore e r

def scoreOrder (x : Cols) (tab : List (List Int)) : List Nat :=
  ((tab.zipIdx).foldl (fun l (t, k) => insScore (k, scoreOf x t) l) []).map (·.1)

/-- One term: its coefficients and the sum with it. -/
def encTerm (x a : Cols) (t : List Int) (sh : Nat) : List Int × Cols :=
  let den := (dotInt t t).toNat
  let cs := (x.zip a).map (fun (xc, ac) => rneDiv (dotInt ((xc.zip ac).map (fun p => p.1 * 2 ^ sh - p.2)) t) den)
  (cs, (a.zip cs).map (fun (ac, c) => (ac.zip t).map (fun p => p.1 + p.2 * c)))

/-- The terms `ts` at shift `sh`: the sum and coefficients, if every coefficient fits. -/
def encTerms (x : Cols) (sh : Nat) (a : Cols) : List (List Int) → Option (Cols × List (List Int))
  | [] => some (a, [])
  | t :: r =>
    let (cs, a') := encTerm x a t sh
    if cs.any (fun c => decide (c < -128 ∨ 127 < c)) then none
    else (encTerms x sh a' r).map (fun p => (p.1, cs :: p.2))

/-- The largest shift at which all coefficients fit. -/
def encShift (x : Cols) (ts : List (List Int)) : Nat → Option (Nat × Cols × List (List Int))
  | 0 => (encTerms x 0 (x.map (·.map (fun _ => 0))) ts).map (fun p => (0, p.1, p.2))
  | s + 1 =>
    match encTerms x (s + 1) (x.map (·.map (fun _ => 0))) ts with
    | some p => some (s + 1, p.1, p.2)
    | none => encShift x ts s

/-- width of R331. -/
def widthOf (d : List Int) : Nat :=
  (findBelow (fun w => d.all (fun v => if w = 0 then v == 0 else decide (-(2 ^ (w - 1) : Int) ≤ v ∧ v < (2 ^ (w - 1) : Int)))) 9).getD 8

/-- Element order of a block given by columns. -/
def rowMajor (c : Cols) : List Int := (List.range 32).flatMap (fun i => c.map (fun col => col[i]?.getD 0))

def rawCoding : Coding := { raw := true, idx := [], shift := 0, coefs := [], w := 8, d := [] }

/-- encode_block (R331). -/
def encodeBlock (x : Cols) (tab : List (List Int)) : Coding :=
  let ord := scoreOrder x tab
  ((List.range (min 4 tab.length + 1)).foldl (fun (best : Coding × Nat) r =>
    let ts := (ord.take r).map (fun k => tab[k]?.getD [])
    match encShift x ts (if r = 0 then 0 else 15) with
    | none => best
    | some (sh, a, cs) =>
      let d := (rowMajor x).zip (rowMajor a) |>.map (fun p => wrap8 (p.1 - rneShift p.2 sh))
      let size := 32 * r + 128 * widthOf d
      if size < 960 ∧ size < best.2 then
        ({ raw := false, idx := ord.take r, shift := sh, coefs := cs, w := widthOf d, d := d }, size)
      else best) (rawCoding, 1024)).1

/-- The bytes of a coded block (R317 to R319, R321). -/
def codedBytes (c : Coding) (raw : Bytes) (gen : Nat) : Bytes :=
  let r := c.idx.length
  let h := if c.raw then 1 + 8 * 2 ^ 5
    else r * 4 + c.w * 2 ^ 5 + c.shift * 2 ^ 9 + (if r = 0 then 0 else gen) * 2 ^ 13 +
      (c.idx.zipIdx).foldl (fun t (i, k) => t + i * 2 ^ (17 + 6 * k)) 0
  let pay := if c.raw then raw
    else c.coefs.flatMap (fun v => v.map (BitVec.ofInt 8 ·)) ++
      natLE (128 * c.w) ((c.d.foldr (fun v t => twos c.w v + 2 ^ c.w * t) 0))
  let h6 := natLE 6 h
  h6 ++ natLE 2 (crc16 (h6 ++ pay)) ++ pay

/-! ## DMA_COPY (R90, R333, R334, R357) -/

structure CopyArgs where
  codec : Nat
  src : Nat × Nat
  dst : Nat × Nat
  len : Nat
  dstMax : Nat

def copyArgs (b : Bytes) : Option CopyArgs :=
  match addrOf (leAt b 16 8), addrOf (leAt b 24 8) with
  | some s, some d => some { codec := leAt b 8 1 % 4, src := s, dst := d, len := leAt b 32 4, dstMax := leAt b 36 4 }
  | _, _ => none

/-- The rules of R90 that do not depend on the data. -/
def copyArgsOk (a : CopyArgs) : Bool :=
  let dlen := if a.codec = 0 then a.len else a.dstMax
  a.len != 0 && a.codec != 3 && (a.codec != 1 || a.len % 1024 == 0) && (a.codec != 0 || decide (a.len ≤ a.dstMax)) &&
  !(a.src.1 == spHost && a.dst.1 == spHost) &&
  !(a.src.1 == a.dst.1 && a.src.1 != spHost && decide (a.src.2 < a.dst.2 + dlen ∧ a.dst.2 < a.src.2 + a.len))

/-- Bytes of a tensor at a device or host address; `none` where a word is poisoned. -/
def rdAt (s : State) (a : Nat × Nat) : Rd := fun o n =>
  match firstPoison s (mkey a.1 (a.2 + o)) n with
  | some _ => none
  | none => some (peek s (mkey a.1 (a.2 + o)) n)

/-- The reads of a tensor take effect. -/
def countReads (s : State) (a : Nat × Nat) (rs : List (Nat × Nat)) : State := rs.foldl (fun t r => (memRd t a.1 (a.2 + r.1) r.2).2) s

/-- The first poisoned key in ranges of a tensor. -/
def poisonIn (s : State) (a : Nat × Nat) (rs : List (Nat × Nat)) : Option Nat :=
  rs.findSome? (fun r => (firstPoison s (mkey a.1 (a.2 + r.1)) r.2).map (fun i => mkey a.1 (a.2 + r.1 + i)))

/-- A copy: bytes up to the first poisoned one. -/
def copyBytes (s : State) (q : DescRef) (fn : FnId) (a : CopyArgs) : State :=
  let k := mkey a.src.1 a.src.2
  match firstPoison s k a.len with
  | none =>
    let (bs, s) := memRd s a.src.1 a.src.2 a.len
    finish (memWr s a.dst.1 a.dst.2 bs) q { status := 0, res0 := BitVec.ofNat 32 a.len }
  | some n =>
    let (bs, s) := memRd s a.src.1 a.src.2 n
    let s := poisonRead (memWr s a.dst.1 a.dst.2 bs) 4 (k + n) (some fn.toNat) stUncorr
    finish s q { status := BitVec.ofNat 8 stUncorr, res0 := BitVec.ofNat 32 n }

/-- Which of the four codec units in service runs a descriptor: the spec leaves it open. -/
def codecUnit (s : State) : Nat × State :=
  let (n, s) := takeFree s
  let us := (List.range 4).filter (fun u => !smGet false s.flt.retired (8 * 4096 + u))
  (us[(Config.freeWord n).toNat % max 1 us.length]?.getD 0, s)

/-- The generation of a new table, from the 64 B at the destination (R333 step 1). -/
def packGen (s : State) (a : Nat × Nat) : Nat × State :=
  let (h, s) := memRd s a.1 a.2 64
  let d0 := leAt h 0x10 8
  let d1 := leAt h 0x18 8
  if !tensorHdrOk h || !slotDOk d0 || !slotDOk d1 then (0, s)
  else
    let g0 := (slotD d0).gen
    let g1 := (slotD d1).gen
    match (slotD d0).valid, (slotD d1).valid with
    | false, false => (0, s)
    | true, false => ((g0 + 1) % 16, s)
    | false, true => ((g1 + 1) % 16, s)
    | true, true =>
      if (g0 + 1) % 16 = g1 then ((g1 + 1) % 16, s)
      else if (g1 + 1) % 16 = g0 then ((g0 + 1) % 16, s)
      else let (n, s) := takeFree s; ((Config.freeWord n).toNat % 16, s)

def slotDWord (gen : Nat) (valid : Bool) (n tcrc : Nat) : Bytes :=
  let w := gen + b2n valid * 16 + n * 2 ^ 8 + tcrc * 2 ^ 16
  natLE 4 w ++ natLE 4 (0xFFFFFFFF - w)

/-- The packed tensor of R326 and R333, from its table, its generation and its blocks. -/
def packedBytes (tab : List (List Int)) (gen nblk : Nat) (blocks : List Bytes) : Bytes × Bytes × Bytes :=
  let tb := tab.flatMap (fun v => v.map (BitVec.ofInt 8 ·))
  let idxB := 8 * ((nblk + 2) / 2)
  let offs := blocks.foldl (fun (l : List Nat × Nat) b => (l.1 ++ [l.2], l.2 + b.length)) ([], 0x1040 + idxB)
  let index := padTo 8 ((offs.1 ++ [offs.2]).flatMap (fun o => natLE 4 (o / 8)))
  let h0 := natLE 4 0x4342424E ++ natLE 2 0x0101 ++ natLE 2 0 ++ natLE 4 nblk ++ natLE 4 0
  let h1 := natLE 4 offs.2 ++ List.replicate 26 0
  let sd0 := if tab.isEmpty then slotDWord gen false 0 0 else slotDWord gen true tab.length (crc16 tb)
  (h0 ++ sd0 ++ slotDWord 0 false 0 0 ++ h1 ++ natLE 2 (crc16 (h0 ++ h1)), tb, index ++ blocks.flatten)

/-- The first pass reads every block, or every step-th of more than 65,536 (R330). -/
def firstPass (s : State) (a : CopyArgs) (nblk : Nat) : State :=
  let step := (nblk + 65535) / 65536
  (List.range ((nblk + step - 1) / max 1 step)).foldl (fun t k => (memRd t a.src.1 (a.src.2 + 1024 * (k * step)) 1024).2) s

/-- PACK of a source already read (R333): the bytes written; `none` if they exceed DST_MAX, nothing being written. -/
def packTo (s : State) (a : CopyArgs) (src : Bytes) : Option Nat × State :=
  let nblk := a.len / 1024
  let (gen, s) := packGen s a.dst
  let tab := buildTable src nblk
  let raws := (List.range nblk).map (fun n => (src.drop (1024 * n)).take 1024)
  let codes := raws.map (fun r => encodeBlock (blockCols r) tab)
  let blocks := (codes.zip raws).map (fun (c, r) => codedBytes c r gen)
  let (hdr, tb, body) := packedBytes tab gen nblk blocks
  let bytes := 0x1040 + body.length
  let s := (memRd (firstPass s a nblk) a.src.1 a.src.2 a.len).2
  let s := if tab.isEmpty then s else c32 s 0x58030 1
  if a.dstMax < bytes then (none, s)
  else
    let s := memWr (memRd s a.src.1 a.src.2 a.len).2 a.dst.1 (a.dst.2 + 0x1040) body
    let s := memWr s a.dst.1 (a.dst.2 + 0x40) tb
    let s := memWr s a.dst.1 a.dst.2 hdr
    (some bytes, c64 (c64 (c64 (c64 s 0x58010 nblk) 0x58018 (codes.filter (·.raw)).length) 0x58020 a.len) 0x58028 bytes)

/-- The first poisoned key that a pack of `a` would read, in its source or in the header at its destination. -/
def packPoison (s : State) (a : CopyArgs) : Option Nat :=
  let k := mkey a.src.1 a.src.2
  let d := mkey a.dst.1 a.dst.2
  ((firstPoison s k a.len).map (k + ·)) <|> ((firstPoison s d 64).map (d + ·))

/-- A pack; a poisoned source ends it before anything is written (R357). -/
def packCopy (s : State) (q : DescRef) (fn : FnId) (a : CopyArgs) : State :=
  match packPoison s a with
  | some k => finish (poisonRead s 4 k (some fn.toNat) stUncorr) q (plain stUncorr)
  | none =>
    match packTo s a (peek s (mkey a.src.1 a.src.2) a.len) with
    | (none, s) => finish s q (plain stBad)
    | (some n, s) => finish s q { status := 0, res0 := BitVec.ofNat 32 n }

/-- What a failed read of a codec unit leaves (R329, R357). `row`: the reader's row of R357. -/
def unpackFail (s : State) (fn : FnId) (a : CopyArgs) (row : Nat) (f : CFail) (rs : List (Nat × Nat)) : State :=
  if f.status = stUncorr then
    match poisonIn s a.src rs with
    | some k => poisonRead s row k (some fn.toNat) stUncorr
    | none => s
  else
    let (u, s) := codecUnit s
    codecFail s f 4 u 8 (some fn.toNat) none

/-- An unpack (R334): its status, the bytes written, the state. The blocks before a failing one are written. -/
def unpackTo (s : State) (fn : FnId) (a : CopyArgs) (row : Nat) : Nat × Nat × State :=
  let rd := rdAt s a.src
  match snapshot rd none with
  | (.inl f, rs) => (f.status, 0, unpackFail (countReads s a.src rs) fn a row f rs)
  | (.inr sn, rs) =>
    let s := countReads s a.src rs
    if sn.bytes ≠ a.len ∨ a.dstMax < 1024 * sn.nblk then (stBad, 0, s)
    else
      let (ys, _, f, rs) := readBlocks rd sn 0 sn.nblk
      let s := memWr (countReads s a.src rs) a.dst.1 a.dst.2 ys
      match f with
      | none => (stOk, ys.length, s)
      | some f => (f.status, ys.length, unpackFail s fn a row f rs)

def unpackCopy (s : State) (q : DescRef) (fn : FnId) (a : CopyArgs) : State :=
  let (st, n, s) := unpackTo s fn a 4
  finish s q { status := BitVec.ofNat 8 st, res0 := BitVec.ofNat 32 n }

/-- A DMA_COPY whose CODEC is one of `codecs` starts and runs `g`. -/
def copyStart (s : State) (p : PairId) (idx : U16) (codecs : List Nat) (g : State → DescRef → FnId → CopyArgs → State) : State :=
  match mayStart (getRing s p.toNat) idx.toNat with
  | none => s
  | some d =>
    if !codecs.contains (leAt d.bytes 8 1 % 4) || !memAwake s || !addrOn s d.bytes 16 || !addrOn s d.bytes 24 then s
    else startDesc s p idx opDmaCopy fun s q d =>
      match copyArgs d.bytes with
      | none => finish s q (plain stBad)
      | some a =>
        if !copyArgsOk a then finish s q (plain stBad)
        else if dramFails s a.src.1 || dramFails s a.dst.1 then finish s q (plain stUncorr)
        else g s q d.fn a

/-- DMA_COPY with CODEC 0 (R90); a CODEC of 3 breaks R90. -/
def execDmaCopy (p : PairId) (idx : U16) (s : State) : Out State :=
  .next (live s fun s => copyStart s p idx [0, 3] fun s q fn a => copyBytes s q fn a)

/-- DMA_COPY with CODEC 1 (R90, R333). -/
def execPack (p : PairId) (idx : U16) (s : State) : Out State :=
  .next (live s fun s => copyStart s p idx [1] fun s q fn a => packCopy s q fn a)

/-- DMA_COPY with CODEC 2 (R90, R334). -/
def execUnpack (p : PairId) (idx : U16) (s : State) : Out State :=
  .next (live s fun s => copyStart s p idx [2] fun s q fn a => unpackCopy s q fn a)

/-- GAL_CODEC_CLEAR.CLR (R338): the counters, not the log. -/
def execGalCodecClear (s : State) : Out State :=
  .next (bar0 s 0 false fun s => clearCtrs s [0x58010, 0x58018, 0x58020, 0x58028, 0x58030, 0x58034, 0x58038])

end Sys2Proof.Machine
end

