-- ==== Sys2Proof/Machine/JobOps.lean ====
section
/-! DEFINITION. JobOps.lean: what Tier 1 and Tier 2 jobs share: their memory accesses (R183, R291), error queues
(R214 to R216), the end of a job (R193, R231, R258, R293, R418), and the knot journal (R420). -/

namespace Sys2Proof.Machine

/-! ## Members of a partition (R188, R196) -/

/-- Logical cores that serve a placement of a Tier 1 slot, with their ranks. -/
def members (s : State) (slot : Nat) (inB : Bool) : List (Nat × Core) :=
  s.cores.filter (fun e => slot != 0 && e.2.slot.toNat == slot && e.2.inB == inB)

/-- The core of a rank. -/
def rankCore (s : State) (slot : Nat) (inB : Bool) (rank : Nat) : Option Nat :=
  ((members s slot inB).find? (fun e => e.2.rank.toNat == rank)).map (·.1)

def numRanks (s : State) (slot : Nat) (inB : Bool) : Nat := (members s slot inB).length

/-- Cores of a job, by rising rank. -/
def jobCores (s : State) (jn : Nat) : List Nat :=
  let cs := s.cores.filter (fun e => e.2.job == some jn)
  (List.range 256).filterMap (fun r => (cs.find? (fun e => e.2.rank.toNat == r)).map (·.1))

/-! ## Accesses of a job (R183, R291, R344, R353) -/

/-- `[off, off + n)` lies within a range of `len` bytes at address `a`, in the same space. -/
def withinAddr (a : U64) (len sp off n : Nat) : Bool :=
  match addrOf a.toNat with
  | some (sp', o) => sp' == sp && decide (o ≤ off ∧ off + n ≤ o + len)
  | none => false

/-- IN as a Gallery range, for R344. -/
def inRange (j : Job) : Option (Nat × Nat) :=
  match addrOf j.inAddr.toNat with
  | some (sp, o) => if sp = spGal then some (o, j.inBytes) else none
  | none => none

/-- A right that an access uses (R107): region, direction and 2 MiB unit of a window. -/
def touchKey (sp unit : Nat) (wr : Bool) : Nat := (b2n (sp == spGal)) * 2 ^ 20 + b2n wr * 2 ^ 19 + unit
def touchKnot (k : Nat) : Nat := 2 ^ 22 + k

/-- The job has used rights. -/
def touch (s : State) (jn : Nat) (keys : List Nat) : State :=
  match getJob s jn with
  | none => s
  | some j =>
    let new := keys.filter (fun k => !j.touched.contains k)
    if new.isEmpty then s else setJob s jn (some { j with touched := j.touched ++ new })

/-- The window rights that an access to `[off, off + n)` uses. -/
def touchKeys (sp off n : Nat) (wr : Bool) : List Nat :=
  if n = 0 then [] else (List.range ((off + n - 1) / 2 ^ 21 + 1 - off / 2 ^ 21)).map (fun i => touchKey sp (off / 2 ^ 21 + i) wr)

/-- A write of a TRAIN_STEP into its OUT in device space, which its descriptor names for reading alone (R90): R183
allows it, while the function keeps the window that granted OUT. -/
def trainOut (s : State) (j : Job) (sp off n : Nat) (wr : Bool) : Bool :=
  wr && j.kind == 1 && withinAddr j.outAddr j.outBytes sp off n && !areaRefused sp off n none &&
  windowOk s j.fn.toNat (if sp = spGal then 1 else 0) off n false

/-- An access that is not allowed: the job completes with PROTECTION. One that the commit in progress has taken from the
function keeps the commit's BUSY at 1 until the job has ended (R107). -/
def refuseAccess (s : State) (jn sp off n : Nat) (wr : Bool) : State :=
  modJob s jn (fun j => { j with
    prot := true
    revoked := j.revoked || (s.prot.busy && sp != spHost && !areaRefused sp off n none &&
      windowOk (before s) j.fn.toNat (if sp = spGal then 1 else 0) off n wr) })

/-- An access of job `jn`: allowed or not. Host space is read within IN and written within OUT alone. The scratch area
needs no window of the job's function (R291). -/
def jobAccess (s : State) (jn sp off n : Nat) (wr : Bool) : Bool × State :=
  match getJob s jn with
  | none => (false, s)
  | some j =>
    let (ok, s) := if sp = spHost then
        ((!wr && withinAddr j.inAddr j.inBytes sp off n) || (wr && withinAddr j.outAddr j.outBytes sp off n), s)
      else if withinAddr j.scratchAddr j.scratchBytes sp off n then (!areaRefused sp off n none, s)
      else if trainOut s j sp off n wr then (true, touch s jn (touchKeys sp off n false))
      else devCheck s j.fn.toNat sp off n wr (inRange j)
    (ok, if !ok then refuseAccess s jn sp off n wr
         else if trainOut s j sp off n wr then s
         else if sp = spHost ∨ inOwnSnap sp off n wr (inRange j) = true ∨ withinAddr j.scratchAddr j.scratchBytes sp off n = true then s
         else touch s jn (touchKeys sp off n wr))

/-- A write into the job's STATE range ends its replayability (R416). -/
def noteWrite (s : State) (jn sp off n : Nat) : State :=
  match getJob s jn with
  | none => s
  | some j =>
    let hit := match addrOf j.stateAddr.toNat with
      | some (sp', o) => sp' == sp && decide (0 < j.stateBytes ∧ o < off + n ∧ off < o + j.stateBytes)
      | none => false
    if hit then modJob s jn (fun j => { j with replayable := false }) else s

/-- A write of the job: suppressed if it is not allowed. -/
def jobWrite (s : State) (jn sp off : Nat) (bs : Bytes) : State :=
  if bs.isEmpty then s else
  let (ok, s) := jobAccess s jn sp off bs.length true
  if ok then memWr (noteWrite s jn sp off bs.length) sp off bs else s

/-- The job ends with `st`, the first such status being kept. -/
def failJob (s : State) (jn st : Nat) : State := modJob s jn (fun j => { j with err := some (j.err.getD (BitVec.ofNat 8 st)) })

/-- A read of the job: zero bytes if it is not allowed; poison ends the job (R357). -/
def jobRead (s : State) (jn sp off n : Nat) : Bytes × State :=
  if n = 0 then ([], s) else
  let (ok, s) := jobAccess s jn sp off n false
  if !ok then (List.replicate n 0, s)
  else match firstPoison s (mkey sp off) n with
    | some i =>
      let fn := (getJob s jn).map (·.fn.toNat)
      (List.replicate n 0, failJob (poisonRead s 0 (mkey sp off + i) fn stUncorr) jn stUncorr)
    | none => memRd s sp off n

/-! ## Error queues (R214 to R216) -/

/-- An error-queue entry (R214). -/
def eqEntry (status : Nat) (knot wait : Bool) (found word : Nat) (rest : Bytes) : Bytes :=
  bytesAt (natLE 1 status ++ natLE 1 (b2n knot + 2 * b2n wait) ++ natLE 2 found ++ natLE 4 word ++ rest) 0 64

def pushEq (s : State) (c : Nat) (e : Bytes) : State :=
  if 16 ≤ (getCore s c).eq.length then c32 (modCore s c (fun k => { k with eqOvf := true })) 0x30148 1
  else modCore s c (fun k => { k with eq := k.eq ++ [e] })

/-- The status that the error queues of a job's ranks give it (R216). -/
def eqStatus (s : State) (jn : Nat) : Option Nat :=
  (jobCores s jn).findSome? (fun c =>
    let k := getCore s c
    match k.eq with
    | e :: _ => some (leAt e 0 1)
    | [] => if k.eqOvf then some stRole else none)

/-! ## The end of a job -/

def applyJob (j : Job) : Bool := match j.origin with | .apply _ => true | _ => false
def hostRef (j : Job) : Option DescRef := match j.origin with | .host q => some q | _ => none

/-- The status of a job whose other rules give it `base` (R216, R258, R293, R418). -/
def jobStatus (j : Job) (base : Nat) : Nat :=
  if j.prot then stProtection
  else if base ≠ stOk then base
  else if j.kind = 2 then stOk
  else if 1 < j.attempt ∧ j.onSpare then stReplayed
  else if 0 < j.driftEvents then stDrift
  else stOk

def endedWell (st : Nat) : Bool := st == stOk || st == stDrift || st == stReplayed

/-- The completion of a host job (R91). -/
def finishHostJob (s : State) (jn : Nat) (j : Job) (st : Nat) : State :=
  let s := setJob s jn none
  match hostRef j with
  | none => s
  | some q =>
    let items := if endedWell st ∧ !(j.kind = 1 ∧ j.mode = 2) then j.batch.toNat else 0
    finish s q { status := BitVec.ofNat 8 st, res0 := BitVec.ofNat 32 j.driftEvents, res1 := BitVec.ofNat 64 items,
                 res2 := BitVec.ofNat 64 j.satEvents }

/-- The tag and ring pair of a job, as records hold them (R407). -/
def jobTag (j : Job) : Nat :=
  match hostRef j with
  | some q => (Config.tagPair q.tag.toNat q.pair.toNat).toNat
  | none => (Config.tagPair 0 0x3FF).toNat

/-- A replayed job that succeeds is counted and recorded (R418). -/
def noteReplay (s : State) (j : Job) (st : Nat) : State :=
  if 1 < j.attempt ∧ endedWell st then
    logRec (c32 s 0x90050 1) 0x0E 0 { status := st, fn := some j.fn.toNat, slot := some j.slot.toNat, aux := j.attempt, detail := jobTag j }
  else s

/-- A host job whose work is done: its SKNOT goes out first, if it has one and it ran (R231). -/
def endHostJob (s : State) (jn : Nat) (j : Job) (st : Nat) (ran : Bool) : State :=
  match j.sig, hostRef j with
  | none, _ | _, none => finishHostJob s jn j st
  | some (k, ep, inc), some q =>
    if !ran then finishHostJob s jn j st
    else
      let s := setJob s jn (some { j with finished := true, sigStatus := some (BitVec.ofNat 8 st) })
      sendKnotOp s { op := 0, knot := k, epoch := ep, amount := inc, fn := j.fn, origin := .jobSig jn q }

/-- The answer to a job's SKNOT (R90, R225): a refusal changes the status of a job that ended well, PROTECTION any. -/
def sigAnswered (s : State) (jn st : Nat) : State :=
  match getJob s jn with
  | none => s
  | some j =>
    let own := (j.sigStatus.getD 0).toNat
    finishHostJob s jn j (if st ≠ stOk ∧ (endedWell own ∨ st = stProtection) then st else own)

/-- The result of a cascade job enters flight (R29, R216). -/
def deliverCascade (s : State) (jn : Nat) (j : Job) (st : Nat) : State :=
  match j.origin with
  | .cascade i gen stage stamp =>
    let s := setJob s jn none
    let s := if j.withdrawn then (match j.buf with | some b => dropSnap s b | none => s) else s
    { s with results := s.results ++ [{ st := i, gen := gen, stage := stage, stamp := stamp, status := BitVec.ofNat 8 st
                                        cls := if st = 0 then j.cls else 0, conf := if st = 0 then j.conf else 0
                                        slot := j.slot, spec := j.spec, withdrawn := j.withdrawn, cancelled := j.cancelled }] }
  | _ => s

/-- The apply part of a Tier 2 TRAIN_STEP has ended with `st`; the whole ends (R271). -/
def endParent (s : State) (parent : Nat) (child : Job) (st : Nat) : State :=
  match getJob s parent with
  | none => s
  | some j =>
    let j := { j with driftEvents := j.driftEvents + child.driftEvents, satEvents := j.satEvents + child.satEvents
                      prot := j.prot || st == stProtection }
    let base := match j.err with
      | some e => e.toNat
      | none => if endedWell st then stOk else st
    let own := jobStatus j base
    let all := if st = stReplayed ∧ endedWell own then stReplayed else own
    endHostJob (noteReplay s j own) parent j all true

/-- A job leaves its unit with the status `base` that its rules give it, before R258; `ran`: it was taken. -/
def endJob (s : State) (jn base : Nat) (ran : Bool) : State :=
  match getJob s jn with
  | none => s
  | some j =>
    let st := jobStatus j base
    let s := noteReplay (freeEngines s jn) j st
    match j.origin with
    | .cascade .. => deliverCascade s jn j st
    | .apply parent => endParent (setJob s jn none) parent j st
    | .host .. => endHostJob s jn j st ran

/-! ## The knot journal (R420) -/

/-- An answered knot operation is entered; the 65th ends the job's replayability. The attempt that runs has passed the
operation: its next one on the knot is matched with what follows. -/
def journalAdd (s : State) (jn : Nat) (e : JEntry) : State :=
  modJob s jn (fun j =>
    if 64 ≤ j.journal.length then { j with replayable := false }
    else { j with journal := j.journal ++ [e]
                  journalPos := if j.st = .running then smUpd 0 j.journalPos e.knot.toNat (· + 1) else j.journalPos })

/-- What the journal says of the next operation of a replay on knot `k`: none, a mismatch, or its answer. -/
inductive JAnswer where
  | fresh
  | differs
  | answer (e : JEntry)

def journalAsk (j : Job) (k : KnotId) (op : BitVec 2) (amount : U32) : JAnswer :=
  let i := smGet 0 j.journalPos k.toNat
  if j.attempt ≤ 1 then .fresh
  else match (j.journal.filter (fun e => e.knot == k))[i]? with
    | none => .fresh
    | some e => if e.op = op ∧ e.amount = amount then .answer e else .differs

/-- The replay has passed one operation on `k`. -/
def journalStep (s : State) (jn : Nat) (k : KnotId) : State :=
  modJob s jn (fun j => { j with journalPos := smUpd 0 j.journalPos k.toNat (· + 1) })

end Sys2Proof.Machine
end

