-- ==== Sys2Proof/Machine/Knots.lean ====
section
/-! DEFINITION. Knots.lean: the knot store (R217 to R228, R498), its registers' commands (R235, R236), mirrors. -/

namespace Sys2Proof.Machine

def knotOk (k : Knot) : Bool := k.nvalue == ~~~k.value && k.nepoch == ~~~k.epoch

/-- The knot with a VALUE and an EPOCH, each beside its complement (R218). -/
def withValue (k : Knot) (v : U32) (e : U16) : Knot := { k with value := v, nvalue := ~~~v, epoch := e, nepoch := ~~~e }

/-- The owner of a knot. -/
def knotOwner (s : State) (k : Nat) : Option Nat :=
  let e := protGet s 4 k
  if bitOf e 6 then some (fld e 0 6) else none

/-- A chip may operate on a home knot (R228). -/
def chipMayUse (s : State) (k chip : Nat) : Bool :=
  match knotOwner s k with
  | some f => passageRight s f 2 chip
  | none => false

/-- The body of a control-class message (R387). -/
def kopBody (knot epoch amount status token : Nat) : Bytes :=
  let b := natLE 2 knot ++ natLE 2 epoch ++ natLE 4 amount ++ natLE 1 status ++ natLE 3 0 ++ natLE 4 token
  b ++ b.map (fun x => ~~~x)

/-! ## Answers (R214, R223, R231) -/

/-- A core hears the answer to its KSIG or KWAIT. -/
def answerCore (s : State) (c : Nat) (wait : Bool) (word : U32) (op : BitVec 2) (knot : KnotId) (amount : U32) (st found : Nat) : State :=
  let s := match (getCore s c).job with
    | some jn =>
      let s := journalAdd s jn { knot := knot, op := op, amount := amount, status := BitVec.ofNat 8 st, epochFound := BitVec.ofNat 16 found }
      if st = stProtection ∧ !wait then modJob s jn (fun j => { j with prot := true }) else s
    | none => s
  let s := modCore s c (fun k => if wait then { k with waitDone := true } else { k with unacked := k.unacked - 1 })
  if st = stOk then s
  else pushEq s c (eqEntry st true wait found word.toNat (natLE 4 amount.toNat))

/-- A transfer's DKNOT has been answered: XACK goes back with its status (R381). -/
def answerDone (s : State) (x st : Nat) : State :=
  match s.xfers.find? (fun t => t.chip.toNat * 4096 + t.xid.toNat == x && t.ending) with
  | none => s
  | some t =>
    psgSend { s with xfers := s.xfers.filter (fun u => u != t) } 0 4 t.chip.toNat t.xid.toNat (natLE 1 st)

/-- A conduit stops with a status (R382). -/
def conduitError (s : State) (n st : Nat) (fn : Option Nat) : State :=
  let s := modConduit s n (fun c => { c with state := 3, status := BitVec.ofNat 8 st, armed := false, ready := false })
  let s := logRec s 0x15 2 { status := st, fn := fn, aux := n }
  psgEvent s 0x200

def conduitOwner (c : Conduit) : Nat := fld c.ctrl.toNat 1 6

/-- The originator hears the answer of the knot store. -/
def knotAnswer (s : State) (o : KOrigin) (op : BitVec 2) (knot : KnotId) (amount : U32) (st found : Nat) : State :=
  match o with
  | .core c wait word => answerCore s c.toNat wait word op knot amount st found
  | .jobWait j =>
    if st = stOk then modJob s j (fun x => { x with wait := none })
    else if jobQueued s j then endJob s j st false else s
  | .jobSig j q => if (getJob s j).isSome then sigAnswered s j st else dropStale s q.pair.toNat
  | .ring q => finish s q (plain st)
  | .conduitAck _ => s
  | .conduitDone x => answerDone s x st
  | .conduitTrig n =>
    let c := getConduit s n.toNat
    if c.state = 1 ∧ c.armed then
      if st = stOk then modConduit s n.toNat (fun c => { c with armed := false, ready := true })
      else conduitError s n.toNat st (some (conduitOwner c))
    else s
  | .remote chip token => psgSend s 2 1 chip.toNat 0 (kopBody knot.toNat found amount.toNat st token.toNat)
  | .nobody => s

/-! ## Releases, ends of waits, updates -/

/-- Every pending WAIT of the knot ends with a status. -/
def endWaits (s : State) (k st : Nat) : State :=
  (s.knotWaits.filter (fun w => w.knot.toNat == k)).foldl
    (fun t w => knotAnswer t w.origin 2 w.knot w.value st w.epoch.toNat)
    { s with knotWaits := s.knotWaits.filter (fun w => w.knot.toNat != k) }

/-- Every pending WAIT of the knot whose condition holds is released (R220). -/
def releaseWaits (s : State) (k : Nat) : State :=
  let kn := getKnot s k
  let met (w : KnotWait) : Bool := w.knot.toNat == k && decide (w.value ≤ kn.value)
  (s.knotWaits.filter met).foldl
    (fun t w => knotAnswer (hopPass t) w.origin 2 w.knot w.value stOk w.epoch.toNat)
    { s with knotWaits := s.knotWaits.filter (fun w => !met w) }

/-- An update for one mirror: it takes the place of one that has not left the port yet (R227). -/
def sendUpdate (s : State) (u : Sub) : State :=
  let kn := getKnot s u.knot.toNat
  let body := kopBody u.knot.toNat kn.epoch.toNat kn.value.toNat 0 u.rknot.toNat
  let i := routeWord s u.chip.toNat / 16 % 4
  let mine (m : PMsg) : Bool := m.cls == 2 && m.mtype == 4 && m.dest == u.chip && m.src.toNat == chipId s &&
    leAt m.body 0 2 == u.knot.toNat && leAt m.body 12 4 == u.rknot.toNat
  if (getPort s i).queue.any mine then
    modPort s i (fun p => { p with queue := p.queue.map (fun m => if mine m then { m with body := body } else m) })
  else psgSend s 2 4 u.chip.toNat 0 body

/-- VALUE or EPOCH of a home knot has changed: its mirrors hear of it (R227). -/
def sendUpdates (s : State) (k : Nat) : State :=
  (s.subs.filter (fun u => u.knot.toNat == k)).foldl sendUpdate s

/-! ## Operations (R218 to R221) -/

/-- ADD (R218). -/
def addKnot (s : State) (k : Nat) (amount : U32) : State :=
  let kn := getKnot s k
  let wraps := decide (2 ^ 32 ≤ kn.value.toNat + amount.toNat)
  let v : U32 := if wraps then 0xFFFFFFFF else kn.value + amount
  let s := c64 s 0x30120 1
  let s := if wraps then c32 s 0x30134 1 else s
  let s := modKnot s k (fun x => withValue { x with sat := x.sat || wraps } v x.epoch)
  let s := if v = kn.value then s else sendUpdates s k
  releaseWaits s k

/-- RESET (R218, R219): pending waits end with STALE_DROPPED. -/
def resetKnot (s : State) (k : Nat) (v : U32) : State :=
  let s := c64 s 0x30120 1
  let s := modKnot s k (fun x => withValue { x with sat := false, broken := false } v (x.epoch + 1))
  sendUpdates (endWaits s k stStale) k

/-- A complement mismatch (R221): nothing is applied, and the knot is broken. -/
def breakKnot (s : State) (k : Nat) (fn : Option Nat) : State :=
  let kn := getKnot s k
  let s := fltCheck (c32 s 0x30130 1)
  let s := logRec s 0x04 2 { status := stCheckFail, fn := fn, utype := 13, unit := k
                             detail := kn.value.toNat + kn.epoch.toNat * 2 ^ 32 + kn.nepoch.toNat * 2 ^ 48
                             detail2 := kn.nvalue.toNat }
  endWaits (modKnot s k (fun x => { x with broken := true })) k stCheckFail

/-- A refusal, counted where R498 counts it; `found`: the knot's epoch when the operation arrived (R214). -/
def refuseAt (s : State) (o : KnotOp) (st : Nat) (ctrOff : Option Nat) (found : U16) : State :=
  let s := match ctrOff with | some c => c32 s c 1 | none => s
  let s := if st = stStale then fltStale s 1 else s
  knotAnswer s o.origin o.op o.knot o.amount st found.toNat

/-- An operation is refused as it arrives. -/
def refuseKnot (s : State) (o : KnotOp) (st : Nat) (ctrOff : Option Nat) : State :=
  refuseAt s o st ctrOff (getKnot s o.knot.toNat).epoch

/-- Check 1 of R498: the right of the function or of the sending chip. -/
def knotRight (s : State) (o : KnotOp) : Bool :=
  match o.chip with
  | some c => chipMayUse s o.knot.toNat c.toNat
  | none => ownsKnot s o.fn.toNat o.knot.toNat

/-- The right to an operation on its way has been taken by the commit in progress: it is to be discarded (R107). -/
def opRevoked (s : State) (o : KnotOp) : Bool := s.prot.busy && !knotRight s o && knotRight (before s) o

/-- An ADD on a mirror travels to the home with its operand word (R217, R227), where checks 2 to 4 are made (R498). -/
def forwardAdd (s : State) (o : KnotOp) : State :=
  let kn := getKnot s o.knot.toNat
  let token := BitVec.ofNat 32 s.kToken
  let s := { s with kfwd := s.kfwd ++ [{ token := token, op := o, chip := kn.hchip, epoch := kn.epoch }], kToken := s.kToken + 1 }
  psgSend s 2 0 kn.hchip.toNat 0 (kopBody (kn.hknot.toNat + o.upper.toNat * 2 ^ 12) o.epoch.toNat o.amount.toNat 0 token.toNat)

/-- Checks 2 to 4 of R498, then the operation. -/
def storeKnotOp (s : State) (o : KnotOp) : State :=
  let k := o.knot.toNat
  let kn := getKnot s k
  if kn.broken then refuseKnot s o stCheckFail none
  else if !knotOk kn then refuseKnot (breakKnot s k (if o.chip.isSome then none else some o.fn.toNat)) o stCheckFail none
  else if o.malformed then refuseKnot s o stStale (some 0x30128)
  else if o.epoch ≠ kn.epoch then refuseKnot s o stStale (some 0x30128)
  else
    let found := kn.epoch.toNat
    if o.op = 0 then knotAnswer (addKnot s k o.amount) o.origin 0 o.knot o.amount stOk found
    else if o.op = 1 then knotAnswer (resetKnot s k o.amount) o.origin 1 o.knot o.amount stOk found
    else if o.amount ≤ kn.value then knotAnswer s o.origin 2 o.knot o.amount stOk found
    else { s with knotWaits := s.knotWaits ++ [{ knot := o.knot, value := o.amount, epoch := kn.epoch, origin := o.origin }] }

/-- The job that an operation belongs to, if it runs. -/
def opJob (s : State) (o : KOrigin) : Option Nat :=
  match o with
  | .core c _ _ => (getCore s c.toNat).job
  | .jobSig j _ => some j
  | _ => none

/-- An operation reaches the store (R498); that on a mirror meets R226 to R228 after its right. -/
def arriveKnotOp (s : State) (o : KnotOp) : State :=
  let s := match opJob s o.origin with
    | some jn => if knotRight s o then touch s jn [touchKnot o.knot.toNat]
        else if opRevoked s o then modJob s jn (fun j => { j with revoked := true }) else s
    | none => s
  let kn := getKnot s o.knot.toNat
  if !knotRight s o then refuseKnot s o stProtection (some 0x3012C)
  else if kn.bindPend then refuseKnot s o stStale none
  else if !kn.mirror then storeKnotOp s o
  else if kn.lost then refuseKnot s o stPeerLost none
  else if o.op = 2 then storeKnotOp s o
  else if o.op = 1 then refuseKnot s o stProtection none
  else if chipLost s kn.hchip.toNat then refuseKnot (needRoute s kn.hchip.toNat) o stPeerLost none
  else forwardAdd s o

/-- Two operations of one originator: they reach one knot in order (R229, R233). -/
def sameSource (a b : KnotOp) : Bool :=
  match a.origin, b.origin with
  | .core c _ _, .core d _ _ => c == d
  | .ring a, .ring b => a.pair == b.pair
  | .remote c _, .remote d _ => c == d
  | .conduitAck c, .conduitAck d => c == d
  | _, _ => false

/-- The `k`-th operation on the control net reaches the store, if it is of kind `op` and none before it of the same
originator is on its way to the same knot. -/
def takeKnotOp (k : Nat) (op : BitVec 2) (s : State) : State :=
  match getNth s.knotOps k with
  | none => s
  | some o =>
    if o.op ≠ op ∨ (s.knotOps.take k).any (fun p => p.knot == o.knot && sameSource p o) then s
    else useCtl (hopPass { s with knotOps := dropNth s.knotOps k }) (protWord 4 o.knot.toNat) (fun s => arriveKnotOp s o)

/-- KNOT_ADD (R218). -/
def execKnotAdd (k : Nat) (s : State) : Out State := .next (live s (takeKnotOp k 0))
/-- KNOT_RESET (R218). -/
def execKnotReset (k : Nat) (s : State) : Out State := .next (live s (takeKnotOp k 1))
/-- KNOT_WAIT_ARRIVE (R218). -/
def execKnotWaitArrive (k : Nat) (s : State) : Out State := .next (live s (takeKnotOp k 2))

/-! ## BOB_KNOT_CMD (R226, R235, R236) -/

def selKnot (s : State) : Nat := reg s 0x30100 % 4096

/-- KNOT_CMD_RESET: ignored for a mirror and for a knot without a valid entry. While a bind is pending the operation
is refused (R226). It meets the check of R221 as any operation does, and clears BROKEN. -/
def execKnotCmdReset (s : State) : Out State :=
  .next (bar0 s 0 false fun s =>
    let k := selKnot s
    let kn := getKnot s k
    if (knotOwner s k).isNone || kn.mirror then s
    else if kn.bindPend then fltStale s 1
    else if !kn.broken && !knotOk kn then breakKnot s k none
    else resetKnot s k (BitVec.ofNat 32 (reg s 0x3010C)))

/-- BIND (R226). A chip without a route counts as lost (R377): the bind fails. -/
def execKnotBind (s : State) : Out State :=
  .next (bar0 s 0 false fun s =>
    let k := selKnot s
    let kn := getKnot s k
    if (knotOwner s k).isNone || kn.bindPend then s
    else if chipLost s kn.rchip.toNat then modKnot (needRoute s kn.rchip.toNat) k (fun x => { x with bindErr := true })
    else
      let s := modKnot s k (fun x => { x with bindPend := true, hchip := x.rchip, hknot := x.rknot })
      psgSend s 2 2 kn.rchip.toNat 0 (kopBody kn.rknot.toNat 0 0 0 k))

/-- UNBIND (R235): the knot keeps its VALUE and EPOCH. -/
def execKnotUnbind (s : State) : Out State :=
  .next (bar0 s 0 false fun s =>
    let k := selKnot s
    let kn := getKnot s k
    if (knotOwner s k).isNone || kn.bindPend || !kn.mirror then s
    else
      let s := endWaits (modKnot s k (fun x => { x with mirror := false, lost := false })) k stStale
      psgSend s 2 5 kn.hchip.toNat 0 (kopBody kn.hknot.toNat 0 0 0 k))

/-! ## Mirrors (R226 to R228, R391) -/

/-- A mirror takes the VALUE and EPOCH of its home. -/
def adoptValue (s : State) (k : Nat) (v : U32) (e : U16) : State :=
  let old := (getKnot s k).epoch
  let s := modKnot s k (fun x => withValue x v e)
  releaseWaits (if old = e then s else endWaits s k stStale) k

/-- A pending bind ends. -/
def endBind (s : State) (k st : Nat) (v : U32) (e : U16) : State :=
  if !(getKnot s k).bindPend then s
  else if st = stOk then adoptValue (modKnot s k (fun x => { x with bindPend := false, mirror := true })) k v e
  else modKnot s k (fun x => { x with bindPend := false, mirror := false, bindErr := true })

/-- The home of mirrors and the mirrors of homes are lost with a chip (R228). -/
def knotsLoseChip (s : State) (chip : Nat) : State :=
  let s := { s with subs := s.subs.filter (fun u => u.chip.toNat != chip) }
  let thither (kn : Knot) : Bool := kn.hchip.toNat == chip
  let s := ((s.knots.filter (fun e => e.2.mirror && thither e.2)).map (·.1)).foldl
    (fun t k => endWaits (modKnot t k (fun x => { x with lost := true })) k stPeerLost) s
  let s := ((s.knots.filter (fun e => e.2.bindPend && thither e.2)).map (·.1)).foldl (fun t k => endBind t k stPeerLost 0 0) s
  let gone (f : FwdAdd) : Bool := f.chip.toNat == chip
  (s.kfwd.filter gone).foldl (fun t f => refuseAt t f.op stPeerLost none f.epoch) { s with kfwd := s.kfwd.filter (fun f => !gone f) }

end Sys2Proof.Machine
end

