-- ==== Sys2Proof/Machine/Passage.lean ====
section
/-! DEFINITION. Passage.lean: ports and training (R365 to R372, R389 to R395), messages that arrive (R373 to R388),
conduits (R378 to R382), lost chips (R390 to R392). -/

namespace Sys2Proof.Machine

/-! ## Lost chips (R149, R390, R391) -/

/-- A REMOTE_FED stream, or the source of a bridged one, loses the chip (R149). -/
def streamLosesChip (s : State) (chip st : Nat) : State :=
  match getInst s st with
  | none => s
  | some i =>
    let pl := instPlace s i
    let b := dirWord s pl.core pl.j 2
    if remoteFed s i ∧ i.srcChip = some (BitVec.ofNat 12 chip) then
      let s := modInst s st (fun i => { i with remoteEnd := none, nextEnd := none, srcChip := none, lost := true })
      modStream s st (fun x => { x with inputDone := x.inputDone || x.waiting.isNone })
    else
      if !(bitOf b 30 && fld b 0 12 == chip) then s
      else match i.waitAck with
        | none => modInst s st (fun i => { i with cutLost := true })
        | some (_, n) => peerLostStep s st n

/-- Conduits to the chip stop (R382). -/
def conduitsLoseChip (s : State) (chip : Nat) : State :=
  ((s.conduits.filter (fun e => (e.2.state == 1 || e.2.state == 2) && fld e.2.ctrl.toNat 9 12 == chip)).map (·.1)).foldl
    (fun t n => conduitError t n stPeerLost (some (conduitOwner (getConduit t n)))) s

/-- A remote read ends (R388). -/
def endRreg (s : State) (st : Nat) (w : U32) : State :=
  psgEvent { s with rreg := { s.rreg with busy := false, status := BitVec.ofNat 8 st, data := w } } 0x400

/-- A remote read of the chip ends (R391). -/
def rregLosesChip (s : State) (chip : Nat) : State :=
  if s.rreg.busy && s.rreg.chip.toNat == chip then endRreg s stPeerLost s.rreg.data else s

/-- Transfers from the chip are discarded (R391). -/
def xfersLoseChip (s : State) (chip : Nat) : State := { s with xfers := s.xfers.filter (fun t => t.chip.toNat != chip) }

/-- What depends on a lost chip learns of it (R391). -/
def tellLoss (s : State) (chip : Nat) : State :=
  let s := (s.insts.map (·.1)).foldl (fun t st => streamLosesChip t chip st) s
  let s := knotsLoseChip s chip
  let s := conduitsLoseChip s chip
  rregLosesChip (xfersLoseChip s chip) chip

/-- The dependents of every chip lost of late. -/
def settleLoss (s : State) : State := s.lossDue.foldl (fun t c => tellLoss t c.toNat) { s with lossDue := [] }

/-- A chip becomes lost; `row`: the condition of R389, 0 for a LOSS message. -/
def loseChip (s : State) (chip row port : Nat) : State := settleLoss (markLost s chip row port)

/-- Chips whose route entry starts on the port. -/
def chipsVia (s : State) (i : Nat) : List Nat :=
  (s.regs.filter (fun e => decide (0x1000000 ≤ e.1) && routeHops e.2.toNat != 0 && e.2.toNat / 16 % 4 == i)).map (fun e => e.1 - 0x1000000)

/-! ## A port goes down or starts to train (R367, R389, R390, R394) -/

/-- Training from step 1. An identity conflict holds the port at step 4 until it is disabled (R367). -/
def startTraining (p : Port) : Port :=
  if p.idConflict then p else { p with train := some 0, ident := false, twoLanes := p.laneRet != 0 }

/-- The port's peer is lost: what it holds is discarded, and the chips behind it are lost (R390). An enabled port
trains again. -/
def losePeer (s : State) (i row : Nat) : State :=
  let p := getPort s i
  let s := p.queue.foldl leaveBuffer (c32 s 0x60068 (p.retry.length + p.queue.length))
  let s := modPort s i (fun p => { p with
    up := false, retrain := false, retry := [], queue := [], train := if p.idConflict && p.en then some 3 else none
    idConflict := p.idConflict && p.en, ident := false })
  let s := if p.up then psgEvent s (2 ^ (4 + i)) else s
  let s := (chipsVia s i).foldl (fun t c => loseChip t c row i) s
  modPort s i (fun p => if p.en && !p.retired then startTraining p else p)

/-- The port is retired (R393); `row`: its row of R393. -/
def retirePort (s : State) (i row : Nat) : State :=
  let s := logRec (c32 s 0x90058 1) 0x13 2 { utype := 9, unit := i + 28, detail := row, count := (getPort s i).portWin.2 }
  let s := modPort s i (fun p => { p with retired := true })
  losePeer s i 5

/-- Whether thresholds retire (R410); if not, the threshold writes its record alone. -/
def autoRetire (s : State) (utype unit logical n log2 : Nat) : Bool × State :=
  if bitOf (reg s 0x90004) 6 then (true, s)
  else (false, logRec s 0x0B 0 { utype := utype, unit := unit, aux := logical, count := n, detail := n, detail2 := log2 })

/-- The IDENT that the port sends (R370). -/
def sendIdent (s : State) (i : Nat) : State :=
  let lanes := if (getPort s i).twoLanes then 2 else 4
  sendLinkFlit s i 2 (natLE 2 0 ++ natLE 4 (chipId s + i * 2 ^ 12 + lanes * 2 ^ 16 + revision.toNat * 2 ^ 24))

/-- A retrain (R394): the fourth within its window retires the port (R393). `tell`: the peer hears of it. -/
def startRetrain (s : State) (i : Nat) (tell : Bool) : State :=
  let p := getPort s i
  if !p.up || p.retrain then s
  else
    let s := if tell then sendLinkFlit s i 4 [] else s
    let win := if p.trainWin.1 = 0 then (2 ^ 30, 1) else (p.trainWin.1, p.trainWin.2 + 1)
    let s := modPort s i (fun p => { startTraining p with retrain := true, retrains := satAdd 32 p.retrains 1, trainWin := win })
    if win.2 = 4 then
      let (go, s) := autoRetire s 9 (i + 28) i 4 30
      if go then retirePort s i 6 else s
    else s

/-- PLL 6 runs while a port has EN = 1 (R428): the first port enables it, and its lock is judged; the last one to go
disables it. -/
def psgClock (s : State) : State :=
  if (List.range 4).any (fun i => (getPort s i).en) then
    modPll s 6 (fun x => if x.en then x else { x with en := true, judge := some (0, 0) })
  else modPll s 6 (fun x => { x with en := false, locked := false, judge := none })

/-- PSG_PORT_CTRL.EN (R367, R389). -/
def portSetEn (s : State) (i : Nat) (en : Bool) : State :=
  let p := getPort s i
  if en then (if p.en then s else psgClock (modPort s i (fun p => if p.retired then { p with en := true } else startTraining { p with en := true })))
  else if p.en then psgClock (losePeer (modPort (sendLeaving s i) i (fun p => { p with en := false })) i 5)
  else s

def selPort (s : State) : Nat := reg s 0x60010 % 4

/-- PORT_EN_WRITE (R367). -/
def execPortEnWrite (en : Bool) (s : State) : Out State := .next (bar0 s 0 false fun s => portSetEn s (selPort s) en)

/-- RETRAIN (R394). -/
def execPortRetrain (s : State) : Out State := .next (bar0 s 0 false fun s => startRetrain s (selPort s) true)

/-- PSG_PORT_CTRL.REVIVE (R395): the counts of R393 are cleared, and R367 starts on all 4 lanes. A port held by
ID_CONFLICT waits for its disable (R367). -/
def revivePort (s : State) (i : Nat) : State :=
  let s := modPort s i (fun p => { p with retired := false, laneRet := 0, laneWin := [(0, 0), (0, 0), (0, 0), (0, 0)]
                                          portWin := (0, 0), trainWin := (0, 0) })
  let p := getPort s i
  if p.idConflict then s
  else if p.retrain then modPort s i startTraining
  else if p.up then startRetrain s i true
  else modPort s i (fun p => if p.en then startTraining p else p)

/-- REVIVE (R395). -/
def execPortRevive (s : State) : Out State := .next (bar0 s 0 false fun s => revivePort s (selPort s))

/-- Every unacknowledged data flit from `seq` onward is sent again (R371). -/
def resendFrom (s : State) (i : Nat) (seq : BitVec 12) : State :=
  ((getPort s i).retry.dropWhile (fun e => e.1 != seq)).foldl (fun t e => emitData t i e.1 e.2.1 e.2.2) s

/-- Step 5 of R367: sequence numbers and credits start from their initial values. -/
def restartPort (p : Port) : Port :=
  { p with train := none, up := true, retrain := false, txSeq := BitVec.ofNat 12 p.retry.length, rxSeq := 0
           retry := p.retry.zipIdx.map (fun e => (BitVec.ofNat 12 e.2, e.1.2.1, e.1.2.2))
           credits := (List.range 4).map (fun c => rxBuffers[c]?.getD 0 - (p.retry.filter (fun e => e.2.1.toNat == c)).length)
           owed := [0, 0, 0, 0], nakSent := false, acked := false, nakRun := 0, bulkWait := 0 }

/-- The port comes up. After a retrain the flits of the retry buffer, numbered anew, go out first (R394). -/
def portUp (s : State) (i : Nat) : State :=
  let s := modPort (forgetBuffers s i) i restartPort
  pumpPort (psgEvent (resendFrom s i 0) (2 ^ i)) i

/-- PORT_TRAIN_STEP (R367): a port trains with the PASSAGE clock locked. -/
def execPortTrainStep (p : BitVec 2) (s : State) : Out State :=
  .next (live s fun s =>
    let q := getPort s p.toNat
    if !q.en || q.retired || !pllLocked s 6 then s
    else match q.train with
      | none => s
      | some k =>
        if k = 3 then (if q.ident && !q.idConflict then portUp s p.toNat else s)
        else
          let s := modPort s p.toNat (fun q => { q with train := some (k + 1) })
          if k = 2 then sendIdent s p.toNat else s)

/-- PORT_TRAIN_TIMEOUT (R367): steps 2 to 4 have a limit. -/
def execPortTrainTimeout (p : BitVec 2) (s : State) : Out State :=
  .next (live s fun s =>
    let q := getPort s p.toNat
    match q.train with
    | none => s
    | some k => if k = 0 || q.idConflict then s else modPort s p.toNat startTraining)

/-! ## Windows of R393 -/

/-- One more flit has been received: a window that has run out closes. -/
def tickWin (w : Nat × Nat) : Nat × Nat := if w.1 ≤ 1 then (0, 0) else (w.1 - 1, w.2)
def tickPort (p : Port) : Port :=
  { p with laneWin := p.laneWin.map tickWin, portWin := tickWin p.portWin, trainWin := tickWin p.trainWin }

/-- One more charge; the first opens a window. -/
def chargeWin (w : Nat × Nat) : Nat × Nat := if w.1 = 0 then (2 ^ 24, 1) else (w.1, w.2 + 1)

def countLanes (l : BitVec 4) : Nat := b2n (l.getLsbD 0) + b2n (l.getLsbD 1) + b2n (l.getLsbD 2) + b2n (l.getLsbD 3)

/-- A lane is retired (R393, R394). -/
def retireLane (s : State) (i lane n : Nat) : State :=
  let two := (getPort s i).twoLanes
  let s := logRec s 0x12 0 { utype := 9, unit := i + lane * 4, count := n, detail := n }
  let s := modPort s i (fun p => { p with laneRet := p.laneRet ||| BitVec.ofNat 4 (2 ^ lane) })
  if two then retirePort s i 5 else startRetrain s i true

/-- An uncorrectable flit is charged to the one lane whose marker parity failed, or to the port alone; the port's window
counts every one of them (R393). -/
def chargeFlit (s : State) (i : Nat) (lanes : BitVec 4) : State :=
  let s := modPort s i (fun p => { p with fecUncorr := satAdd 32 p.fecUncorr 1, portWin := chargeWin p.portWin })
  let n := (getPort s i).portWin.2
  let s :=
    if countLanes lanes = 1 then
      let l := (findBelow (fun l => lanes.getLsbD l) 4).getD 0
      let s := modPort s i (fun p => { p with laneWin := setNth p.laneWin l chargeWin })
      let k := ((getPort s i).laneWin[l]?.getD (0, 0)).2
      if k = 8 then
        let (go, s) := autoRetire s 9 (i + l * 4) l k 24
        if go then retireLane s i l k else s
      else s
    else s
  if n = 64 ∧ (getPort s i).retired = false then
    let (go, s) := autoRetire s 9 (i + 28) i n 24
    if go then retirePort s i 4 else s
  else s

/-- Corrected FEC symbols, byte k for lane k, each saturating at 255 (R393). -/
def addCorr (p : Port) (corr : U32) : Port :=
  { p with laneCorr := BitVec.ofNat 32 (((List.range 4).map (fun k =>
      min 255 (fld p.laneCorr.toNat (8 * k) 8 + fld corr.toNat (8 * k) 8) * 2 ^ (8 * k))).sum) }

/-! ## What a good flit brings (R369 to R372) -/

/-- Data flits up to ACKSEQ are acknowledged. -/
def takeAck (p : Port) (hdr : U32) : Port :=
  let seq := hdr.extractLsb' 12 12
  if hdr.getLsbD 27 && p.retry.any (fun e => e.1 == seq) then
    { p with retry := (p.retry.dropWhile (fun e => e.1 != seq)).tail }
  else p

/-- Credits returned by a link flit. -/
def takeCredits (p : Port) (credits : U32) : Port :=
  { p with credits := (List.range 4).map (fun c => p.credits[c]?.getD 0 + fld credits.toNat (8 * c) 8) }

/-- The message in a data flit's payload (R373). -/
def parseMsg (cls : BitVec 2) (b : Bytes) : PMsg :=
  let w := leAt b 0 4
  let n := fld (leAt b 8 4) 12 8
  { cls := cls, mtype := BitVec.ofNat 4 (fld w 28 4), dest := BitVec.ofNat 12 w, src := BitVec.ofNat 12 (fld w 12 12)
    hops := BitVec.ofNat 4 (fld w 24 4), route := BitVec.ofNat 28 (leAt b 4 4), hopcount := BitVec.ofNat 12 (leAt b 8 4)
    tagw := BitVec.ofNat 32 (leAt b 12 4), body := bytesAt b 16 n }

def mtypeOk (m : PMsg) : Bool := decide (m.mtype.toNat < [5, 3, 6, 3].getD m.cls.toNat 0)

/-- A LOSS for `dest` goes to a chip (R377, R390). -/
def answerLoss (s : State) (chip dest : Nat) : State := psgSend s 3 0 chip 0 (natLE 2 dest)

/-- A message that cannot go on is dropped; its source learns that `dest` is lost. -/
def dropRelay (s : State) (m : PMsg) (ctrOff : Nat) : State := answerLoss (c32 (leaveBuffer s m) ctrOff 1) m.src.toNat m.dest.toNat

/-- PSG_FWD: the message goes on to another chip, its port being UP. -/
def countForward (s : State) (m : PMsg) : State := if (getPort s (m.route.toNat % 4)).up then c64 s 0x60074 1 else s

/-- A message on its way: delivered here, forwarded, or relayed (R374, R376, R377, R390). -/
def routeMsg (s : State) (m : PMsg) : State :=
  if m.dest.toNat = chipId s then
    (if mtypeOk m then { s with delivered := s.delivered ++ [m] } else c32 (leaveBuffer s m) 0x60070 1)
  else if m.hopcount = 4095 then dropRelay s m 0x60064
  else if m.hops ≠ 0 then forward (countForward s m) m
  else
    let w := routeWord s m.dest.toNat
    if routeHops w = 0 then dropRelay s m 0x60064
    else if chipLost s m.dest.toNat then dropRelay s m 0x60068
    else
      let m := { m with hops := BitVec.ofNat 4 (routeHops w), route := BitVec.ofNat 28 (w / 16) }
      forward (countForward (c32 s 0x60060 1) m) m

/-- A data flit is accepted: its message stands in a receive buffer of its class until it has gone on its way (R372). -/
def acceptFlit (s : State) (i : Nat) (hdr : U32) (payload : Bytes) : State :=
  let s := modPort s i (fun p => { p with
    rxSeq := p.rxSeq + 1, rxFlits := satAdd 64 p.rxFlits 1, acked := true, nakSent := false })
  routeMsg s { parseMsg (hdr.extractLsb' 24 2) (bytesAt payload 0 248) with via := some (BitVec.ofNat 2 i) }

/-- The port has a free receive buffer for a flit (R372). -/
def bufferFree (s : State) (i : Nat) (hdr : U32) : Bool :=
  let c := fld hdr.toNat 24 2
  decide (rxUsed s i c < rxBuffers[c]?.getD 0)

/-- One NAK follows the first discard after an accepted flit, or after the port came up (R371). -/
def discardFlit (s : State) (i : Nat) : State :=
  let p := getPort s i
  if p.nakSent then s else sendLinkFlit (modPort s i (fun p => { p with nakSent := true })) i 1 (natLE 2 p.rxSeq.toNat)

/-- DATA_FLIT (R371, R393): a flit on a port that is UP and does not retrain; `lanes`: those whose marker parity failed
since the last data flit. -/
def execDataFlit (p : BitVec 2) (rx : FlitRx) (lanes : BitVec 4) (hdr : U32) (payload : Bytes) (s : State) : Out State :=
  if hdr.getLsbD 26 || payload.length != 248 then .fault (.illFormed "DATA_FLIT: LINK 0 and 248 bytes (R369)")
  else .next (live s fun s =>
    let i := p.toNat
    if !(getPort s i).up || (getPort s i).retrain then s
    else
      let s := modPort s i (fun q => addCorr (tickPort q) rx.corr)
      if !rx.fec then chargeFlit (discardFlit s i) i lanes
      else if rx.crc ≠ flitCrc hdr payload then discardFlit s i
      else
        let s := modPort s i (fun q => takeAck q hdr)
        let s := if hdr.extractLsb' 0 12 = (getPort s i).rxSeq ∧ bufferFree s i hdr = true then acceptFlit s i hdr payload
          else discardFlit s i
        pumpPort s i)

/-- A link flit with a good CRC on a port that is UP. -/
def linkFlit (s : State) (i : Nat) (hdr credits : U32) (g : State → State) : State :=
  if !(getPort s i).up || (getPort s i).retrain then s
  else pumpPort (g (modPort s i (fun q => takeCredits (takeAck (tickPort q) hdr) credits))) i

/-- LINK_IDLE (R370). -/
def execLinkIdle (p : BitVec 2) (hdr credits : U32) (s : State) : Out State :=
  .next (live s fun s => linkFlit s p.toNat hdr credits id)

/-- A NAK (R371, R389): go-back-N; the 16th in a row for one SEQ loses the peer. -/
def takeNak (s : State) (i : Nat) (seq : BitVec 12) : State :=
  let p := getPort s i
  let run := if p.lastNak = seq ∧ p.nakRun ≠ 0 then p.nakRun + 1 else 1
  let s := modPort s i (fun p => { p with naks := satAdd 32 p.naks 1, lastNak := seq, nakRun := run })
  if 16 ≤ run then losePeer s i 2 else resendFrom s i seq

/-- LINK_NAK (R370, R371). -/
def execLinkNak (p : BitVec 2) (hdr credits : U32) (seq : BitVec 12) (s : State) : Out State :=
  .next (live s fun s => linkFlit s p.toNat hdr credits (fun s => takeNak s p.toNat seq))

/-- LINK_IDENT (R367 step 4, R370): a peer with this device's own CAP_CHIP holds the port at step 4 until it is
disabled. The flit's acknowledgement and credits are taken. -/
def execLinkIdent (f : LinkFlit) (chip : ChipId) (port : BitVec 2) (lanes : BitVec 3) (_rev : U8) (s : State) : Out State :=
  .next (live s fun s =>
    if (getPort s f.p.toNat).train = some 3 then
      modPort s f.p.toNat (fun q => { takeCredits (takeAck (tickPort q) f.hdr) f.credits with
        ident := true, peerChip := chip, peerPort := port
        twoLanes := q.twoLanes || lanes == 2, idConflict := q.idConflict || decide (chip.toNat = chipId s) })
    else s)

/-- LINK_LEAVING (R389). -/
def execLinkLeaving (p : BitVec 2) (s : State) : Out State :=
  .next (live s fun s => if (getPort s p.toNat).up then losePeer s p.toNat 4 else s)

/-- LINK_RETRAIN (R394): the port retrains with its peer. -/
def execLinkRetrain (f : LinkFlit) (s : State) : Out State :=
  .next (live s fun s =>
    if (getPort s f.p.toNat).up then
      startRetrain (modPort s f.p.toNat (fun q => takeCredits (takeAck (tickPort q) f.hdr) f.credits)) f.p.toNat false
    else s)

/-- CREDIT_FLIT_DUE (R370): a slot of the transmitter with no data flit to send, as one comes at least once in 32 slots
while credits are owed: an IDLE goes out. -/
def execCreditFlitDue (p : BitVec 2) (s : State) : Out State :=
  .next (live s fun s =>
    let q := getPort s p.toNat
    if q.up && !q.retrain then sendLinkFlit s p.toNat 0 [] else s)

/-- PEER_TIMEOUT (R389): rows 1 and 3. -/
def execPeerTimeout (p : BitVec 2) (s : State) : Out State :=
  .next (live s fun s =>
    let q := getPort s p.toNat
    if q.up then losePeer s p.toNat (if q.retrain then 3 else 1) else s)

/-! ## Messages that reach their unit (R374, R375) -/

/-- The protection entries that the unit a message reaches looks up (R380, R383 to R388). -/
def msgWords (s : State) (m : PMsg) (w : CtlWord) : Bool :=
  let b := m.body
  let owner (st : Nat) : Bool := protWord 5 (getStream s st).ctx.owner.toNat w
  match m.cls.toNat, m.mtype.toNat with
  | 0, 0 => protWord 5 (leAt b 21 1 % 64) w || (bitOf (leAt b 22 2) 15 && protWord 4 (leAt b 22 2 % 4096) w)
  | 0, 1 | 0, 2 => s.xfers.any (fun t => t.chip == m.src && t.xid == m.tagw.setWidth 12 && protWord 5 t.rfn.toNat w)
  | 1, 0 => (List.range (m.tagw.toNat % 32)).any (fun e => owner (fld (leAt b (8 * e) 8) 50 14))
  | 1, 1 => owner (fld (leAt b 4 4) 0 14)
  | 2, 2 => protWord 4 (leAt b 0 2 % 4096) w || protWord 5 ((knotOwner s (leAt b 0 2 % 4096)).getD 0) w
  | 3, 1 => protWord 5 0 w
  | _, _ => false

/-- The `k`-th delivered message, if it is of the class and type and no earlier one of its class and source waits. -/
def takeMsg (k cls mtype : Nat) (s : State) (g : State → PMsg → State) : State :=
  match getNth s.delivered k with
  | none => s
  | some m =>
    if m.cls.toNat ≠ cls ∨ m.mtype.toNat ≠ mtype ∨ (s.delivered.take k).any (fun q => q.cls == m.cls && q.src == m.src) then s
    else useCtl (leaveBuffer { s with delivered := dropNth s.delivered k } m) (msgWords s m) fun s =>
      settleLoss (g s { m with via := none })

def bad (s : State) : State := c32 s 0x60070 1
/-- A value that does not agree with its complement (R386, R387, R400). -/
def damaged (s : State) : State := c32 (fltCheck (bad s)) 0x90048 1
def noRight (s : State) (n : Nat) : State := c32 s 0x6006C n

/-! ### Transfers received (R380, R381, R386) -/

def xidOf (m : PMsg) : BitVec 12 := m.tagw.setWidth 12
def xack (s : State) (m : PMsg) (st : Nat) : State := psgSend s 0 4 m.src.toNat (xidOf m).toNat (natLE 1 st)
def findXfer (s : State) (m : PMsg) : Option Xfer :=
  s.xfers.find? (fun t => t.chip == m.src && t.xid == xidOf m && !t.ending)
def dropXfer (s : State) (m : PMsg) : State :=
  { s with xfers := s.xfers.filter (fun t => !(t.chip == m.src && t.xid == xidOf m && !t.ending)) }

/-- A function may write a range of device memory (R88, R344). -/
def mayWrite (s : State) (fn : Nat) (a : U64) (n : Nat) : Bool × State :=
  match addrOf a.toNat with
  | some (sp, off) => if sp = spHost then (false, s) else devCheck s fn sp off n true none
  | none => (false, s)

/-- The first 26 bytes of an XSTART agree with their complements (R386). -/
def xstartOk (b : Bytes) : Bool :=
  (List.range 26).all (fun i => (bytesAt b 0 64)[32 + i]?.getD 0 == ~~~((bytesAt b 0 64)[i]?.getD 0))

def parseXstart (m : PMsg) : Xfer :=
  let b := m.body
  let dk := leAt b 22 2
  { chip := m.src, xid := xidOf m, dst := BitVec.ofNat 64 (leAt b 0 8), rstg := BitVec.ofNat 64 (leAt b 8 8), bytes := leAt b 16 4
    codec := BitVec.ofNat 2 (leAt b 20 1), rfn := BitVec.ofNat 6 (leAt b 21 1)
    dknot := if bitOf dk 15 then some (BitVec.ofNat 12 dk, BitVec.ofNat 16 (leAt b 24 2)) else none }

/-- The rights of an XSTART (R380). The length of an unpacked tensor is not in it: its range is checked with XEND. -/
def xstartRight (s : State) (t : Xfer) : Bool × State :=
  let fn := t.rfn.toNat
  if !passageRight s fn 0 t.chip.toNat then (false, s)
  else if (match t.dknot with | some (k, _) => !ownsKnot s fn k.toNat | none => false) then (false, s)
  else
    let (a, s) := mayWrite s fn t.dst (if t.codec = 1 then 1 else t.bytes)
    if !a then (false, s)
    else if t.codec = 1 then mayWrite s fn t.rstg t.bytes else (true, s)

/-- XSTART (R380, R386). -/
def execRxXstart (k : Nat) (s : State) : Out State :=
  .next (live s fun s => takeMsg k 0 0 s fun s m =>
    let s := dropXfer s m
    let t := parseXstart m
    if !xstartOk m.body then xack (damaged s) m stCheckFail
    else if t.codec = 3 then xack (bad s) m stCheckFail
    else
      let (ok, s) := xstartRight s t
      if ok then { s with xfers := s.xfers ++ [t] } else xack (noRight s 1) m stProtection)

/-- XDATA (R380, R381): the segments are written in order, each under the rights of its window and its Passage as they
stand (R106, R107). -/
def execRxXdata (k : Nat) (s : State) : Out State :=
  .next (live s fun s => takeMsg k 0 1 s fun s m =>
    match findXfer s m with
    | none => bad s
    | some t =>
      let bs := m.body.take (t.bytes - t.data.length)
      let a := (if t.codec = 1 then t.rstg else t.dst) + BitVec.ofNat 64 t.data.length
      let (ok, s) := if bs.isEmpty then (true, s) else mayWrite s t.rfn.toNat a bs.length
      if !ok || !passageRight s t.rfn.toNat 0 t.chip.toNat then xack (noRight (dropXfer s m) 1) m stProtection
      else
      let s := match addrOf a.toNat with
        | some (sp, off) => memWr s sp off bs
        | none => s
      { s with xfers := s.xfers.map (fun u => if u = t then { t with data := t.data ++ m.body } else u) })

/-- The unpack of a CODEC 1 transfer (R334, R378): a staged tensor that cannot be read, or is none, ends it as it ends any
unpack (R357); the length of one that can is checked against the windows of RFN. -/
def xferUnpack (s : State) (t : Xfer) : Nat × State :=
  match addrOf t.rstg.toNat, addrOf t.dst.toNat with
  | some src, some dst =>
    let unpack (s : State) (n : Nat) : Nat × State :=
      let (st, _, s) := unpackTo s t.rfn { codec := 2, src := src, dst := dst, len := t.bytes, dstMax := n } 5
      (st, s)
    match snapshot (rdAt s src) none with
    | (.inl _, _) => unpack s 0
    | (.inr sn, rs) =>
      let (ok, s) := mayWrite s t.rfn.toNat t.dst (1024 * sn.nblk)
      if ok then unpack s (1024 * sn.nblk) else (stProtection, noRight (countReads s src rs) 1)
  | _, _ => (stBad, s)

/-- XEND (R381): RFN still has its Passage right (R106), the CRC holds, the unpack is done, then DKNOT, then XACK. -/
def execRxXend (k : Nat) (s : State) : Out State :=
  .next (live s fun s => takeMsg k 0 2 s fun s m =>
    match findXfer s m with
    | none => bad s
    | some t =>
      if !passageRight s t.rfn.toNat 0 t.chip.toNat then xack (noRight (dropXfer s m) 1) m stProtection
      else if t.data.length ≠ t.bytes ∨ (crc32 t.data).toNat ≠ leAt m.body 0 4 then xack (bad (dropXfer s m)) m stCheckFail
      else
        let (st, s) := if t.codec = 1 then xferUnpack s t else (stOk, s)
        if st ≠ stOk then xack (dropXfer s m) m st
        else match t.dknot with
          | none => xack (dropXfer s m) m stOk
          | some (kn, ep) =>
            let s := { s with xfers := s.xfers.map (fun u => if u = t then { t with ending := true } else u) }
            sendKnotOp s { op := 0, knot := kn, epoch := ep, amount := 1, fn := t.rfn
                           origin := .conduitDone (t.chip.toNat * 4096 + t.xid.toNat) })

/-- XABORT (R382): what has been written stays; nothing is signalled. -/
def execRxXabort (k : Nat) (s : State) : Out State := .next (live s fun s => takeMsg k 0 3 s dropXfer)

/-! ### Conduits (R378, R379, R381, R382) -/

def cndTinc (c : Conduit) : U32 := if c.tinc = 0 then 1 else c.tinc
def cndChip (c : Conduit) : Nat := fld c.ctrl.toNat 9 12

/-- The conduit's trigger WAIT leaves for the knot store (R379). -/
def armConduit (s : State) (n : Nat) : State :=
  let c := getConduit s n
  let s := modConduit s n (fun c => { c with armed := true, ready := false })
  sendKnotOp s { op := 2, knot := BitVec.ofNat 12 c.trig.toNat, epoch := BitVec.ofNat 16 (fld c.trig.toNat 12 16), amount := c.next
                 fn := BitVec.ofNat 6 (conduitOwner c), origin := .conduitTrig (BitVec.ofNat 8 n) }

/-- A trigger WAIT that has not been answered is withdrawn. -/
def disarmConduit (s : State) (n : Nat) : State :=
  let mine (o : KOrigin) : Bool := o == .conduitTrig (BitVec.ofNat 8 n)
  modConduit { s with knotOps := s.knotOps.filter (fun o => !mine o.origin), knotWaits := s.knotWaits.filter (fun w => !mine w.origin) } n
    (fun c => { c with armed := false, ready := false })

/-- A write of PSG_CND_CTRL (R378): with EN 1 the other fields stay as they are while the conduit is enabled. -/
def writeConduit (s : State) (n : Nat) (w : U32) : State :=
  let c := getConduit s n
  let was := c.ctrl.getLsbD 0
  let s := disarmConduit s n
  if w.getLsbD 0 then
    let s := modConduit s n (fun c => { c with
      ctrl := if was then c.ctrl else w &&& 0x07FFFFFF
      next := cndTinc c, count := 0, state := if c.state = 2 then 2 else 1 })
    if c.state = 2 then s else armConduit s n
  else modConduit s n (fun c => { c with ctrl := if was then c.ctrl &&& 0xFFFFFFFE else w &&& 0x07FFFFFF, state := 0 })

/-- CONDUIT_ENABLE (R378). -/
def execConduitEnable (w : U32) (s : State) : Out State := .next (bar0 s 0 false fun s => writeConduit s (reg s 0x60100 % 256) w)

/-- The OWNER's rights before a transfer (R379). -/
def cndRights (s : State) (c : Conduit) : Bool × State :=
  let fn := conduitOwner c
  let dev (a : U64) : Bool := match addrOf a.toNat with | some (sp, _) => sp != spHost | none => false
  if !ownsKnot s fn (c.trig.toNat % 4096) || (bitOf c.ack.toNat 28 && !ownsKnot s fn (c.ack.toNat % 4096)) ||
      !passageRight s fn 0 (cndChip c) || !dev c.src then (false, s)
  else
    let (ok, s) := rangeRight s fn c.src.toNat c.len.toNat false
    if !ok then (false, s)
    else if fld c.ctrl.toNat 7 2 = 1 then (if dev c.stg then rangeRight s fn c.stg.toNat c.stgMax.toNat true else (false, s))
    else (true, s)

/-- The body of XSTART (R386). -/
def xstartBody (c : Conduit) (bytes : Nat) : Bytes :=
  let d := c.done.toNat
  let b := natLE 8 c.dst.toNat ++ natLE 8 c.rstg.toNat ++ natLE 4 bytes ++ natLE 1 (fld c.ctrl.toNat 7 2) ++
    natLE 1 (fld c.ctrl.toNat 21 6) ++ natLE 2 (fld d 0 12 + b2n (bitOf d 28) * 2 ^ 15) ++ natLE 2 (fld d 12 16)
  b ++ List.replicate 6 0 ++ b.map (fun x => ~~~x)

/-- XDATA messages of at most 232 B each. -/
def sendSegments (s : State) (chip xid : Nat) (bs : Bytes) : State :=
  (List.range ((bs.length + 231) / 232)).foldl (fun t k => psgSend t 0 1 chip xid ((bs.drop (232 * k)).take 232)) s

/-- A transfer that ends at its sender (R382). -/
def abortSend (s : State) (n : Nat) (st : Nat) : State :=
  let c := getConduit s n
  conduitError (psgSend s 0 3 (cndChip c) c.xid.toNat (natLE 1 st)) n st (some (conduitOwner c))

/-- `len` bytes at `a` go out as XSTART, XDATA and XEND; poisoned data ends the transfer before its segment. -/
def sendRange (s : State) (n : Nat) (a : Nat × Nat) (len : Nat) : State :=
  let c := getConduit s n
  let chip := cndChip c
  let s := psgSend s 0 0 chip c.xid.toNat (xstartBody c len)
  match firstPoison s (mkey a.1 a.2) len with
  | some i =>
    let (bs, s) := memRd s a.1 a.2 (i / 232 * 232)
    let s := poisonRead (sendSegments s chip c.xid.toNat bs) 5 (mkey a.1 a.2 + i) (some (conduitOwner c)) stUncorr
    abortSend s n stUncorr
  | none =>
    let (bs, s) := memRd s a.1 a.2 len
    let s := sendSegments s chip c.xid.toNat bs
    psgSend s 0 2 chip c.xid.toNat (natLE 4 (crc32 bs).toNat)

/-- The transfer itself, its rights being given (R378, R382). -/
def runTransfer (s : State) (n : Nat) : State :=
  let c := getConduit s n
  let fn := conduitOwner c
  let codec := fld c.ctrl.toNat 7 2
  let fail (s : State) (st : Nat) : State := conduitError s n st (some fn)
  if codec = 3 ∨ c.len = 0 ∨ (codec = 1 ∧ c.len.toNat % 1024 ≠ 0) then fail s stBad
  else match addrOf c.src.toNat with
    | none => fail s stBad
    | some src =>
      if codec ≠ 1 then sendRange s n src c.len.toNat
      else match addrOf c.stg.toNat with
        | none => fail s stBad
        | some stg =>
          let a : CopyArgs := { codec := 1, src := src, dst := stg, len := c.len.toNat, dstMax := c.stgMax.toNat }
          match packPoison s a with
          | some k => abortSend (poisonRead s 5 k (some fn) stUncorr) n stUncorr
          | none =>
            match packTo s a (peek s (mkey src.1 src.2) a.len) with
            | (none, s) => fail s stBad
            | (some bytes, s) => sendRange s n stg bytes

/-- CONDUIT_TRIGGER (R379): the conduit's trigger WAIT has been released. -/
def execConduitTrigger (n : U8) (s : State) : Out State :=
  .next (live s fun s =>
    let i := n.toNat
    let c := getConduit s i
    if c.state ≠ 1 || !c.ready then s
    else
      let s := { s with nextXid := s.nextXid + 1 }
      let s := modConduit s i (fun c => { c with next := c.next + cndTinc c, state := 2, ready := false, xid := s.nextXid - 1 })
      let s := noteCtl s (fun w => protWord 4 (c.trig.toNat % 4096) w || protWord 4 (c.ack.toNat % 4096) w || protWord 5 (conduitOwner c) w)
      let (ok, s) := cndRights s c
      if !ok then conduitError (noRight s 1) i stProtection (some (conduitOwner c))
      else if chipLost s (cndChip c) then conduitError (needRoute s (cndChip c)) i stPeerLost (some (conduitOwner c))
      else runTransfer s i)

/-- A transfer has ended well (R381). -/
def endTransfer (s : State) (n : Nat) : State :=
  let c := getConduit s n
  let s := modConduit s n (fun c => { c with state := 1, count := if c.count = 0xFFFFFFFF then c.count else c.count + 1 })
  let s := if bitOf c.ack.toNat 28 then
      sendKnotOp s { op := 0, knot := BitVec.ofNat 12 c.ack.toNat, epoch := BitVec.ofNat 16 (fld c.ack.toNat 12 16), amount := 1
                     fn := BitVec.ofNat 6 (conduitOwner c), origin := .conduitAck (BitVec.ofNat 8 n) }
    else s
  armConduit s n

/-- XACK (R381, R382). -/
def execRxXack (k : Nat) (s : State) : Out State :=
  .next (live s fun s => takeMsg k 0 4 s fun s m =>
    match (s.conduits.find? (fun e => e.2.state == 2 && e.2.xid == xidOf m && cndChip e.2 == m.src.toNat)).map (·.1) with
    | none => bad s
    | some n =>
      let st := leAt m.body 0 1
      if st = stOk ∨ st = stStale then endTransfer s n else conduitError s n st (some (conduitOwner (getConduit s n))))

/-! ### Events and steps (R148, R383 to R385) -/

/-- A stream is fed from other chips. -/
def isRemoteFed (s : State) (st : Nat) : Bool :=
  match getInst s st with
  | some i => remoteFed s i
  | none => false

/-- One event of an EVENTS message. -/
def takeEvent (s : State) (src : ChipId) (w : U64) (egen : Gen) : State :=
  let st := fld w.toNat 50 14
  if !isRemoteFed s st then fltStale (c32 (c64 s 0x20040 1) 0x20058 1) 1
  else if !passageRight s (getStream s st).ctx.owner.toNat 1 src.toNat then noRight s 1
  else
    let s := modInst s st (fun i => { i with srcChip := some src })
    { s with events := s.events ++ [{ word := w, egen := egen, src := some src }] }

/-- EVENTS (R383): the events are in flight to their cores. -/
def execRxEvents (k : Nat) (s : State) : Out State :=
  .next (live s fun s => takeMsg k 1 0 s fun s m =>
    let n := m.tagw.toNat % 32
    if n = 0 ∨ 26 < n then bad s
    else (List.range n).foldl (fun t e =>
      takeEvent t m.src (BitVec.ofNat 64 (leAt m.body (8 * e) 8)) (BitVec.ofNat 4 (leAt m.body (208 + e / 2) 1 / 16 ^ (e % 2)))) s)

/-- STEP_END (R384): what a refused step answers at once. -/
def stepAck (s : State) (m : PMsg) (st : Nat) : State :=
  psgSend s 1 2 m.src.toNat 0 (bytesAt m.body 0 4 ++ natLE 4 0 ++ bytesAt m.body 8 4 ++ natLE 4 0 ++ natLE 1 st)

/-- STEP_END (R148, R384). -/
def execRxStepEnd (k : Nat) (s : State) : Out State :=
  .next (live s fun s => takeMsg k 1 1 s fun s m =>
    let a := leAt m.body 0 4
    let b := leAt m.body 4 4
    let st := fld b 0 14
    let x := getStream s st
    if !isRemoteFed s st || x.ctx.gen.toNat != fld b 14 4 then stepAck s m stStale
    else if !passageRight s x.ctx.owner.toNat 1 m.src.toNat then stepAck (noRight s 1) m stProtection
    else
      let e := some (m.src, BitVec.ofNat 14 a, BitVec.ofNat 4 (fld a 14 4), BitVec.ofNat 20 (leAt m.body 8 4), leAt m.body 12 4)
      if x.inputDone || x.waiting.isSome then modInst s st (fun i => { i with nextEnd := e, srcChip := some m.src })
      else completeRemote (modInst s st (fun i => { i with remoteEnd := e, srcChip := some m.src })) st)

/-- STEP_ACK (R385). -/
def execRxStepAck (k : Nat) (s : State) : Out State :=
  .next (live s fun s => takeMsg k 1 2 s fun s m =>
    let a := leAt m.body 0 4
    let st := fld a 0 14
    match getInst s st with
    | none => bad s
    | some i =>
      match i.waitAck with
      | none => bad s
      | some (stamp, n) =>
        if (getStream s st).ctx.gen.toNat ≠ fld a 14 4 ∨ stamp.toNat ≠ fld (leAt m.body 8 4) 0 20 then bad s
        else finishClosure (if leAt m.body 16 1 = stProtection then noRight s n else s) st false)

/-! ### Knots (R226 to R228, R387) -/

/-- The body agrees with its complement. -/
def kopOk (b : Bytes) : Bool := (List.range 16).all (fun i => (bytesAt b 0 32)[16 + i]?.getD 0 == ~~~((bytesAt b 0 32)[i]?.getD 0))
def kopKnot (b : Bytes) : Nat := leAt b 0 2 % 4096
def kopEpoch (b : Bytes) : Nat := leAt b 2 2
def kopAmount (b : Bytes) : Nat := leAt b 4 4
def kopStatus (b : Bytes) : Nat := leAt b 8 1
def kopToken (b : Bytes) : Nat := leAt b 12 4

/-- A control-class answer (R387). -/
def kopAnswer (s : State) (m : PMsg) (mtype epoch amount st : Nat) : State :=
  psgSend s 2 mtype m.src.toNat 0 (kopBody (kopKnot m.body) epoch amount st (kopToken m.body))

/-- KOP (R227, R228): the ADD of a mirror goes to the knot store; bytes 0 to 3 are its operand word (R217). -/
def execRxKop (k : Nat) (s : State) : Out State :=
  .next (live s fun s => takeMsg k 2 0 s fun s m =>
    if !kopOk m.body then kopAnswer (damaged s) m 1 0 0 stCheckFail
    else sendKnotOp s { op := 0, knot := BitVec.ofNat 12 (kopKnot m.body), epoch := BitVec.ofNat 16 (kopEpoch m.body)
                        malformed := fld (leAt m.body 0 2) 12 4 != 0
                        amount := BitVec.ofNat 32 (kopAmount m.body), fn := 0, chip := some m.src
                        origin := .remote m.src (BitVec.ofNat 32 (kopToken m.body)) })

/-- KOP_REPLY (R227): the home's answer goes to the originator. -/
def execRxKopReply (k : Nat) (s : State) : Out State :=
  .next (live s fun s => takeMsg k 2 1 s fun s m =>
    let t := BitVec.ofNat 32 (kopToken m.body)
    if !kopOk m.body then damaged s
    else match s.kfwd.find? (fun f => f.token == t && f.chip == m.src) with
      | none => bad s
      | some f => knotAnswer { s with kfwd := s.kfwd.filter (fun g => g.token != t) } f.op.origin 0 f.op.knot f.op.amount
          (kopStatus m.body) (kopEpoch m.body))

/-- SUBSCRIBE (R226): the home accepts at most 256 subscriptions. -/
def execRxSubscribe (k : Nat) (s : State) : Out State :=
  .next (live s fun s => takeMsg k 2 2 s fun s m =>
    let kn := kopKnot m.body
    let u : Sub := { knot := BitVec.ofNat 12 kn, chip := m.src, rknot := BitVec.ofNat 12 (kopToken m.body) }
    if !kopOk m.body then kopAnswer (damaged s) m 3 0 0 stCheckFail
    else if !chipMayUse s kn m.src.toNat then kopAnswer (c32 s 0x3012C 1) m 3 0 0 stProtection
    else
      let rest := s.subs.filter (fun v => v != u)
      if 256 ≤ rest.length then kopAnswer s m 3 0 0 stBad
      else kopAnswer { s with subs := rest ++ [u] } m 3 (getKnot s kn).epoch.toNat (getKnot s kn).value.toNat stOk)

/-- The local knot that a message of a home concerns. -/
def kopMirror (s : State) (m : PMsg) (pending : Bool) : Option Nat :=
  let k := kopToken m.body % 4096
  let kn := getKnot s k
  if (if pending then kn.bindPend else kn.mirror && !kn.lost) && kn.hchip == m.src && kn.hknot.toNat == kopKnot m.body then some k else none

/-- SUB_REPLY (R226). -/
def execRxSubReply (k : Nat) (s : State) : Out State :=
  .next (live s fun s => takeMsg k 2 3 s fun s m =>
    if !kopOk m.body then damaged s
    else match kopMirror s m true with
      | none => bad s
      | some kn => endBind s kn (kopStatus m.body) (BitVec.ofNat 32 (kopAmount m.body)) (BitVec.ofNat 16 (kopEpoch m.body)))

/-- UPDATE (R227). -/
def execRxUpdate (k : Nat) (s : State) : Out State :=
  .next (live s fun s => takeMsg k 2 4 s fun s m =>
    if !kopOk m.body then damaged s
    else match kopMirror s m false with
      | none => bad s
      | some kn => adoptValue s kn (BitVec.ofNat 32 (kopAmount m.body)) (BitVec.ofNat 16 (kopEpoch m.body)))

/-- UNSUBSCRIBE. -/
def execRxUnsubscribe (k : Nat) (s : State) : Out State :=
  .next (live s fun s => takeMsg k 2 5 s fun s m =>
    if !kopOk m.body then damaged s
    else { s with subs := s.subs.filter (fun u => !(u.knot.toNat == kopKnot m.body && u.chip == m.src &&
            u.rknot.toNat == kopToken m.body % 4096)) })

/-! ### Management (R388, R390, R392) -/

/-- LOSS (R390). -/
def execRxLoss (k : Nat) (s : State) : Out State :=
  .next (live s fun s => takeMsg k 3 0 s fun s m => loseChip s (leAt m.body 0 2 % 4096) 0 0)

/-- RREAD_REPLY (R388). -/
def execRxRreadReply (k : Nat) (s : State) : Out State :=
  .next (live s fun s => takeMsg k 3 2 s fun s m =>
    if s.rreg.busy ∧ s.rreg.chip = m.src then endRreg s (leAt m.body 4 1) (BitVec.ofNat 32 (leAt m.body 0 4)) else bad s)

/-- PSG_RREG_CHIP.GO (R388): ignored while BUSY; a lost chip ends the read at once. -/
def rregStart (s : State) : State :=
  let chip := reg s 0x60080 % 4096
  if s.rreg.busy then s
  else
    let s := { s with rreg := { s.rreg with busy := true, chip := BitVec.ofNat 12 chip } }
    if chipLost s chip then endRreg (needRoute s chip) stPeerLost s.rreg.data
    else psgSend s 3 1 chip 0 (natLE 4 (reg s 0x60084))

/-- GO (R388). -/
def execRregGo (s : State) : Out State := .next (bar0 s 0 false rregStart)

/-- A chip returns, once the path to it is up (R392). What its loss brought is settled first; the bridged steps that were
open meanwhile send no STEP_END. -/
def returnChip (s : State) (chip : Nat) : State :=
  let s := settleLoss s
  if pathUp s chip then { s with lostChips := smSet false s.lostChips chip false } else s

/-- CHIP_RETURN (R392). -/
def execChipReturn (s : State) : Out State := .next (bar0 s 0 false fun s => returnChip s (reg s 0x60050 % 4096))

/-- PSG_CLEAR.CLR (R397): every counter of its table, but not the windows of R393. -/
def execPsgClear (s : State) : Out State :=
  .next (bar0 s 0 false fun s =>
    let s := clearCtrs s [0x60060, 0x60064, 0x60068, 0x6006C, 0x60070, 0x60074]
    let s := (s.conduits.map (·.1)).foldl (fun t n => modConduit t n (fun c => { c with count := 0 })) s
    (List.range 4).foldl (fun t i => modPort t i (fun p =>
      { p with txFlits := 0, rxFlits := 0, fecUncorr := 0, naks := 0, retrains := 0, laneCorr := 0 })) s)

end Sys2Proof.Machine
end

