-- ==== Sys2Proof/Machine/Bobbin.lean ====
section
/-! DEFINITION. Bobbin.lean: how a Bobbin core issues a bundle (R167 to R173, R194), its local space (R178), and the
end of a job's run on its cores. -/

namespace Sys2Proof.Machine

/-! ## Registers of a core (R164) -/

def sReg (k : Core) (i : BitVec 5) : U32 := if i = 0 then 0 else smGet 0 k.s i.toNat
def setS (s : State) (c : Nat) (i : BitVec 5) (v : U32) : State :=
  if i = 0 then s else modCore s c (fun k => { k with s := smSet 0 k.s i.toNat v })
def vReg (k : Core) (i : BitVec 4) : BitVec 512 := smGet 0 k.v i.toNat
def setV (s : State) (c : Nat) (i : BitVec 4) (v : BitVec 512) : State :=
  modCore s c (fun k => { k with v := smSet 0 k.v i.toNat v })

/-- The physical position of a logical core: x in [3:0], y in [8:4] (R162). -/
def physCore (s : State) (c : Nat) : Nat := physOf s 3 c
/-- The logical core at a physical position. -/
def coreAt (s : State) (p : Nat) : Option Nat := findBelow (fun c => physCore s c == p) 256

/-! ## The end of a run (R179, R183, R194, R329) -/

/-- A run of a job ends on all its cores at once: queued DMA descriptors and unsent messages are discarded, and so is
a WAIT of theirs. `st`: 4 ended; the core of a program fault keeps 5 (R202). -/
def haltCores (s : State) (jn : Nat) (st : CoreSt) : State :=
  let cs := jobCores s jn
  let mine (m : Msg) : Bool := cs.any (fun c => physCore s c == m.src.toNat)
  let wait (o : KOrigin) : Bool := match o with | .core c w _ => w && cs.contains c.toNat | _ => false
  let s := { s with
    msgs := s.msgs.filter (fun m => !mine m)
    bounces := s.bounces.filter (fun m => !mine m)
    knotOps := s.knotOps.filter (fun o => !wait o.origin)
    knotWaits := s.knotWaits.filter (fun w => !wait w.origin) }
  cs.foldl (fun t c => modCore t c (fun k =>
    { k with st := if k.st = 5 then 5 else st, ending := true, dmas := [], ksigs := [], outb := [], waitOut := false, waitDone := false })) s

/-- A job ends with a status before its program does. -/
def stopJob (s : State) (jn st : Nat) (cst : CoreSt) : State := haltCores (failJob s jn st) jn cst

/-- CAUSE and ADDR of BOB_FAULT_LOG. -/
structure PFault where
  cause : Nat
  addr : Nat

/-- A program fault (R194). -/
def programFault (s : State) (c : Nat) (f : PFault) : State :=
  match (getCore s c).job with
  | none => s
  | some jn =>
    let w := c + f.cause * 2 ^ 8 + (getCore s c).pc.toNat * 2 ^ 12 + 2 ^ 31
    let s := c32 s 0x30068 1
    let s := if bitOf (reg s 0x30080) 31 then s else setReg (setReg s 0x30080 w) 0x30084 f.addr
    let (fn, sl) := match getJob s jn with | some j => (some j.fn.toNat, some j.slot.toNat) | none => (none, none)
    let s := logRec s 0x06 2 { status := stBad, fn := fn, slot := sl, utype := 3, unit := physCore s c, detail := f.addr, detail2 := w }
    modCore (stopJob s jn stBad 4) c (fun k => { k with st := 5 })

/-! ## Local space (R178, R206, R214) -/

def sramSize : Nat := 0x100000

/-- A byte of a ring of 64 B entries: those that hold no message read a free value. -/
def entryByte (es : List Bytes) (head size : Nat) (n off : Nat) : U8 :=
  let i := (off / 64 + size - head) % size
  match es[i]? with
  | some e => (e[off % 64]?).getD 0
  | none => Config.emptyByte n off

/-- One byte of the local space; `n` numbers the read. -/
def localByte (s : State) (c n a : Nat) : U8 :=
  let k := getCore s c
  if a < sramSize then peek1 s (mkey (spBobbin c) a)
  else if a < 0x101000 then entryByte k.inbox k.inboxHead 64 n (a - 0x100000)
  else if a < 0x102000 then entryByte k.eq k.eqHead 16 n (a - 0x101000)
  else if a < 0x103800 then BitVec.ofNat 8 ((smGet 0 k.pt ((a - 0x102000) / 2)).toNat / 256 ^ (a % 2))
  else (k.jobBlock[a - 0x103800]?).getD 0

/-- The address names memory that a program may read. -/
def localOk (a : Nat) : Bool :=
  decide (a < sramSize) || (decide (0x100000 ≤ a ∧ a < 0x101400)) || (decide (0x102000 ≤ a ∧ a < 0x102800)) ||
  (decide (0x103800 ≤ a ∧ a < 0x103840))

/-- Why an access of `n` bytes at `a` is a program fault, if it is. -/
def accessFault (a n : Nat) (wr : Bool) : Option PFault :=
  if a % n ≠ 0 then some ⟨2, a⟩
  else if !localOk a then some ⟨3, a⟩
  else if wr && !(decide (a < sramSize) || (a == 0x103830 && n == 4)) then some ⟨4, a⟩
  else none

/-- `n` bytes of the local space, read as they stand in `old`. -/
def localRead (old s : State) (c a n : Nat) : Bytes × State :=
  let (k, s) := takeFree s
  ((List.range n).map (fun i => localByte old c k (a + i)), s)

/-- The words that a store meets before it writes (R179, R180). -/
def storeReads (a size : Nat) : List (Nat × Nat) := if a < sramSize then partWords 8 a size else []

/-- A store to SRAM, or to the result in the job block (R192). -/
def localWrite (s : State) (c a : Nat) (bs : Bytes) : State :=
  if a < sramSize then poke (clearFlaws s (mkey (spBobbin c) a) bs.length) (mkey (spBobbin c) a) bs
  else modCore s c (fun k => { k with jobBlock := bytesPut k.jobBlock 0x30 (bs.take 3 ++ [(bs[3]?.getD 0) &&& 1]) })

/-! ## SECDED of the SRAM (R179, R410) -/

/-- An error in an SRAM word is met: corrected, or one of those that retire the core. -/
def sramError (s : State) (c : Nat) (two : Bool) : State :=
  if !two then c32 (c32 s 0x30070 1) 0x90040 1
  else
    let (n, s) := winCount (c32 s 0x90048 1) (winKey 0x13 (physCore s c)) (2 ^ 32)
    if 16 ≤ n then addVerdict s (.unit 3 c n 32) else s

/-- A read of `[a, a + n)` of a core's SRAM: whether every word could be read. -/
def sramEcc (s : State) (c a n : Nat) : Bool × State :=
  let s := winPass s (winKey 0x13 (physCore s c)) 1
  if s.flaws.isEmpty then (true, s)
  else
    let (fs, s) := meetFlaws s (mkey (spBobbin c) a) n
    (!fs.any (fun e => e.2 == 2), fs.foldl (fun t e => sramError t c (e.2 == 2)) s)

/-- The reads of a bundle: a word that cannot be read ends the job with UNCORRECTABLE. -/
def sramReads (s : State) (c : Nat) (rs : List (Nat × Nat)) : Bool × State :=
  let (ok, s) := rs.foldl (fun (ok, t) r => let (o, t) := sramEcc t c r.1 r.2; (ok && o, t)) (true, s)
  if ok then (true, s)
  else match (getCore s c).job with
    | some jn => (false, stopJob s jn stUncorr 4)
    | none => (false, s)

/-! ## Slots of a bundle (R169, R170) -/

/-- Where control goes after a bundle. -/
inductive Flow where
  | seq
  | jump (target : Int)
  | loop (count len : Nat)

/-- What one slot does. `ready` and `fault` look at the state before the bundle; `run` has that state and the one that
the slots before it have made. -/
structure SlotOp where
  ready : State → Nat → Bool := fun _ _ => true
  /-- What a slot that is not ready does as the bundle waits. -/
  onWait : State → Nat → State := fun s _ => s
  fault : State → Nat → Option PFault := fun _ _ => none
  run : State → State → Nat → State := fun _ s _ => s
  flow : Core → Flow := fun _ => .seq
  /-- Ranges of the SRAM that it reads. -/
  sram : State → Nat → List (Nat × Nat) := fun _ _ => []
  /-- Scalar registers written. -/
  dest : List (BitVec 5) := []

def nopSlot : SlotOp := {}
/-- A slot that R171 calls illegal. -/
def illegalSlot : SlotOp := { fault := fun _ _ => some ⟨1, 0⟩ }

/-! ## Control flow (R172, R173) -/

/-- Loops whose body does not hold the target end. -/
def leaveLoops (ls : List LoopFrame) (target : Nat) : List LoopFrame :=
  ls.dropWhile (fun f => !(decide (f.first ≤ target ∧ target < f.first + f.len)))

/-- Control reaches bundle `next` in sequence: loops that end there iterate or are done; `none`: an inner body that
does not lie within the outer one. -/
def reachEnd (ls : List LoopFrame) (next : Nat) : Option (Nat × List LoopFrame) :=
  match ls with
  | [] => some (next, [])
  | f :: r =>
    if next ≠ f.first + f.len then some (next, f :: r)
    else if (match r with | g :: _ => !(decide (g.first ≤ f.first ∧ f.first + f.len ≤ g.first + g.len)) | [] => false) then none
    else if 1 < f.left then some (f.first, { f with left := f.left - 1 } :: r)
    else reachEnd r next

/-- The next PC and the loops after a bundle at `pc`. -/
def nextPc (pc : Nat) (ls : List LoopFrame) (fl : Flow) : Option (Int × List LoopFrame) :=
  match fl with
  | .seq => (reachEnd ls (pc + 1)).map (fun (p, l) => ((p : Int), l))
  | .jump t => some (t, if t < 0 then [] else leaveLoops ls t.toNat)
  | .loop n len =>
    if n = 0 then
      match ls with
      | g :: _ => if g.first + g.len < pc + 1 + len then none else (reachEnd ls (pc + 1 + len)).map (fun (p, l) => ((p : Int), l))
      | [] => some (((pc + 1 + len : Nat) : Int), [])
    else some (((pc + 1 : Nat) : Int), { first := pc + 1, len := len, left := n } :: ls)

/-- A bundle has issued: PC and loops move on. A PC that leaves the SRAM faults, unless the core has ended. -/
def advance (s : State) (c : Nat) (fl : Flow) : State :=
  let k := getCore s c
  let pc := k.pc.toNat
  let s := c64 (modCore s c (fun k => { k with lastPc := k.pc, st := if k.ending then 4 else 2 })) 0x30048 1
  if k.ending then s
  else match nextPc pc k.loops fl with
    | none => programFault s c ⟨5, 0⟩
    | some (t, ls) =>
      if t < 0 ∨ 131072 ≤ t then programFault s c ⟨3, twos 32 (8 * t)⟩
      else modCore s c (fun k => { k with pc := BitVec.ofInt 17 t, loops := ls })

/-! ## The issue of a bundle -/

/-- The core runs a job and may issue. -/
def canIssue (s : State) (c : Nat) : Bool :=
  let k := getCore s c
  k.job.isSome && !k.ending && (k.st == 2 || k.st == 3) && bobRuns s

def flowOf (k : Core) (ops : List SlotOp) : Flow := match ops with | o :: _ => o.flow k | [] => .seq

/-- A bundle of slots, the S slot first, issues, waits or faults. Where two slots write one vector register, or PTP,
the later slot wins: DESIGN CHOICE (log entry 202). -/
def issue (s : State) (c : Nat) (ops : List SlotOp) : State :=
  if !canIssue s c then s
  else if !ops.all (fun o => o.ready s c) then
    let t := ops.foldl (fun t o => if o.ready s c then t else o.onWait t c) s
    modCore t c (fun k => { k with st := if k.ending then k.st else 3 })
  else match ops.findSome? (fun o => o.fault s c) with
    | some f => programFault s c f
    | none =>
      let (ok, t) := sramReads s c (ops.flatMap (fun o => o.sram s c))
      if ok then advance (winPass (ops.foldl (fun t o => o.run s t c) t) (winKey 3 (physCore s c)) 1) c (flowOf (getCore s c) ops)
      else t

/-- A bundle with one slot in use, as the commands of the instruction set issue it. -/
def issueOne (c : BitVec 8) (o : SlotOp) (s : State) : Out State := .next (awake s fun s => issue s c.toNat [o])

/-- An M or X slot alone: the S slot is a NOP. -/
def issueMX (c : BitVec 8) (o : SlotOp) (s : State) : Out State := .next (awake s fun s => issue s c.toNat [nopSlot, o])

end Sys2Proof.Machine
end

