-- ==== Sys2Proof/Machine/Scalar.lean ====
section
/-! DEFINITION. Scalar.lean: the S slot (R172 to R174). Each `op…` is one instruction's slot; the command of that
name issues a bundle that holds it alone. -/

namespace Sys2Proof.Machine

/-! ## Arithmetic -/

/-- An instruction that writes sD from sA and sB. -/
def rrSlot (d a b : BitVec 5) (f : U32 → U32 → U32) : SlotOp :=
  { dest := [d], run := fun old s c => setS s c d (f (sReg (getCore old c) a) (sReg (getCore old c) b)) }

/-- An instruction that writes sD from sA. -/
def riSlot (d a : BitVec 5) (f : U32 → U32) : SlotOp :=
  { dest := [d], run := fun old s c => setS s c d (f (sReg (getCore old c) a)) }

/-- ADD. -/
def opAdd (d a b : BitVec 5) : SlotOp := rrSlot d a b (fun x y => x + y)
def execIAdd (c : BitVec 8) (d a b : BitVec 5) (s : State) : Out State := issueOne c (opAdd d a b) s

/-- SUB. -/
def opSub (d a b : BitVec 5) : SlotOp := rrSlot d a b (fun x y => x - y)
def execISub (c : BitVec 8) (d a b : BitVec 5) (s : State) : Out State := issueOne c (opSub d a b) s

/-- AND. -/
def opAnd (d a b : BitVec 5) : SlotOp := rrSlot d a b (fun x y => x &&& y)
def execIAnd (c : BitVec 8) (d a b : BitVec 5) (s : State) : Out State := issueOne c (opAnd d a b) s

/-- OR. -/
def opOr (d a b : BitVec 5) : SlotOp := rrSlot d a b (fun x y => x ||| y)
def execIOr (c : BitVec 8) (d a b : BitVec 5) (s : State) : Out State := issueOne c (opOr d a b) s

/-- XOR. -/
def opXor (d a b : BitVec 5) : SlotOp := rrSlot d a b (fun x y => x ^^^ y)
def execIXor (c : BitVec 8) (d a b : BitVec 5) (s : State) : Out State := issueOne c (opXor d a b) s

/-- SHL. -/
def opShl (d a b : BitVec 5) : SlotOp := rrSlot d a b (fun x y => x <<< (y.toNat % 32))
def execIShl (c : BitVec 8) (d a b : BitVec 5) (s : State) : Out State := issueOne c (opShl d a b) s

/-- SHR: a logical shift. -/
def opShr (d a b : BitVec 5) : SlotOp := rrSlot d a b (fun x y => x >>> (y.toNat % 32))
def execIShr (c : BitVec 8) (d a b : BitVec 5) (s : State) : Out State := issueOne c (opShr d a b) s

/-- SRA: an arithmetic shift. -/
def opSra (d a b : BitVec 5) : SlotOp := rrSlot d a b (fun x y => x.sshiftRight (y.toNat % 32))
def execISra (c : BitVec 8) (d a b : BitVec 5) (s : State) : Out State := issueOne c (opSra d a b) s

/-- SLT, signed. -/
def opSlt (d a b : BitVec 5) : SlotOp := rrSlot d a b (fun x y => if x.slt y then 1 else 0)
def execISlt (c : BitVec 8) (d a b : BitVec 5) (s : State) : Out State := issueOne c (opSlt d a b) s

/-- SLTU, unsigned. -/
def opSltu (d a b : BitVec 5) : SlotOp := rrSlot d a b (fun x y => if x < y then 1 else 0)
def execISltu (c : BitVec 8) (d a b : BitVec 5) (s : State) : Out State := issueOne c (opSltu d a b) s

/-- MIN, signed. -/
def opMin (d a b : BitVec 5) : SlotOp := rrSlot d a b (fun x y => if x.slt y then x else y)
def execIMin (c : BitVec 8) (d a b : BitVec 5) (s : State) : Out State := issueOne c (opMin d a b) s

/-- MAX, signed. -/
def opMax (d a b : BitVec 5) : SlotOp := rrSlot d a b (fun x y => if x.slt y then y else x)
def execIMax (c : BitVec 8) (d a b : BitVec 5) (s : State) : Out State := issueOne c (opMax d a b) s

/-- MUL: the low half. -/
def opMul (d a b : BitVec 5) : SlotOp := rrSlot d a b (fun x y => x * y)
def execIMul (c : BitVec 8) (d a b : BitVec 5) (s : State) : Out State := issueOne c (opMul d a b) s

/-- MULH: the high half of the signed product. -/
def opMulh (d a b : BitVec 5) : SlotOp := rrSlot d a b (fun x y => BitVec.ofInt 32 ((x.toInt * y.toInt) / 2 ^ 32))
def execIMulh (c : BitVec 8) (d a b : BitVec 5) (s : State) : Out State := issueOne c (opMulh d a b) s

/-- ADDI: I6 sign-extended. -/
def opAddi (d a : BitVec 5) (i : BitVec 6) : SlotOp := riSlot d a (fun x => x + i.signExtend 32)
def execIAddi (c : BitVec 8) (d a : BitVec 5) (i : BitVec 6) (s : State) : Out State := issueOne c (opAddi d a i) s

/-- A shift by I6; 32 and above are illegal (R171). -/
def shiftSlot (d a : BitVec 5) (i : BitVec 6) (f : U32 → Nat → U32) : SlotOp :=
  if i.toNat < 32 then riSlot d a (fun x => f x i.toNat) else illegalSlot

/-- SHLI. -/
def opShli (d a : BitVec 5) (i : BitVec 6) : SlotOp := shiftSlot d a i (fun x n => x <<< n)
def execIShli (c : BitVec 8) (d a : BitVec 5) (i : BitVec 6) (s : State) : Out State := issueOne c (opShli d a i) s

/-- SHRI. -/
def opShri (d a : BitVec 5) (i : BitVec 6) : SlotOp := shiftSlot d a i (fun x n => x >>> n)
def execIShri (c : BitVec 8) (d a : BitVec 5) (i : BitVec 6) (s : State) : Out State := issueOne c (opShri d a i) s

/-- SRAI. -/
def opSrai (d a : BitVec 5) (i : BitVec 6) : SlotOp := shiftSlot d a i (fun x n => x.sshiftRight n)
def execISrai (c : BitVec 8) (d a : BitVec 5) (i : BitVec 6) (s : State) : Out State := issueOne c (opSrai d a i) s

/-- MOVI: I11 sign-extended. -/
def opMovi (d : BitVec 5) (i : BitVec 11) : SlotOp := { dest := [d], run := fun _ s c => setS s c d (i.signExtend 32) }
def execIMovi (c : BitVec 8) (d : BitVec 5) (i : BitVec 11) (s : State) : Out State := issueOne c (opMovi d i) s

/-- LI. -/
def opLi (d : BitVec 5) (i : U32) : SlotOp := { dest := [d], run := fun _ s c => setS s c d i }
def execILi (c : BitVec 8) (d : BitVec 5) (i : U32) (s : State) : Out State := issueOne c (opLi d i) s

/-! ## Loads and stores -/

/-- The address of an access: sA, with the offset unless it is post-incremented. I6 is signed here and in `bump`, as in
ADDI: DEDUCED (log entry 204). -/
def memAddr (k : Core) (a : BitVec 5) (i : BitVec 6) (size : Nat) (post : Bool) : U32 :=
  if post then sReg k a else sReg k a + BitVec.ofInt 32 (i.toInt * size)

/-- The post-increment of sA by the signed I6 (DEDUCED, log entry 204), from its value before the bundle; it lands
after the load (R172). -/
def bump (old s : State) (c : Nat) (a : BitVec 5) (i : BitVec 6) (size : Nat) (post : Bool) : State :=
  if post then setS s c a (sReg (getCore old c) a + BitVec.ofInt 32 (i.toInt * size)) else s

/-- A load of `size` bytes; `put` takes them to their register. -/
def loadSlot (dest : List (BitVec 5)) (a : BitVec 5) (i : BitVec 6) (size : Nat) (post : Bool) (put : State → Nat → Nat → State) : SlotOp :=
  { dest := dest
    fault := fun s c => accessFault (memAddr (getCore s c) a i size post).toNat size false
    sram := fun s c =>
      let p := (memAddr (getCore s c) a i size post).toNat
      if p < sramSize then [(p, size)] else []
    run := fun old s c =>
      let (bs, s) := localRead old s c (memAddr (getCore old c) a i size post).toNat size
      bump old (put s c (leNat bs)) c a i size post }

/-- A store of `size` bytes, read from the core before the bundle. -/
def storeSlot (dest : List (BitVec 5)) (a : BitVec 5) (i : BitVec 6) (size : Nat) (post : Bool) (get : Core → Nat) : SlotOp :=
  { dest := dest
    fault := fun s c => accessFault (memAddr (getCore s c) a i size post).toNat size true
    sram := fun s c => storeReads (memAddr (getCore s c) a i size post).toNat size
    run := fun old s c =>
      let s := localWrite s c (memAddr (getCore old c) a i size post).toNat (natLE size (get (getCore old c)))
      bump old s c a i size post }

def putWord (d : BitVec 5) (s : State) (c v : Nat) : State := setS s c d (BitVec.ofNat 32 v)
def putVec (d : BitVec 4) (s : State) (c v : Nat) : State := setV s c d (BitVec.ofNat 512 v)

/-- LW. -/
def opLw (d : BitVec 5) (a : BitVec 5) (i : BitVec 6) : SlotOp := loadSlot [d] a i 4 false (putWord d)
def execILw (c : BitVec 8) (d : BitVec 5) (a : BitVec 5) (i : BitVec 6) (s : State) : Out State := issueOne c (opLw d a i) s

/-- LWP. -/
def opLwp (d : BitVec 5) (a : BitVec 5) (i : BitVec 6) : SlotOp := loadSlot [d, a] a i 4 true (putWord d)
def execILwp (c : BitVec 8) (d : BitVec 5) (a : BitVec 5) (i : BitVec 6) (s : State) : Out State := issueOne c (opLwp d a i) s

/-- SW. -/
def opSw (d : BitVec 5) (a : BitVec 5) (i : BitVec 6) : SlotOp := storeSlot [] a i 4 false (fun k => (sReg k d).toNat)
def execISw (c : BitVec 8) (d : BitVec 5) (a : BitVec 5) (i : BitVec 6) (s : State) : Out State := issueOne c (opSw d a i) s

/-- SWP. -/
def opSwp (d : BitVec 5) (a : BitVec 5) (i : BitVec 6) : SlotOp := storeSlot [a] a i 4 true (fun k => (sReg k d).toNat)
def execISwp (c : BitVec 8) (d : BitVec 5) (a : BitVec 5) (i : BitVec 6) (s : State) : Out State := issueOne c (opSwp d a i) s

/-- VLD. -/
def opVld (d : BitVec 4) (a : BitVec 5) (i : BitVec 6) : SlotOp := loadSlot [] a i 64 false (putVec d)
def execIVld (c : BitVec 8) (d : BitVec 4) (a : BitVec 5) (i : BitVec 6) (s : State) : Out State := issueOne c (opVld d a i) s

/-- VLDP. -/
def opVldp (d : BitVec 4) (a : BitVec 5) (i : BitVec 6) : SlotOp := loadSlot [a] a i 64 true (putVec d)
def execIVldp (c : BitVec 8) (d : BitVec 4) (a : BitVec 5) (i : BitVec 6) (s : State) : Out State := issueOne c (opVldp d a i) s

/-- VST. -/
def opVst (d : BitVec 4) (a : BitVec 5) (i : BitVec 6) : SlotOp := storeSlot [] a i 64 false (fun k => (vReg k d).toNat)
def execIVst (c : BitVec 8) (d : BitVec 4) (a : BitVec 5) (i : BitVec 6) (s : State) : Out State := issueOne c (opVst d a i) s

/-- VSTP. -/
def opVstp (d : BitVec 4) (a : BitVec 5) (i : BitVec 6) : SlotOp := storeSlot [a] a i 64 true (fun k => (vReg k d).toNat)
def execIVstp (c : BitVec 8) (d : BitVec 4) (a : BitVec 5) (i : BitVec 6) (s : State) : Out State := issueOne c (opVstp d a i) s

/-! ## Between scalar and vector registers -/

/-- Width of a lane of type T (R165). -/
def laneBits (t : BitVec 2) : Nat := if t = 0 then 8 else if t = 1 then 16 else 32
/-- The lanes of a register, lane 0 first. -/
def lanesOf (w : Nat) (v : BitVec 512) : List Nat := (List.range (512 / w)).map (fun i => fld v.toNat (w * i) w)
def ofLanes (w : Nat) (ls : List Nat) : BitVec 512 := BitVec.ofNat 512 (ls.foldr (fun x t => x % 2 ^ w + 2 ^ w * t) 0)

/-- VSPLAT. -/
def opVsplat (d : BitVec 4) (a : BitVec 5) (t : BitVec 2) : SlotOp :=
  { run := fun old s c =>
      let w := laneBits t
      setV s c d (ofLanes w (List.replicate (512 / w) (sReg (getCore old c) a).toNat)) }
def execIVsplat (c : BitVec 8) (d : BitVec 4) (a : BitVec 5) (t : BitVec 2) (s : State) : Out State := issueOne c (opVsplat d a t) s

/-- VEXT. -/
def opVext (d : BitVec 5) (a l : BitVec 4) : SlotOp :=
  { dest := [d], run := fun old s c => setS s c d (BitVec.ofNat 32 (fld (vReg (getCore old c) a).toNat (32 * l.toNat) 32)) }
def execIVext (c : BitVec 8) (d : BitVec 5) (a l : BitVec 4) (s : State) : Out State := issueOne c (opVext d a l) s

/-! ## Branches -/

/-- PC + OFF11, in bundles. -/
def branchTo (k : Core) (off : BitVec 11) : Flow := .jump ((k.pc.toNat : Int) + off.toInt)

/-- A branch on a condition of sA. -/
def branchSlot (a : BitVec 5) (off : BitVec 11) (p : U32 → Bool) : SlotOp :=
  { flow := fun k => if p (sReg k a) then branchTo k off else .seq }

/-- BEQZ. -/
def opBeqz (a : BitVec 5) (off : BitVec 11) : SlotOp := branchSlot a off (fun x => x == 0)
def execIBeqz (c : BitVec 8) (a : BitVec 5) (off : BitVec 11) (s : State) : Out State := issueOne c (opBeqz a off) s

/-- BNEZ. -/
def opBnez (a : BitVec 5) (off : BitVec 11) : SlotOp := branchSlot a off (fun x => x != 0)
def execIBnez (c : BitVec 8) (a : BitVec 5) (off : BitVec 11) (s : State) : Out State := issueOne c (opBnez a off) s

/-- BLTZ. -/
def opBltz (a : BitVec 5) (off : BitVec 11) : SlotOp := branchSlot a off (fun x => x.msb)
def execIBltz (c : BitVec 8) (a : BitVec 5) (off : BitVec 11) (s : State) : Out State := issueOne c (opBltz a off) s

/-- BGEZ. -/
def opBgez (a : BitVec 5) (off : BitVec 11) : SlotOp := branchSlot a off (fun x => !x.msb)
def execIBgez (c : BitVec 8) (a : BitVec 5) (off : BitVec 11) (s : State) : Out State := issueOne c (opBgez a off) s

/-- JMP. -/
def opJmp (off : BitVec 11) : SlotOp := { flow := fun k => branchTo k off }
def execIJmp (c : BitVec 8) (off : BitVec 11) (s : State) : Out State := issueOne c (opJmp off) s

/-- CALL: s31 = PC + 1. -/
def opCall (off : BitVec 11) : SlotOp :=
  { dest := [31], flow := fun k => branchTo k off
    run := fun old s c => setS s c 31 ((getCore old c).pc.setWidth 32 + 1) }
def execICall (c : BitVec 8) (off : BitVec 11) (s : State) : Out State := issueOne c (opCall off) s

/-- JR: bits [31:17] of sA must be 0. -/
def opJr (a : BitVec 5) : SlotOp :=
  { flow := fun k => .jump ((sReg k a).toNat % 131072)
    fault := fun s c =>
      let t := (sReg (getCore s c) a).toNat
      if 131072 ≤ t then some ⟨3, (8 * t) % 2 ^ 32⟩ else none }
def execIJr (c : BitVec 8) (a : BitVec 5) (s : State) : Out State := issueOne c (opJr a) s

/-- LOOP (R173): a length of 0 is illegal, a third level a loop fault. -/
def opLoop (a : BitVec 5) (i : BitVec 6) : SlotOp :=
  if i = 0 then illegalSlot
  else { flow := fun k => .loop (sReg k a).toNat i.toNat
         fault := fun s c => if 2 ≤ (getCore s c).loops.length then some ⟨5, 0⟩ else none }
def execILoop (c : BitVec 8) (a : BitVec 5) (i : BitVec 6) (s : State) : Out State := issueOne c (opLoop a i) s

/-! ## Control registers (R174) -/

/-- The image of the version that a core serves. -/
def coreImage (s : State) (k : Core) : Bytes :=
  match versionOf (getSlot s k.slot.toNat) k.inB with
  | some v => v.image
  | none => []

/-- The PARTITION section's fields (R186); 0 without one. -/
def t1Field (img : Bytes) (o n : Nat) : Nat := match findSec img 0x21 with | some (_, b, _) => leAt img (b + o) n | none => 0
def t1Cores (img : Bytes) : Nat := t1Field img 0 2
def t1W (img : Bytes) : Nat := t1Field img 2 1
def t1H (img : Bytes) : Nat := t1Field img 3 1
def t1Entry (img : Bytes) : Nat := t1Field img 16 4
def t1Flags (img : Bytes) : Nat := t1Field img 20 1

/-- What CSRR reads, apart from the cycle counter. -/
def csrValue (s : State) (c : Nat) (i : Nat) : Nat :=
  let k := getCore s c
  match i with
  | 0x000 => physCore s c
  | 0x001 => k.slot.toNat + k.rank.toNat * 2 ^ 8 + k.epoch.toNat * 2 ^ 16
  | 0x003 => k.cyclesHi.toNat
  | 0x004 => k.ptpCol.toNat + k.ptpRow.toNat * 2 ^ 8
  | 0x005 => k.satgrp.toNat
  | 0x008 => (smGet 0 k.dmaDone 0).toNat
  | 0x009 => (smGet 0 k.dmaDone 1).toNat
  | 0x00A => (smGet 0 k.dmaDone 2).toNat
  | 0x00B => (smGet 0 k.dmaDone 3).toNat
  | 0x00C => k.inbox.length
  | 0x00D => k.eq.length
  | 0x010 =>
    let img := coreImage s k
    t1Cores img + t1W img * 2 ^ 16 + t1H img * 2 ^ 24
  | _ => 0

/-- CSRR: CYCLES is a free value, since commands take no time; a read of its low half latches the high half. -/
def opCsrr (d : BitVec 5) (i : BitVec 11) : SlotOp :=
  { dest := [d]
    run := fun old s c =>
      if i = 2 then
        let (n, s) := takeFree s
        let (m, s) := takeFree s
        setS (modCore s c (fun k => { k with cyclesHi := Config.freeWord m })) c d (Config.freeWord n)
      else setS s c d (BitVec.ofNat 32 (csrValue old c i.toNat)) }
def execICsrr (c : BitVec 8) (d : BitVec 5) (i : BitVec 11) (s : State) : Out State := issueOne c (opCsrr d i) s

/-- CSRW: PTP and SATGRP alone are writable. -/
def opCsrw (d : BitVec 5) (i : BitVec 11) : SlotOp :=
  { run := fun old s c =>
      let v := (sReg (getCore old c) d).toNat
      if i = 4 then modCore s c (fun k => { k with ptpCol := BitVec.ofNat 5 v, ptpRow := BitVec.ofNat 5 (fld v 8 5) })
      else if i = 5 then modCore s c (fun k => { k with satgrp := BitVec.ofNat 12 v })
      else s }
def execICsrw (c : BitVec 8) (d : BitVec 5) (i : BitVec 11) (s : State) : Out State := issueOne c (opCsrw d i) s

/-- SYNC: loads and stores are complete as they issue; DMA descriptors must have completed. -/
def opSync : SlotOp := { ready := fun s c => (getCore s c).dmas.isEmpty }
def execISync (c : BitVec 8) (s : State) : Out State := issueOne c opSync s

/-- END: the core's part of the job ends; R193 says what its end still waits for. -/
def opEnd : SlotOp := { run := fun _ s c => modCore s c (fun k => { k with ending := true }) }
def execIEnd (c : BitVec 8) (s : State) : Out State := issueOne c opEnd s

end Sys2Proof.Machine
end

