-- ==== Sys2Proof/Machine/Vector.lean ====
section
/-! DEFINITION. Vector.lean: the M slot (R165, R166, R175, R176, R184, R185). -/

namespace Sys2Proof.Machine

/-! ## Events and tiles -/

/-- Elements of the core's job with their events, to the counter that SATGRP selected before the bundle (R254). -/
def coreSat (old s : State) (c : Nat) (outs : Bool) (es : List Bool) : State :=
  let k := getCore old c
  match k.job with
  | some jn => satElems s jn k.satgrp.toNat outs es
  | none => s

def accKey (tile row col : Nat) : Nat := tile * 1024 + row * 32 + col
def accGet (k : Core) (tile row col : Nat) : U32 := smGet 0 k.acc (accKey tile row col)

/-- A whole tile written, element by element in row order. -/
def setTile (acc : SMap U32) (tile : Nat) (vs : List U32) : SMap U32 :=
  acc.filter (fun e => decide (e.1 < tile * 1024)) ++
  (vs.zipIdx.filterMap (fun (v, i) => if v = 0 then none else some (tile * 1024 + i, v))) ++
  acc.filter (fun e => decide ((tile + 1) * 1024 ≤ e.1))

def satInt32 (v : Int) : Int := clampI (-(2 ^ 31)) (2 ^ 31 - 1) v

/-- Half `h` of a vector register as 32 elements. -/
def halfElems (v : BitVec 512) (h unsigned : Bool) : List Int :=
  (List.range 32).map (fun i =>
    let b := fld v.toNat (8 * (i + 32 * b2n h)) 8
    if unsigned then (b : Int) else sext 8 b)

/-! ## The micro-array -/

/-- MOP: element saturations are counted in BOB_ACC_SAT. -/
def opMop (tile : BitVec 3) (a b m : BitVec 4) : SlotOp :=
  { run := fun old s c =>
      let k := getCore old c
      let xs := halfElems (vReg k a) (m.getLsbD 0) (m.getLsbD 2)
      let ys := halfElems (vReg k b) (m.getLsbD 1) (m.getLsbD 3)
      let es := (xs.zipIdx).flatMap (fun (x, i) => (ys.zipIdx).map (fun (y, j) => (accGet k tile.toNat i j).toInt + x * y))
      let n := (es.filter (fun e => satInt32 e != e)).length
      let s := c64 (c32 s 0x3006C n) 0x30050 1
      modCore s c (fun k => { k with acc := setTile k.acc tile.toNat (es.map (fun e => BitVec.ofInt 32 (satInt32 e))) }) }
def execIMop (c : BitVec 8) (tile : BitVec 3) (a b m : BitVec 4) (s : State) : Out State := issueMX c (opMop tile a b m) s

/-- MZERO. -/
def opMzero (tile : BitVec 3) : SlotOp :=
  { run := fun _ s c => modCore s c (fun k => { k with acc := setTile k.acc tile.toNat [] }) }
def execIMzero (c : BitVec 8) (tile : BitVec 3) (s : State) : Out State := issueMX c (opMzero tile) s

/-- MRD. -/
def opMrd (d : BitVec 4) (tile : BitVec 3) (row : BitVec 5) (half : Bool) : SlotOp :=
  { run := fun old s c =>
      let k := getCore old c
      setV s c d (ofLanes 32 ((List.range 16).map (fun i => (accGet k tile.toNat row.toNat (16 * b2n half + i)).toNat))) }
def execIMrd (c : BitVec 8) (d : BitVec 4) (tile : BitVec 3) (row : BitVec 5) (half : Bool) (s : State) : Out State :=
  issueMX c (opMrd d tile row half) s

/-- MWR. -/
def opMwr (tile : BitVec 3) (a : BitVec 4) (row : BitVec 5) (half : Bool) : SlotOp :=
  { run := fun old s c =>
      let vs := lanesOf 32 (vReg (getCore old c) a)
      modCore s c (fun k => { k with acc := (vs.zipIdx).foldl (fun m (v, i) =>
        smSet 0 m (accKey tile.toNat row.toNat (16 * b2n half + i)) (BitVec.ofNat 32 v)) k.acc }) }
def execIMwr (c : BitVec 8) (tile : BitVec 3) (a : BitVec 4) (row : BitVec 5) (half : Bool) (s : State) : Out State :=
  issueMX c (opMwr tile a row half) s

/-! ## Lane by lane (R165, R166) -/

def laneMin (w : Nat) : Int := -(2 ^ (w - 1))
def laneMax (w : Nat) : Int := 2 ^ (w - 1) - 1

/-- An instruction on lanes of type T: `fi` gives the exact integer result, which saturates, `ff` the FP32 one. -/
def laneSlot (d a b : BitVec 4) (t : BitVec 2) (fi : Int → Int → Int) (ff : U32 → U32 → U32) : SlotOp :=
  { run := fun old s c =>
      let k := getCore old c
      let w := laneBits t
      let xy := (lanesOf w (vReg k a)).zip (lanesOf w (vReg k b))
      if t = 3 then setV s c d (ofLanes 32 (xy.map (fun (x, y) => (ff (BitVec.ofNat 32 x) (BitVec.ofNat 32 y)).toNat)))
      else
        let es := xy.map (fun (x, y) => fi (sext w x) (sext w y))
        let rs := es.map (clampI (laneMin w) (laneMax w))
        let s := coreSat old s c false ((es.zip rs).map (fun (e, r) => e != r))
        setV s c d (ofLanes w (rs.map (twos w))) }

/-- VADD. -/
def opVadd (d a b : BitVec 4) (t : BitVec 2) : SlotOp := laneSlot d a b t (· + ·) fpAdd
def execIVadd (c : BitVec 8) (d a b : BitVec 4) (t : BitVec 2) (s : State) : Out State := issueMX c (opVadd d a b t) s

/-- VSUB. -/
def opVsub (d a b : BitVec 4) (t : BitVec 2) : SlotOp := laneSlot d a b t (· - ·) fpSub
def execIVsub (c : BitVec 8) (d a b : BitVec 4) (t : BitVec 2) (s : State) : Out State := issueMX c (opVsub d a b t) s

/-- VMUL. -/
def opVmul (d a b : BitVec 4) (t : BitVec 2) : SlotOp := laneSlot d a b t (· * ·) fpMul
def execIVmul (c : BitVec 8) (d a b : BitVec 4) (t : BitVec 2) (s : State) : Out State := issueMX c (opVmul d a b t) s

/-- VMIN. -/
def opVmin (d a b : BitVec 4) (t : BitVec 2) : SlotOp := laneSlot d a b t min (fpMinMax false)
def execIVmin (c : BitVec 8) (d a b : BitVec 4) (t : BitVec 2) (s : State) : Out State := issueMX c (opVmin d a b t) s

/-- VMAX. -/
def opVmax (d a b : BitVec 4) (t : BitVec 2) : SlotOp := laneSlot d a b t max (fpMinMax true)
def execIVmax (c : BitVec 8) (d a b : BitVec 4) (t : BitVec 2) (s : State) : Out State := issueMX c (opVmax d a b t) s

/-- VFMA: FP32 lanes. -/
def opVfma (d a b : BitVec 4) : SlotOp :=
  { run := fun old s c =>
      let k := getCore old c
      let ls := ((lanesOf 32 (vReg k d)).zip (lanesOf 32 (vReg k a))).zip (lanesOf 32 (vReg k b))
      setV s c d (ofLanes 32 (ls.map (fun ((z, x), y) => (fpFma (BitVec.ofNat 32 z) (BitVec.ofNat 32 x) (BitVec.ofNat 32 y)).toNat))) }
def execIVfma (c : BitVec 8) (d a b : BitVec 4) (s : State) : Out State := issueMX c (opVfma d a b) s

/-- A bitwise instruction. -/
def bitSlot (d a b : BitVec 4) (f : BitVec 512 → BitVec 512 → BitVec 512) : SlotOp :=
  { run := fun old s c => setV s c d (f (vReg (getCore old c) a) (vReg (getCore old c) b)) }

/-- VAND. -/
def opVand (d a b : BitVec 4) : SlotOp := bitSlot d a b (· &&& ·)
def execIVand (c : BitVec 8) (d a b : BitVec 4) (s : State) : Out State := issueMX c (opVand d a b) s

/-- VOR. -/
def opVor (d a b : BitVec 4) : SlotOp := bitSlot d a b (· ||| ·)
def execIVor (c : BitVec 8) (d a b : BitVec 4) (s : State) : Out State := issueMX c (opVor d a b) s

/-- VXOR. -/
def opVxor (d a b : BitVec 4) : SlotOp := bitSlot d a b (· ^^^ ·)
def execIVxor (c : BitVec 8) (d a b : BitVec 4) (s : State) : Out State := issueMX c (opVxor d a b) s

/-- VSHR of an integer lane by a signed amount. -/
def shiftLane (x n : Int) : Int := if 0 ≤ n then rneShift x n.toNat else x * 2 ^ (-n).toNat
/-- VSHR of an FP32 lane: the amount is a signed 32-bit integer. -/
def shiftFp (x n : U32) : U32 := fp32Of (scaleVal (fp32Val x) (-n.toInt))

/-- A left shift saturates whatever lies far beyond the lane type: its amount is cut off at 64. -/
def shiftLaneCut (x n : Int) : Int := shiftLane x (clampI (-64) 64 n)
/-- An FP32 value moved by more than 400 places is 0 or infinity: its amount is cut off there. -/
def shiftFpCut (x n : U32) : U32 := shiftFp x (BitVec.ofInt 32 (clampI (-400) 400 n.toInt))

/-- VSHR. -/
def opVshr (d a b : BitVec 4) (t : BitVec 2) : SlotOp := laneSlot d a b t shiftLaneCut shiftFpCut
def execIVshr (c : BitVec 8) (d a b : BitVec 4) (t : BitVec 2) (s : State) : Out State := issueMX c (opVshr d a b t) s

/-- VCVT of 16 elements; TERN is illegal (R176). -/
def opVcvt (d a dst src : BitVec 4) : SlotOp :=
  if dst = 1 ∨ src = 1 then illegalSlot
  else
    { run := fun old s c =>
        let sb := fmtBits src.toNat
        let db := fmtBits dst.toNat
        let v := (vReg (getCore old c) a).toNat
        let rs := (List.range 16).map (fun i => cvt dst.toNat (elemVal src.toNat (fld v (sb * i) sb)))
        let s := coreSat old s c true (rs.map (·.2))
        setV s c d (ofLanes db (rs.map (·.1))) }
def execIVcvt (c : BitVec 8) (d a dst src : BitVec 4) (s : State) : Out State := issueMX c (opVcvt d a dst src) s

/-- VPERM. -/
def opVperm (d a b : BitVec 4) : SlotOp :=
  { run := fun old s c =>
      let va := (vReg (getCore old c) a).toNat
      setV s c d (ofLanes 8 ((lanesOf 8 (vReg (getCore old c) b)).map (fun x =>
        if bitOf x 7 then 0 else fld va (8 * (x % 64)) 8))) }
def execIVperm (c : BitVec 8) (d a b : BitVec 4) (s : State) : Out State := issueMX c (opVperm d a b) s

/-- Neighbours added, level by level. -/
def pairSum : List U32 → List U32
  | x :: y :: r => fpAdd x y :: pairSum r
  | l => l

/-- The FP32 lanes at the leaves of the fixed tree: the spec does not say which lane stands where. -/
def sumLeaves (ls : List Nat) : List U32 :=
  let ord := (List.range 16).map Config.sumLeaf
  let ok := (List.range 16).all (fun i => ord.contains i)
  (if ok then ord else List.range 16).map (fun i => BitVec.ofNat 32 (ls[i]?.getD 0))

/-- VSUM. -/
def opVsum (d a : BitVec 4) (fp : Bool) : SlotOp :=
  { run := fun old s c =>
      let ls := lanesOf 32 (vReg (getCore old c) a)
      if fp then
        setV s c d (ofLanes 32 ((pairSum (pairSum (pairSum (pairSum (sumLeaves ls))))).map (·.toNat)))
      else
        let e := ls.foldl (fun t x => t + sext 32 x) 0
        let s := coreSat old s c false [satInt32 e != e]
        setV s c d (ofLanes 32 [twos 32 (satInt32 e)]) }
def execIVsum (c : BitVec 8) (d a : BitVec 4) (fp : Bool) (s : State) : Out State := issueMX c (opVsum d a fp) s

/-- VFN. -/
def opVfn (d a : BitVec 4) (fn : BitVec 2) : SlotOp :=
  { run := fun old s c =>
      setV s c d (ofLanes 32 ((lanesOf 32 (vReg (getCore old c) a)).map (fun x => (vfn fn.toNat (BitVec.ofNat 32 x)).toNat))) }
def execIVfn (c : BitVec 8) (d a : BitVec 4) (fn : BitVec 2) (s : State) : Out State := issueMX c (opVfn d a fn) s

/-- VCMP on integers and on FP32; a NaN compares false. -/
def cmpInt (op : BitVec 2) (x y : Int) : Bool := if op = 0 then x == y else if op = 1 then decide (x < y) else decide (x ≤ y)
def cmpFp (op : BitVec 2) (x y : U32) : Bool := if op = 0 then fpEq x y else if op = 1 then fpLt x y else fpLt x y || fpEq x y

/-- VCMP; M[3:2] = 3 is illegal (R171). -/
def opVcmp (d a b : BitVec 4) (t op : BitVec 2) : SlotOp :=
  if op = 3 then illegalSlot
  else
    { run := fun old s c =>
        let k := getCore old c
        let w := laneBits t
        let xy := (lanesOf w (vReg k a)).zip (lanesOf w (vReg k b))
        setV s c d (ofLanes w (xy.map (fun (x, y) =>
          let r := if t = 3 then cmpFp op (BitVec.ofNat 32 x) (BitVec.ofNat 32 y) else cmpInt op (sext w x) (sext w y)
          if r then 2 ^ w - 1 else 0))) }
def execIVcmp (c : BitVec 8) (d a b : BitVec 4) (t op : BitVec 2) (s : State) : Out State := issueMX c (opVcmp d a b t op) s

/-! ## The product-table unit (R184, R185) -/

/-- The codebook that a kind selects, entry by entry in code order; `none`: reserved. -/
def codebook (k : Core) (kind : Nat) : Option (List Int) :=
  let cb (i n : Nat) : List Int := (List.range n).map (fun e => sext 8 (fld (smGet 0 k.cb i).toNat (8 * e) 8))
  let values (f n : Nat) : List Int := (List.range n).map (fun c => match elemVal f c with
    | .num m e => m * 2 ^ e.toNat
    | _ => 0)
  if kind = 0 then some (values 0x0 4)
  else if kind = 2 then some (values 0x2 16)
  else if kind = 3 then some (values 0x3 16)
  else if kind = 4 then some (values 0x4 16)
  else if 8 ≤ kind ∧ kind < 12 then some (cb (kind - 8) 16)
  else if 12 ≤ kind then some (cb (kind - 12) 4)
  else none

/-- PTB: a reserved kind, or a reserved bit of M, is illegal. -/
def opPtb (buf : Bool) (a kind : BitVec 4) (m : BitVec 2) : SlotOp :=
  { fault := fun s c => if (codebook (getCore s c) kind.toNat).isNone then some ⟨1, 0⟩ else none
    run := fun old s c =>
      let k := getCore old c
      match codebook k kind.toNat with
      | none => s
      | some cb =>
        let xs := halfElems (vReg k a) (m.getLsbD 0) (m.getLsbD 1)
        modCore s c (fun k => { k with pt := (xs.zipIdx).foldl (fun t (x, j) => (cb.zipIdx).foldl (fun t (v, e) =>
          smSet 0 t (512 * b2n buf + 16 * j + e) (BitVec.ofInt 16 (x * v))) t) k.pt }) }
def execIPtb (c : BitVec 8) (buf : Bool) (a kind : BitVec 4) (m : BitVec 2) (s : State) : Out State := issueMX c (opPtb buf a kind m) s

/-- The code of output `o` and activation `j` in a vector of codes of `w` bits. -/
def ptCode (v : Nat) (o j w : Nat) : Nat := fld v (32 * w * o + w * j) w

/-- PTA: PTP.COL must be a multiple of the outputs. -/
def opPta (tile : BitVec 3) (a : BitVec 4) (m : BitVec 2) : SlotOp :=
  let w := if m.getLsbD 1 then 2 else 4
  let outs := if m.getLsbD 1 then 8 else 4
  { fault := fun s c => if (getCore s c).ptpCol.toNat % outs ≠ 0 then some ⟨6, 0⟩ else none
    run := fun old s c =>
      let k := getCore old c
      let v := (vReg k a).toNat
      let base := 512 * b2n (m.getLsbD 0)
      let sums := (List.range outs).map (fun o => (List.range 32).foldl (fun t j =>
        t + (smGet 0 k.pt (base + 16 * j + ptCode v o j w)).toInt) 0)
      let es := (sums.zipIdx).map (fun (e, o) => (o, (accGet k tile.toNat k.ptpRow.toNat (k.ptpCol.toNat + o)).toInt + e))
      let s := c64 (c32 s 0x3006C (es.filter (fun e => satInt32 e.2 != e.2)).length) 0x30058 1
      let col := k.ptpCol.toNat + outs
      modCore s c (fun q => { q with
        acc := es.foldl (fun t e => smSet 0 t (accKey tile.toNat k.ptpRow.toNat (k.ptpCol.toNat + e.1)) (BitVec.ofInt 32 (satInt32 e.2))) q.acc
        ptpCol := if 32 ≤ col then 0 else BitVec.ofNat 5 col
        ptpRow := if 32 ≤ col then k.ptpRow + 1 else k.ptpRow }) }
def execIPta (c : BitVec 8) (tile : BitVec 3) (a : BitVec 4) (m : BitVec 2) (s : State) : Out State := issueMX c (opPta tile a m) s

/-- CBLD. -/
def opCbld (cb : BitVec 2) (a : BitVec 4) : SlotOp :=
  { run := fun old s c =>
      modCore s c (fun k => { k with cb := smSet 0 k.cb cb.toNat (BitVec.ofNat 128 (vReg (getCore old c) a).toNat) }) }
def execICbld (c : BitVec 8) (cb : BitVec 2) (a : BitVec 4) (s : State) : Out State := issueMX c (opCbld cb a) s

end Sys2Proof.Machine
end

