-- ==== Sys2Proof/Machine/XSlot.lean ====
section
/-! DEFINITION. XSlot.lean: the X slot (R177), messages as they leave (R205 to R209), knot operations of a core (R229,
R230, R420), DMA descriptors as they are queued (R181). -/

namespace Sys2Proof.Machine

/-! ## DMA descriptors (R181, R182) -/

/-- The rows of a local range lie within the SRAM. -/
def localRowsOk (a rows stride len : Nat) : Bool := decide (a + (rows - 1) * stride + len ≤ sramSize)

/-- A descriptor read at local address `a`; `none`: it breaks R181 or R182. -/
def parseDma (b : Bytes) (a : Nat) (ch : BitVec 2) (order : Nat) : Option DmaDesc :=
  let d : DmaDesc := {
    ch := ch, src := BitVec.ofNat 64 (leAt b 0 8), dst := BitVec.ofNat 64 (leAt b 8 8), rowBytes := leAt b 16 4, rows := leAt b 20 2
    op := BitVec.ofNat 8 (leAt b 22 1), srcLoc := bitOf (leAt b 23 1) 0, dstLoc := bitOf (leAt b 23 1) 1
    layout := bitOf (leAt b 23 1) 2, srcStride := BitVec.ofNat 32 (leAt b 24 4), dstStride := BitVec.ofNat 32 (leAt b 28 4)
    addr := a, order := order }
  let outRow := if d.op = 2 then d.rowBytes * 5 / 4 else d.rowBytes
  let addrOk (loc : Bool) (x : U64) : Bool := if loc then decide (x.toNat < sramSize) else (addrOf x.toNat).isSome
  let ok := decide (leAt b 23 1 < 8) && decide (d.op.toNat ≤ 2) && decide (1 ≤ d.rowBytes ∧ d.rowBytes ≤ 1048576) && decide (1 ≤ d.rows) &&
    (d.srcLoc != d.dstLoc) && addrOk d.srcLoc d.src && addrOk d.dstLoc d.dst && (!d.layout || d.op == 1) &&
    (d.op != 1 || d.rowBytes % 1024 == 0) && (d.op != 2 || d.rowBytes % 4 == 0) &&
    (!d.srcLoc || d.op == 1 || localRowsOk d.src.toNat d.rows d.srcStride.toNat d.rowBytes) &&
    (!d.dstLoc || localRowsOk d.dst.toNat d.rows d.dstStride.toNat outRow)
  if ok then some d else none

/-- The descriptor at sA, if its place is right: 32 B, aligned, in SRAM. -/
def dmaAt (s : State) (c : Nat) (a : U32) (ch : BitVec 2) : Option DmaDesc :=
  let a := a.toNat
  if a % 32 ≠ 0 ∨ sramSize ≤ a then none
  else parseDma (peek s (mkey (spBobbin c) a) 32) a ch (getCore s c).order

/-- DMA: waits while the channel's queue of 8 is full. -/
def opDma (a : BitVec 5) (ch : BitVec 2) : SlotOp :=
  { ready := fun s c => decide (((getCore s c).dmas.filter (fun d => d.ch == ch && !d.ran)).length < 8)
    fault := fun s c =>
      let r := sReg (getCore s c) a
      if (dmaAt s c r ch).isNone then some ⟨7, r.toNat⟩ else none
    sram := fun s c => [((sReg (getCore s c) a).toNat, 32)]
    run := fun old s c =>
      match dmaAt old c (sReg (getCore old c) a) ch with
      | none => s
      | some d => modCore s c (fun k => { k with dmas := k.dmas ++ [d], order := k.order + 1 }) }
def execIDma (c : BitVec 8) (a : BitVec 5) (ch : BitVec 2) (s : State) : Out State := issueMX c (opDma a ch) s

/-- DMAW. -/
def opDmaw (ch : BitVec 2) : SlotOp := { ready := fun s c => !(getCore s c).dmas.any (fun d => d.ch == ch) }
def execIDmaw (c : BitVec 8) (ch : BitVec 2) (s : State) : Out State := issueMX c (opDmaw ch) s

/-! ## Messages (R205 to R209, R212) -/

def hdrLen (h : U32) : Nat := 8 * fld h.toNat 8 3
def hdrBcast (h : U32) : Bool := bitOf h.toNat 11
def hdrDest (h : U32) : Nat := fld h.toNat 0 8

/-- Why a SEND is a program fault, if it is. -/
def sendFault (h p : U32) : Option PFault :=
  if fld h.toNat 12 4 ≠ 0 ∨ (hdrBcast h ∧ hdrDest h ≠ 0) then some ⟨2, 0⟩
  else if p.toNat % 8 ≠ 0 then some ⟨2, p.toNat⟩
  else if sramSize < p.toNat + hdrLen h then some ⟨3, p.toNat⟩
  else none

/-- A bounce of a message ends in the sender's error queue (R213). -/
def bounceEntry (h : U32) (payload : Bytes) (found : Nat) : Bytes := eqEntry stRole false false found h.toNat payload

/-- A send whose DEST is no rank bounces at the sender. -/
def bounceHere (s : State) (c : Nat) (h : U32) (payload : Bytes) : State :=
  pushEq (c32 (c32 s 0x30140 1) 0x90068 1) c (bounceEntry h payload 0)

/-- One copy of a message to a rank; its role epoch is that of the member table (R197). -/
def sendCopy (s : State) (c rank order : Nat) (h : U32) (payload : Bytes) : State :=
  let k := getCore s c
  match rankCore s k.slot.toNat k.inB rank with
  | none => s
  | some d =>
    { s with msgs := s.msgs ++ [{
        dst := BitVec.ofNat 9 (physCore s d), depoch := (getCore s d).epoch, src := BitVec.ofNat 9 (physCore s c), sepoch := k.epoch
        jseq := k.jseq, srcRank := k.rank, dstRank := BitVec.ofNat 8 rank, hdr := h, payload := payload, order := order }] }

/-- SEND: waits while the 4 outbound entries are in use. -/
def opSend (a b : BitVec 5) : SlotOp :=
  { ready := fun s c => decide ((getCore s c).outb.length < 4)
    fault := fun s c => sendFault (sReg (getCore s c) a) (sReg (getCore s c) b)
    sram := fun s c =>
      let n := hdrLen (sReg (getCore s c) a)
      if n = 0 then [] else [((sReg (getCore s c) b).toNat, n)]
    run := fun old s c =>
      let k := getCore old c
      let h := sReg k a
      let pay := peek old (mkey (spBobbin c) (sReg k b).toNat) (hdrLen h)
      let n := numRanks old k.slot.toNat k.inB
      if hdrBcast h then
        let rs := (List.range n).filter (· != k.rank.toNat)
        let ord := (getCore s c).order
        let s := rs.foldl (fun t r => sendCopy t c r ord h pay) s
        modCore s c (fun k => { k with order := k.order + 1, outb := if rs.isEmpty then k.outb else k.outb ++ [(ord, rs.length)] })
      else if n ≤ hdrDest h then bounceHere s c h pay
      else
        let ord := (getCore s c).order
        let s := sendCopy s c (hdrDest h) ord h pay
        modCore s c (fun k => { k with order := k.order + 1, outb := k.outb ++ [(ord, 1)] }) }
def execISend (c : BitVec 8) (a b : BitVec 5) (s : State) : Out State := issueMX c (opSend a b) s

/-- RECV: waits for a message. -/
def opRecv (a : BitVec 5) : SlotOp :=
  { dest := [a], ready := fun s c => !(getCore s c).inbox.isEmpty
    run := fun old s c => setS s c a (BitVec.ofNat 32 (0x100000 + 64 * (getCore old c).inboxHead)) }
def execIRecv (c : BitVec 8) (a : BitVec 5) (s : State) : Out State := issueMX c (opRecv a) s

/-- RPOP; of an empty inbox, nothing. -/
def opRpop : SlotOp :=
  { run := fun _ s c => modCore s c (fun k =>
      if k.inbox.isEmpty then k else { k with inbox := k.inbox.tail, inboxHead := (k.inboxHead + 1) % 64 }) }
def execIRpop (c : BitVec 8) (s : State) : Out State := issueMX c opRpop s

/-- EPEEK. -/
def opEpeek (a : BitVec 5) : SlotOp :=
  { dest := [a]
    run := fun old s c =>
      let k := getCore old c
      setS s c a (if k.eq.isEmpty then 0xFFFFFFFF else BitVec.ofNat 32 (0x101000 + 64 * k.eqHead)) }
def execIEpeek (c : BitVec 8) (a : BitVec 5) (s : State) : Out State := issueMX c (opEpeek a) s

/-- EPOP; of an empty queue, nothing. -/
def opEpop : SlotOp :=
  { run := fun _ s c => modCore s c (fun k => if k.eq.isEmpty then k else { k with eq := k.eq.tail, eqHead := (k.eqHead + 1) % 16 }) }
def execIEpop (c : BitVec 8) (s : State) : Out State := issueMX c opEpop s

/-! ## Knot operations of a core (R217, R229, R230, R420) -/

/-- The knot operation of an operand word; KWAIT ignores OP. -/
def coreKnotOp (j : Job) (c : Nat) (wait : Bool) (w amount : U32) : KnotOp :=
  let op := fld w.toNat 12 2
  { op := if wait then 2 else if op = 1 then 1 else 0
    knot := BitVec.ofNat 12 w.toNat, epoch := BitVec.ofNat 16 (fld w.toNat 16 16), amount := amount
    malformed := fld w.toNat 14 2 != 0 || (!wait && decide (2 ≤ op)), upper := BitVec.ofNat 4 (fld w.toNat 12 4)
    fn := j.fn, origin := .core (BitVec.ofNat 8 c) wait w }

/-- An operation of a core goes out, or takes the answer that the journal holds for it in a replay (R420). -/
def sendCoreOp (s : State) (c : Nat) (wait : Bool) (w amount : U32) : State :=
  match (getCore s c).job with
  | none => s
  | some jn =>
    match getJob s jn with
    | none => s
    | some j =>
      let o := coreKnotOp j c wait w amount
      match journalAsk j o.knot o.op amount with
      | .fresh => sendKnotOp (modCore s c (fun k => if wait then { k with waitOut := true } else { k with unacked := k.unacked + 1 })) o
      | .differs => stopJob s jn stUncorr 4
      | .answer e =>
        let s := journalStep s jn o.knot
        let s := if wait then modCore s c (fun k => { k with waitOut := true, waitDone := true }) else s
        let s := if e.status.toNat = stProtection ∧ !wait then modJob s jn (fun j => { j with prot := true }) else s
        if e.status = 0 then s
        else pushEq s c (eqEntry e.status.toNat true wait e.epochFound.toNat w.toNat (natLE 4 amount.toNat))

/-- KSIGs leave in order, once the DMA descriptors and the messages before them are done (R229). -/
def flushKsigs (s : State) (c : Nat) : Nat → State
  | 0 => s
  | n + 1 =>
    let k := getCore s c
    match k.ksigs with
    | [] => s
    | h :: r =>
      if k.dmas.any (fun d => decide (d.order < h.order)) || k.outb.any (fun o => decide (o.1 < h.order)) then s
      else flushKsigs (sendCoreOp (modCore s c (fun k => { k with ksigs := r })) c false h.word h.amount) c n

/-- Knot operations of the core that the store has not acknowledged. -/
def opsHeld (k : Core) : Nat := k.ksigs.length + k.unacked + b2n (k.waitOut && !k.waitDone)

/-- KSIG: waits while the core holds 8 operations. -/
def opKsig (a b : BitVec 5) : SlotOp :=
  { ready := fun s c => decide (opsHeld (getCore s c) < 8)
    run := fun old s c =>
      let k := getCore old c
      let s := modCore s c (fun q => { q with
        ksigs := q.ksigs ++ [{ word := sReg k a, amount := sReg k b, order := q.order }], order := q.order + 1 })
      flushKsigs s c 8 }
def execIKsig (c : BitVec 8) (a b : BitVec 5) (s : State) : Out State := issueMX c (opKsig a b) s

/-- KWAIT: its WAIT goes out once, after the KSIGs of the core on the same knot; the bundle waits for the answer. -/
def opKwait (a b : BitVec 5) : SlotOp :=
  { ready := fun s c => (getCore s c).waitDone
    onWait := fun s c =>
      let k := getCore s c
      let w := sReg k a
      if k.waitOut || k.ksigs.any (fun h => fld h.word.toNat 0 12 == fld w.toNat 0 12) || decide (8 ≤ opsHeld k) then s
      else sendCoreOp s c true w (sReg k b)
    run := fun _ s c => modCore s c (fun k => { k with waitOut := false, waitDone := false }) }
def execIKwait (c : BitVec 8) (a b : BitVec 5) (s : State) : Out State := issueMX c (opKwait a b) s

end Sys2Proof.Machine
end

