-- ==== Sys2Proof/Machine/Bundle.lean ====
section
/-! DEFINITION. Bundle.lean: the encoding of a bundle (R167, R168, R171) and BUNDLE_ISSUE. -/

namespace Sys2Proof.Machine

/-- The slot that an S word holds in a FORM 0 bundle; `none`: illegal (R168, R172). -/
def decodeS (w : Nat) : Option SlotOp :=
  let d := BitVec.ofNat 5 (fld w 11 5)
  let a := BitVec.ofNat 5 (fld w 6 5)
  let b := BitVec.ofNat 5 (fld w 1 5)
  let i := BitVec.ofNat 6 w
  let i11 := BitVec.ofNat 11 w
  let vd := BitVec.ofNat 4 (fld w 11 5)
  let va := BitVec.ofNat 4 (fld w 6 5)
  let rr (o : SlotOp) : Option SlotOp := if bitOf w 0 then none else some o
  let vec (r : Nat) (o : SlotOp) : Option SlotOp := if r < 16 then some o else none
  let dn := fld w 11 5
  match fld w 16 6 with
  | 0x00 => if w = 0 then some nopSlot else none
  | 0x01 => rr (opAdd d a b)
  | 0x02 => rr (opSub d a b)
  | 0x03 => rr (opAnd d a b)
  | 0x04 => rr (opOr d a b)
  | 0x05 => rr (opXor d a b)
  | 0x06 => rr (opShl d a b)
  | 0x07 => rr (opShr d a b)
  | 0x08 => rr (opSra d a b)
  | 0x09 => rr (opSlt d a b)
  | 0x0A => rr (opSltu d a b)
  | 0x0B => rr (opMin d a b)
  | 0x0C => rr (opMax d a b)
  | 0x0D => rr (opMul d a b)
  | 0x0E => rr (opMulh d a b)
  | 0x10 => some (opAddi d a i)
  | 0x11 => if i.toNat < 32 then some (opShli d a i) else none
  | 0x12 => if i.toNat < 32 then some (opShri d a i) else none
  | 0x13 => if i.toNat < 32 then some (opSrai d a i) else none
  | 0x14 => some (opMovi d i11)
  | 0x18 => some (opLw d a i)
  | 0x19 => some (opSw d a i)
  | 0x1A => some (opLwp d a i)
  | 0x1B => some (opSwp d a i)
  | 0x1C => vec dn (opVld vd a i)
  | 0x1D => vec dn (opVst vd a i)
  | 0x1E => vec dn (opVldp vd a i)
  | 0x1F => vec dn (opVstp vd a i)
  | 0x20 => if i.toNat < 4 then vec dn (opVsplat vd a (BitVec.ofNat 2 w)) else none
  | 0x21 => if i.toNat < 16 then vec (fld w 6 5) (opVext d va (BitVec.ofNat 4 w)) else none
  | 0x28 => some (opBeqz d i11)
  | 0x29 => some (opBnez d i11)
  | 0x2A => some (opBltz d i11)
  | 0x2B => some (opBgez d i11)
  | 0x2C => if dn = 0 then some (opJmp i11) else none
  | 0x2D => if dn = 0 then some (opCall i11) else none
  | 0x2E => if dn = 0 ∧ fld w 1 5 = 0 then rr (opJr a) else none
  | 0x2F => if dn = 0 ∧ i ≠ 0 then some (opLoop a i) else none
  | 0x30 => some (opCsrr d i11)
  | 0x31 => some (opCsrw d i11)
  | 0x32 => if fld w 0 16 = 0 then some opSync else none
  | 0x33 => if fld w 0 16 = 0 then some opEnd else none
  | _ => none

/-- The slot that an M word holds; `none`: illegal (R168, R175). -/
def decodeM (w : Nat) : Option SlotOp :=
  let dn := fld w 12 4
  let an := fld w 8 4
  let bn := fld w 4 4
  let mn := fld w 0 4
  let d := BitVec.ofNat 4 dn
  let a := BitVec.ofNat 4 an
  let b := BitVec.ofNat 4 bn
  let m := BitVec.ofNat 4 mn
  let t := BitVec.ofNat 2 mn
  let tile := BitVec.ofNat 3 dn
  let tiled (o : SlotOp) : Option SlotOp := if dn < 8 then some o else none
  let typed (o : SlotOp) : Option SlotOp := if mn < 4 then some o else none
  match fld w 16 6 with
  | 0x00 => if w = 0 then some nopSlot else none
  | 0x01 => tiled (opMop tile a b m)
  | 0x02 => if fld w 0 12 = 0 then tiled (opMzero tile) else none
  | 0x03 => if an < 8 ∧ fld w 0 2 = 0 then some (opMrd d (BitVec.ofNat 3 an) (BitVec.ofNat 5 (fld w 3 5)) (bitOf w 2)) else none
  | 0x04 => if fld w 0 2 = 0 then tiled (opMwr tile a (BitVec.ofNat 5 (fld w 3 5)) (bitOf w 2)) else none
  | 0x08 => typed (opVadd d a b t)
  | 0x09 => typed (opVsub d a b t)
  | 0x0A => typed (opVmul d a b t)
  | 0x0B => if mn = 3 then some (opVfma d a b) else none
  | 0x0C => typed (opVmin d a b t)
  | 0x0D => typed (opVmax d a b t)
  | 0x0E => if mn = 0 then some (opVand d a b) else none
  | 0x0F => if mn = 0 then some (opVor d a b) else none
  | 0x10 => if mn = 0 then some (opVxor d a b) else none
  | 0x11 => typed (opVshr d a b t)
  | 0x12 => if bn = 1 ∨ mn = 1 then none else some (opVcvt d a b m)
  | 0x13 => if mn = 0 then some (opVperm d a b) else none
  | 0x14 => if bn = 0 ∧ (mn = 2 ∨ mn = 3) then some (opVsum d a (mn == 3)) else none
  | 0x15 => if bn = 0 ∧ mn % 4 = 3 then some (opVfn d a (BitVec.ofNat 2 (mn / 4))) else none
  | 0x16 => if mn / 4 = 3 then none else some (opVcmp d a b t (BitVec.ofNat 2 (mn / 4)))
  | 0x18 =>
    if dn < 2 ∧ mn < 4 ∧ (bn = 0 ∨ bn = 2 ∨ bn = 3 ∨ bn = 4 ∨ 8 ≤ bn) then some (opPtb (bitOf w 12) a b t) else none
  | 0x19 => if bn = 0 ∧ mn < 4 then tiled (opPta tile a t) else none
  | 0x1A => if dn < 4 ∧ bn = 0 ∧ mn = 0 then some (opCbld (BitVec.ofNat 2 dn) a) else none
  | _ => none

/-- The slot that an X word holds; `none`: illegal (R168, R177). -/
def decodeX (w : Nat) : Option SlotOp :=
  let a := BitVec.ofNat 5 (fld w 7 5)
  let b := BitVec.ofNat 5 (fld w 2 5)
  let ch := BitVec.ofNat 2 w
  let noA (o : Option SlotOp) : Option SlotOp := if a = 0 then o else none
  let noB (o : Option SlotOp) : Option SlotOp := if b = 0 then o else none
  let noC (o : Option SlotOp) : Option SlotOp := if ch = 0 then o else none
  match fld w 12 6 with
  | 0x00 => if w = 0 then some nopSlot else none
  | 0x01 => noB (some (opDma a ch))
  | 0x02 => noA (noB (some (opDmaw ch)))
  | 0x03 => noC (some (opSend a b))
  | 0x04 => noB (noC (some (opRecv a)))
  | 0x05 => noA (noB (noC (some opRpop)))
  | 0x06 => noC (some (opKsig a b))
  | 0x07 => noC (some (opKwait a b))
  | 0x08 => noB (noC (some (opEpeek a)))
  | 0x09 => noA (noB (noC (some opEpop)))
  | _ => none

/-- LI, in the S slot of a FORM 1 bundle. -/
def decodeLi (w : Nat) : Option SlotOp :=
  let sw := fld w 0 22
  if fld sw 16 6 = 0x15 ∧ fld sw 0 11 = 0 ∧ fld w 54 8 = 0 then
    some (opLi (BitVec.ofNat 5 (fld sw 11 5)) (BitVec.ofNat 32 (fld w 22 32)))
  else none

/-- The slots of a bundle; `none`: illegal (R171). Two slots that both name s0 as destination are illegal too, although
neither writes: DEDUCED (log entry 203). -/
def decodeBundle (w : Nat) : Option (List SlotOp) :=
  match fld w 62 2 with
  | 0 =>
    match decodeS (fld w 0 22), decodeM (fld w 22 22), decodeX (fld w 44 18) with
    | some x, some m, some y => if x.dest.any (fun r => y.dest.contains r) then none else some [x, m, y]
    | _, _, _ => none
  | 1 => (decodeLi w).map (fun o => [o])
  | _ => none

/-! ## The encoding of one instruction (R167, R168) -/

/-- S words of the forms RR, RI and I. -/
def sRR (op d a b : Nat) : Nat := op * 2 ^ 16 + d * 2 ^ 11 + a * 2 ^ 6 + b * 2
def sRI (op d a i : Nat) : Nat := op * 2 ^ 16 + d * 2 ^ 11 + a * 2 ^ 6 + i
def sI (op d i : Nat) : Nat := op * 2 ^ 16 + d * 2 ^ 11 + i
/-- An M word in its place. -/
def mWord (op d a b m : Nat) : Nat := (op * 2 ^ 16 + d * 2 ^ 12 + a * 2 ^ 8 + b * 2 ^ 4 + m) * 2 ^ 22
/-- An X word in its place. -/
def xWord (op a b c : Nat) : Nat := (op * 2 ^ 12 + a * 2 ^ 7 + b * 2 ^ 2 + c) * 2 ^ 44

/-- The core of an instruction of the Bobbin set, and the bundle that holds it alone: FORM 0 with NOPs beside it, or
FORM 1 for LI. Nothing else has one, nor has an instruction that R171 calls illegal. -/
def bundleOf (i : Instr) : Option (BitVec 8 × Nat) :=
  match i with
  | .iAdd c d a b => some (c, sRR 0x01 d.toNat a.toNat b.toNat)
  | .iSub c d a b => some (c, sRR 0x02 d.toNat a.toNat b.toNat)
  | .iAnd c d a b => some (c, sRR 0x03 d.toNat a.toNat b.toNat)
  | .iOr c d a b => some (c, sRR 0x04 d.toNat a.toNat b.toNat)
  | .iXor c d a b => some (c, sRR 0x05 d.toNat a.toNat b.toNat)
  | .iShl c d a b => some (c, sRR 0x06 d.toNat a.toNat b.toNat)
  | .iShr c d a b => some (c, sRR 0x07 d.toNat a.toNat b.toNat)
  | .iSra c d a b => some (c, sRR 0x08 d.toNat a.toNat b.toNat)
  | .iSlt c d a b => some (c, sRR 0x09 d.toNat a.toNat b.toNat)
  | .iSltu c d a b => some (c, sRR 0x0A d.toNat a.toNat b.toNat)
  | .iMin c d a b => some (c, sRR 0x0B d.toNat a.toNat b.toNat)
  | .iMax c d a b => some (c, sRR 0x0C d.toNat a.toNat b.toNat)
  | .iMul c d a b => some (c, sRR 0x0D d.toNat a.toNat b.toNat)
  | .iMulh c d a b => some (c, sRR 0x0E d.toNat a.toNat b.toNat)
  | .iAddi c d a i => some (c, sRI 0x10 d.toNat a.toNat i.toNat)
  | .iShli c d a i => if i.toNat < 32 then some (c, sRI 0x11 d.toNat a.toNat i.toNat) else none
  | .iShri c d a i => if i.toNat < 32 then some (c, sRI 0x12 d.toNat a.toNat i.toNat) else none
  | .iSrai c d a i => if i.toNat < 32 then some (c, sRI 0x13 d.toNat a.toNat i.toNat) else none
  | .iMovi c d i => some (c, sI 0x14 d.toNat i.toNat)
  | .iLi c d i => some (c, 2 ^ 62 + i.toNat * 2 ^ 22 + sI 0x15 d.toNat 0)
  | .iLw c d a i => some (c, sRI 0x18 d.toNat a.toNat i.toNat)
  | .iSw c d a i => some (c, sRI 0x19 d.toNat a.toNat i.toNat)
  | .iLwp c d a i => some (c, sRI 0x1A d.toNat a.toNat i.toNat)
  | .iSwp c d a i => some (c, sRI 0x1B d.toNat a.toNat i.toNat)
  | .iVld c d a i => some (c, sRI 0x1C d.toNat a.toNat i.toNat)
  | .iVst c d a i => some (c, sRI 0x1D d.toNat a.toNat i.toNat)
  | .iVldp c d a i => some (c, sRI 0x1E d.toNat a.toNat i.toNat)
  | .iVstp c d a i => some (c, sRI 0x1F d.toNat a.toNat i.toNat)
  | .iVsplat c d a t => some (c, sRI 0x20 d.toNat a.toNat t.toNat)
  | .iVext c d a l => some (c, sRI 0x21 d.toNat a.toNat l.toNat)
  | .iBeqz c a off => some (c, sI 0x28 a.toNat off.toNat)
  | .iBnez c a off => some (c, sI 0x29 a.toNat off.toNat)
  | .iBltz c a off => some (c, sI 0x2A a.toNat off.toNat)
  | .iBgez c a off => some (c, sI 0x2B a.toNat off.toNat)
  | .iJmp c off => some (c, sI 0x2C 0 off.toNat)
  | .iCall c off => some (c, sI 0x2D 0 off.toNat)
  | .iJr c a => some (c, sRI 0x2E 0 a.toNat 0)
  | .iLoop c a i => if i = 0 then none else some (c, sRI 0x2F 0 a.toNat i.toNat)
  | .iCsrr c d i => some (c, sI 0x30 d.toNat i.toNat)
  | .iCsrw c d i => some (c, sI 0x31 d.toNat i.toNat)
  | .iSync c => some (c, sI 0x32 0 0)
  | .iEnd c => some (c, sI 0x33 0 0)
  | .iMop c tile a b m => some (c, mWord 0x01 tile.toNat a.toNat b.toNat m.toNat)
  | .iMzero c tile => some (c, mWord 0x02 tile.toNat 0 0 0)
  | .iMrd c d tile row half => some (c, mWord 0x03 d.toNat tile.toNat 0 0 + (row.toNat * 8 + b2n half * 4) * 2 ^ 22)
  | .iMwr c tile a row half => some (c, mWord 0x04 tile.toNat a.toNat 0 0 + (row.toNat * 8 + b2n half * 4) * 2 ^ 22)
  | .iVadd c d a b t => some (c, mWord 0x08 d.toNat a.toNat b.toNat t.toNat)
  | .iVsub c d a b t => some (c, mWord 0x09 d.toNat a.toNat b.toNat t.toNat)
  | .iVmul c d a b t => some (c, mWord 0x0A d.toNat a.toNat b.toNat t.toNat)
  | .iVfma c d a b => some (c, mWord 0x0B d.toNat a.toNat b.toNat 3)
  | .iVmin c d a b t => some (c, mWord 0x0C d.toNat a.toNat b.toNat t.toNat)
  | .iVmax c d a b t => some (c, mWord 0x0D d.toNat a.toNat b.toNat t.toNat)
  | .iVand c d a b => some (c, mWord 0x0E d.toNat a.toNat b.toNat 0)
  | .iVor c d a b => some (c, mWord 0x0F d.toNat a.toNat b.toNat 0)
  | .iVxor c d a b => some (c, mWord 0x10 d.toNat a.toNat b.toNat 0)
  | .iVshr c d a b t => some (c, mWord 0x11 d.toNat a.toNat b.toNat t.toNat)
  | .iVcvt c d a dst src => if dst = 1 ∨ src = 1 then none else some (c, mWord 0x12 d.toNat a.toNat dst.toNat src.toNat)
  | .iVperm c d a b => some (c, mWord 0x13 d.toNat a.toNat b.toNat 0)
  | .iVsum c d a fp => some (c, mWord 0x14 d.toNat a.toNat 0 (2 + b2n fp))
  | .iVfn c d a fn => some (c, mWord 0x15 d.toNat a.toNat 0 (4 * fn.toNat + 3))
  | .iVcmp c d a b t op => if op = 3 then none else some (c, mWord 0x16 d.toNat a.toNat b.toNat (4 * op.toNat + t.toNat))
  | .iPtb c buf a kind m =>
    if kind = 1 ∨ (4 < kind.toNat ∧ kind.toNat < 8) then none else some (c, mWord 0x18 (b2n buf) a.toNat kind.toNat m.toNat)
  | .iPta c tile a m => some (c, mWord 0x19 tile.toNat a.toNat 0 m.toNat)
  | .iCbld c cb a => some (c, mWord 0x1A cb.toNat a.toNat 0 0)
  | .iDma c a ch => some (c, xWord 0x01 a.toNat 0 ch.toNat)
  | .iDmaw c ch => some (c, xWord 0x02 0 0 ch.toNat)
  | .iSend c a b => some (c, xWord 0x03 a.toNat b.toNat 0)
  | .iRecv c a => some (c, xWord 0x04 a.toNat 0 0)
  | .iRpop c => some (c, xWord 0x05 0 0 0)
  | .iKsig c a b => some (c, xWord 0x06 a.toNat b.toNat 0)
  | .iKwait c a b => some (c, xWord 0x07 a.toNat b.toNat 0)
  | .iEpeek c a => some (c, xWord 0x08 a.toNat 0 0)
  | .iEpop c => some (c, xWord 0x09 0 0 0)
  | _ => none

/-- The bundle at the core's PC. -/
def fetchBundle (s : State) (c : Nat) : Nat := leNat (peek s (mkey (spBobbin c) (8 * (getCore s c).pc.toNat)) 8)

/-- BUNDLE_ISSUE (R169): an illegal bundle is a program fault (R171). A bundle that cannot be read ends the job (R179). -/
def execBundleIssue (c : BitVec 8) (s : State) : Out State :=
  .next (awake s fun s =>
    if !canIssue s c.toNat then s
    else match sramReads s c.toNat [(8 * (getCore s c.toNat).pc.toNat, 8)] with
      | (false, s) => s
      | (true, s) => match decodeBundle (fetchBundle s c.toNat) with
        | some ops => issue s c.toNat ops
        | none => issue s c.toNat [illegalSlot])

end Sys2Proof.Machine
end

