-- ==== Sys2Proof/Machine/BobbinOps.lean ====
section
/-! DEFINITION. BobbinOps.lean: DMA as it runs (R180 to R183), messages as they arrive (R210 to R213), jobs as a
partition takes and ends them (R191 to R193, R208, R216), placements (R188, R189). -/

namespace Sys2Proof.Machine

/-! ## DMA -/

/-- One side of a DMA: local, or a space and an offset. -/
inductive DmaEnd where
  | loc (a : Nat)
  | dev (sp off : Nat)

def dmaEnd (loc : Bool) (a : U64) : DmaEnd :=
  if loc then .loc a.toNat
  else match addrOf a.toNat with
    | some (sp, off) => .dev sp off
    | none => .loc a.toNat

def dmaRead (s : State) (c jn : Nat) (e : DmaEnd) (o n : Nat) : Bytes × State :=
  match e with
  | .loc a => match sramEcc s c (a + o) n with
    | (true, s) => (peek s (mkey (spBobbin c) (a + o)) n, s)
    | (false, s) => (List.replicate n 0, failJob s jn stUncorr)
  | .dev sp off => jobRead s jn sp (off + o) n

/-- A write to the SRAM, which reads the words of which it writes a part (R179, R180): one that cannot be read ends the
job, and the write is not made. -/
def dmaStore (s : State) (c jn a : Nat) (bs : Bytes) : State :=
  match (storeReads a bs.length).foldl (fun (ok, t) r => let (o, t) := sramEcc t c r.1 r.2; (ok && o, t)) (true, s) with
  | (true, s) => c64 (localWrite s c a bs) 0x30060 bs.length
  | (false, s) => failJob s jn stUncorr

/-- A write is counted if it is made (R183, R202). -/
def dmaWrite (s : State) (c jn : Nat) (e : DmaEnd) (o : Nat) (bs : Bytes) : State :=
  match e with
  | .loc a => dmaStore s c jn (a + o) bs
  | .dev sp off =>
    if bs.isEmpty then s
    else
      let (ok, s) := jobAccess s jn sp (off + o) bs.length true
      if ok then c64 (memWr (noteWrite s jn sp (off + o) bs.length) sp (off + o) bs) 0x30060 bs.length else s

/-- The job has met a status that ends it. -/
def jobFailed (s : State) (jn : Nat) : Bool := match getJob s jn with | some j => j.err.isSome | none => true

/-- A failed read stops the cores of the job (R179, R329). -/
def stopIfFailed (s : State) (jn : Nat) : State := if jobFailed s jn then haltCores s jn 4 else s

/-- COPY (R182). -/
def runCopy (s : State) (c jn : Nat) (d : DmaDesc) : State :=
  (List.range d.rows).foldl (fun t i =>
    if jobFailed t jn then t
    else
      let (bs, t) := dmaRead t c jn (dmaEnd d.srcLoc d.src) (i * d.srcStride.toNat) d.rowBytes
      if jobFailed t jn then t else dmaWrite t c jn (dmaEnd d.dstLoc d.dst) (i * d.dstStride.toNat) bs) s

/-- The five trits of a byte as INT2 codes, trit 0 first (R182, R240). -/
def tritCodes (b : Nat) : List Nat := (List.range 5).map (fun k => [0, 1, 3].getD (b / 3 ^ k % 3) 0)
/-- Codes of 2 bits, four to a byte. -/
def packCodes (bs : Bytes) : Bytes :=
  let codes := bs.flatMap (fun b => tritCodes b.toNat)
  natLE (codes.length / 4) (codes.foldr (fun x t => x + 4 * t) 0)

/-- TERN_UNPACK (R182): a byte above 242 is a program fault. -/
def runTern (s : State) (c jn : Nat) (d : DmaDesc) : State :=
  (List.range d.rows).foldl (fun t i =>
    if jobFailed t jn then t
    else
      let (bs, t) := dmaRead t c jn (dmaEnd d.srcLoc d.src) (i * d.srcStride.toNat) d.rowBytes
      if jobFailed t jn then t
      else if bs.any (fun b => decide (242 < b.toNat)) then programFault t c ⟨8, d.addr⟩
      else dmaWrite t c jn (dmaEnd d.dstLoc d.dst) (i * d.dstStride.toNat) (packCodes bs)) s

/-- How EXPAND reads its tensor: what is not allowed reads zero (R183). -/
def expandRd (s : State) (c jn : Nat) (e : DmaEnd) : Rd := fun o n =>
  match e with
  | .loc a => if (firstPoison s (mkey (spBobbin c) (a + o)) n).isSome then none else some (peek s (mkey (spBobbin c) (a + o)) n)
  | .dev sp off =>
    if !(jobAccess s jn sp (off + o) n false).1 then some (List.replicate n 0)
    else if (firstPoison s (mkey sp (off + o)) n).isSome then none
    else some (peek s (mkey sp (off + o)) n)

/-- The reads of EXPAND take effect: checks, counts, poison. -/
def expandReads (s : State) (c jn : Nat) (e : DmaEnd) (rs : List (Nat × Nat)) : State :=
  match e with
  | .loc a => rs.foldl (fun t r => (dmaRead t c jn (.loc a) r.1 r.2).2) s
  | .dev sp off => rs.foldl (fun t r => (jobRead t jn sp (off + r.1) r.2).2) s

/-- EXPAND ends its job with a status (R329). -/
def expandFail (s : State) (c jn : Nat) (f : CFail) : State :=
  let (fn, sl) := match getJob s jn with | some j => (some j.fn.toNat, some j.slot.toNat) | none => (none, none)
  let s := if f.status = stUncorr then s else codecFail s f 3 (physCore s c) 3 fn sl
  stopJob s jn f.status 4

/-- The rows of the output of EXPAND that are whole. -/
def expandRows (s : State) (c jn : Nat) (d : DmaDesc) (ys : Bytes) : State :=
  (List.range d.rows).foldl (fun t i =>
    if jobFailed t jn then t else dmaWrite t c jn (dmaEnd d.dstLoc d.dst) (i * d.dstStride.toNat) ((ys.drop (i * d.rowBytes)).take d.rowBytes)) s

/-- EXPAND (R182, R328). -/
def runExpand (s : State) (c jn : Nat) (d : DmaDesc) : State :=
  let e := dmaEnd d.srcLoc d.src
  let rd := expandRd s c jn e
  let outside (rs : List (Nat × Nat)) : Bool := d.srcLoc && rs.any (fun r => decide (sramSize < d.src.toNat + r.1 + r.2))
  match snapshot rd (some d.layout) with
  | (.inl f, rs) => if outside rs then programFault s c ⟨7, d.addr⟩ else expandFail (expandReads s c jn e rs) c jn f
  | (.inr sn, rs) =>
    let (ys, _, f, rs') := readBlocks rd sn d.srcStride.toNat (d.rows * d.rowBytes / 1024)
    if outside (rs ++ rs') then programFault s c ⟨7, d.addr⟩
    else
      let s := expandRows (expandReads s c jn e (rs ++ rs')) c jn d ys
      match f with
      | none => s
      | some f => expandFail s c jn f

/-- A descriptor may reach the host: if it names host space, the link must be up. -/
def dmaMayRun (s : State) (jn : Nat) (d : DmaDesc) : Bool :=
  let host (loc : Bool) (a : U64) : Bool := !loc && (match addrOf a.toNat with | some (sp, _) => sp == spHost | none => false)
  match getJob s jn with
  | some j => bobRuns s && (!(host d.srcLoc d.src || host d.dstLoc d.dst) || canMaster s j.fn.toNat)
  | none => false

/-- The descriptor at the head of a channel runs, if its OP is `op` (R180). -/
def runDma (s : State) (c : Nat) (ch : BitVec 2) (op : U8) (g : State → Nat → Nat → DmaDesc → State) : State :=
  let k := getCore s c
  match k.job, k.dmas.find? (fun d => d.ch == ch) with
  | some jn, some d =>
    if d.ran || d.op != op || !dmaMayRun s jn d then s
    else
      let s := modCore s c (fun k => { k with dmas := k.dmas.map (fun e => if e.order = d.order then { e with ran := true } else e) })
      stopIfFailed (g s c jn d) jn
  | _, _ => s

/-- COPY. -/
def execDmaRunCopy (c : BitVec 8) (ch : BitVec 2) (s : State) : Out State := .next (live s fun s => runDma s c.toNat ch 0 runCopy)
/-- EXPAND. -/
def execDmaRunExpand (c : BitVec 8) (ch : BitVec 2) (s : State) : Out State := .next (live s fun s => runDma s c.toNat ch 1 runExpand)
/-- TERN_UNPACK. -/
def execDmaRunTern (c : BitVec 8) (ch : BitVec 2) (s : State) : Out State := .next (live s fun s => runDma s c.toNat ch 2 runTern)

/-- DMA_DESCRIPTOR_DONE (R174, R180): the descriptor leaves its queue, and KSIGs that waited for it may leave. -/
def execDmaDone (c : BitVec 8) (ch : BitVec 2) (s : State) : Out State :=
  .next (live s fun s =>
    match (getCore s c.toNat).dmas.find? (fun d => d.ch == ch) with
    | none => s
    | some d =>
      if !d.ran then s
      else flushKsigs (modCore s c.toNat (fun k => { k with
        dmas := k.dmas.filter (fun e => e.order != d.order), dmaDone := smUpd 0 k.dmaDone ch.toNat (· + 1) })) c.toNat 8)

/-! ## Messages (R206, R210 to R213) -/

/-- An inbox entry (R206). -/
def inboxEntry (m : Msg) : Bytes :=
  bytesAt (natLE 1 m.srcRank.toNat ++ natLE 1 m.dstRank.toNat ++ natLE 1 (fld m.hdr.toNat 8 4) ++ [0] ++
    natLE 2 (fld m.hdr.toNat 16 16) ++ natLE 2 0 ++ m.payload) 0 64

/-- The sender of a message, if it still runs the job that sent it. -/
def senderOf (s : State) (m : Msg) : Option Nat :=
  match coreAt s m.src.toNat with
  | none => none
  | some c =>
    let k := getCore s c
    if k.slot ≠ 0 ∧ k.epoch = m.sepoch ∧ k.job.isSome ∧ k.jseq = m.jseq then some c else none

/-- One copy of a send has been accepted or has bounced (R209). -/
def freeOut (s : State) (m : Msg) : State :=
  match senderOf s m with
  | none => s
  | some c =>
    let s := modCore s c (fun k => { k with
      outb := (k.outb.map (fun o => if o.1 = m.order then (o.1, o.2 - 1) else o)).filter (fun o => o.2 != 0) })
    flushKsigs s c 8

/-- A message or bounce is dropped as stale. -/
def dropMsg (s : State) : State := fltStale (c32 s 0x30144 1) 1

/-- MESSAGE_RECEIVE (R210 to R212): messages of one sender to one receiver arrive in order. -/
def execMessageReceive (k : Nat) (s : State) : Out State :=
  .next (live s fun s =>
    match getNth s.msgs k with
    | none => s
    | some m =>
      if (s.msgs.take k).any (fun q => q.src == m.src && q.dst == m.dst) then s
      else
        let t := { s with msgs := dropNth s.msgs k }
        let bounce (found : U16) : State := { (c32 t 0x90068 1) with bounces := t.bounces ++ [{ m with found := found }] }
        match coreAt s m.dst.toNat with
        | none => bounce (smGet 0 s.flt.physEpoch m.dst.toNat)
        | some c =>
          let q := getCore s c
          if q.slot = 0 ∨ !s.pwr.bobUp ∨ q.epoch ≠ m.depoch then bounce q.epoch
          else if q.job.isNone ∨ q.jseq ≠ m.jseq then freeOut (dropMsg t) m
          else if 64 ≤ q.inbox.length then s
          else freeOut (c64 (modCore t c (fun q => { q with inbox := q.inbox ++ [inboxEntry m] })) 0x30138 1) m)

/-- BOUNCE_RETURN (R213). -/
def execBounceReturn (k : Nat) (s : State) : Out State :=
  .next (live s fun s =>
    match getNth s.bounces k with
    | none => s
    | some m =>
      let s := { s with bounces := dropNth s.bounces k }
      match senderOf s m with
      | none => dropMsg s
      | some c => freeOut (pushEq (c32 s 0x30140 1) c (bounceEntry m.hdr m.payload m.found.toNat)) m)

/-! ## Jobs (R191 to R193) -/

/-- Jobs that a placement (or the engines) of a slot may take: queued, their knot condition met. -/
def readyJobs (s : State) (slot : Nat) (inB : Bool) : List (Nat × Job) :=
  s.jobs.filterMap (fun e => match e.2 with
    | some j => if j.st = .queued ∧ j.slot.toNat = slot ∧ j.inB = inB ∧ j.wait.isNone ∧ !j.awaitRepair ∧ !j.finished then some (e.1, j) else none
    | none => none)

/-- The oldest job of the highest level (R191); a replay comes before every other (R417). -/
def pickJob (js : List (Nat × Job)) : Option (Nat × Job) :=
  match js.find? (fun e => decide (1 < e.2.attempt)) with
  | some e => some e
  | none =>
    let top := js.foldl (fun m e => max m e.2.level) 0
    js.find? (fun e => e.2.level == top)

def streamWord (o : JobOrigin) : Nat := match o with | .cascade st gen stage _ => st.toNat + gen.toNat * 2 ^ 14 + stage.toNat * 2 ^ 18 | _ => 0
def stampWord (o : JobOrigin) : Nat := match o with | .cascade _ _ _ stamp => stamp.toNat | _ => 0

/-- The job block (R192). -/
def jobBlockOf (j : Job) : Bytes :=
  bytesAt (natLE 8 j.inAddr.toNat ++ natLE 8 j.outAddr.toNat ++ natLE 8 j.stateAddr.toNat ++ natLE 4 j.inBytes ++ natLE 4 j.outBytes ++
    natLE 2 j.batch.toNat ++ natLE 1 (j.kind.toNat + 4 * j.mode.toNat) ++ natLE 1 j.lrExp.toNat ++
    natLE 4 (streamWord j.origin) ++ natLE 4 (stampWord j.origin) ++ natLE 4 j.inSteps.toNat) 0 64

/-- A core at the start of a job, with nothing in its inbox: what came for an abandoned attempt is discarded with it
(R417). No bundle has been issued yet, so BOB_CORE_STATE.PC stands (R202). PTP is 0 with the other registers. DESIGN CHOICE
(log entry 197). -/
def startCore (k : Core) (jn entry : Nat) (jseq : U8) (blk : Bytes) : Core :=
  { k with st := 2, job := some jn, jseq := jseq, s := [], v := [], acc := [], cb := [], pt := [], pc := BitVec.ofNat 17 (entry / 8)
           inboxHead := (k.inboxHead + k.inbox.length) % 64, inbox := [], loops := [], ptpCol := 0, ptpRow := 0, satgrp := 0, cyclesHi := 0, dmaDone := []
           dmas := [], eqHead := (k.eqHead + k.eq.length) % 16, eq := [], eqOvf := false, outb := [], ksigs := [], unacked := 0
           waitOut := false, waitDone := false, order := 0, ending := false, jobBlock := blk }

/-- Two ranges of bytes in one space meet. -/
def rangesOverlap (a : U64) (n : Nat) (b : U64) (m : Nat) : Bool :=
  match addrOf a.toNat, addrOf b.toNat with
  | some (sp, x), some (sq, y) => sp == sq && decide (x < y + m ∧ y < x + n)
  | _, _ => false

/-- A job starts to run, `spare`: with one of its units on a spare (R418). One whose IN and OUT ranges meet is not
replayable (R416). -/
def beginJob (j : Job) (spare : Bool) : Job :=
  { j with st := .running, started := true, onSpare := spare
           replayable := j.replayable && !(j.kind != 2 && rangesOverlap j.inAddr j.inBytes j.outAddr j.outBytes) }

def runOf (x : Slot) (inB : Bool) : Option Nat := if inB then x.runB else x.runA
def setRun (x : Slot) (inB : Bool) (v : Option Nat) : Slot := if inB then { x with runB := v } else { x with runA := v }

/-- Job `jn` runs on the partition (R192, R208). -/
def startPartition (s : State) (slot : Nat) (inB : Bool) (jn : Nat) (j : Job) : State :=
  let img := match versionOf (getSlot s slot) inB with | some v => v.image | none => []
  let s := modSlot s slot (fun x => setRun (if inB then { x with jseqB := x.jseqB + 1 } else { x with jseqA := x.jseqA + 1 }) inB (some jn))
  let x := getSlot s slot
  let jseq := if inB then x.jseqB else x.jseqA
  let spare := (members s slot inB).any (fun e => decide (256 ≤ physCore s e.1))
  let s := setJob s jn (some (beginJob j spare))
  (members s slot inB).foldl (fun t e => modCore t e.1 (fun k => startCore k jn (t1Entry img) jseq (jobBlockOf j))) s

/-- A repair moves a rank of the placement: it takes no new job (R198). -/
def repairHolds (s : State) (slot : Nat) (inB : Bool) : Bool :=
  match s.flt.repair with
  | some r => r.utype == 3 && (members s slot inB).any (fun e => e.1 == r.unit.toNat)
  | none => false

/-- Nothing of the core's part of the job is outstanding (R193, R229). -/
def coreDone (k : Core) : Bool := k.ending && k.dmas.isEmpty && k.outb.isEmpty && k.ksigs.isEmpty && k.unacked == 0

/-- A core after its job; messages left in its inbox are discarded (R193). -/
def endCore (s : State) (c : Nat) : State :=
  let s := c32 s 0x30074 (getCore s c).inbox.length
  modCore s c (fun k => { k with st := 1, job := none, inboxHead := (k.inboxHead + k.inbox.length) % 64, inbox := [], ending := false })

/-- The rights of a job are checked again at its start (R106) and at its restart (R417). -/
def restartRights (s : State) (j : Job) : Bool × State :=
  let s := noteCtl s (protWord 2 j.slot.toNat)
  match j.origin with
  | .host q => (match findDesc s q with
    | some d => descRights s j.fn.toNat d.bytes
    | none => (mayUse s j.fn.toNat j.slot.toNat, s))
  | .cascade .. => (mayUse s j.fn.toNat j.slot.toNat, s)
  | .apply parent => (match getJob s parent with
    | some w => (mayUse s j.fn.toNat w.slot.toNat, s)
    | none => (true, s))

/-- The rights of a job that is taken: those of a cascade job are its stream's (R106). -/
def startRights (s : State) (j : Job) : Bool × State :=
  match j.origin with
  | .cascade .. => if j.attempt ≤ 1 then (true, s) else restartRights s j
  | _ => restartRights s j

/-- The cores of job `jn` are free again, and messages left in their inboxes are discarded (R193). -/
def leavePartition (s : State) (slot : Nat) (inB : Bool) (jn : Nat) : State :=
  modSlot (c64 ((jobCores s jn).foldl endCore s) 0x30040 1) slot (fun x => setRun x inB none)

/-- An abandoned attempt restarts on its partition, once its knot operations have been answered (R417, R420). -/
def restartPartition (s : State) (slot : Nat) (inB : Bool) (jn : Nat) : State :=
  match getJob s jn with
  | none => s
  | some j =>
    if j.st ≠ .queued ∨ j.awaitRepair ∨ (jobCores s jn).any (fun c => (getCore s c).unacked != 0) then s
    else match restartRights s j with
      | (true, s) => startPartition s slot inB jn j
      | (false, s) => endJob (leavePartition s slot inB jn) jn stProtection true

/-- PARTITION_TAKE_JOB (R191, R192, R417). -/
def execPartitionTakeJob (slot : SlotId) (inB : Bool) (s : State) : Out State :=
  .next (live s fun s =>
    let n := slot.toNat
    let x := getSlot s n
    if tierOf n ≠ 1 || !bobRuns s || (versionOf x inB).isNone || repairHolds s n inB then s
    else match runOf x inB with
    | some jn => restartPartition s n inB jn
    | none => match pickJob (readyJobs s n inB) with
      | none => s
      | some (jn, j) => match startRights s j with
        | (true, s) => startPartition s n inB jn j
        | (false, s) => endJob s jn stProtection false)

/-- CLASS and CONF of rank 0's job block; 0 without RVALID (R193). -/
def takeResult (s : State) (jn : Nat) : State :=
  match (jobCores s jn).head? with
  | none => s
  | some c =>
    let b := (getCore s c).jobBlock
    if bitOf (leAt b 0x33 1) 0 then
      modJob s jn (fun j => { j with cls := BitVec.ofNat 16 (leAt b 0x30 2), conf := BitVec.ofNat 8 (leAt b 0x32 1) })
    else s

/-- JOB_END (R193, R216). -/
def execJobEnd (slot : SlotId) (inB : Bool) (s : State) : Out State :=
  .next (live s fun s =>
    match runOf (getSlot s slot.toNat) inB with
    | none => s
    | some jn =>
      let cs := jobCores s jn
      if tierOf slot.toNat ≠ 1 || !jobRuns s jn || !cs.all (fun c => coreDone (getCore s c)) then s
      else
        let base := (eqStatus s jn).getD (match getJob s jn with | some j => (j.err.getD 0).toNat | none => 0)
        let s := takeResult s jn
        endJob (leavePartition s slot.toNat inB jn) jn base true)

/-! ## Registers (R188, R189, R202, R235) -/

/-- BOB_CLEAR.CLR. -/
def execBobClear (s : State) : Out State :=
  .next (bar0 s 0 false fun s => clearCtrs s [0x30040, 0x30048, 0x30050, 0x30058, 0x30060, 0x30068, 0x3006C, 0x30070, 0x30074])

/-- BOB_MSG_CLEAR.CLR. -/
def execBobMsgClear (s : State) : Out State :=
  .next (bar0 s 0 false fun s => clearCtrs s [0x30120, 0x30128, 0x3012C, 0x30130, 0x30134, 0x30138, 0x30140, 0x30144, 0x30148, 0x3014C])

def placeX (w : Nat) : Nat := fld w 0 4
def placeY (w : Nat) : Nat := fld w 4 4
def placeW (w : Nat) : Nat := fld w 8 5
def placeH (w : Nat) : Nat := fld w 13 5
/-- The logical cores of a rectangle. -/
def placeCores (w : Nat) : List Nat :=
  (List.range (placeH w)).flatMap (fun dy => (List.range (placeW w)).map (fun dx => (placeY w + dy) * 16 + placeX w + dx))
/-- The rectangle lies on the grid; an empty one does. -/
def placeOk (w : Nat) : Bool :=
  placeW w == 0 || placeH w == 0 || decide (placeX w + placeW w ≤ 16 ∧ placeY w + placeH w ≤ 16)

/-- The rectangle meets a placement that holds a version, other than those that `skip` names. -/
def placeMeets (s : State) (w : Nat) (skip : Nat → Bool → Bool) : Bool :=
  let cs := placeCores w
  s.slots.any (fun e => tierOf e.1 == 1 &&
    ((e.2.verA.isSome && !skip e.1 false && (placeCores e.2.placeA.toNat).any (fun c => cs.contains c)) ||
     (e.2.verB.isSome && !skip e.1 true && (placeCores e.2.placeB.toNat).any (fun c => cs.contains c))))

/-- The rectangle of a placement that is to be loaded meets another that holds a version. -/
def placeClash (s : State) (slot : Nat) (inB : Bool) (w : Nat) : Bool := placeMeets s w (fun t b => t == slot && b == inB)

def bobSel (s : State) : Nat := reg s 0x30020 % 256

/-- BOB_SLOT_PLACE_WRITE (R189): without effect while the placement holds a version. RANGE_ERR is set by a rectangle
that leaves the grid or meets any placement that holds a version, the written one too. -/
def execBobPlaceWrite (b : Bool) (w : U32) (s : State) : Out State :=
  .next (bar0 s 0 false fun s =>
    let n := bobSel s
    let v := w &&& 0x3FFFF
    if tierOf n ≠ 1 then s
    else if !placeOk v.toNat || placeMeets s v.toNat (fun _ _ => false) then modSlot s n (fun x => { x with rangeErr := true })
    else if (versionOf (getSlot s n) b).isSome then s
    else modSlot s n (fun x => if b then { x with placeB := v } else { x with placeA := v }))

end Sys2Proof.Machine
end

