-- ==== Sys2Proof/Machine/Image.lean ====
section
/-! DEFINITION. Image.lean: the slot image (R90): its header, its sections, and the checks of a Tier 0 image (R155,
R156) and of a Tier 1 image (R186, R187, R260). -/

namespace Sys2Proof.Machine

/-! ## Header and sections (R90, R155) -/

/-- The header before the CRC: magic, format version, tier, length, reserved bytes. -/
def headerFits (img : Bytes) (slot len : Nat) : Bool :=
  leAt img 0 4 == 0x4C53424E && leAt img 4 1 == tierOf slot && leAt img 5 1 == 1 && leAt img 8 4 == len &&
  allZero (bytesAt img 16 16)

def headerCrcOk (img : Bytes) : Bool := (crc32 (img.drop 16)).toNat == leAt img 12 4

/-- Every section header and every section lies in the image, in multiples of 8 B. -/
def secsFit (img : Bytes) (off : Nat) : Nat → Bool
  | 0 => true
  | n + 1 =>
    let l := leAt img (off + 4) 4
    decide (off + 8 ≤ img.length) && decide (8 ≤ l) && l % 8 == 0 && decide (off + l ≤ img.length) && secsFit img (off + l) n

/-- The sections are of the types named, those of `once` at most one time, those of `need` at least one time. -/
def secsKnown (img : Bytes) (types once need : List Nat) : Bool :=
  let ts := (sections img).map (·.1)
  secsFit img 32 (leAt img 6 2) && ts.all types.contains && once.all (fun t => decide (ts.count t ≤ 1)) && need.all ts.contains

/-- The entries of a type, `size` bytes each, by their place in the image. -/
def secEntries (img : Bytes) (ty size : Nat) : List Nat :=
  (secsOf img ty).flatMap (fun (n, o, _) => (List.range n).map (fun k => o + k * size))
def secSized (img : Bytes) (ty size : Nat) : Bool := (secsOf img ty).all (fun (n, _, l) => l == n * size)

/-- Blobs of a section, by the place of their headers: `hdr` bytes, the length at byte `lo` of the header. -/
def blobsFrom (img : Bytes) (hdr lo o stop : Nat) : Nat → Option (List Nat)
  | 0 => if o = stop then some [] else none
  | n + 1 =>
    if stop < o + hdr then none
    else
      let next := o + hdr + (leAt img (o + lo) 4 + 7) / 8 * 8
      if stop < next then none else (blobsFrom img hdr lo next stop n).map (o :: ·)

def secBlobs (img : Bytes) (ty hdr lo : Nat) : Option (List Nat) :=
  (secsOf img ty).foldl (fun t (n, o, l) => match t, blobsFrom img hdr lo o (o + l) n with
    | some a, some b => some (a ++ b)
    | _, _ => none) (some [])

def distinct (xs : List Nat) : Bool :=
  match xs with
  | [] => true
  | x :: r => !r.contains x && distinct r

/-! ## Micro-code (R118 to R123, R156) -/

def uopAt (img : Bytes) (p i : Nat) : Nat := leAt img (p + 2 * i) 2
/-- The index of a model's END: the first, with nothing after it checked. DESIGN CHOICE (log entry 201). -/
def modelEnd (img : Bytes) (p : Nat) : Option Nat := findBelow (fun i => fld (uopAt img p i) 12 4 == 0) 64

/-- A micro-op before the END at `stop`. -/
def uopOk (w i stop : Nat) : Bool :=
  let op := fld w 12 4
  let d := fld w 9 3
  let sc := fld w 6 3
  let imm := fld w 0 6
  decide (op < 0xE) && (!([1, 2, 3, 4, 5, 0xC, 0xD].contains op) || decide (d < 6)) &&
  !((([1, 2, 3, 6, 7, 9, 0xA, 0xC, 0xD].contains op && sc == 6) || ([6, 7].contains op && d == 6)) && imm % 16 == 15) &&
  (op != 8 || (decide (d ≤ 2) && decide (1 ≤ imm) && decide (i + 1 + imm ≤ stop))) &&
  (op != 9 || d % 4 != 3) && (op != 0xB || decide (d ≤ 2))

def modelOk (img : Bytes) (p : Nat) : Bool :=
  match modelEnd img p with
  | none => false
  | some e => uopAt img p e == 0 && (List.range e).all (fun i => uopOk (uopAt img p i) i e)

/-- The MODEL entry of an index. -/
def modelEntry (img : Bytes) (m : Nat) : Option Nat := (secEntries img 4 136).find? (fun p => leAt img p 1 == m)

def paramOk (img : Bytes) (p : Nat) : Bool :=
  let w := leAt img (p + 8 + 60) 4
  let entry := fld w 4 6
  w / 2 ^ 10 == 0 && (match modelEntry img (w % 8) with
    | none => false
    | some q => match modelEnd img (q + 8) with
      | none => false
      | some e => entry == 0 || decide (entry < e))

/-! ## Populations, ports, tables (R124, R125, R132, R156) -/

/-- Fields of a POPULATION entry at `p` of the image; `f o n`: `n` bytes at `o` of the entry. -/
def popFld (img : Bytes) (p o n : Nat) : Nat := leAt img (p + 8 + o) n
def popFirst (img : Bytes) (p : Nat) : Nat := popFld img p 0 2 % 4096
def popSize (img : Bytes) (p : Nat) : Nat := popFld img p 2 2

def popsMeet (img : Bytes) (p q : Nat) : Bool :=
  p != q && leAt img p 1 == leAt img q 1 &&
  decide (popFirst img p < popFirst img q + popSize img q ∧ popFirst img q < popFirst img p + popSize img p)

def popOk (img : Bytes) (p : Nat) : Bool :=
  decide (leAt img p 1 < t0Span img) && decide (leAt img (p + 1) 1 < 56) && leAt img (p + 2) 6 == 0 &&
  decide (1 ≤ popSize img p ∧ popSize img p ≤ 4096) && decide (popFld img p 4 1 < 32) && decide (popFld img p 5 1 ≤ 64) &&
  decide (popFld img p 6 2 + popFld img p 5 1 ≤ 2048) && allZero (bytesAt img (p + 16) 24) &&
  decide (popFirst img p + popSize img p ≤ t0Npc img) && !(secEntries img 6 40).any (popsMeet img p)

/-- The population that a port feeds. -/
def portPop (img : Bytes) (p : Nat) : Option Nat :=
  (secEntries img 6 40).find? (fun q => leAt img q 1 == leAt img p 1 && leAt img (q + 1) 1 == popFld img p 1 1)

def kernelPort (img : Bytes) (p : Nat) : Bool := popFld img p 0 1 == 1
/-- R156's last sentence. -/
def portShapeBad (img : Bytes) (p : Nat) : Bool := kernelPort img p && (popFld img p 8 1 == 0 || popFld img p 9 1 == 0)

def kernelOk (img : Bytes) (p size : Nat) : Bool :=
  let f := popFld img p
  let kw := fld (f 0xB 1) 0 3
  let kh := fld (f 0xB 1) 3 3
  let pad := f 0xC 1
  decide (1 ≤ f 4 1 ∧ f 4 1 ≤ 64) && decide (1 ≤ f 5 1 ∧ f 5 1 ≤ 64) && decide (1 ≤ f 6 1 ∧ f 6 1 ≤ 16) && f 7 1 == 0 &&
  decide (1 ≤ f 0xA 1 ∧ f 0xA 1 ≤ 64) && decide (f 0xB 1 < 64) && kw != 0 && kh != 0 && decide (pad < 64) && fld pad 0 3 != 7 &&
  fld pad 3 3 != 7 && decide (1 ≤ f 0xD 1 ∧ f 0xD 1 ≤ 2) &&
  decide (8 * f 2 2 + f 0xA 1 * kh * kw * f 6 1 ≤ 0x10000) && decide (f 8 1 * f 9 1 * f 0xA 1 ≤ size)

def denseOk (img : Bytes) (p size : Nat) : Bool :=
  let f := popFld img p
  decide (1 ≤ f 4 2 ∧ f 4 2 ≤ 4096) && decide (1 ≤ f 6 2 ∧ f 6 2 ≤ 4096) && allZero (bytesAt img (p + 16) 6) &&
  decide (8 * f 2 2 + f 4 2 * f 6 2 ≤ 0x18000) && decide (f 6 2 ≤ size)

def portOk (img : Bytes) (p : Nat) : Bool :=
  let f := popFld img p
  decide (leAt img p 1 < t0Span img) && decide (leAt img (p + 1) 1 < 8) && leAt img (p + 2) 6 == 0 && decide (f 0 1 < 3) &&
  decide (f 1 1 < 64) && decide (f 0xE 1 < 8) && allZero (bytesAt img (p + 8 + 15) 17) &&
  (f 0 1 == 0 || (match portPop img p with
    | none => false
    | some q => if kernelPort img p then kernelOk img p (popSize img q) else denseOk img p (popSize img q)))

/-- A KERNEL or DENSE blob against its store of `size` bytes. -/
def storeBlobOk (img : Bytes) (size p : Nat) : Bool :=
  decide (leAt img p 1 < t0Span img) && leAt img (p + 1) 1 == 0 && decide (8 * leAt img (p + 2) 2 + leAt img (p + 4) 4 ≤ size)

/-- A multicast entry word (R132). -/
def mcWordOk (w span : Nat) : Bool := w / 2 ^ 25 == 0 && (bitOf w 0 || decide (fld w 1 9 < span))

def mcOk (img : Bytes) (p : Nat) : Bool :=
  decide (leAt img p 1 < t0Span img) && leAt img (p + 1) 1 == 0 && decide (leAt img (p + 2) 2 < 2048) && leAt img (p + 4) 4 == 0 &&
  mcWordOk (leAt img (p + 8) 8) (t0Span img)

/-- No position of a population's events reaches 4,096. -/
def positionsOk (img : Bytes) (p : Nat) : Bool :=
  let base := popFld img p 6 2
  (secEntries img 0xA 16).all (fun q =>
    !(leAt img q 1 == leAt img p 1 && decide (base ≤ leAt img (q + 2) 2 ∧ leAt img (q + 2) 2 < base + popFld img p 5 1)) ||
    decide (fld (leAt img (q + 8) 8) 13 12 + popSize img p ≤ 4096))

/-! ## Converter and readout (R150, R153) -/

def convOk (img : Bytes) (frameB : Nat) : Bool :=
  match findSec img 2 with
  | none => true
  | some (n, o, l) =>
    let f := leAt img o 1 % 16
    let mode := leAt img o 1 / 16
    let ch := leAt img (o + 2) 2
    let nd := leAt img (o + 12) 1
    let last := if mode = 1 then 2 * ch - 1 else ch - 1
    n == 1 && l == 48 && (f == 0x5 || f == 0x6 || f == 0x9) && decide (mode < 3) && leAt img (o + 1) 1 == 0 &&
    decide (1 ≤ ch ∧ ch ≤ 512) && (mode == 1 || decide (leAt img (o + 7) 1 < 16)) &&
    (mode != 1 || decide (1 ≤ leAt img (o + 8) 3 ∧ leAt img (o + 8) 3 < 2 ^ 23)) && leAt img (o + 11) 1 == 0 &&
    decide (1 ≤ nd ∧ nd ≤ 4) && leAt img (o + 13) 3 == 0 && decide (ch * fmtBytes f ≤ frameB) &&
    (List.range nd).all (fun k =>
      let w := leAt img (o + 16 + 8 * k) 8
      !bitOf w 0 && mcWordOk w (t0Span img) && decide (last + fld w 13 12 < 4096))

/-- Populations flagged READOUT. -/
def readoutPops (img : Bytes) : List Nat := (secEntries img 6 40).filter (fun p => bitOf (popFld img p 4 1) 3)

def readoutOk (img : Bytes) : Bool :=
  match findSec img 0x0B with
  | none => (readoutPops img).isEmpty
  | some (n, o, l) =>
    let w := leAt img o 8
    let ncls := fld w 0 5
    let bg := fld w 12 5
    n == 1 && l == 8 && decide (1 ≤ ncls ∧ ncls ≤ 16) && decide (1 ≤ fld w 5 6 ∧ fld w 5 6 ≤ 32) && fld w 29 3 == 0 &&
    w / 2 ^ 48 == 0 && (bg == 31 || (decide (bg < ncls) && decide (2 ≤ ncls))) &&
    (match readoutPops img with
     | [p] => leAt img p 1 == 0 && !bitOf (popFld img p 4 1) 4 && popSize img p == ncls
     | _ => false)

/-! ## The whole Tier 0 image (R155, R156, R311) -/

/-- Entries of a type per core offset: at least `lo`, at most `hi`. -/
def perCore (img : Bytes) (ty lo hi : Nat) : Bool :=
  (List.range (t0Span img)).all (fun c =>
    let n := ((secEntries img ty 40).filter (fun p => leAt img p 1 == c)).length
    decide (lo ≤ n ∧ n ≤ hi))

def pairKey (img : Bytes) (p : Nat) : Nat := leAt img p 2

def t0TablesOk (img : Bytes) : Bool :=
  let models := secEntries img 4 136
  let params := secEntries img 5 72
  secSized img 4 136 && secSized img 5 72 && secSized img 6 40 && secSized img 7 40 && secSized img 0xA 16 &&
  decide (1 ≤ models.length) && decide (1 ≤ params.length) &&
  models.all (fun p => decide (leAt img p 1 < 8) && leAt img (p + 1) 7 == 0 && modelOk img (p + 8)) &&
  params.all (fun p => decide (leAt img p 1 < 16) && leAt img (p + 1) 7 == 0 && paramOk img p) &&
  distinct (models.map (fun p => leAt img p 1)) && distinct (params.map (fun p => leAt img p 1)) &&
  distinct ((secEntries img 6 40).map (pairKey img)) && distinct ((secEntries img 7 40).map (pairKey img)) &&
  perCore img 6 1 56 && perCore img 7 0 8

def t0PlacementOk (img : Bytes) : Bool :=
  match findSec img 3 with
  | none => false
  | some (n, o, l) =>
    let w := leAt img o 8
    n == 1 && l == 8 && decide (1 ≤ t0Span img ∧ t0Span img ≤ 64) && decide (1 ≤ t0Npc img ∧ t0Npc img ≤ 4096) &&
    w == t0Span img + t0Npc img * 2 ^ 16

/-- Every check of R156 and R311 on the image alone, but for the shape of its kernel ports. -/
def t0ImageOk (img : Bytes) : Bool :=
  secsKnown img [1, 2, 3, 4, 5, 6, 7, 8, 9, 0xA, 0xB] [1, 2, 3, 0xB] [1, 3, 4, 5, 6] && t0PlacementOk img && frontOk img &&
  (secsOf img 1).all (fun x => x.1 == 1) && t0TablesOk img &&
  (secEntries img 6 40).all (fun p => popOk img p && positionsOk img p) &&
  (secEntries img 7 40).all (fun p => portShapeBad img p || portOk img p) &&
  (match secBlobs img 8 8 4, secBlobs img 9 8 4 with
   | some k, some d => k.all (storeBlobOk img 0x10000) && d.all (storeBlobOk img 0x18000)
   | _, _ => false) &&
  (secEntries img 0xA 16).all (mcOk img) && convOk img ((frontOf img).map (·.frameB) |>.getD 0) && readoutOk img

/-- A kernel port with an OW or OH of 0 (R156). -/
def t0ShapeBad (img : Bytes) : Bool := (secEntries img 7 40).any (portShapeBad img)

/-! ## The tables of a Tier 0 image in the cores (R155) -/

/-- What goes into the core at offset `o` of every group, as (offset in the state memory, bytes). -/
def t0CoreTables (img : Bytes) (o : Nat) : List (Nat × Bytes) :=
  let here (p : Nat) : Bool := leAt img p 1 == o
  (secEntries img 4 136).map (fun p => (opOff (leAt img p 1) 0, bytesAt img (p + 8) 128)) ++
  (secEntries img 5 72).map (fun p => (paramOff (leAt img p 1) 0, bytesAt img (p + 8) 64)) ++
  ((secEntries img 6 40).filter here).map (fun p => (popOff (leAt img (p + 1) 1), bytesAt img (p + 8) 32)) ++
  ((secEntries img 7 40).filter here).map (fun p => (portOff (leAt img (p + 1) 1), bytesAt img (p + 8) 32)) ++
  (((secBlobs img 8 8 4).getD []).filter here).map (fun p => (kernelOff + 8 * leAt img (p + 2) 2, bytesAt img (p + 8) (leAt img (p + 4) 4))) ++
  (((secBlobs img 9 8 4).getD []).filter here).map (fun p => (denseOff + 8 * leAt img (p + 2) 2, bytesAt img (p + 8) (leAt img (p + 4) 4))) ++
  ((secEntries img 0xA 16).filter here).map (fun p => (mcOff (leAt img (p + 2) 2), bytesAt img (p + 8) 8))

/-- The tables of a core are those of the image alone: what an earlier version left is cleared. -/
def writeTables (s : State) (img : Bytes) (o c : Nat) : State :=
  let s := zeroRange s (mkey (spPicot c) 0x8000) 0x800
  let s := zeroRange s (mkey (spPicot c) 0x9800) 0x36800
  (t0CoreTables img o).foldl (fun t (a, bs) => poke t (mkey (spPicot c) a) bs) s

/-- Every group of a range takes the tables. The cores left over at its end take models and parameter sets alone, as
of a core offset that no per-core section names. -/
def writeRange (s : State) (img : Bytes) (w : Nat) : State :=
  let span := t0Span img
  if span = 0 then s else
  (List.range (rangeCount w)).foldl (fun t k =>
    writeTables t img (if k < rangeCount w / span * span then k % span else 64) (rangeBase w + k)) s

/-! ## The Tier 1 image (R186, R187) -/

/-- The blobs of DEVICE sections: (address, bytes). -/
def deviceBlobs (img : Bytes) : Option (List (Nat × Bytes)) :=
  match secBlobs img 0x23 16 8 with
  | none => none
  | some ps => if ps.all (fun p => leAt img (p + 12) 4 == 0) then some (ps.map (fun p => (leAt img p 8, bytesAt img (p + 16) (leAt img (p + 8) 4)))) else none

/-- Every DEVICE blob lies in device space, within one window of the loader that grants WR. -/
def deviceBlobsOk (s : State) (fn : Nat) (img : Bytes) : Bool × State :=
  match deviceBlobs img with
  | none => (false, s)
  | some bs => bs.foldl (fun (ok, t) (a, b) =>
      if ok ∧ bitOf a 63 then rangeRight t fn a b.length true else (false, t)) (true, s)

def writeDevice (s : State) (img : Bytes) : State :=
  ((deviceBlobs img).getD []).foldl (fun t (a, b) => match addrOf a with
    | some (sp, off) => memWr t sp off b
    | none => t) s

/-- A LOCAL blob (R186). -/
structure LocalBlob where
  first : Nat
  last : Nat
  off : Nat
  len : Nat
  code : Bool
  /-- Where its bytes stand in the image. -/
  at_ : Nat

def localBlobs (img : Bytes) : Option (List LocalBlob) :=
  match secBlobs img 0x22 16 8 with
  | none => none
  | some ps =>
    if ps.all (fun p => leAt img (p + 12) 4 < 2) then
      some (ps.map (fun p => { first := leAt img p 2, last := leAt img (p + 2) 2, off := leAt img (p + 4) 4, len := leAt img (p + 8) 4
                               code := bitOf (leAt img (p + 12) 1) 0, at_ := p + 16 }))
    else none

def localsMeet (a b : LocalBlob) : Bool :=
  a.at_ != b.at_ && decide (a.first ≤ b.last ∧ b.first ≤ a.last ∧ a.off < b.off + b.len ∧ b.off < a.off + a.len)

/-- A CODE blob is aligned and holds whole, legal bundles. -/
def codeOk (img : Bytes) (b : LocalBlob) : Bool :=
  b.off % 8 == 0 && b.len % 8 == 0 && (List.range (b.len / 8)).all (fun k => (decodeBundle (leAt img (b.at_ + 8 * k) 8)).isSome)

def localOkIn (img : Bytes) (bs : List LocalBlob) (b : LocalBlob) : Bool :=
  decide (b.first ≤ b.last ∧ b.last < t1Cores img) && decide (b.off + b.len ≤ sramSize) && !bs.any (localsMeet b) &&
  (!b.code || codeOk img b)

/-- SATGROUP (R260): entries by their place in the image. -/
def satEntries (img : Bytes) : List Nat := secEntries img 0x40 8
def satCtrOf (img : Bytes) (p : Nat) : Nat := leAt img p 2
def satGroupOk (s : State) (slot : Nat) (img : Bytes) : Bool :=
  secSized img 0x40 8 && distinct ((satEntries img).map (satCtrOf img)) &&
  (satEntries img).all (fun p =>
    let c := satCtrOf img p
    let w := leAt img (p + 2) 2
    let h := (getSat s c).holder.toNat
    decide (1 ≤ c ∧ c < 4096) && decide (10 ≤ w ∧ w ≤ 31) && (h == 0 || h == slot))

/-- Some open stream has the slot as a stage; every state other than CLOSED is taken as open. -/
def isCascadeStage (s : State) (slot : Nat) : Bool :=
  s.streams.any (fun e => e.2.ctx.state != 0 &&
    (List.range e.2.ctx.nstage.toNat).any (fun k => (stageOf e.2.ctx k).slot.toNat == slot))

/-- The checks of R187 and R260, but for those on DEVICE blobs. -/
def t1ImageOk (s : State) (slot : Nat) (img : Bytes) : Bool :=
  let n := t1Cores img
  secsKnown img [0x21, 0x22, 0x23, 0x40] [0x21, 0x40] [0x21, 0x22] &&
  (secsOf img 0x21).all (fun (c, o, l) => c == 1 && l == 24 && leAt img (o + 20) 4 < 4) &&
  decide (1 ≤ n ∧ n ≤ 256) && decide (1 ≤ t1W img ∧ t1W img ≤ 16) && decide (1 ≤ t1H img ∧ t1H img ≤ 16) &&
  decide (n ≤ t1W img * t1H img) && t1Entry img % 8 == 0 &&
  (match localBlobs img with
   | none => false
   | some bs =>
     bs.all (localOkIn img bs) &&
     (List.range n).all (fun r => bs.any (fun b => b.code && decide (b.first ≤ r ∧ r ≤ b.last ∧ b.off ≤ t1Entry img ∧ t1Entry img < b.off + b.len)))) &&
  satGroupOk s slot img && (bitOf (t1Flags img) 0 || !isCascadeStage s slot)

/-! ## The slot store (R353) -/

/-- Where the slot store keeps a core's copy: its SRAM, and after those of all cores the resident regions of the engines
(DESIGN CHOICE, log entry 66). -/
def coreStore (c : Nat) : Nat := slotStore + c * 2 ^ 20
def engineStore (e : Nat) : Nat := slotStore + 2 ^ 28 + e * 2 ^ 21

/-- A blob goes into its unit's memory at key `k`, and its copy into the slot store at `so`. -/
def placeBlob (s : State) (k so : Nat) (bs : Bytes) : State := memWr (pokeEcc s k bs) spDram so bs

/-- `n` bytes of the slot store go back into a unit's memory at key `k`. Words of it that cannot be read become words
that hold an uncorrectable error (R357: no reader receives poisoned data as if it were valid). -/
def restoreBlob (s : State) (k so n : Nat) : State :=
  let bad := firstPoison s (mkey spDram so) n
  let gone := if bad.isNone then [] else (List.range n).filter (fun i => isPoisoned s (mkey spDram (so + i)))
  let s := match bad with
    | some i => poisonRead s 7 (mkey spDram (so + i)) none 0
    | none => s
  let (bs, s) := memRd s spDram so n
  let s := pokeEcc s k bs
  { s with flaws := gone.foldl (fun m i => smSet 0 m (eccBase (k + i)) 2) s.flaws }

/-- What is done with each LOCAL blob of a rank (R186). -/
def eachLocal (img : Bytes) (rank : Nat) (f : State → LocalBlob → State) (s : State) : State :=
  ((localBlobs img).getD []).foldl (fun t b => if b.first ≤ rank ∧ rank ≤ b.last then f t b else t) s

/-- LOCAL blobs of a rank are written into a core's SRAM (R186), with their copy (R353). -/
def writeLocals (s : State) (img : Bytes) (rank c : Nat) : State :=
  eachLocal img rank (fun t b => placeBlob t (mkey (spBobbin c) b.off) (coreStore c + b.off) (bytesAt img b.at_ b.len)) s

/-- They are written there again from the slot store. -/
def restoreLocals (s : State) (img : Bytes) (rank c : Nat) : State :=
  eachLocal img rank (fun t b => restoreBlob t (mkey (spBobbin c) b.off) (coreStore c + b.off) b.len) s

end Sys2Proof.Machine
end

