-- ==== Sys2Proof/Machine/Layers.lean ====
section
/-! DEFINITION. Layers.lean: the Tier 2 slot image (R281 to R287, R298, R307): the ENGINES section, layer descriptors,
and the checks of SLOT_LOAD on them. -/

namespace Sys2Proof.Machine

/-! ## The ENGINES section (R282) -/

def t2Field (img : Bytes) (o n : Nat) : Nat := match findSec img 0x41 with | some (_, b, _) => leAt img (b + o) n | none => 0
def t2Neng (img : Bytes) : Nat := t2Field img 0 1
def t2Flags (img : Bytes) : Nat := t2Field img 1 1
def t2Cascade (img : Bytes) : Bool := bitOf (t2Flags img) 0
def t2Train (img : Bytes) : Bool := bitOf (t2Flags img) 1
def t2Itemwise (img : Bytes) : Bool := bitOf (t2Flags img) 2
def t2OptSlot (img : Bytes) : Nat := t2Field img 2 1
def t2Nlayer (img : Bytes) : Nat := t2Field img 4 2
def t2Nback (img : Bytes) : Nat := t2Field img 6 2
def t2InItem (img : Bytes) : Nat := t2Field img 8 4
def t2OutItem (img : Bytes) : Nat := t2Field img 0xC 4
def t2StateItem (img : Bytes) : Nat := t2Field img 0x10 4
def t2Batch (img : Bytes) : Nat := t2Field img 0x14 2
def t2Scratch (img : Bytes) : Nat := t2Field img 0x18 8
def t2ScratchBytes (img : Bytes) : Nat := t2Field img 0x20 4

/-! ## Layer descriptors (R283) -/

structure Layer where
  op : Nat
  edg : Bool
  resw : Bool
  inpk : Bool
  afmt : Nat
  wfmt : Nat
  ofmt : Nat
  omode : Nat
  act : Nat
  pad : Bool
  split : Bool
  fold : Bool
  gacc : Bool
  sign : Bool
  pmax : Bool
  iw : Nat
  ih : Nat
  ic : Nat
  oc : Nat
  kw : Nat
  kh : Nat
  sx : Nat
  sy : Nat
  dx : Nat
  dy : Nat
  pl : Nat
  pr : Nat
  pt : Nat
  pb : Nat
  groups : Nat
  first : Nat
  cnt : Nat
  ein : Int
  inRef : Nat
  outRef : Nat
  wgt : Nat
  par : Nat
  aux : Nat
  lut : Nat
  satctr : Nat
  eout : Int
  eaux : Int

/-- The signed exponent of an exponent byte (R246). -/
def expByte (b : Nat) : Int := sext 6 b

/-- The layer descriptor at byte `p` of an image. -/
def layerAt (img : Bytes) (p : Nat) : Layer :=
  let f (o n : Nat) : Nat := leAt img (p + o) n
  { op := f 0 1 % 16, edg := bitOf (f 0 1) 4, resw := bitOf (f 0 1) 5, inpk := bitOf (f 0 1) 6
    afmt := f 1 1 % 16, wfmt := f 1 1 / 16, ofmt := f 2 1 % 16, omode := fld (f 2 1) 4 2, act := fld (f 2 1) 6 2
    pad := bitOf (f 3 1) 0, split := bitOf (f 3 1) 1, fold := bitOf (f 3 1) 2, gacc := bitOf (f 3 1) 3, sign := bitOf (f 3 1) 4
    pmax := bitOf (f 3 1) 5, iw := f 4 2, ih := f 6 2, ic := f 8 2, oc := f 0xA 2, kw := f 0xC 1, kh := f 0xD 1, sx := f 0xE 1
    sy := f 0xF 1, dx := f 0x10 2, dy := f 0x12 2, pl := f 0x14 2, pr := f 0x16 2, pt := f 0x18 2, pb := f 0x1A 2
    groups := f 0x1C 2, first := f 0x1E 1 % 16, cnt := f 0x1E 1 / 16 + 1, ein := expByte (f 0x1F 1), inRef := f 0x20 4
    outRef := f 0x24 4, wgt := f 0x28 8, par := f 0x30 4, aux := f 0x34 4, lut := f 0x38 4, satctr := f 0x3C 2 % 4096
    eout := expByte (f 0x3E 1), eaux := expByte (f 0x3F 1) }

def lopConv : Nat := 1
def lopGconv : Nat := 2
def lopMatmul : Nat := 3
def lopAdd : Nat := 4
def lopPool : Nat := 5
def lopResult : Nat := 6

/-- The layers of a section (LAYERS or BACKWARD), by their place in the image. -/
def layerPlaces (img : Bytes) (ty : Nat) : List Nat := secEntries img ty 64

def layerOf (img : Bytes) (back : Bool) (k : Nat) : Option Layer :=
  ((layerPlaces img (if back then 0x43 else 0x42))[k]?).map (layerAt img)

/-- The layer uses the array: CONV, GCONV or MATMUL. -/
def Layer.arr (l : Layer) : Bool := l.op == lopConv || l.op == lopGconv || l.op == lopMatmul

/-! ## Modes of the array (R274) -/

inductive ArrMode where
  | i8
  | i4
  | f8
  | f16
  | i16
  deriving DecidableEq, Repr

/-- The mode that the formats of an array layer select. -/
def arrMode (a w : Nat) : Option ArrMode :=
  if (a = 5 ∨ a = 6) ∧ [5, 2, 3, 4, 0].contains w then some .i8
  else if [2, 3, 4].contains a ∧ w = 5 then some .i8
  else if [2, 3].contains a ∧ [2, 3, 4, 0].contains w then some .i4
  else if (a = 7 ∨ a = 8) ∧ (w = 7 ∨ w = 8) then some .f8
  else if (a = 0xA ∨ a = 0xB) ∧ [0xA, 0xB, 7, 8].contains w then some .f16
  else if a = 9 ∧ [5, 2, 3, 4, 0].contains w then some .i16
  else none

def modeRows (m : ArrMode) : Nat := match m with | .i8 => 256 | .i4 => 512 | .f8 => 256 | .f16 => 128 | .i16 => 128
def modeCols (m : ArrMode) : Nat := match m with | .i8 => 128 | .i4 => 128 | .f8 => 128 | .f16 => 64 | .i16 => 128
def modeLoad (m : ArrMode) : Nat := match m with | .i8 => 256 | .i4 => 256 | .f8 => 256 | .f16 => 128 | .i16 => 128
/-- Most positions of a block (R295). -/
def modeMb (m : ArrMode) : Nat := if m = .i16 then 256 else 512
def modeFloat (m : ArrMode) : Bool := m == .f8 || m == .f16

/-! ## Sizes (R238, R292, R298) -/

/-- Bytes of `n` elements of a format. -/
def elemBytes (f n : Nat) : Nat := (n * fmtBits f + 7) / 8

/-- Output size under R298; 0 where it would be zero or less. -/
def outDim (i lo hi d k st : Nat) : Nat := if i + lo + hi < d * (k - 1) + 1 then 0 else (i + lo + hi - d * (k - 1) - 1) / st + 1

def Layer.ow (l : Layer) : Nat :=
  if l.op = lopAdd then l.iw else if l.op = lopMatmul then 1 else outDim l.iw l.pl l.pr l.dx l.kw l.sx
def Layer.oh (l : Layer) : Nat :=
  if l.op = lopAdd ∨ l.op = lopMatmul then l.ih else outDim l.ih l.pt l.pb l.dy l.kh l.sy
/-- Output channels: ADD and POOL keep the input's. -/
def Layer.och (l : Layer) : Nat := if l.arr then l.oc else l.ic
def Layer.icg (l : Layer) : Nat := l.ic / l.groups
def Layer.ocg (l : Layer) : Nat := l.oc / l.groups
/-- Reduction rows of a group (R292). -/
def Layer.rows (l : Layer) : Nat := l.kw * l.kh * l.icg
/-- Strips and bands of a group's weights (R315). -/
def Layer.strips (l : Layer) : Nat := (elemBytes l.wfmt l.ocg + 31) / 32
def Layer.bands (l : Layer) : Nat := (l.rows + 31) / 32
def Layer.wblocks (l : Layer) : Nat := l.groups * l.bands * l.strips

/-- Bytes of the raw weights. -/
def Layer.wraw (l : Layer) : Nat := l.groups * l.rows * elemBytes l.wfmt l.ocg

/-! ## References (R284) -/

def refSpace (r : Nat) : Nat := fld r 29 3
def refOff (r : Nat) : Nat := if refSpace r = 0 then fld r 0 22 else fld r 0 29

/-- A reference of `n` bytes stays in its space; `wr`: it is written. -/
def refOk (img : Bytes) (r n : Nat) (wr : Bool) : Bool :=
  let o := refOff r
  match refSpace r with
  | 0 => fld r 22 7 == 0 && (decide (0x200000 ≤ o ∧ o + n ≤ 0x340000) || (!wr && decide (o + n ≤ 0x200000)))
  | 1 => decide (o + n ≤ t2InItem img)
  | 2 => decide (o + n ≤ t2OutItem img)
  | 3 => decide (o + n ≤ t2StateItem img)
  | 4 => decide (o + n ≤ t2ScratchBytes img)
  | _ => false

/-! ## The checks of R286 on one layer -/

/-- Fields that only windows use, at the values that R283 asks for where they are unused. -/
def Layer.noWindow (l : Layer) : Bool :=
  l.kw == 1 && l.kh == 1 && l.sx == 1 && l.sy == 1 && l.dx == 1 && l.dy == 1 && l.pl == 0 && l.pr == 0 && l.pt == 0 && l.pb == 0 && !l.pad

def Layer.windowSane (l : Layer) : Bool :=
  decide (1 ≤ l.kw ∧ 1 ≤ l.kh ∧ 1 ≤ l.sx ∧ 1 ≤ l.sy ∧ 1 ≤ l.dx ∧ 1 ≤ l.dy)

/-- Fields of the array alone, unused elsewhere. -/
def Layer.noArray (l : Layer) : Bool :=
  !l.resw && !l.inpk && l.wfmt == 0 && !l.fold && !l.gacc && l.wgt == 0 && l.par == 0

def fmtOk (f : Nat) : Bool := f != 1

/-- Reserved bits of a descriptor. -/
def layerReservedOk (img : Bytes) (p : Nat) : Bool :=
  !bitOf (leAt img p 1) 7 && decide (leAt img (p + 3) 1 < 64) && decide (leAt img (p + 0x3C) 2 < 4096) &&
  [0x1F, 0x3E, 0x3F].all (fun o => decide (leAt img (p + o) 1 < 64)) && fld (leAt img (p + 2) 1) 4 2 != 3 &&
  fld (leAt img (p + 2) 1) 6 2 != 3

/-- Positions of the output (M of R295). -/
def Layer.positions (l : Layer) : Nat := l.ow * l.oh

/-- R274 for a Chamber engine, R307 for an Edging engine. -/
def Layer.formatsOk (l : Layer) : Bool :=
  if l.edg then
    [5, 6, 2, 3, 9].contains l.afmt && l.omode != 2 &&
    (!l.arr || ([5, 2, 3, 0].contains l.wfmt && (decide (l.ic ≤ 4) || decide (l.oc ≤ 16)) && decide (l.wraw ≤ 65536)))
  else !l.arr || (arrMode l.afmt l.wfmt).isSome

/-- DYNAMIC takes every output of a channel in one position block (R302), so on one engine. -/
def Layer.dynamicOk (l : Layer) : Bool :=
  (!l.gacc || (l.omode == 2 && l.ofmt == 5)) && (l.omode != 2 || !l.split || l.cnt == 1 || l.oh == 1) &&
  (l.omode != 2 || (match arrMode l.afmt l.wfmt with | some m => decide (l.positions ≤ modeMb m) | none => false))

/-- The references of a layer of R283: each with its length and whether it is written. A RESULT writes at OUT for a
JOB_RUN alone (R293), so its OUT may stay 0. -/
def layerRefs (l : Layer) : List (Nat × Nat × Bool) :=
  let inB := if l.op = lopResult then l.ic else elemBytes l.afmt (l.iw * l.ih * l.ic)
  (if l.inpk then [(l.inRef, 1, false)] else [(l.inRef, inB, false)]) ++
  (if l.op = lopResult then [(l.outRef, 4, l.outRef != 0)] else [(l.outRef, elemBytes l.ofmt (l.positions * l.och), true)]) ++
  (if l.arr then [(l.par, 8 * l.oc, l.omode == 2)] else []) ++
  (if l.op = lopAdd then [(l.aux, inB, false)] else []) ++
  (if l.act = 2 then [(l.lut, 256, false)] else [])

/-- The fields of a layer by its OP (R283, R286, R303). -/
def Layer.fieldsOk (l : Layer) : Bool :=
  if l.op = lopConv ∨ l.op = lopGconv ∨ l.op = lopMatmul then
    decide (1 ≤ l.iw ∧ 1 ≤ l.ih ∧ 1 ≤ l.ic ∧ 1 ≤ l.oc) && fmtOk l.ofmt && !l.sign && !l.pmax && l.aux == 0 && l.eaux == 0 &&
    (l.act == 2 || l.lut == 0) && (l.op == lopGconv || l.groups == 1) && decide (1 ≤ l.groups) && l.ic % l.groups == 0 &&
    l.oc % l.groups == 0 && (if l.op = lopMatmul then l.noWindow && l.iw == 1 else l.windowSane) && (!l.fold || l.omode == 0) &&
    (!l.inpk || l.op == lopMatmul || (l.op == lopConv && l.kw == 1 && l.kh == 1 && l.sx == 1 && l.sy == 1)) &&
    (!l.resw || decide (l.wgt < 2 ^ 22))
  else if l.op = lopAdd then
    decide (1 ≤ l.iw ∧ 1 ≤ l.ih ∧ 1 ≤ l.ic) && fmtOk l.afmt && fmtOk l.ofmt && l.omode == 0 && !l.pmax && l.oc == 0 && l.groups == 1 &&
    l.noWindow && l.noArray && (l.act == 2 || l.lut == 0)
  else if l.op = lopPool then
    decide (1 ≤ l.iw ∧ 1 ≤ l.ih ∧ 1 ≤ l.ic) && fmtOk l.afmt && fmtOk l.ofmt && l.omode == 0 && !l.sign && l.noArray && l.windowSane &&
    l.aux == 0 && l.eaux == 0 && (l.oc == 0 || l.oc == l.ic) && decide (1 ≤ l.groups) && l.ic % l.groups == 0 &&
    (l.act == 2 || l.lut == 0)
  else if l.op = lopResult then
    decide (1 ≤ l.ic) && l.act == 0 && l.omode == 0 && !l.split && !l.sign && !l.pmax && l.noArray && l.noWindow && l.groups == 1 &&
    l.aux == 0 && l.lut == 0 && l.eaux == 0 && l.oc == 0 && !l.edg && l.ofmt == 0 && l.ein == 0 && l.eout == 0 && l.satctr == 0 &&
    l.iw == 0 && l.ih == 0 && l.afmt == 0
  else false

/-- The image's layer at `p` against R283 to R286 and R307. -/
def layerOk (img : Bytes) (p : Nat) : Bool :=
  let l := layerAt img p
  layerReservedOk img p && l.fieldsOk && l.formatsOk && (!l.arr || l.dynamicOk) && decide (l.first + l.cnt ≤ t2Neng img) &&
  (l.act != 2 || l.ofmt == 5 || l.ofmt == 6) && (layerRefs l).all (fun (r, n, wr) => refOk img r n wr) &&
  (!l.resw || decide (l.wgt % 2 ^ 22 + 0x1040 + 1032 * l.wblocks ≤ 0x200000))

/-- An output size of zero or less (R298). -/
def layerShapeBad (img : Bytes) (p : Nat) : Bool :=
  let l := layerAt img p
  (l.op == lopConv || l.op == lopGconv || l.op == lopPool) && l.windowSane && (l.ow == 0 || l.oh == 0)

/-! ## The image (R281, R286, R287) -/

/-- A RESIDENT blob: first rank, last rank, offset, length, place of its bytes in the image. -/
structure ResBlob where
  first : Nat
  last : Nat
  off : Nat
  len : Nat
  at_ : Nat

def resBlobs (img : Bytes) : Option (List ResBlob) :=
  match secBlobs img 0x44 16 8 with
  | none => none
  | some ps =>
    if ps.all (fun p => leAt img (p + 2) 2 == 0 && leAt img (p + 12) 4 == 0) then
      some (ps.map (fun p => { first := leAt img p 1, last := leAt img (p + 1) 1, off := leAt img (p + 4) 4, len := leAt img (p + 8) 4, at_ := p + 16 }))
    else none

def resBlobOk (img : Bytes) (b : ResBlob) : Bool := decide (b.first ≤ b.last ∧ b.last < t2Neng img) && decide (b.off + b.len ≤ 0x200000)

/-- No forward layer but the last is RESULT; a CASCADE program ends with one and uses neither OUT nor STATE. -/
def resultPlaced (img : Bytes) : Bool :=
  let ls := (layerPlaces img 0x42).map (layerAt img)
  let back := (layerPlaces img 0x43).map (layerAt img)
  ls.dropLast.all (fun l => l.op != lopResult) && back.all (fun l => l.op != lopResult) &&
  (!t2Cascade img ||
    ((ls.getLast?.map (fun l => l.op == lopResult)).getD false &&
     ls.all (fun l => (layerRefs l).all (fun (r, _, _) => refSpace r != 2 && refSpace r != 3) && refSpace l.outRef != 2 && refSpace l.outRef != 3)))

def enginesOk (img : Bytes) : Bool :=
  match findSec img 0x41 with
  | none => false
  | some (n, o, l) =>
    n == 1 && l == 48 && decide (1 ≤ t2Neng img ∧ t2Neng img ≤ 16) && decide (t2Flags img < 8) && leAt img (o + 3) 1 == 0 &&
    leAt img (o + 0x16) 2 == 0 && allZero (bytesAt img (o + 0x24) 12) &&
    decide (1 ≤ t2Nlayer img ∧ t2Nlayer img ≤ 4096) && decide (t2Nback img ≤ 4096) && (t2Train img || t2Nback img == 0) &&
    (t2Train img == (findSec img 0x43).isSome) &&
    (!t2Train img || decide (64 ≤ t2OptSlot img ∧ t2OptSlot img ≤ 191)) && (!t2Itemwise img || t2Batch img == 0) &&
    t2Scratch img % 64 == 0 && (addrOf (t2Scratch img)).isSome

/-- Every check of R286 and R260 that needs no window. -/
def t2ImageOk (s : State) (slot : Nat) (img : Bytes) : Bool :=
  secsKnown img [0x23, 0x40, 0x41, 0x42, 0x43, 0x44] [0x40, 0x41, 0x42, 0x43] [0x41, 0x42] && enginesOk img &&
  secSized img 0x42 64 && secSized img 0x43 64 && (layerPlaces img 0x42).length == t2Nlayer img &&
  (layerPlaces img 0x43).length == t2Nback img &&
  (layerPlaces img 0x42 ++ layerPlaces img 0x43).all (fun p => layerShapeBad img p || layerOk img p) && resultPlaced img &&
  (match resBlobs img with | some bs => bs.all (resBlobOk img) | none => false) && satGroupOk s slot img

def t2ShapeBad (img : Bytes) : Bool := (layerPlaces img 0x42 ++ layerPlaces img 0x43).any (layerShapeBad img)

/-- The scratch area lies in windows of the loader that grant RD and WR (R287). -/
def scratchOk (s : State) (fn : Nat) (img : Bytes) : Bool × State :=
  if t2Scratch img = 0 ∨ t2ScratchBytes img = 0 then (true, s)
  else if !bitOf (t2Scratch img) 63 then (false, s)
  else
    let (a, s) := rangeRight s fn (t2Scratch img) (t2ScratchBytes img) false
    let (b, s) := rangeRight s fn (t2Scratch img) (t2ScratchBytes img) true
    (a && b, s)

/-! ## Placements of engines (R287) -/

/-- The engines of a mask, in rising order. -/
def maskEngines (w : Nat) : List Nat := (List.range 16).filter (fun e => bitOf w e)
/-- The engines that have a rank. -/
def rankEngines (w neng : Nat) : List Nat := (maskEngines w).take neng

/-- Resident ranges of an image on the engine of a rank. -/
def resRanges (img : Bytes) (rank : Nat) : List (Nat × Nat) :=
  ((resBlobs img).getD []).filterMap (fun b => if b.first ≤ rank ∧ rank ≤ b.last then some (b.off, b.len) else none)

def rangesHit (a b : List (Nat × Nat)) : Bool := a.any (fun x => b.any (fun y => decide (x.1 < y.1 + y.2 ∧ y.1 < x.1 + x.2)))

/-- The placement of a version of a Tier 2 slot: its engines by rank. -/
def placedEngines (x : Slot) (inB : Bool) : List Nat :=
  match versionOf x inB with
  | some v => rankEngines (if inB then x.placeB else x.placeA).toNat (t2Neng v.image)
  | none => []

/-- The image's resident ranges meet those of a version that another placement holds on engine `e`. -/
def residentClash (s : State) (slot : Nat) (inB : Bool) (ranges : List (Nat × Nat)) (e : Nat) : Bool :=
  s.slots.any (fun q => tierOf q.1 == 2 && [false, true].any (fun b =>
    !(q.1 == slot && b == inB) && (match versionOf q.2 b with
      | none => false
      | some v => match (placedEngines q.2 b).findIdx? (· == e) with
        | some r => rangesHit ranges (resRanges v.image r)
        | none => false)))

/-- What is done with each RESIDENT blob of a rank (R281). -/
def eachResident (img : Bytes) (rank : Nat) (f : State → ResBlob → State) (s : State) : State :=
  ((resBlobs img).getD []).foldl (fun t b => if b.first ≤ rank ∧ rank ≤ b.last then f t b else t) s

/-- RESIDENT blobs of a rank are written into an engine's buffer (R281), with their copy (R353). -/
def writeResident (s : State) (img : Bytes) (rank e : Nat) : State :=
  eachResident img rank (fun t b => placeBlob t (mkey (spChamber e) b.off) (engineStore e + b.off) (bytesAt img b.at_ b.len)) s

/-- They are written there again from the slot store (R360, R411). -/
def restoreResident (s : State) (img : Bytes) (rank e : Nat) : State :=
  eachResident img rank (fun t b => restoreBlob t (mkey (spChamber e) b.off) (engineStore e + b.off) b.len) s

end Sys2Proof.Machine
end

