-- ==== Sys2Proof/Machine/SlotLoad.lean ====
section
/-! DEFINITION. SlotLoad.lean: SLOT_LOAD (R90, R138, R141, R186 to R190, R260, R281 to R288, R343), its completion, and
the retirement of versions (R60). `Slot.moving` says of a Tier 0 slot that streams still move, and of another that its
placements exchange roles when the load completes. -/

namespace Sys2Proof.Machine

/-! ## Holding and retiring versions (R60, R190, R196, R260, R288) -/

/-- The unfinished jobs of a slot, queued and running. -/
def slotJobs (s : State) (slot : Nat) : List Job :=
  s.jobs.filterMap (fun e => match e.2 with | some j => if j.slot.toNat = slot ∧ !j.finished then some j else none | none => none)

/-- A version is held by an instance or by a job. -/
def versionHeld (s : State) (slot : Nat) (inB : Bool) : Bool :=
  if tierOf slot = 0 then s.insts.any (fun e => match e.2 with | some i => i.slot.toNat == slot && i.inB == inB | none => false)
  else (slotJobs s slot).any (fun j => j.inB == inB)

def satCtrs (img : Bytes) : List Nat := (satEntries img).map (satCtrOf img)

/-- Counters that only the retired image declares are released (R260). -/
def releaseSat (s : State) (slot : Nat) (img : Bytes) (other : Option Version) : State :=
  let keep := match other with | some v => satCtrs v.image | none => []
  ((satCtrs img).filter (fun c => !keep.contains c)).foldl
    (fun t c => modSat t c (fun k => if k.holder.toNat = slot then { k with holder := 0 } else k)) s

/-- A core loses its role (R196). -/
def unassign (s : State) (c : Nat) : State := modCore s c (fun k => { epoch := k.epoch + 1, eqHead := k.eqHead, inboxHead := k.inboxHead })

def setVersion (x : Slot) (inB : Bool) (v : Option Version) : Slot := if inB then { x with verB := v } else { x with verA := v }

/-- A version leaves its placement: cores are unassigned, counters and coefficient units are freed. -/
def retireVersion (s : State) (slot : Nat) (inB : Bool) : State :=
  let x := getSlot s slot
  match versionOf x inB with
  | none => s
  | some v =>
    let s := releaseSat s slot v.image (versionOf x (!inB))
    let s := if tierOf slot = 1 then (members s slot inB).foldl (fun t e => unassign t e.1) s else s
    modSlot s slot (fun x => setVersion x inB none)

/-- VERSION_RETIRE (R60, R190): the old version, once nothing holds it and no load of the slot is pending. -/
def execVersionRetire (slot : SlotId) (s : State) : Out State :=
  .next (live s fun s =>
    let x := getSlot s slot.toNat
    if x.load.isSome || versionHeld s slot.toNat (!x.activeB) then s else retireVersion s slot.toNat (!x.activeB))

/-! ## Loading (R90) -/

/-- What a load does: it fails with a status; or the version is in place, `swap` saying that it stands in the inactive
range or placement; or it takes the place of the version in force when the load completes. -/
inductive Loaded where
  | failed (st : Nat)
  | placed (swap : Bool)
  | waits

def newVersion (s : State) (slot : Nat) (img : Bytes) (coef : List Nat) : Version :=
  { number := (getSlot s slot).verNo + 1, image := img, coef := coef }

/-- The new version stands in a range or placement. -/
def putVersion (s : State) (slot : Nat) (inB : Bool) (v : Version) : State :=
  modSlot s slot (fun x => { setVersion x inB (some v) with verNo := v.number })

/-- Units of the coefficient area that no version holds (R343). -/
def freeCoefUnits (s : State) : List Nat :=
  let used := s.slots.flatMap (fun e => (e.2.verA.map (·.coef)).getD [] ++ (e.2.verB.map (·.coef)).getD [])
  (List.range 128).filter (fun u => !used.contains u)

/-- The coefficients of a front-end are written into its units. -/
def writeCoefs (s : State) (img : Bytes) (f : Front) (units : List Nat) : State :=
  (units.zipIdx).foldl (fun t (u, i) =>
    memWr t spGal (galCoef + u * coefUnitBytes) (((img.drop f.coefOff).take f.coefB).drop (i * coefUnitBytes) |>.take coefUnitBytes)) s

/-- A range of the slot overlaps a range of another Tier 0 slot that holds a version (R138). -/
def t0Clash (s : State) (slot w : Nat) : Bool :=
  rangeHeld s slot w || s.slots.any (fun e => tierOf e.1 == 0 && e.1 != slot && slotLoaded s e.1 &&
    (rangesMeet w e.2.placeA.toNat || rangesMeet w e.2.placeB.toNat))

/-- SUSPENDED and FAULTED streams of the slot move at once (R141). -/
def moveIdle (s : State) (slot : Nat) : State :=
  s.insts.foldl (fun t e => match e.2 with
    | some i => if i.slot.toNat = slot then moveIfIdle t e.1 else t
    | none => t) s

/-- Units of coefficients that an image needs (R343). -/
def coefUnits (f : Front) : Nat := (f.coefB + coefUnitBytes - 1) / coefUnitBytes

/-- Why a Tier 0 image cannot be loaded into range A (B if `inB`) of the slot (R138, R141, R156, R343). -/
def t0Refusal (s : State) (slot : Nat) (img : Bytes) (inB : Bool) : Option Nat :=
  let x := getSlot s slot
  let n := slotInsts s slot
  let swap := inB != x.activeB
  let w := rangeOf0 x inB
  match frontOf img with
  | none => some stBad
  | some f =>
    if !t0ImageOk img then some stBad
    else if t0ShapeBad img then some stShape
    else if rangeOut s w || rangeCount w < t0Span img || t0Clash s slot w || (swap && rangesMeet w (rangeOf0 x x.activeB)) ||
        (swap && decide (t0Capacity w (t0Span img) (t0Npc img) < n)) || decide ((freeCoefUnits s).length < coefUnits f) then some stBad
    else none

/-- The image becomes the version of a range: its tables and coefficients are written. -/
def placeT0 (s : State) (slot : Nat) (img : Bytes) (inB : Bool) : State :=
  match frontOf img with
  | none => s
  | some f =>
    let units := (freeCoefUnits s).take (coefUnits f)
    let s := writeRange (writeCoefs s img f units) img (rangeOf0 (getSlot s slot) inB)
    putVersion s slot inB (newVersion s slot img units)

/-- A Tier 0 load (R138, R141, R155, R343): into the inactive range while streams hold instances of the slot; else into
the active one, whose version stays in force until the load completes (R159). -/
def loadT0 (s : State) (slot : Nat) (img : Bytes) : Loaded × State :=
  let x := getSlot s slot
  let swap := slotInsts s slot != 0
  let inB := x.activeB != swap
  match t0Refusal s slot img inB with
  | some st => (.failed st, s)
  | none =>
    if swap then
      (.placed true, moveIdle (modSlot (placeT0 s slot img inB) slot (fun x => { x with activeB := inB, moving := true })) slot)
    else (.waits, s)

/-- Where a Tier 1 or Tier 2 load goes (R190): the active placement while no job of the slot is queued or running. -/
def loadTarget (s : State) (slot : Nat) : Bool × Bool :=
  let x := getSlot s slot
  let swap := !(slotJobs s slot).isEmpty
  (swap, if swap then !x.activeB else x.activeB)

/-- A slot holds the counters of a version that comes into force, and they take its configuration (R260, R262). -/
def configSat (s : State) (slot : Nat) (img : Bytes) : State :=
  (satEntries img).foldl (fun t p => modSat t (satCtrOf img p) (fun k =>
    { restartWindow k with
      holder := BitVec.ofNat 8 slot, winLog2 := BitVec.ofNat 5 (leAt img (p + 2) 2), thresh := BitVec.ofNat 32 (leAt img (p + 4) 4) })) s

/-- A core takes its role (R188, R196) and its LOCAL blobs. -/
def assignCore (s : State) (slot : Nat) (inB : Bool) (img : Bytes) (rank c : Nat) : State :=
  let s := writeLocals s img rank c
  modCore s c (fun k => { slot := BitVec.ofNat 8 slot, inB := inB, rank := BitVec.ofNat 8 rank, epoch := k.epoch + 1, st := 1
                          eqHead := k.eqHead, inboxHead := k.inboxHead })

/-- The core of a rank of a placement (R188). -/
def rankPos (w : Nat) (img : Bytes) (r : Nat) : Nat := (placeY w + r / t1W img) * 16 + placeX w + r % t1W img

/-- A Tier 1 load (R186 to R190, R353). -/
def loadT1 (s : State) (slot : Nat) (fn : FnId) (img : Bytes) : Loaded × State :=
  let x := getSlot s slot
  let (swap, inB) := loadTarget s slot
  let w := (if inB then x.placeB else x.placeA).toNat
  if !t1ImageOk s slot img then (.failed stBad, s)
  else if placeW w < t1W img || placeH w < t1H img || !placeOk w || placeClash s slot inB w then (.failed stBad, s)
  else match deviceBlobsOk s fn.toNat img with
    | (false, s) => (.failed stBad, s)
    | (true, s) =>
      let s := writeDevice (retireVersion s slot inB) img
      let v := newVersion s slot img []
      let s := (List.range (t1Cores img)).foldl (fun t r => assignCore t slot inB img r (rankPos w img r)) s
      (.placed swap, putVersion s slot inB v)

/-- A Tier 2 load (R281 to R288, R353). -/
def loadT2 (s : State) (slot : Nat) (fn : FnId) (img : Bytes) : Loaded × State :=
  let x := getSlot s slot
  let (swap, inB) := loadTarget s slot
  let w := (if inB then x.placeB else x.placeA).toNat
  let es := rankEngines w (t2Neng img)
  if !t2ImageOk s slot img then (.failed stBad, s)
  else if t2ShapeBad img then (.failed stShape, s)
  else if es.length < t2Neng img then (.failed stBad, s)
  else if (maskEngines w).any (fun e => match es.findIdx? (· == e) with
      | some r => residentClash s slot inB (resRanges img r) e
      | none => false) then (.failed stBad, s)
  else match deviceBlobsOk s fn.toNat img with
    | (false, s) => (.failed stBad, s)
    | (true, s) =>
      match scratchOk s fn.toNat img with
      | (false, s) => (.failed stBad, s)
      | (true, s) =>
        let s := writeDevice (retireVersion s slot inB) img
        let v := newVersion s slot img []
        let s := (es.zipIdx).foldl (fun t (e, r) => writeResident t img r e) s
        (.placed swap, putVersion s slot inB v)

/-- A load of the slot cannot start yet: one is pending, or a version older than the present one is still held. -/
def loadWaits (s : State) (slot : Nat) : Bool :=
  let x := getSlot s slot
  x.load.isSome || ((versionOf x (!x.activeB)).isSome && versionHeld s slot (!x.activeB))

/-- The image has been read: header, CRC, then the tier's own checks. -/
def loadImage (s : State) (slot : Nat) (fn : FnId) (len : Nat) (img : Bytes) : Loaded × State :=
  if !headerFits img slot len then (.failed stBad, s)
  else if !headerCrcOk img then (.failed stCheckFail, s)
  else
    let s := retireVersion s slot (!(getSlot s slot).activeB)
    if tierOf slot = 0 then loadT0 s slot img else if tierOf slot = 1 then loadT1 s slot fn img else loadT2 s slot fn img

/-- A started SLOT_LOAD. -/
def runLoad (s : State) (q : DescRef) (d : Desc) : State :=
  let slot := leAt d.bytes 8 1
  let a := leAt d.bytes 16 8
  let len := leAt d.bytes 24 4
  let fail (s : State) (st : Nat) : State := finish s q { status := BitVec.ofNat 8 st, res0 := verNow s slot }
  match addrOf a with
  | none => fail s stBad
  | some (sp, off) =>
    if off % 4096 ≠ 0 ∨ len = 0 ∨ len % 4096 ≠ 0 then fail s stBad
    else if dramFails s spDram then fail s stUncorr
    else match firstPoison s (mkey sp off) len with
      | some i => fail (poisonRead s 6 (mkey sp off + i) (some d.fn.toNat) stUncorr) stUncorr
      | none =>
        let (img, s) := memRd s sp off len
        match loadImage s slot d.fn len img with
        | (.failed st, s) => fail s st
        | (.placed swap, s) => modSlot s slot (fun x => { x with load := some { ref := q }, moving := swap })
        | (.waits, s) => modSlot s slot (fun x => { x with load := some { ref := q, image := some img } })

/-- SLOT_LOAD (R90): it needs the memories, the link if its source is the host's, and the turn of R90. -/
def execSlotLoad (p : PairId) (idx : U16) (s : State) : Out State :=
  .next (live s fun s => match mayStart (getRing s p.toNat) idx.toNat with
    | none => s
    | some d =>
      if !memAwake s || dramWaits s || loadWaits s (leAt d.bytes 8 1) then s
      else startDesc s p idx opSlotLoad (fun s q d => runLoad s q d))

/-- The roles of the placements of a Tier 1 or Tier 2 slot are exchanged, if its load went into the inactive one, and
the configuration of the new version's counters is written. -/
def bringIntoForce (s : State) (slot : Nat) : State :=
  let s := if tierOf slot ≠ 0 ∧ (getSlot s slot).moving then modSlot s slot (fun x => { x with activeB := !x.activeB }) else s
  match activeVersion s slot with
  | some v => if tierOf slot = 0 then s else configSat s slot v.image
  | none => s

/-- A load completes: a Tier 0 slot retires its old version first (R141). -/
def completeLoad (s : State) (slot : Nat) (l : LoadInFlight) : State :=
  let s := bringIntoForce s slot
  let s := modSlot s slot (fun x => { x with load := none, moving := false })
  let s := if tierOf slot = 0 then retireVersion s slot (!(getSlot s slot).activeB) else s
  if l.mute then s else finish s l.ref { status := 0, res0 := verNow s slot }

/-- A load into the active range of a Tier 0 slot ends: the image takes the place of the version in force, unless the
slot's ranges no longer admit it. -/
def endT0Load (s : State) (slot : Nat) (l : LoadInFlight) (img : Bytes) : State :=
  let b := (getSlot s slot).activeB
  match t0Refusal s slot img b with
  | some st =>
    let s := modSlot s slot (fun x => { x with load := none })
    if l.mute then s else finish s l.ref { status := BitVec.ofNat 8 st, res0 := verNow s slot }
  | none => completeLoad (placeT0 s slot img b) slot l

/-- SLOT_LOAD_COMPLETE (R90, R141): every stream of a Tier 0 slot has moved or closed. -/
def execSlotLoadComplete (slot : SlotId) (s : State) : Out State :=
  .next (live s fun s =>
    let x := getSlot s slot.toNat
    match x.load with
    | none => s
    | some l => match l.image with
      | some img => endT0Load s slot.toNat l img
      | none => if tierOf slot.toNat = 0 ∧ versionHeld s slot.toNat (!x.activeB) then s else completeLoad s slot.toNat l)

end Sys2Proof.Machine
end

