-- ==== Sys2Proof/Machine/HostJobs.lean ====
section
/-! DEFINITION. HostJobs.lean: JOB_RUN and TRAIN_STEP as they enter their slot's queue (R90, R224, R267 to R271, R282,
R412). -/

namespace Sys2Proof.Machine

/-- MODE 2 of a TRAIN_STEP: IN, OUT and BATCH are ignored (R269). -/
def applyOnly (b : Bytes) : Bool := descOp b == opTrainStep && leAt b 57 1 % 4 == 2

/-- The job of a descriptor on the version in force. -/
def hostJobOf (s : State) (q : DescRef) (d : Desc) (v : Version) : Job :=
  let b := d.bytes
  let slot := leAt b 8 1
  let train := descOp b == opTrainStep
  let ign := applyOnly b
  let batch := if ign then 0 else leAt b 10 2
  let (i, o, st) := itemSizes slot v.image
  { origin := .host q, slot := BitVec.ofNat 8 slot, inB := (getSlot s slot).activeB, fn := d.fn
    level := leAt b 9 1 % 4 + 1, kind := if train then 1 else 0, mode := if train then BitVec.ofNat 2 (leAt b 57 1) else 0
    lrExp := if train then BitVec.ofNat 8 (leAt b 56 1) else 0, batch := BitVec.ofNat 16 batch
    inAddr := if ign then 0 else BitVec.ofNat 64 (leAt b 16 8), outAddr := if ign then 0 else BitVec.ofNat 64 (leAt b 24 8)
    stateAddr := if train then BitVec.ofNat 64 (leAt b 32 8) else 0
    inBytes := i * batch, outBytes := o * batch, stateBytes := if train then st else 0
    wait := if descOptA b then some (BitVec.ofNat 12 (leAt b 40 2), BitVec.ofNat 16 (leAt b 42 2), BitVec.ofNat 32 (leAt b 44 4)) else none
    sig := if descOptB b then some (BitVec.ofNat 12 (leAt b 48 2), BitVec.ofNat 16 (leAt b 50 2), BitVec.ofNat 32 (leAt b 52 4)) else none }

/-- The job enters the queue; its WAIT goes to the knot store (R224). -/
def queueHostJob (s : State) (j : Job) : State :=
  let n := s.nextJob
  let s := addJob s j
  if slotOut s j.slot.toNat j.inB then endJob s n stUncorr false
  else match j.wait with
    | none => s
    | some (k, e, v) => sendKnotOp s { op := 2, knot := k, epoch := e, amount := v, fn := j.fn, origin := .jobWait n }

/-- BATCH against the descriptor's rules and R282. -/
def batchOk (b : Bytes) (v : Version) : Bool :=
  applyOnly b || (leAt b 10 2 != 0 &&
    (tierOf (leAt b 8 1) != 2 || t2Batch v.image == 0 || t2Batch v.image == leAt b 10 2))

/-- JOB_RUN (R90). -/
def execJobRun (p : PairId) (idx : U16) (s : State) : Out State :=
  .next (live s fun s => startDesc s p idx opJobRun fun s q d =>
    let slot := leAt d.bytes 8 1
    match activeVersion s slot with
    | none => finish s q (plain stBad)
    | some v =>
      if tierOf slot = 0 ∨ !batchOk d.bytes v then finish s q (plain stBad)
      else queueHostJob s (hostJobOf s q d v))

/-- The version takes training steps: FLAGS.TRAIN, and of a Tier 2 version the same of its OPT_SLOT (R186, R271, R282). -/
def trains (s : State) (slot : Nat) (v : Version) : Bool :=
  if tierOf slot = 1 then bitOf (t1Flags v.image) 1
  else t2Train v.image && (match activeVersion s (t2OptSlot v.image) with
    | some w => bitOf (t1Flags w.image) 1
    | none => false)

/-- The header of the training state area (R267, R268). -/
def trainHeaderOk (h : Bytes) : Bool :=
  leAt h 0 4 == 0x5453424E && leAt h 4 1 == 1 && decide (1 ≤ leAt h 6 2 ∧ leAt h 6 2 ≤ 1024)

/-- A TRAIN_STEP whose descriptor is sound: the header of its state area decides. The header is read under the
function's windows. -/
def startTrain (s : State) (q : DescRef) (d : Desc) (v : Version) (sp off : Nat) : State :=
  if dramFails s sp then finish s q (plain stUncorr)
  else match devCheck s d.fn.toNat sp off 64 false none with
  | (false, s) => finish s q (plain stProtection)
  | (true, s) =>
    match firstPoison s (mkey sp off) 64 with
    | some i => finish (poisonRead s 6 (mkey sp off + i) (some d.fn.toNat) stUncorr) q (plain stUncorr)
    | none =>
      let (h, s) := memRd s sp off 64
      if trainHeaderOk h then queueHostJob s (hostJobOf s q d v) else finish s q (plain stBad)

/-- TRAIN_STEP (R90, R268, R269, R271). -/
def execTrainStep (p : PairId) (idx : U16) (s : State) : Out State :=
  .next (live s fun s =>
    match mayStart (getRing s p.toNat) idx.toNat with
    | none => s
    | some d0 =>
      if !memAwake s ∨ !addrOn s d0.bytes 32 then s
      else startDesc s p idx opTrainStep fun s q d =>
        let slot := leAt d.bytes 8 1
        match activeVersion s slot, addrOf (leAt d.bytes 32 8) with
        | some v, some (sp, off) =>
          if tierOf slot = 0 ∨ sp = spHost ∨ leAt d.bytes 57 1 % 4 = 3 ∨ !batchOk d.bytes v ∨ !trains s slot v then
            finish s q (plain stBad)
          else startTrain s q d v sp off
        | _, _ => finish s q (plain stBad))

end Sys2Proof.Machine
end

