-- ==== Sys2Proof/Machine/Chamber.lean ====
section
/-! DEFINITION. Chamber.lean: the parts of a Tier 2 layer (R274 to R304): what each rank computes, its input, its
weights, accumulation, the output stage, and the cycles and MACs that are counted. -/

namespace Sys2Proof.Machine

def ceilDiv (a b : Nat) : Nat := (a + b - 1) / b

/-- A list in pieces of `n`. -/
def chunksFrom {α : Type} (n : Nat) : Nat → List α → List (List α)
  | 0, _ => []
  | k + 1, xs => if xs.isEmpty then [] else xs.take n :: chunksFrom n k (xs.drop n)
def chunks {α : Type} (n : Nat) (xs : List α) : List (List α) := chunksFrom n xs.length xs

/-! ## Where tensors lie (R284, R291) -/

/-- A place in an engine's buffer, or in host or device space. -/
inductive Tgt where
  | buf (e off : Nat)
  | dev (sp off : Nat)

def addrTgt (a k : Nat) : Tgt :=
  match addrOf a with
  | some (sp, o) => .dev sp (o + k)
  | none => .dev spHost (a + k)

/-- What a reference of the running layer names on engine `e`. -/
def refTgt (img : Bytes) (j : Job) (e r : Nat) : Tgt :=
  let item := if t2Itemwise img && !j.back then j.item else 0
  match refSpace r with
  | 0 => .buf e (refOff r)
  | 1 => addrTgt j.inAddr.toNat (item * t2InItem img + refOff r)
  | 2 => addrTgt j.outAddr.toNat (item * t2OutItem img + refOff r)
  | 3 => addrTgt j.stateAddr.toNat (refOff r)
  | _ => addrTgt (t2Scratch img) (refOff r)

/-- An error in a word of an engine's buffer is met (R276, R410): corrected, or one of those that retire the engine. -/
def bufError (s : State) (e : Nat) (two : Bool) : State :=
  if !two then c32 (c32 s 0x40078 1) 0x90040 1
  else
    let (n, s) := winCount (c32 s 0x90048 1) (winKey 0x14 (physOf s 4 e)) (2 ^ 32)
    if 16 ≤ n then addVerdict s (.unit 4 e n 32) else s

/-- A read of `[a, a + n)` of an engine's buffer: a word that cannot be read fails the job. -/
def bufEcc (s : State) (jn e a n : Nat) : State :=
  let s := winPass s (winKey 0x14 (physOf s 4 e)) 1
  if s.flaws.isEmpty then s
  else
    let (fs, s) := meetFlaws s (mkey (spChamber e) a) n
    let s := fs.foldl (fun t x => bufError t e (x.2 == 2)) s
    if fs.any (fun x => x.2 == 2) then failJob s jn stUncorr else s

def tgtRead (s : State) (jn : Nat) (t : Tgt) (o n : Nat) : Bytes × State :=
  match t with
  | .buf e a => (peek s (mkey (spChamber e) (a + o)) n, bufEcc s jn e (a + o) n)
  | .dev sp a => jobRead s jn sp (a + o) n

/-- A write to an engine's buffer, which meets the words of which it writes a part (R276). -/
def bufWrite (s : State) (jn e a : Nat) (bs : Bytes) : State :=
  let s := winPass s (winKey 0x14 (physOf s 4 e)) 1
  let k := mkey (spChamber e) a
  if s.flaws.isEmpty then pokeEcc s k bs
  else
    let (fs, s) := (partWords 8 a bs.length).foldl (fun (fs, t) r =>
      let (g, t) := meetFlaws t (mkey (spChamber e) r.1) r.2
      (fs ++ g, t)) ([], s)
    let s := fs.foldl (fun t x => bufError t e (x.2 == 2)) s
    if fs.any (fun x => x.2 == 2) then failJob s jn stUncorr else pokeEcc s k bs

def tgtWrite (s : State) (jn : Nat) (t : Tgt) (o : Nat) (bs : Bytes) : State :=
  match t with
  | .buf e a => bufWrite s jn e (a + o) bs
  | .dev sp a => jobWrite s jn sp (a + o) bs

/-- The bytes present at a place, for the part of a byte that a write leaves alone. -/
def tgtPeek (s : State) (t : Tgt) (o n : Nat) : Bytes :=
  match t with
  | .buf e a => peek s (mkey (spChamber e) (a + o)) n
  | .dev sp a => peek s (mkey sp (a + o)) n

/-- The memory key of a byte of a place. -/
def tgtKey (t : Tgt) (o : Nat) : Nat :=
  match t with
  | .buf e a => mkey (spChamber e) (a + o)
  | .dev sp a => mkey sp (a + o)

/-- How a compressed tensor at a place is read. -/
def tgtRd (s : State) (jn : Nat) (t : Tgt) : Rd :=
  match t with
  | .buf e a => fun o n =>
    if (firstPoison s (mkey (spChamber e) (a + o)) n).isSome then none else some (peek s (mkey (spChamber e) (a + o)) n)
  | .dev sp a => expandRd s 0 jn (.dev sp a)

/-- The reads of a compressed tensor take effect: checks, counts, poison. -/
def tgtReads (s : State) (jn : Nat) (t : Tgt) (rs : List (Nat × Nat)) : State :=
  match t with
  | .buf e a => rs.foldl (fun t r => bufEcc t jn e (a + r.1) r.2) s
  | .dev sp a => expandReads s 0 jn (.dev sp a) rs

/-! ## The share of a rank (R297) -/

/-- Output columns `[c0, c1)` and output rows `[r0, r1)` of a rank. -/
structure Share where
  c0 : Nat
  c1 : Nat
  r0 : Nat
  r1 : Nat

/-- The grain of columns: nc of the mode, OCg of a GCONV; 128, the width of the output stage, without the array. -/
def Layer.grain (l : Layer) : Nat :=
  if l.op = lopGconv then max 1 l.ocg
  else if l.arr then (match arrMode l.afmt l.wfmt with | some m => modeCols m | none => 128)
  else 128

def shareOf (l : Layer) (r : Nat) : Share :=
  if l.split then
    let q := ceilDiv l.oh l.cnt
    { c0 := 0, c1 := l.och, r0 := min l.oh (r * q), r1 := min l.oh (r * q + q) }
  else
    let q := ceilDiv (ceilDiv l.och l.cnt) l.grain * l.grain
    { c0 := min l.och (r * q), c1 := min l.och (r * q + q), r0 := 0, r1 := l.oh }

def Share.empty (w : Share) : Bool := decide (w.c1 ≤ w.c0 ∨ w.r1 ≤ w.r0)
def Share.cols (w : Share) : List Nat := (List.range (w.c1 - w.c0)).map (w.c0 + ·)
/-- The output positions (y, x) of a share, in order. -/
def Share.positions (w : Share) (ow : Nat) : List (Nat × Nat) :=
  (List.range (w.r1 - w.r0)).flatMap (fun y => (List.range ow).map (fun x => (w.r0 + y, x)))

/-! ## Taps and borders (R299 to R301) -/

/-- The input coordinate of a tap in one direction: inside, clamped under PAD 1, or none. -/
def tapAt (pad : Bool) (o st k d p n : Nat) : Option Nat :=
  let v : Int := (o * st + k * d : Nat) - (p : Int)
  if 0 ≤ v ∧ v < n then some v.toNat
  else if pad then some (clampI 0 ((n : Int) - 1) v).toNat
  else none

/-- The input position of tap (ky, kx) of an output position, as y × IW + x. -/
def Layer.tap (l : Layer) (p : Nat × Nat) (ky kx : Nat) : Option Nat :=
  match tapAt l.pad p.1 l.sy ky l.dy l.pt l.ih, tapAt l.pad p.2 l.sx kx l.dx l.pl l.iw with
  | some y, some x => some (y * l.iw + x)
  | _, _ => none

def Layer.taps (l : Layer) : List (Nat × Nat) := (List.range l.kh).flatMap (fun ky => (List.range l.kw).map (fun kx => (ky, kx)))

/-- The taps of a position block that are not elided (R301). -/
def liveTaps (l : Layer) (blk : List (Nat × Nat)) : List (Nat × Nat) :=
  l.taps.filter (fun t => blk.any (fun p => (l.tap p t.1 t.2).isSome))

/-- The input positions that a tap of the share names, in rising order (R300). -/
def inputPositions (l : Layer) (w : Share) : List Nat :=
  let ys := (List.range l.ih).filter (fun y => (List.range (w.r1 - w.r0)).any (fun o => (List.range l.kh).any (fun k =>
    tapAt l.pad (w.r0 + o) l.sy k l.dy l.pt l.ih == some y)))
  let xs := (List.range l.iw).filter (fun x => (List.range l.ow).any (fun o => (List.range l.kw).any (fun k =>
    tapAt l.pad o l.sx k l.dx l.pl l.iw == some x)))
  ys.flatMap (fun y => xs.map (fun x => y * l.iw + x))

/-- The input channels that a share needs. -/
def inputChannels (l : Layer) (w : Share) : Nat × Nat :=
  if l.op = lopGconv then (w.c0 / max 1 l.ocg * l.icg, ceilDiv w.c1 (max 1 l.ocg) * l.icg)
  else if l.arr then (0, l.ic)
  else (w.c0, w.c1)

/-! ## Input (R278) -/

/-- Elements read, by input position: the first byte read of the tensor, and the bytes from it. -/
abbrev Fetched := List (Nat × (Nat × Bytes))

/-- Element `i` of a tensor of `b` bits an element, in bytes that begin at byte `b0` of it (R238). -/
def elemIn (b b0 : Nat) (bs : Bytes) (i : Nat) : Nat := fld (leAt bs (i * b / 8 - b0) ((b + 7) / 8)) (i * b % 8) b

/-- The raw form: [y][x][c]. -/
def fetchRaw (s : State) (jn : Nat) (t : Tgt) (b ic : Nat) (ps : List Nat) (c0 c1 : Nat) : Fetched × State :=
  ps.foldl (fun (m, s) p =>
    let lo := (p * ic + c0) * b / 8
    let hi := ((p * ic + c1) * b + 7) / 8
    let (bs, s) := tgtRead s jn t lo (hi - lo)
    (m ++ [(p, (lo, bs))], s)) ([], s)

/-- Blocks of a compressed tensor, up to the first that fails: each with its encoded size. -/
def readMany (rd : Rd) (sn : Snap) : List Nat → List (Nat × (Bytes × Nat)) × Option CFail × List (Nat × Nat)
  | [] => ([], none, [])
  | n :: r =>
    match readBlock rd sn n with
    | (.inl f, rs) => ([], some f, rs)
    | (.inr y, rs) =>
      let (ys, f, rs') := readMany rd sn r
      ((n, y) :: ys, f, rs ++ rs')

/-- A port's decode failure ends the job (R293, R329). `src`: SOURCE of R338. -/
def portFail (s : State) (jn e src : Nat) (f : CFail) : State :=
  let (fn, sl) := match getJob s jn with | some j => (some j.fn.toNat, some j.slot.toNat) | none => (none, none)
  let s := if f.status = stUncorr then s else codecFail s f src (physOf s 4 e) 4 fn sl
  failJob s jn f.status

/-- Blocks of a tensor as a port reads them; `want`: the layout of the port (R328 step 2). -/
def portBlocks (s : State) (jn e src : Nat) (t : Tgt) (want : Bool) (ns : List Nat) : List (Nat × (Bytes × Nat)) × State :=
  let rd := tgtRd s jn t
  match snapshot rd (some want) with
  | (.inl f, rs) => ([], portFail (tgtReads s jn t rs) jn e src f)
  | (.inr sn, rs) =>
    let (ys, f, rs') := readMany rd sn ns
    let s := tgtReads s jn t (rs ++ rs')
    (ys, match f with | some f => portFail s jn e src f | none => s)

def rowBytes (l : Layer) : Nat := elemBytes l.afmt l.ic
def rowStrips (l : Layer) : Nat := ceilDiv (rowBytes l) 32

/-- Row `p` of a packed input: its strips side by side. -/
def packedRow (l : Layer) (m : List (Nat × (Bytes × Nat))) (p : Nat) : Bytes :=
  (List.range (rowStrips l)).flatMap (fun k =>
    (((smGet ([], 0) m (p / 32 * rowStrips l + k)).1).drop (32 * (p % 32))).take 32)

/-- The packed form: a matrix of positions by channels in blocked order (R315). -/
def fetchPacked (s : State) (jn e : Nat) (t : Tgt) (l : Layer) (ps : List Nat) : Fetched × State :=
  let bands := (List.range (ceilDiv (l.iw * l.ih) 32)).filter (fun n => ps.any (fun p => p / 32 == n))
  let (m, s) := portBlocks s jn e 1 t true (bands.flatMap (fun n => (List.range (rowStrips l)).map (fun k => n * rowStrips l + k)))
  -- a row of a packed input begins on a byte; its elements are numbered as those of the raw map
  (ps.map (fun p => (p, (0, packedRow l m p))), s)

/-- The code of channel `c` at input position `p`. -/
def inCode (l : Layer) (m : Fetched) (p c : Nat) : Nat :=
  let (b0, bs) := smGet (0, []) m p
  if l.inpk then elemIn (fmtBits l.afmt) 0 bs c else elemIn (fmtBits l.afmt) b0 bs (p * l.ic + c)

/-- A tensor of the layer's input format at a reference, as a share needs it. -/
def fetchIn (s : State) (jn e : Nat) (t : Tgt) (l : Layer) (w : Share) : Fetched × State :=
  let ps := inputPositions l w
  let (c0, c1) := inputChannels l w
  if l.inpk then fetchPacked s jn e t l ps else fetchRaw s jn t (fmtBits l.afmt) l.ic ps c0 c1

/-! ## Weights (R277, R279, R292, R315) -/

/-- Where the weights of an engine lie. -/
def weightTgt (l : Layer) (e : Nat) : Tgt := if l.resw then .buf e (l.wgt % 2 ^ 22) else addrTgt l.wgt 0

/-- The groups and the columns of a group that a share covers. -/
def shareGroups (l : Layer) (w : Share) : List Nat :=
  if l.op = lopGconv then (List.range l.groups).filter (fun g => decide (w.c0 < (g + 1) * l.ocg ∧ g * l.ocg < w.c1)) else [0]
def shareStrips (l : Layer) (w : Share) : List Nat :=
  let b := fmtBits l.wfmt
  let (lo, hi) := if l.op = lopGconv then (0, l.ocg) else (w.c0, w.c1)
  (List.range l.strips).filter (fun k => decide (lo * b / 8 < (k + 1) * 32 ∧ k * 32 < (hi * b + 7) / 8))

/-- The bands that hold a row of a tap that is not elided. -/
def liveBands (l : Layer) (taps : List (Nat × Nat)) : List Nat :=
  (List.range l.bands).filter (fun n => taps.any (fun t =>
    let k := (t.1 * l.kw + t.2) * l.icg
    decide (k < 32 * (n + 1) ∧ 32 * n < k + l.icg)))

def weightBlocks (l : Layer) (w : Share) (taps : List (Nat × Nat)) : List Nat :=
  (shareGroups l w).flatMap (fun g => (liveBands l taps).flatMap (fun n => (shareStrips l w).map (fun k => (g * l.bands + n) * l.strips + k)))

/-- Code of the weight in row `k` of the reduction and column `c` of group `g`. -/
def weightCode (l : Layer) (m : List (Nat × (Bytes × Nat))) (g k c : Nat) : Nat :=
  let b := fmtBits l.wfmt
  let at_ := c * b / 8
  let blk := (smGet ([], 0) m ((g * l.bands + k / 32) * l.strips + at_ / 32)).1
  fld (leAt blk (32 * (k % 32) + at_ % 32) ((b + 7) / 8)) (c * b % 8) b

/-! ## Accumulation (R248, R249, R275, R306) -/

/-- The products of an output, in the order of the reduction rows, elided taps left out. -/
def products (l : Layer) (inp : Fetched) (wts : List (Nat × (Bytes × Nat))) (taps : List (Nat × Nat)) (p : Nat × Nat) (c : Nat) : List Val :=
  let g := if l.op = lopGconv then c / max 1 l.ocg else 0
  let c' := if l.op = lopGconv then c % max 1 l.ocg else c
  taps.flatMap (fun t =>
    let ip := l.tap p t.1 t.2
    (List.range l.icg).map (fun i =>
      let x : Val := match ip with | some q => elemVal l.afmt (inCode l inp q (g * l.icg + i)) | none => .zero false
      mulVal x (elemVal l.wfmt (weightCode l wts g ((t.1 * l.kw + t.2) * l.icg + i) c'))))

/-- The partial sums of a tile, added two at a time in the order of the array. -/
def mergeAll {α : Type} (add : α → α → α) (rows : Nat) : Nat → List α → List α
  | 0, xs => xs
  | n + 1, xs =>
    let i := Config.mergePick rows xs.length 0 % xs.length
    let r := xs.eraseIdx i
    let k := Config.mergePick rows xs.length 1 % r.length
    match xs[i]?, r[k]? with
    | some a, some b => mergeAll add rows n (add a b :: r.eraseIdx k)
    | _, _ => xs

/-- One sum of a tile. -/
def tileSum {α : Type} (add : α → α → α) (zero : α) (rows : Nat) (xs : List α) : α := ((mergeAll add rows xs.length xs).head?).getD zero

def valInt (v : Val) : Int := match v with | .num m e => m * 2 ^ e.toNat | _ => 0

/-- The limits of the integer accumulators. -/
def accLimit (m : ArrMode) : Int := if m = .i16 then 2 ^ 47 else 2 ^ 31

/-- A saturating addition; the flag says that the element has saturated. -/
def satSum (lim : Int) (a b : Int × Bool) : Int × Bool :=
  let t := a.1 + b.1
  (clampI (-lim) (lim - 1) t, a.2 || b.2 || decide (t < -lim) || decide (lim ≤ t))

/-- An integer accumulator: where no order can saturate, the sum; else tile by tile. -/
def accInt (m : ArrMode) (xs : List Int) : Int × Bool :=
  let lim := accLimit m
  let pos := (xs.map (fun x => max x 0)).sum
  let neg := (xs.map (fun x => min x 0)).sum
  if pos < lim ∧ -lim ≤ neg then (pos + neg, false)
  else ((chunks (modeRows m) xs).map (fun t => tileSum (satSum lim) (0, false) (modeRows m) (t.map (fun x => (x, false))))).foldl
    (satSum lim) (0, false)

def addFp32 (a b : Val) : Val := fp32Val (fp32Of (addVal a b))

/-- An FP32 accumulator: each addition rounds. -/
def accFp (m : ArrMode) (xs : List Val) : Val :=
  match (chunks (modeRows m) xs).map (fun t => fp32Val (fp32Of (tileSum addFp32 (.zero false) (modeRows m) t))) with
  | [] => .zero false
  | t :: r => r.foldl addFp32 t

/-- The accumulator of an output, and whether it saturated. -/
def accumulate (l : Layer) (m : ArrMode) (xs : List Val) : Val × Bool :=
  if l.edg then (intVal ((xs.map valInt).sum), false)
  else if modeFloat m then (accFp m xs, false)
  else
    let (i, b) := accInt m (xs.map valInt)
    (intVal i, b)

/-! ## The output stage (R285, R302) -/

/-- A channel's entry of the parameter block. -/
structure Param where
  wexp : Int
  oexp : Int
  m : Int
  bias : Val

def paramOf (float : Bool) (bs : Bytes) (o : Nat) : Param :=
  { wexp := expByte (leAt bs o 1), oexp := expByte (leAt bs (o + 1) 1), m := sext 16 (leAt bs (o + 2) 2)
    bias := if float then fp32Val (BitVec.ofNat 32 (leAt bs (o + 4) 4)) else intVal (sext 32 (leAt bs (o + 4) 4)) }

def relu (l : Layer) (v : Val) : Val :=
  if l.act = 1 then (match v with
    | .num m _ => if m < 0 then .zero false else v
    | .inf true => .zero false
    | _ => v)
  else v

/-- The value that is converted; under DYNAMIC, before its exponent is taken away. -/
def stageVal (l : Layer) (q : Param) (a : Val) : Val :=
  let v := addVal a q.bias
  let ein := l.ein + q.wexp
  relu l (
    if l.omode = 0 then scaleVal v (if l.fold then -l.eout else ein - l.eout)
    else if l.omode = 1 then scaleVal (mulVal v (intVal q.m)) (ein - l.eout - 15)
    else scaleVal v ein)

/-- A column of values as codes with their events; under DYNAMIC, with the exponent chosen for the channel. -/
def convertColumn (l : Layer) (xs : List Val) : Int × List (Nat × Bool) :=
  let e := if l.arr ∧ l.omode = 2 then dynExp l.ofmt xs else 0
  (e, xs.map (fun x => cvt l.ofmt (scaleVal x (-e))))

/-- LUT of R302. -/
def lutCode (l : Layer) (lut : Bytes) (c : Nat × Bool) : Nat × Bool := if l.act = 2 then (leAt lut (c.1 % 256) 1, c.2) else c

/-- GACC (R265): the channel's stored codes `g` at exponent `ge` and its new codes at `gen`. -/
def gradColumn (g : List Nat) (ge gen : Int) (cs : List (Nat × Bool)) : Int × List (Nat × Bool) :=
  let xs := (g.zip cs).map (fun (a, c) => addVal (scaleVal (elemVal 5 a) ge) (scaleVal (elemVal 5 c.1) gen))
  let e := dynExp 5 xs
  (e, (xs.zip cs).map (fun (x, c) =>
    let q := cvt 5 (scaleVal x (-e))
    (q.1, q.2 || c.2)))

/-! ## ADD and POOL (R299, R303) -/

def addElem (l : Layer) (x y : Nat) : Val :=
  let b := scaleVal (elemVal l.afmt y) l.eaux
  relu l (scaleVal (addVal (scaleVal (elemVal l.afmt x) l.ein) (if l.sign then negVal b else b)) (-l.eout))

/-- The greater of two values; where the spec states none, a free one. -/
def maxVal (a b : Val) : Val :=
  let free := fp32Val (Config.minMaxOpen true (fp32Of a) (fp32Of b))
  match a, b with
  | .nan, _ => free
  | _, .nan => free
  | .zero n, .zero m => if n = m then a else free
  | _, _ => if ltVal a b then b else a

/-- `v / n`, exact enough for any one rounding: 300 bits below, and a last bit that is set if a remainder is left. -/
def divVal (v : Val) (n : Nat) : Val :=
  match v with
  | .num m e =>
    let t := m * 2 ^ 300
    let q := t / (n : Int)
    .num (2 * q + (if t % (n : Int) = 0 then 0 else 1)) (e - 301)
  | x => x

def poolElem (l : Layer) (inp : Fetched) (p : Nat × Nat) (c : Nat) : Val :=
  let xs := l.taps.map (fun t => match l.tap p t.1 t.2 with | some q => elemVal l.afmt (inCode l inp q c) | none => .zero false)
  let v := match xs with
    | [] => .zero false
    | x :: r => if l.pmax then r.foldl maxVal x else divVal (r.foldl addVal x) (l.kw * l.kh)
  relu l (scaleVal v (l.ein - l.eout))

/-! ## Writes of a layer -/

/-- A run of output codes: where the tensor lies, bits of an element, first element, codes, elements of the tensor. -/
structure Run where
  tgt : Tgt
  bits : Nat
  first : Nat
  codes : List Nat
  total : Nat

/-- The rest of a byte that a run shares is to be kept: whether its word can be read. -/
def shareOk (s : State) (jn : Nat) (t : Tgt) (o : Nat) : Bool × State :=
  let k := tgtKey t o
  if (firstPoison s k 1).isNone then (true, s)
  else match t with
    | .buf e a => (false, bufEcc s jn e (a + o) 1)
    | .dev .. => (false, failJob (poisonRead s 0 k ((getJob s jn).map (·.fn.toNat)) stUncorr) jn stUncorr)

/-- A run is written; the rest of a byte that it shares stays, and bits past the tensor's end are 0 (R238). A shared
byte that cannot be read ends the job (R357). -/
def writeRun (s : State) (jn : Nat) (r : Run) : State :=
  let lead := r.first * r.bits % 8
  let n := lead + r.codes.length * r.bits
  let o := r.first * r.bits / 8
  let len := (n + 7) / 8
  let tail := decide (r.first + r.codes.length < r.total)
  let old := leNat (tgtPeek s r.tgt o len)
  let v := old % 2 ^ lead + (r.codes.foldr (fun c t => c % 2 ^ r.bits + 2 ^ r.bits * t) 0) * 2 ^ lead
  let v := if tail then v + old / 2 ^ n * 2 ^ n else v
  let (a, s) := if lead = 0 then (true, s) else shareOk s jn r.tgt o
  let (b, s) := if tail ∧ n % 8 ≠ 0 then shareOk s jn r.tgt (o + len - 1) else (true, s)
  if a && b then tgtWrite s jn r.tgt o (natLE len v) else s

/-- The outputs of a share by position, as runs of the output tensor. -/
def outputRuns (l : Layer) (t : Tgt) (w : Share) (rows : List (List Nat)) : List Run :=
  let b := fmtBits l.ofmt
  let total := l.positions * l.och
  if w.c0 = 0 ∧ w.c1 = l.och then [{ tgt := t, bits := b, first := w.r0 * l.ow * l.och, codes := rows.flatten, total := total }]
  else (rows.zipIdx).map (fun (cs, k) => { tgt := t, bits := b, first := (w.r0 * l.ow + k) * l.och + w.c0, codes := cs, total := total })

/-! ## Cycles and MACs (R295, R296, R301, R303, R306) -/

/-- Positions of a block (R295). -/
def blockSizeOf (img : Bytes) (place : Nat) (l : Layer) (m : ArrMode) : Nat :=
  if l.omode = 2 then modeMb m else min (modeMb m) (max 1 (Config.positionBlock img place))

def pow2Ceil (n : Nat) : Nat := if n ≤ 1 then 1 else 2 ^ (Nat.log2 (n - 1) + 1)

/-- Passes of weight tiles that a block with `k` reduction rows left takes. -/
def tilesOf (l : Layer) (w : Share) (m : ArrMode) (k : Nat) : Nat :=
  let kr := modeRows m
  let nc := modeCols m
  if l.op = lopGconv then
    let b := pow2Ceil l.rows
    let g := (shareGroups l w).length
    if kr < b then g * (ceilDiv k kr * ceilDiv l.ocg nc) else ceilDiv g (max 1 (min (kr / b) (nc / max 1 l.ocg)))
  else ceilDiv k kr * ceilDiv (w.c1 - w.c0) nc

/-- Layers that an array layer counts as on one engine: one for each group where a group does not fit the array (R296). -/
def layerRuns (l : Layer) (w : Share) (m : ArrMode) : Nat :=
  if l.op = lopGconv ∧ modeRows m < pow2Ceil l.rows then (shareGroups l w).length else 1

/-- Engine cycles of an array layer on one engine, its waits left out (R295, R296). -/
def arrayCycles (l : Layer) (w : Share) (m : ArrMode) (mb : Nat) (blks : List (List (Nat × Nat))) : Nat :=
  (blks.map (fun b => tilesOf l w m ((liveTaps l b).length * l.icg) * max mb (modeLoad m))).sum + layerRuns l w m * (mb + 40)

/-- MACs performed and elided. -/
def shareMacs (l : Layer) (w : Share) (blks : List (List (Nat × Nat))) : Nat × Nat :=
  let n := (w.c1 - w.c0) * l.icg
  let all := l.taps.length
  ((blks.map (fun b => b.length * (liveTaps l b).length * n)).sum, (blks.map (fun b => b.length * (all - (liveTaps l b).length) * n)).sum)

end Sys2Proof.Machine
end

