-- ==== Sys2Proof/Machine/ChamberOps.lean ====
section
/-! DEFINITION. ChamberOps.lean: Tier 2 jobs on their engines (R289 to R294): grants, layers, Edging pieces (R305),
ends, and the Chamber and Edging registers with an effect (R313, R314). -/

namespace Sys2Proof.Machine

/-! ## Grants (R289) -/

def jobImage (s : State) (j : Job) : Bytes := match versionOf (getSlot s j.slot.toNat) j.inB with | some v => v.image | none => []

/-- The engines of the job's placement. -/
def placeMask (s : State) (j : Job) : Nat := let x := getSlot s j.slot.toNat; (if j.inB then x.placeB else x.placeA).toNat

/-- The engines of the job by rank. -/
def jobRanks (s : State) (j : Job) : List Nat := placedEngines (getSlot s j.slot.toNat) j.inB

/-- Tier 2 jobs whose knot condition holds and whose placement contains engine `e`. -/
def waitingFor (s : State) (e : Nat) : List (Nat × Job) :=
  s.jobs.filterMap (fun q => match q.2 with
    | some j =>
      if j.st = .queued ∧ tierOf j.slot.toNat = 2 ∧ j.wait.isNone ∧ !j.awaitRepair ∧ !j.finished ∧ bitOf (placeMask s j) e then some (q.1, j)
      else none
    | none => none)

/-- Every engine with a rank in the job's placement is granted to it. -/
def holdsAll (s : State) (j : Job) : Bool := (jobRanks s j).all (fun e => j.engines.contains (BitVec.ofNat 4 e))

/-- The job starts: the working regions of its engines are undefined (R276). -/
def startT2 (s : State) (jn : Nat) (j : Job) : State :=
  let s := j.engines.foldl (fun t e => loseRegion t (spChamber e.toNat)) s
  let img := jobImage s j
  let j := { j with scratchAddr := BitVec.ofNat 64 (t2Scratch img), scratchBytes := t2ScratchBytes img }
  setJob s jn (some (beginJob j ((jobRanks s j).any (fun e => physOf s 4 e == 16))))

def startIfAll (s : State) (jn : Nat) : State :=
  match getJob s jn with
  | some j =>
    if j.st ≠ .queued ∨ j.awaitRepair ∨ !holdsAll s j then s
    else match startRights s j with
      | (true, s) => startT2 s jn j
      | (false, s) => if j.attempt ≤ 1 then endJob s jn stProtection false else endJob (c64 s 0x40040 1) jn stProtection true
  | none => s

def getEngine (s : State) (e : Nat) : Engine := smGet {} s.engines e

/-- A repair moves the logical engine. -/
def engineMoves (s : State) (e : Nat) : Bool := match s.flt.repair with | some r => r.utype == 4 && r.unit.toNat == e | none => false

/-- ENGINE_GRANT (R289). -/
def execEngineGrant (e : BitVec 4) (s : State) : Out State :=
  .next (live s fun s =>
    if !chmRuns s || (getEngine s e.toNat).job.isSome || smGet false s.flt.outOf (4 * 4096 + e.toNat) || engineMoves s e.toNat then s
    else match pickJob (waitingFor s e.toNat) with
      | none => s
      | some (jn, _) =>
        let s := { s with engines := smSet {} s.engines e.toNat { job := some jn } }
        startIfAll (modJob s jn (fun j => { j with engines := j.engines ++ [e] })) jn)

/-- A replay begins once its job is next served: its engines are still its own (R417). -/
def restartT2 (s : State) (jn : Nat) : State :=
  match getJob s jn with
  | some j => if 1 < j.attempt ∧ tierOf j.slot.toNat = 2 ∧ chmRuns s = true then startIfAll s jn else s
  | none => s

/-! ## The order of layers (R290, R294) -/

def programPlaces (img : Bytes) (back : Bool) : List Nat := layerPlaces img (if back then 0x43 else 0x42)

/-- The place in the image of the layer that runs next. -/
def curPlace (img : Bytes) (j : Job) : Option Nat :=
  if j.kind = 1 ∧ j.mode = 2 then none else (programPlaces img j.back)[j.layer]?

/-- The job has passed a layer. -/
def passLayer (img : Bytes) (j : Job) : Job :=
  let n := j.layer + 1
  let j := { j with edgEng := none }
  if n < (programPlaces img j.back).length then { j with layer := n, piece := 0 }
  else if !j.back ∧ t2Itemwise img ∧ j.item + 1 < j.batch.toNat then { j with layer := 0, piece := 0, item := j.item + 1 }
  else if !j.back ∧ j.kind = 1 ∧ (programPlaces img true).length ≠ 0 then { j with layer := 0, piece := 0, item := 0, back := true }
  else { j with layer := n, piece := 0 }

/-- The layer reaches the host: the job's function must master the link. -/
def hostRefs (img : Bytes) (j : Job) (l : Layer) : Bool :=
  let sp (t : Tgt) : Bool := match t with | .dev p _ => p == spHost | .buf .. => false
  ((l.outRef :: (layerRefs l).map (·.1)).any (fun r => sp (refTgt img j 0 r))) || (l.arr && sp (weightTgt l 0))

/-- The layer that job `jn` may run now, and its place. -/
def readyLayer (s : State) (jn : Nat) (edg : Bool) : Option (Job × Bytes × Nat × Layer) :=
  match getJob s jn with
  | none => none
  | some j =>
    let img := jobImage s j
    match curPlace img j with
    | none => none
    | some p =>
      let l := layerAt img p
      if j.st = .running ∧ tierOf j.slot.toNat = 2 ∧ !j.finished ∧ j.err.isNone ∧ chmRuns s ∧ l.edg = edg ∧
          (!hostRefs img j l ∨ canMaster s j.fn.toNat) then some (j, img, p, l)
      else none

/-! ## Layers -/

/-- What a rank leaves: its writes, its events in element order, accumulators that saturated. -/
structure RankOut where
  runs : List Run := []
  events : List Bool := []
  accSat : Nat := 0

/-- Columns of codes by channel, as rows by position. -/
def transposeN (n : Nat) (cols : List (List (Nat × Bool))) : List (List (Nat × Bool)) :=
  (List.range n).map (fun k => cols.map (fun col => col[k]?.getD (0, false)))

/-- The outputs of a share given by channel, as a rank's result. -/
def rankOut (l : Layer) (t : Tgt) (w : Share) (n : Nat) (cols : List (List (Nat × Bool))) (accSat : Nat) (extra : List Run) : RankOut :=
  let rows := transposeN n cols
  { runs := outputRuns l t w (rows.map (·.map (·.1))) ++ extra, events := (rows.flatten).map (·.2), accSat := accSat }

/-- The table of ACT 2. -/
def readLut (s : State) (jn : Nat) (img : Bytes) (j : Job) (l : Layer) (e : Nat) : Bytes × State :=
  if l.act = 2 then tgtRead s jn (refTgt img j e l.lut) 0 256 else ([], s)

/-- The stored gradients of a share by channel (GACC). -/
def readGrads (s : State) (jn : Nat) (t : Tgt) (l : Layer) (w : Share) (ps : List (Nat × Nat)) : List (List Nat) × State :=
  let (rows, s) := ps.foldl (fun (m, s) p =>
    let (bs, s) := tgtRead s jn t ((p.1 * l.ow + p.2) * l.och + w.c0) (w.c1 - w.c0)
    (m ++ [bs.map (·.toNat)], s)) ([], s)
  ((List.range (w.c1 - w.c0)).map (fun k => rows.map (fun r => r[k]?.getD 0)), s)

/-- What the counters show of an array layer on one engine: MACs, cycles, weights, waits (R279, R312). -/
def countArray (s : State) (img : Bytes) (place : Nat) (l : Layer) (m : ArrMode) (w : Share) (e : Nat) (ps : List (Nat × Nat))
    (sizes : List (Nat × Nat)) : State :=
  let mb := blockSizeOf img place l m
  let blks := chunks mb ps
  let (macs, elided) := shareMacs l w blks
  if l.edg then c64 (c64 s 0x48048 macs) 0x40050 elided
  else
    let s := c64 (c64 s 0x40048 macs) 0x40050 elided
    let enc := (blks.map (fun b =>
      let ns := weightBlocks l w (liveTaps l b)
      ((sizes.filter (fun z => ns.contains z.1)).map (·.2)).sum)).sum
    let raw := (blks.map (fun b => 1024 * (weightBlocks l w (liveTaps l b)).length)).sum
    let s := c64 (c64 s 0x40060 raw) 0x40068 enc
    let s := c64 s 0x40058 (arrayCycles l w m mb blks)
    let passes := (blks.map (fun b => tilesOf l w m ((liveTaps l b).length * l.icg))).sum
    let s := winPass s (winKey 4 (physOf s 4 e)) passes
    if l.resw then s
    else
      let (n, s) := takeFree s
      let wait := (Config.freeWord n).toNat
      c64 (c32 s 0x40070 wait) 0x40058 wait

/-- CONV, GCONV and MATMUL on one rank. -/
def runArray (s : State) (jn : Nat) (img : Bytes) (j : Job) (place : Nat) (l : Layer) (w : Share) (e : Nat) : RankOut × State :=
  match arrMode l.afmt l.wfmt with
  | none => ({}, s)
  | some m =>
    let ps := w.positions l.ow
    let taps := liveTaps l ps
    let (inp, s) := fetchIn s jn e (refTgt img j e l.inRef) l w
    let (wts, s) := portBlocks s jn e 2 (weightTgt l e) false (weightBlocks l w taps)
    let (par, s) := tgtRead s jn (refTgt img j e l.par) (8 * w.c0) (8 * (w.c1 - w.c0))
    let (lut, s) := readLut s jn img j l e
    let out := refTgt img j e l.outRef
    let (grads, s) := if l.gacc then readGrads s jn out l w ps else ([], s)
    if jobFailed s jn then ({}, s)
    else
      let mb := blockSizeOf img place l m
      let blks := (chunks mb ps).map (fun b => (b, liveTaps l b))
      let accs := w.cols.map (fun c => blks.flatMap (fun (b, ts) => b.map (fun p => accumulate l m (products l inp wts ts p c))))
      let q (k : Nat) : Param := paramOf (modeFloat m) par (8 * k)
      let conv := (accs.zipIdx).map (fun (ck : List (Val × Bool) × Nat) => convertColumn l (ck.1.map (fun a => stageVal l (q ck.2) a.1)))
      let coded := conv.map (fun (ec, cs) => (ec, cs.map (lutCode l lut)))
      let final := if l.gacc then ((coded.zip grads).zipIdx).map (fun ((ec, g), k) => gradColumn g (q k).oexp ec.1 ec.2) else coded
      let exps := if l.omode = 2 then (final.zipIdx).map (fun (ec, k) =>
        { tgt := refTgt img j e l.par, bits := 8, first := 8 * (w.c0 + k) + 1, codes := [twos 6 ec.1], total := 8 * l.oc : Run }) else []
      let s := countArray s img place l m w e ps (wts.map (fun b => (b.1, b.2.2)))
      (rankOut l out w ps.length (final.map (·.2)) ((accs.flatten).filter (·.2)).length exps, s)

/-- Cycles of ADD and POOL (R303). -/
def countStage (s : State) (l : Layer) (w : Share) (n taps : Nat) : State :=
  if l.edg then s else c64 s 0x40058 (ceilDiv (n * (w.c1 - w.c0)) 128 * taps)

/-- ADD on one rank (R303). -/
def runAdd (s : State) (jn : Nat) (img : Bytes) (j : Job) (l : Layer) (w : Share) (e : Nat) : RankOut × State :=
  let ps := w.positions l.ow
  let (a, s) := fetchIn s jn e (refTgt img j e l.inRef) l w
  let (b, s) := fetchIn s jn e (refTgt img j e l.aux) l w
  let (lut, s) := readLut s jn img j l e
  let elem (c : Nat) (p : Nat × Nat) : Val := let q := p.1 * l.iw + p.2; addElem l (inCode l a q c) (inCode l b q c)
  let cols := w.cols.map (fun c => (convertColumn l (ps.map (elem c))).2.map (lutCode l lut))
  (rankOut l (refTgt img j e l.outRef) w ps.length cols 0 [], countStage s l w ps.length 1)

/-- POOL on one rank (R299, R303). -/
def runPool (s : State) (jn : Nat) (img : Bytes) (j : Job) (l : Layer) (w : Share) (e : Nat) : RankOut × State :=
  let ps := w.positions l.ow
  let (a, s) := fetchIn s jn e (refTgt img j e l.inRef) l w
  let (lut, s) := readLut s jn img j l e
  let cols := w.cols.map (fun c => (convertColumn l (ps.map (fun p => poolElem l a p c))).2.map (lutCode l lut))
  (rankOut l (refTgt img j e l.outRef) w ps.length cols 0 [], countStage s l w ps.length (l.kw * l.kh))

/-- A rank of a layer; a rank left with no outputs does nothing (R297). -/
def runRank (s : State) (jn : Nat) (img : Bytes) (j : Job) (place : Nat) (l : Layer) (r e : Nat) : RankOut × State :=
  let w := shareOf l r
  if w.empty then ({}, s)
  else if l.op = lopAdd then runAdd s jn img j l w e
  else if l.op = lopPool then runPool s jn img j l w e
  else runArray s jn img j place l w e

/-- The ranks compute, every one from the memory as the layer finds it. -/
def runRanks (s : State) (jn : Nat) (img : Bytes) (j : Job) (place : Nat) (l : Layer) : List RankOut × State :=
  (List.range l.cnt).foldl (fun (os, t) r =>
    match jobFailed t jn, (jobRanks s j)[l.first + r]? with
    | false, some e => let (o, t) := runRank t jn img j place l r e; (os ++ [o], t)
    | _, _ => (os, t)) ([], s)

/-- The ranges of two references of a job meet. -/
def refsMeet (img : Bytes) (j : Job) (a na b nb : Nat) : Bool :=
  match refTgt img j 0 a, refTgt img j 0 b with
  | .buf _ x, .buf _ y => decide (x < y + nb ∧ y < x + na)
  | .dev sp x, .dev sq y => sp == sq && decide (x < y + nb ∧ y < x + na)
  | _, _ => false

/-- The layer makes a write that the job's later reads could observe (R416). -/
def endsReplay (img : Bytes) (j : Job) (l : Layer) : Bool :=
  j.kind != 2 && (l.gacc || (l.op == lopAdd &&
    (let o := elemBytes l.ofmt (l.positions * l.och)
     let i := elemBytes l.afmt (l.iw * l.ih * l.ic)
     refsMeet img j l.outRef o l.inRef i || refsMeet img j l.outRef o l.aux i)))

/-- The writes of a layer, its events (R254, R255), and the accumulators that saturated or were clamped. -/
def writeOuts (s : State) (jn : Nat) (l : Layer) (os : List RankOut) : State :=
  let s := os.foldl (fun t o => o.runs.foldl (fun t r => writeRun t jn r) t) s
  if jobFailed s jn then s else
  let evs := os.flatMap (·.events)
  let s := satElems s jn l.satctr true evs
  if l.edg then (if l.arr then c32 s 0x48058 (evs.filter id).length else s) else c32 s 0x40074 ((os.map (·.accSat)).sum)

/-- A layer other than RESULT. -/
def runLayer (s : State) (jn : Nat) (j : Job) (img : Bytes) (place : Nat) (l : Layer) : State :=
  let (os, s) := runRanks s jn img j place l
  if jobFailed s jn then s
  else
    let s := if endsReplay img j l then modJob s jn (fun j => { j with replayable := false }) else s
    let s := writeOuts s jn l os
    if jobFailed s jn then s else modJob s jn (passLayer img)

/-- The next layer of the job, if it is of kind `op` and runs on the Chamber. -/
def layerStep (op jn : Nat) (s : State) : State :=
  let s := restartT2 s jn
  match readyLayer s jn false with
  | some (j, img, p, l) => if l.op = op then runLayer s jn j img p l else s
  | none => s

/-- CONV (R290, R295). -/
def execLayerConv (jn : Nat) (s : State) : Out State := .next (live s (layerStep lopConv jn))
/-- GCONV (R290, R296). -/
def execLayerGconv (jn : Nat) (s : State) : Out State := .next (live s (layerStep lopGconv jn))
/-- MATMUL (R290, R295). -/
def execLayerMatmul (jn : Nat) (s : State) : Out State := .next (live s (layerStep lopMatmul jn))
/-- LAYER_ADD (R303). -/
def execLayerAdd (jn : Nat) (s : State) : Out State := .next (live s (layerStep lopAdd jn))
/-- POOL (R303). -/
def execLayerPool (jn : Nat) (s : State) : Out State := .next (live s (layerStep lopPool jn))

/-- The lowest index among the highest scores, and that score (R304). -/
def bestScore (bs : Bytes) : Nat × Nat :=
  (bs.zipIdx).foldl (fun (m : Nat × Nat) (b, i) => if m.2 < b.toNat then (i, b.toNat) else m) (0, (bs.head?.getD 0).toNat)

/-- RESULT on its first rank; its cycles are not stated (R293, R304). -/
def runResult (s : State) (jn : Nat) (j : Job) (img : Bytes) (l : Layer) : State :=
  let e := ((jobRanks s j)[l.first]?).getD 0
  let (bs, s) := tgtRead s jn (refTgt img j e l.inRef) 0 l.ic
  if jobFailed s jn then s
  else
    let (i, c) := bestScore bs
    let (n, s) := takeFree s
    let s := c64 s 0x40058 (Config.freeWord n).toNat
    let s := if j.kind = 0 then tgtWrite s jn (refTgt img j e l.outRef) 0 (natLE 2 i ++ natLE 1 c ++ [0]) else s
    modJob s jn (fun j => passLayer img (if j.kind = 2 then { j with cls := BitVec.ofNat 16 i, conf := BitVec.ofNat 8 c } else j))

/-- RESULT (R304). -/
def execLayerResult (jn : Nat) (s : State) : Out State :=
  .next (live s fun s =>
    let s := restartT2 s jn
    match readyLayer s jn false with
    | some (j, img, _, l) => if l.op = lopResult then runResult s jn j img l else s
    | none => s)

/-! ## Edging pieces (R305, R306) -/

/-- MACs per cycle for the widths of a layer. -/
def edgRate (l : Layer) : Nat := if fmtBits l.afmt ≤ 8 then 2048 else 1024

/-- Pieces of at most 4,096 cycles. -/
def edgPieces (l : Layer) : Nat :=
  let elems := l.positions * l.och
  let cycles := if l.arr then ceilDiv (elems * l.taps.length * l.icg) (edgRate l)
    else ceilDiv (elems * (if l.op = lopPool then l.kw * l.kh else 1)) 64
  max 1 (ceilDiv cycles 4096)

/-- An Edging engine in service runs the present EDG layer of the job. -/
def edgHeld (s : State) (j : Job) : Option Nat :=
  match j.edgEng with
  | some e => if smGet false s.flt.retired (5 * 4096 + e.toNat) then none else some e.toNat
  | none => none

/-- An EDG layer of some job runs on Edging engine `e`. -/
def edgTaken (s : State) (e : Nat) : Bool := s.jobs.any (fun q => match q.2 with | some j => j.st == .running && edgHeld s j == some e | none => false)

/-- The EDG layers that wait for an engine, as jobs (R305). -/
def edgWaiting (s : State) : List (Nat × Job) :=
  s.jobs.filterMap (fun q => match readyLayer s q.1 true with
    | some (j, _) => if (edgHeld s j).isNone then some (q.1, j) else none
    | none => none)

/-- Engine `e` takes a piece of the job's EDG layer next (R305): no front-end and no converter waits; the engine is in
service, and runs this layer already, or is free and the layer is the first in the order of R289. -/
def edgNext (s : State) (jn : Nat) (j : Job) (e : Nat) : Bool :=
  !smGet false s.flt.retired (5 * 4096 + e) && !feWaits s && !convWaits s &&
  (match edgHeld s j with
   | some h => h == e
   | none => !edgTaken s e && (pickJob (edgWaiting s)).map (·.1) == some jn)

/-- EDG_LAYER_PIECE: the layer's effect comes with its last piece. -/
def execEdgLayerPiece (jn : Nat) (e : BitVec 2) (s : State) : Out State :=
  .next (live s fun s =>
    let s := restartT2 s jn
    match readyLayer s jn true with
    | some (j, img, p, l) =>
      if !edgNext s jn j e.toNat then s
      else
        let s := edgPass s (some e.toNat)
        if j.piece + 1 < edgPieces l then modJob s jn (fun j => { j with piece := j.piece + 1, edgEng := some e })
        else
          let t := runLayer s jn j img p l
          if jobFailed t jn then t else c32 t 0x48050 1
    | none => s)

/-! ## The end of a Tier 2 job (R293, R294) -/

/-- The apply job of a TRAIN_STEP; it is not taken if its slot holds no version (R271, R294). -/
def queueApply (s : State) (jn : Nat) (j : Job) (opt : Nat) : State :=
  let s := modJob s jn (fun j => { j with st := .applying, engines := [] })
  let a : Job := { origin := .apply jn, slot := BitVec.ofNat 8 opt, inB := (getSlot s opt).activeB, fn := j.fn, level := j.level
                   kind := 1, mode := j.mode, lrExp := j.lrExp, batch := j.batch, stateAddr := j.stateAddr, stateBytes := j.stateBytes }
  match activeVersion s opt with
  | none => endParent s jn a stBad
  | some _ => if slotOut s opt a.inB then endParent s jn a stUncorr else addJob s a

/-- MODE 0 adds its items to the header of the state area (R269). -/
def addItems (s : State) (jn : Nat) (j : Job) : State :=
  match addrOf j.stateAddr.toNat with
  | none => s
  | some (sp, o) =>
    let (b, s) := jobRead s jn sp (o + 0xC) 4
    if jobFailed s jn then s else jobWrite s jn sp (o + 0xC) (natLE 4 (satAdd 32 (leNat b) j.batch.toNat))

/-- TIER2_JOB_END (R293, R294). -/
def execTier2JobEnd (jn : Nat) (s : State) : Out State :=
  .next (live s fun s =>
    let s := restartT2 s jn
    match getJob s jn with
    | none => s
    | some j =>
      let img := jobImage s j
      if j.st ≠ .running ∨ tierOf j.slot.toNat ≠ 2 ∨ j.finished ∨ (j.err.isNone ∧ (curPlace img j).isSome) then s
      else
        let s := c64 (freeEngines s jn) 0x40040 1
        let s := if j.kind = 1 ∧ j.mode = 0 ∧ j.err.isNone then addItems s jn j else s
        let j' := (getJob s jn).getD j
        if j.kind = 1 ∧ j.mode ≠ 0 ∧ j'.err.isNone then queueApply s jn j (t2OptSlot img)
        else endJob s jn ((j'.err.getD 0).toNat) true)

/-! ## Registers (R313, R314) -/

/-- CHM_CLEAR.CLR. -/
def execChmClear (s : State) : Out State :=
  .next (bar0 s 0 false fun s => clearCtrs s [0x40040, 0x40048, 0x40050, 0x40058, 0x40060, 0x40068, 0x40070, 0x40074, 0x40078])

/-- EDG_CLEAR.CLR. -/
def execEdgClear (s : State) : Out State :=
  .next (bar0 s 0 false fun s => clearCtrs s [0x48040, 0x48048, 0x48050, 0x48054, 0x48058])

def chmSel (s : State) : Nat := reg s 0x40020 % 256

/-- CHM_SLOT_PLACE_WRITE (R314). -/
def execChmPlaceWrite (b : Bool) (w : U32) (s : State) : Out State :=
  .next (bar0 s 0 false fun s =>
    let n := chmSel s
    if tierOf n ≠ 2 then s
    else if (versionOf (getSlot s n) b).isSome then modSlot s n (fun x => { x with rangeErr := true })
    else modSlot s n (fun x => if b then { x with placeB := w &&& 0xFFFF } else { x with placeA := w &&& 0xFFFF }))

end Sys2Proof.Machine
end

