-- ==== Sys2Proof/Machine/Faults.lean ====
section
/-! DEFINITION. Faults.lean: the fault manager (R400 to R427): logic checks, windows, retirement, spares, replay, fatal
events, the scrubbers of R358, and the FLT_ and GAL_ registers with an effect. -/

namespace Sys2Proof.Machine

/-! ## Jobs of a unit -/

/-- The job that a Chamber engine or a Bobbin core serves (`utype` 4 or 3, logical number). -/
def unitJob (s : State) (utype unit : Nat) : Option Nat := if utype = 4 then (getEngine s unit).job else if utype = 3 then (getCore s unit).job else none

/-- The unit serves the placement of a job (R412). -/
def jobOnUnit (s : State) (j : Job) (utype unit : Nat) : Bool :=
  if utype = 4 then tierOf j.slot.toNat == 2 && (jobRanks s j).contains unit
  else if utype = 3 then let k := getCore s unit; k.slot != 0 && k.slot == j.slot && k.inB == j.inB
  else false

/-- Knot operations of a core that stops: WAITs end, and the answers to what it has issued go nowhere. -/
def muteCore (s : State) (c : Nat) : State :=
  let mine (o : KOrigin) : Bool := match o with | .core i _ _ => i.toNat == c | _ => false
  let waits (o : KOrigin) : Bool := match o with | .core i w _ => w && i.toNat == c | _ => false
  { s with
    knotOps := (s.knotOps.filter (fun o => !waits o.origin)).map (fun o => if mine o.origin then { o with origin := .nobody } else o)
    kfwd := s.kfwd.map (fun e => if mine e.op.origin then { e with op := { e.op with origin := .nobody } } else e)
    knotWaits := s.knotWaits.filter (fun w => !mine w.origin) }

/-- The core's part of a stopped job: what has not left it is suppressed. -/
def stopCore (s : State) (c : Nat) : State :=
  modCore (muteCore s c) c (fun k => { k with dmas := [], ksigs := [], outb := [], unacked := 0, waitOut := false, waitDone := false })

/-- The job leaves its units. -/
def leaveUnits (s : State) (jn : Nat) (j : Job) : State :=
  if tierOf j.slot.toNat = 1 then
    (if runOf (getSlot s j.slot.toNat) j.inB = some jn then leavePartition ((jobCores s jn).foldl stopCore s) j.slot.toNat j.inB jn else s)
  else if j.started || 1 < j.attempt then c64 s 0x40040 1 else s

/-- A job that ran, or was to run again, ends with UNCORRECTABLE, or as the error queues of its ranks say (R216);
PROTECTION takes precedence over both (R183). -/
def failReplay (s : State) (jn : Nat) (j : Job) : State :=
  let st := if tierOf j.slot.toNat = 1 ∧ j.st = .running then (eqStatus s jn).getD stUncorr else stUncorr
  endJob (leaveUnits s jn j) jn st (j.st == .running || decide (1 < j.attempt))

/-! ## Spares (R411, R412) -/

/-- The physical unit serves a logical one or has been retired. -/
def unitUsed (s : State) (utype phys : Nat) : Bool :=
  smGet false s.flt.retired (utype * 4096 + phys) || s.flt.map.any (fun e => e.1 / 4096 == utype && e.2 == phys)

def freeSpares (s : State) (utype : Nat) : List Nat :=
  let all := if utype = 4 then [16] else if utype = 3 then (List.range 16).map (256 + ·)
    else if utype = 2 then (List.range 32).map (512 + ·) else if utype = 6 then [32, 33] else []
  all.filter (fun p => !unitUsed s utype p)

/-- Mesh distance of two physical Bobbin cores. -/
def meshDist (a b : Nat) : Nat := ((a % 16 : Nat) - (b % 16 : Nat) : Int).natAbs + ((a / 16 : Nat) - (b / 16 : Nat) : Int).natAbs

/-- The spare of R411: of Bobbin cores the nearest (one in the same column is nearer than any other in the row). -/
def pickSpare (s : State) (utype unit : Nat) : Option Nat :=
  let ps := freeSpares s utype
  if utype = 3 then
    let p := physOf s 3 unit
    ps.foldl (fun (m : Option Nat) q => match m with
      | none => some q
      | some b => if meshDist p q < meshDist p b then some q else some b) none
  else ps.head?

/-- The streams with an instance on a Picot core. -/
def streamsOn (s : State) (core : Nat) : List Nat :=
  s.insts.filterMap (fun e => match e.2 with
    | some i => let pl := instPlace s i; if pl.core ≤ core ∧ core < pl.core + pl.span then some e.1 else none
    | none => none)

/-- Jobs of placements that hold the unit, and do not run, end with UNCORRECTABLE. -/
def endWaiting (s : State) (utype unit : Nat) : State :=
  s.jobs.foldl (fun t e => match getJob t e.1 with
    | some j => if j.st = .queued ∧ !j.finished ∧ jobOnUnit t j utype unit then failReplay t e.1 j else t
    | none => t) s

/-- The command that asked for a repair ends with a status. -/
def endCmd (s : State) (r : Repair) (st : Nat) : State :=
  if r.cmd then { s with flt := { s.flt with cmdBusy := false, cmdStatus := BitVec.ofNat 8 st } } else s

/-- No spare is left (R412). -/
def noSpare (s : State) (r : Repair) : State :=
  let ut := r.utype.toNat
  let u := r.unit.toNat
  let s := logRec s 0x0D 2 { utype := ut, unit := physOf s ut u, aux := u, status := stUncorr }
  let s := if ut = 6 then s else { s with flt := { s.flt with outOf := smSet false s.flt.outOf (ut * 4096 + u) true } }
  let s := if ut = 3 ∨ ut = 4 then endWaiting s ut u
    else if ut = 2 then (streamsOn s u).foldl (fun t st => startAct t st .fault) s
    else s
  endCmd s r stUncorr

/-- Instances with a block on the core hold their next closure (R413). -/
def holdMoves (s : State) (core : Nat) (v : Bool) : State :=
  (streamsOn s core).foldl (fun t st => modInst t st (fun i => { i with heldMove := v })) s

/-- The next repair begins: those without a spare end at once (R423). -/
def nextRepair (s : State) : Nat → State
  | 0 => s
  | n + 1 =>
    match s.flt.repair, s.flt.repairQ with
    | none, r :: q =>
      let s := { s with flt := { s.flt with repairQ := q } }
      if r.restore then { s with flt := { s.flt with repair := some r } }
      else match pickSpare s r.utype.toNat r.unit.toNat with
        | none => nextRepair (noSpare s r) n
        | some p =>
          let s := { s with flt := { s.flt with repair := some { r with spare := p } } }
          if r.utype = 2 then holdMoves s r.unit.toNat true else s
    | _, _ => s

def queueRepair (s : State) (r : Repair) : State :=
  let s := { s with flt := { s.flt with repairQ := s.flt.repairQ ++ [r] } }
  nextRepair s s.flt.repairQ.length

/-- A repair of the unit runs or waits. -/
def repairPending (s : State) (utype unit : Nat) : Bool :=
  (s.flt.repair.toList ++ s.flt.repairQ).any (fun r => r.utype.toNat == utype && r.unit.toNat == unit)

/-- A logical unit with spares is retired: record, count, window, repair (R410, R411, R423). `n`, `len`: its window. -/
def retireUnit (s : State) (utype unit n len : Nat) (cmd : Bool) : State :=
  let p := physOf s utype unit
  let s := logRec s 0x0B 0 { utype := utype, unit := p, aux := unit, count := n, detail := n, detail2 := len }
  let s := c32 s 0x90058 1
  let s := { s with flt := { s.flt with
      retired := smSet false s.flt.retired (utype * 4096 + p) true
      wins := s.flt.wins.filter (fun e => !(e.1 / 2 ^ 40 % 16 == utype && e.1 % 2 ^ 40 == p)) } }
  queueRepair s { utype := BitVec.ofNat 4 utype, unit := BitVec.ofNat 12 unit, restore := false, spare := 0, cmd := cmd }

/-- A threshold retires the unit, unless FLT_CTRL.AUTO_RETIRE is 0 or its retirement is under way. -/
def thresholdRetire (s : State) (utype unit n len : Nat) : Bool × State :=
  if repairPending s utype unit || smGet false s.flt.outOf (utype * 4096 + unit) then (false, s)
  else
    let (go, s) := autoRetire s utype (physOf s utype unit) unit n len
    if go then (true, retireUnit s utype unit n len false) else (false, s)

/-! ## Replay (R416, R417) -/

/-- A failed job's attempt stops on its cores: a WAIT at the store is withdrawn, KSIGs that have not left stay home;
messages in the mesh are dropped by their JSEQ (R212), and those in an inbox with the attempt. -/
def haltAttempt (s : State) (jn : Nat) : State :=
  let cs := jobCores s jn
  let wait (o : KOrigin) : Bool := match o with | .core c w _ => w && cs.contains c.toNat | _ => false
  let s := { s with knotOps := s.knotOps.filter (fun o => !wait o.origin), knotWaits := s.knotWaits.filter (fun w => !wait w.origin) }
  cs.foldl (fun t c => modCore t c (fun k =>
    { k with st := 3, ending := true, dmas := [], ksigs := [], outb := [], waitOut := false, waitDone := false
             inboxHead := (k.inboxHead + k.inbox.length) % 64, inbox := [] })) s

/-- The next attempt of a job, from its start. -/
def nextAttempt (j : Job) (wait : Bool) : Job :=
  { j with st := .queued, attempt := j.attempt + 1, awaitRepair := wait, started := false, edgEng := none, layer := 0, back := false, item := 0
           piece := 0, err := none, prot := false, satEvents := 0, driftEvents := 0, cls := 0, conf := 0, journalPos := [] }

/-- A logic check interrupts a running job: it is replayed, or it ends with UNCORRECTABLE. -/
def interrupt (s : State) (jn : Nat) (j : Job) (wait : Bool) : State :=
  if !bitOf (reg s 0x90004) 5 then failReplay s jn j
  else if !j.replayable then failReplay (c32 s 0x90054 1) jn j
  else if 3 ≤ j.attempt then
    let s := logRec (c32 s 0x90054 1) 0x0F 2 { status := stUncorr, fn := some j.fn.toNat, slot := some j.slot.toNat, aux := j.attempt, detail := jobTag j }
    failReplay s jn j
  else
    modJob (haltAttempt s jn) jn (fun j => nextAttempt j wait)

/-- The attempt in which a check of a job's unit fails: one that is stopped already, if the job is to run again. -/
def failedAttempt (j : Job) : Nat := if j.st = .running then j.attempt else j.attempt - 1

/-- A check on a Chamber engine or Bobbin core fails during its job (R410, R422): a running job is interrupted; for one
that is to run again anyway, its next attempt serves both. -/
def jobCheck (s : State) (utype unit : Nat) (check : U64) : State :=
  match unitJob s utype unit with
  | none => s
  | some jn =>
    match getJob s jn with
    | none => s
    | some j =>
      if j.st ≠ .running ∧ j.attempt ≤ 1 then s
      else
        let p := physOf s utype unit
        let (n, s) := winCount s (winKey utype p) (2 ^ 32)
        let a := failedAttempt j
        let s := logRec s 0x0A 0 { utype := utype, unit := p, aux := a, count := n, detail := check.toNat, detail2 := jobTag j
                                   fn := some j.fn.toNat, slot := some j.slot.toNat }
        let again := j.checks.any (fun e => decide (e.1 < a) && e.2.1 == utype * 4096 + p && (utype == 3 || e.2.2 == check))
        let s := modJob s jn (fun j => { j with checks := j.checks ++ [(a, utype * 4096 + p, check)] })
        let (gone, s) := if again ∨ 4 ≤ n then thresholdRetire s utype unit n 32 else (false, s)
        let wait := gone && repairPending s utype unit
        match getJob s jn with
        | none => s
        | some j =>
          if smGet false s.flt.outOf (utype * 4096 + unit) then failReplay s jn j
          else if j.st = .running then interrupt s jn j wait
          else modJob s jn (fun j => { j with awaitRepair := j.awaitRepair || wait })

/-- The work of the unit is computed again on it (R410): one record for each failed run, and whether it is retired. -/
def rerunCheck (s : State) (utype unit : Nat) (check : U64) (rerunFails window : Bool) : Bool × Nat × State :=
  let p := physOf s utype unit
  let one (s : State) (a : Nat) : Nat × State :=
    let (n, s) := if window then winCount s (winKey utype p) (2 ^ 32) else (0, s)
    (n, logRec s 0x0A 0 { utype := utype, unit := p, aux := a, count := n, detail := check.toNat, detail2 := (Config.tagPair 0 0x3FF).toNat })
  let (n, s) := one s 1
  let (n, s) := if rerunFails then one s 2 else (n, s)
  (rerunFails || decide (window = true ∧ 4 ≤ n), n, s)

/-- A unit without spares is retired: an Edging engine or a codec unit. -/
def retireBare (s : State) (utype unit n len : Nat) : State :=
  let (go, s) := autoRetire s utype unit unit n len
  if !go then s
  else
    let s := logRec s 0x0B 0 { utype := utype, unit := unit, aux := unit, count := n, detail := n, detail2 := len }
    c32 { s with flt := { s.flt with retired := smSet false s.flt.retired (utype * 4096 + unit) true } } 0x90058 1

def unitsLeft (s : State) (utype : Nat) : Nat := ((List.range 4).filter (fun u => !smGet false s.flt.retired (utype * 4096 + u))).length

/-- A check on an Edging engine; on the last one in service it is fatal (R402, R412). -/
def edgCheck (s : State) (e : Nat) (check : U64) (rerunFails : Bool) : State :=
  if smGet false s.flt.retired (5 * 4096 + e) then s
  else if unitsLeft s 5 = 1 then fatalEvent (logRec s 0x0D 2 { utype := 5, unit := e, aux := e }) 5
  else
    let (gone, n, s) := rerunCheck s 5 e check rerunFails true
    if gone then retireBare s 5 e n 32 else s

def codecCheck (s : State) (u : Nat) (check : U64) (rerunFails : Bool) : State :=
  if smGet false s.flt.retired (8 * 4096 + u) then s
  else
    let (gone, n, s) := rerunCheck s 8 u check rerunFails false
    if gone then retireBare s 8 u n 0 else s

def picotCheck (s : State) (c : Nat) (check : U64) (rerunFails : Bool) : State :=
  if smGet false s.flt.outOf (2 * 4096 + c) then s
  else
    let (gone, n, s) := rerunCheck s 2 c check rerunFails true
    if gone then (thresholdRetire s 2 c n 32).2 else s

/-- LOGIC_CHECK_FAIL (R408, R410). -/
def execLogicCheckFail (utype : BitVec 4) (unit : BitVec 12) (check : U64) (rerunFails : Bool) (s : State) : Out State :=
  let u := unit.toNat
  if (utype = 4 ∧ u < 16) ∨ (utype = 3 ∧ u < 256) then .next (live s fun s => jobCheck s utype.toNat u check)
  else if utype = 2 ∧ u < 512 then .next (live s fun s => picotCheck s u check rerunFails)
  else if utype = 5 ∧ u < 4 then .next (live s fun s => edgCheck s u check rerunFails)
  else if utype = 8 ∧ u < 4 then .next (live s fun s => codecCheck s u check rerunFails)
  else .fault (.illFormed "LOGIC_CHECK_FAIL")

/-! ## The ends of repairs (R198, R411, R413, R414, R425) -/

/-- Jobs that waited for repairs of their units may go on. -/
def wakeJobs (s : State) (utype unit : Nat) : State :=
  s.jobs.foldl (fun t e => match getJob t e.1 with
    | some j =>
      if jobOnUnit t j utype unit ∧ 1 < j.attempt ∧ j.st = .queued then
        let more := (t.flt.repair.toList ++ t.flt.repairQ).any (fun r => !r.cmd && jobOnUnit t j r.utype.toNat r.unit.toNat)
        modJob t e.1 (fun j => { j with awaitRepair := more })
      else t
    | none => t) s

/-- The map shows the spare (R411). -/
def switchMap (s : State) (r : Repair) : State :=
  let ut := r.utype.toNat
  let u := r.unit.toNat
  let old := physOf s ut u
  let s := { s with flt := { s.flt with map := smPut s.flt.map (ut * 4096 + u) r.spare } }
  logRec s 0x0C 0 { utype := ut, unit := r.spare, aux := u, detail := old }

/-- The repair in progress is over, and the next begins. -/
def endRepair (s : State) (r : Repair) : State :=
  let s := endCmd { s with flt := { s.flt with repair := none } } r stOk
  let s := wakeJobs s r.utype.toNat r.unit.toNat
  nextRepair s (s.flt.repairQ.length)

/-- Versions whose placement gives engine `e` a rank have their RESIDENT blobs written again, from the slot store (R360,
R411). -/
def rewriteEngine (s : State) (e : Nat) : State :=
  s.slots.foldl (fun t q => if tierOf q.1 ≠ 2 then t else [false, true].foldl (fun t b =>
    match versionOf q.2 b, (placedEngines q.2 b).findIdx? (· == e) with
    | some v, some r => restoreResident t v.image r e
    | _, _ => t) t) s

/-- The LOCAL blobs of the core's role are written again, from the slot store (R198, R360). -/
def rewriteCore (s : State) (c : Nat) : State :=
  let k := getCore s c
  if k.slot = 0 then s else restoreLocals s (coreImage s k) k.rank.toNat c

/-- A Chamber engine's spare takes over (R411). -/
def moveEngine (s : State) (r : Repair) : State :=
  let e := r.unit.toNat
  switchMap (rewriteEngine (zeroRegion s (spChamber e + 0x1000)) e) r

/-- A rank moves to a spare core (R196, R198): both epochs advance. -/
def moveCore (s : State) (r : Repair) : State :=
  let c := r.unit.toNat
  let old := physCore s c
  let k := getCore s c
  let step : U16 := if k.slot = 0 then 0 else 1
  let s := rewriteCore (zeroRegion s (spBobbin c)) c
  let s := { s with flt := { s.flt with physEpoch := smSet 0 (smSet 0 s.flt.physEpoch old (k.epoch + step)) r.spare 0 } }
  let s := modCore s c (fun k => { k with epoch := smGet 0 s.flt.physEpoch r.spare + step })
  switchMap s r

/-- No attempt of a job runs on the unit, and its tier is up. -/
def unitFree (s : State) (r : Repair) : Bool :=
  (if r.utype = 4 then chmRuns s else bobRuns s) &&
  (match unitJob s r.utype.toNat r.unit.toNat with | some jn => !jobRuns s jn | none => true)

/-- SPARE_BRINGUP_DONE (R198, R411); the end of a RESTORE too (R425). -/
def execSpareBringupDone (s : State) : Out State :=
  .next (live s fun s => match s.flt.repair with
    | none => s
    | some r =>
      if (r.utype ≠ 3 ∧ r.utype ≠ 4) ∨ !unitFree s r then s
      else if r.restore then endRepair (if r.utype = 3 then rewriteCore s r.unit.toNat else rewriteEngine s r.unit.toNat) r
      else if r.utype = 3 then endRepair (moveCore s r) r
      else endRepair (moveEngine s r) r)

/-- No instance on the core is within a closure (R413). -/
def coreSettled (s : State) (core : Nat) : Bool :=
  (streamsOn s core).all (fun st => (getStream s st).waiting.isNone && (match getInst s st with | some i => i.waitAck.isNone | none => true))

/-- The placements that hold Picot core `u`: base, cores in whole groups, and cores of a group (R137, R155). -/
def groupsOf (s : State) (u : Nat) : List (Nat × Nat × Nat) :=
  s.slots.flatMap (fun e => if tierOf e.1 ≠ 0 then [] else [false, true].flatMap (fun b =>
    match versionOf e.2 b with
    | none => []
    | some v =>
      let w := rangeOf0 e.2 b
      let n := t0Span v.image
      if u < rangeBase w ∨ rangeBase w + rangeCount w ≤ u then [] else [(rangeBase w, rangeCount w / n * n, n)]))

/-- The cores at the same place in the other groups of the ranges that hold core `u`: their tables are the same (R155). A
core left over by the groups has none. -/
def twinCores (s : State) (u : Nat) : List Nat :=
  (groupsOf s u).flatMap (fun g =>
    if g.1 + g.2.1 ≤ u then []
    else (List.range g.2.1).filterMap (fun k =>
      if g.1 + k ≠ u ∧ k % g.2.2 = (u - g.1) % g.2.2 then some (g.1 + k) else none))

/-- A table word of a core that cannot be read comes from another group's core, if one has it (R413). A core that stands
in no group holds no tables: the word is 0 there. -/
def mendTable (s : State) (u k : Nat) : Bool × State :=
  let take (bs : Bytes) : State := { poke s k bs with flaws := smSet 0 s.flaws k 0 }
  if (groupsOf s u).all (fun g => decide (g.1 + g.2.1 ≤ u)) then (true, take [0, 0, 0, 0])
  else match (twinCores s u).find? (fun c => smGet 0 s.flaws (mkey (spPicot c) (keyOff k)) < 2) with
    | some c => (true, take (peek s (mkey (spPicot c) (keyOff k)) 4))
    | none => (false, s)

/-- The words of a core as the copy of R413 reads them: whether each could be had. -/
def copyCore (s : State) (u : Nat) : Bool × State :=
  let s := mendPicot s u
  (s.flaws.filter (fun e => keySpace e.1 == spPicot u)).foldl (fun (ok, t) e => let (o, t) := mendTable t u e.1; (ok && o, t)) (true, s)

/-- PICOT_CORE_MOVE (R413). A core with table words that no other group has is treated as one without a spare (R412). -/
def execPicotCoreMove (s : State) : Out State :=
  .next (live s fun s => match s.flt.repair with
    | none => s
    | some r =>
      let u := r.unit.toNat
      if r.utype ≠ 2 ∨ !coreSettled s u then s
      else
        let (ok, t) := copyCore s u
        if ok then endRepair (holdMoves (switchMap t r) u false) r
        else
          let t := noSpare { holdMoves t u false with flt := { t.flt with repair := none } } r
          nextRepair t t.flt.repairQ.length)

/-- BANK_COPY_DONE (R414). -/
def execBankCopyDone (s : State) : Out State :=
  .next (live s fun s => match s.flt.repair with
    | none => s
    | some r => if r.utype ≠ 6 then s else endRepair (switchMap s r) r)

/-! ## Commands of the PF (R404, R425, R426) -/

/-- FLT_LOG_TAIL (R404). -/
def execFltLogTailWrite (w : U32) (s : State) : Out State :=
  .next (bar0 s 0 true fun s =>
    let t := w.setWidth 9
    if t - s.flt.tail ≤ s.flt.head - s.flt.tail then { s with flt := { s.flt with tail := t } } else s)

/-- The fields of FLT_REPAIR_CMD as written. -/
def putRepairCmd (s : State) (utype unit op : Nat) : State := setReg s 0x900A0 (utype + unit * 16 + op * 2 ^ 16)

/-- The unit numbers of R425. -/
def repairable (utype unit : Nat) : Bool :=
  (utype == 2 && decide (unit < 512)) || (utype == 3 && decide (unit < 256)) || (utype == 4 && decide (unit < 16)) || (utype == 6 && decide (unit < 32))

/-- FLT_REPAIR_CMD with GO (R425). -/
def repairCmd (s : State) (utype unit op : Nat) : State :=
  let s := putRepairCmd s utype unit op
  if s.flt.cmdBusy ∨ s.flt.repair.isSome ∨ !repairable utype unit ∨ !(op == 1 || (op == 2 && (utype == 3 || utype == 4))) then
    { s with flt := { s.flt with cmdStatus := BitVec.ofNat 8 stBad } }
  else
    let s := { s with flt := { s.flt with cmdBusy := true } }
    if op = 1 then retireUnit s utype unit 0 0 true
    else queueRepair s { utype := BitVec.ofNat 4 utype, unit := BitVec.ofNat 12 unit, restore := true, spare := 0, cmd := true }

/-- RETIRE (R425). -/
def execFltRetire (utype : BitVec 4) (unit : BitVec 12) (s : State) : Out State := .next (bar0 s 0 true fun s => repairCmd s utype.toNat unit.toNat 1)
/-- RESTORE (R425). -/
def execFltRestore (utype : BitVec 4) (unit : BitVec 12) (s : State) : Out State := .next (bar0 s 0 true fun s => repairCmd s utype.toNat unit.toNat 2)

/-- FLT_CLEAR.CLR. -/
def execFltClear (s : State) : Out State :=
  .next (bar0 s 0 true fun s => clearCtrs s [0x90040, 0x90044, 0x90048, 0x9004C, 0x90050, 0x90054, 0x90058, 0x9005C, 0x90060, 0x90068, 0x9006C])

/-! ## Scrubbers (R355, R356, R358, R364, R410, R415) -/

/-- A row or a pseudo-channel (`whole`) is retired in place; a full list keeps it in service (R415). -/
def retireRow (s : State) (st p row n len : Nat) (whole : Bool) : State :=
  let w := st + p * 8 + (if whole then 2 ^ 30 else row * 2 ^ 9) + 2 ^ 31
  let un := st + p * 8
  if (s.flt.dramRet.contains (BitVec.ofNat 32 w)) then s
  else
    let (go, s) := autoRetire s 7 un 0 n len
    if !go then s
    else
      let full := decide (256 ≤ s.flt.dramRet.length)
      let s := logRec s (if whole then 0x11 else 0x10) (if whole then 2 else 0)
        { utype := 7, unit := un, count := n, detail := if full then 0 else if whole then un else w }
      if full then s else c32 { s with flt := { s.flt with dramRet := s.flt.dramRet ++ [BitVec.ofNat 32 w] } } 0x90058 1

/-- The fault manager takes up the retirements for which it has cause (R410, R415). -/
def settleVerdicts (s : State) : State :=
  s.flt.due.foldl (fun t v => match v with
    | .unit ut u n len => (thresholdRetire t ut u n len).2
    | .row st p row n len whole => retireRow t st p row n len whole) { s with flt := { s.flt with due := [] } }

/-- Key of the sector that a find of DRAM_SCRUB names, at position `pos` of the scrubber: `at_` is sector + 2 × stack +
16 × pseudo-channel. -/
def scrubSector (pos : Nat) (f : Finding) : Nat :=
  let st := f.at_ / 2 % 8
  let u := pos / 4
  mkey spDram (u * 2 ^ 17 + f.at_ / 16 * 2 ^ 11 + ((st ^^^ u) % 8) * 2 ^ 8 + pos % 4 * 64 + f.at_ % 2 * 32)

/-- The errors that memory holds in the units at position `pos` of the DRAM scrubber. -/
def scrubFlaws (s : State) (pos : Nat) : State :=
  let here (e : Nat × BitVec 2) : Bool :=
    keySpace e.1 == spDram && keyOff e.1 / 2 ^ 17 == pos / 4 && keyOff e.1 / 64 % 4 == pos % 4
  (s.flaws.filter here).foldl (fun t e => dramError t e.1 (e.2 == 2) true) { s with flaws := s.flaws.filter (fun e => !here e) }

/-- SRAM_SCRUB (R358): in Run and Idle, and in Watch up to the shared area, where it waits for the move to Idle (R359). -/
def execSramScrub (finds : List Finding) (s : State) : Out State :=
  if !finds.all (fun f => decide (f.at_ < 16)) then .fault (.illFormed "SRAM_SCRUB")
  else .next (live s fun s =>
    if !bitOf (reg s 0x50030) 0 || !(memAwake s || s.pwr.state == .watch) then s
    else if s.pwr.state = .watch ∧ galShared ≤ s.memLogs.sramPos * 128 then s
    else
      let line := s.memLogs.sramPos
      let s := cntRd (memOps (eccRead s (mkey spGal (line * 128)) 128 true) spGal (line * 128) 128) spGal 128
      let s := settleVerdicts (finds.foldl (fun t f => galError t (mkey spGal (line * 128 + 8 * f.at_)) f.uncorr true) s)
      let last := decide (1572864 ≤ line + 1)
      { s with memLogs := { s.memLogs with sramPos := if last then 0 else line + 1
                                           sramPass := if last then s.memLogs.sramPass + 1 else s.memLogs.sramPass } })

/-- The windows of every pseudo-channel pass one access. -/
def scrubPass (s : State) : State :=
  if s.flt.wins.isEmpty then s
  else { s with flt := { s.flt with wins := s.flt.wins.filterMap (fun e =>
    if e.1 / 2 ^ 40 % 16 ≠ 7 then some e else if e.2.2 ≤ 1 then none else some (e.1, (e.2.1, e.2.2 - 1))) } }

/-- DRAM_SCRUB (R358): in Run and Idle. -/
def execDramScrub (finds : List Finding) (s : State) : Out State :=
  if !finds.all (fun f => decide (f.at_ < 1024)) then .fault (.illFormed "DRAM_SCRUB")
  else .next (live s fun s =>
    if !bitOf (reg s 0x50030) 1 || !memAwake s || !dramOn s then s
    else
      let pos := s.memLogs.dramPos
      let s := cntRd (scrubPass (scrubFlaws s pos)) spDram (512 * 64)
      let s := settleVerdicts (finds.foldl (fun t f => dramError t (scrubSector pos f) f.uncorr true) s)
      let last := decide (6291456 ≤ pos + 1)
      { s with memLogs := { s.memLogs with dramPos := if last then 0 else pos + 1
                                           dramPass := if last then s.memLogs.dramPass + 1 else s.memLogs.dramPass } })

/-- STACK_TEMPERATURE (R354). -/
def execStackTemperature (stack : BitVec 3) (temp : U8) (s : State) : Out State :=
  .next (fltLive s fun s =>
    let hot := if 85 < temp.toNat then true else if temp.toNat < 83 then false else smGet false s.stackHot stack.toNat
    { s with stackTemp := smSet 0 s.stackTemp stack.toNat temp, stackHot := smSet false s.stackHot stack.toNat hot })

/-- GAL_CLEAR.CLR (R363). -/
def execGalClear (s : State) : Out State :=
  .next (bar0 s 0 false fun s =>
    let s := clearCtrs s [0x50040, 0x50044, 0x50048, 0x5004C, 0x50050, 0x50054, 0x50058, 0x50060, 0x50068, 0x50070, 0x50078]
    { s with memLogs := { s.memLogs with snapPeak := 0, sramPass := 0, dramPass := 0 } })

end Sys2Proof.Machine
end

