-- ==== Sys2Proof/Machine/Protection.lean ====
section
/-! DEFINITION. Protection.lean: the shadow tables and their commit (R103 to R107), revocation (R58, R106), and the
function-level reset (R108, R398). -/

namespace Sys2Proof.Machine

/-! ## The shadow (R104) -/

def protTable (s : State) : Nat := reg s 0x10000 % 8
def protIndex (s : State) : Nat := fld (reg s 0x10000) 16 14
/-- The selected entry exists. -/
def protSelOk (s : State) : Bool := decide (protTable s < 6) && decide (protIndex s < protCount (protTable s))

/-- A map with entry `i` of table `t` written, bits beyond its width being ignored. -/
def protPut (m : SMap (BitVec 128)) (t i : Nat) (v : Nat) : SMap (BitVec 128) :=
  smSet (protDefault t i) m (protKey t i) (BitVec.ofNat 128 (v % 2 ^ protWidth t))

def protStage (s : State) : State :=
  if protSelOk s then { s with prot := { s.prot with shadow := protPut s.prot.shadow (protTable s) (protIndex s) s.prot.staging.toNat } }
  else s

/-- STAGE (R104). -/
def execProtStage (s : State) : Out State := .next (bar0 s 0 false protStage)

def protDiscard (s : State) : State := { s with prot := { s.prot with shadow := s.prot.active } }

/-- DISCARD (R104). -/
def execProtDiscard (s : State) : Out State := .next (bar0 s 0 false protDiscard)

/-! ## The check of a commit (R105) -/

/-- A valid window has a size and lies in its region. -/
def windowFits (e : Nat) : Bool :=
  !bitOf e 43 || (fld e 17 17 != 0 && decide (fld e 0 17 + fld e 17 17 ≤ if bitOf e 42 then 96 else 98304))

/-- OWNER and LOCAL of every valid RING entry. -/
def ringNames (m : SMap (BitVec 128)) : List Nat :=
  (List.range 1024).filterMap (fun i => let e := protIn m 1 i; if bitOf e 12 then some (e % 4096) else none)

def allDistinct : List Nat → Bool
  | [] => true
  | x :: r => !r.contains x && allDistinct r

def tablesOk (m : SMap (BitVec 128)) : Bool :=
  (protListed m 3).all (fun i => windowFits (protIn m 3 i)) && allDistinct (ringNames m)

/-! ## Revocation (R58, R106, R107) -/

/-- A right that a job has used is granted no more. -/
def lostTouch (s : State) (fn key : Nat) : Bool :=
  if 2 ^ 22 ≤ key then !ownsKnot s fn (key - 2 ^ 22)
  else !windowOk s fn (key / 2 ^ 20) (key % 2 ^ 19 * 2 ^ 21) (2 ^ 21) (key / 2 ^ 19 % 2 == 1)

/-- Running jobs that touched a right now revoked keep BUSY at 1 (R107), as does one that touches it later (`refuseAccess`); those that wait for their replay too (R422). -/
def markRevoked (s : State) : State :=
  { s with jobs := smMap none s.jobs (fun _ o => o.map (fun j =>
      if (j.st != .queued || decide (1 < j.attempt)) && (j.touched.any (lostTouch s j.fn.toNat) || !mayUse s j.fn.toNat j.slot.toNat) then { j with revoked := true } else j)) }

/-- Ring pairs given to another function or made invalid are aborted (R77), and the new owner finds them disabled.
`old`: the tables before the commit. -/
def revokeRings (old : State) (s : State) : State :=
  (s.rings.map (·.1)).foldl (fun t p =>
    let r := getRing t p
    if (ringOwner old p).isSome ∧ ringOwner old p ≠ ringOwner t p ∧ (r.enabled || ringBusy r) then
      modRing (abortRing t p) p (fun r => { r with enabled := false }) else t) s

/-- Reports held for the old owner of INGEST_RING are discarded and counted (R106). -/
def discardReports (s : State) (st : Nat) : State :=
  let x := getStream s st
  if ownsRing s x.ctx.owner.toNat x.ctx.ingestRing.toNat then s
  else modStream (c32 s 0x9005C x.reports.length) st (fun x => { x with reports := [] })

/-- What a commit does to one stream. -/
def revokeStream (s : State) (st : Nat) : State :=
  let x := getStream s st
  let fn := x.ctx.owner.toNat
  if x.ctx.state = 0 then s
  else
    let s := discardReports s st
    if !ownsStream s fn st then startAct s st (.close x.closeDesc)
    else if x.ctx.state ≠ 1 ∧ x.ctx.state ≠ 2 then s
    else if !ownsRing s fn x.ctx.ingestRing.toNat || !ownsRing s fn x.ctx.notifyRing.toNat then suspendStream s st
    else if !(List.range x.ctx.nstage.toNat).all (fun k => mayUse s fn (stageOf x.ctx k).slot.toNat) then
      modStream s st (fun x => { x with useRevoked := true })
    else s

/-- Remote events held for a chip to which their function has lost the right are refused (R106): they count at the end of
their step (R385). -/
def revokeEvents (s : State) : State :=
  let gone (chip : Nat) (e : HeldEv) : Bool := !passageRight s (getStream s e.st.toNat).ctx.owner.toNat 1 chip
  let sts := s.evHold.flatMap (fun h => (h.2.filter (gone h.1)).map (fun e => e.st.toNat))
  sts.foldl (fun t st => modInst t st (fun i => { i with cutRight := true }))
    { s with evHold := smMap [] s.evHold (fun chip es => es.filter (fun e => !gone chip e)) }

/-- A conduit whose transfer is under way without its rights (R382). -/
def revokeConduit (s : State) (n : Nat) : State :=
  let c := getConduit s n
  if c.state = 2 ∧ !(cndRights s c).1 then abortSend (noRight s 1) n stProtection else s

def revokeAll (old s : State) : State :=
  let s := revokeRings old (markRevoked s)
  let s := revokeEvents ((s.streams.map (·.1)).foldl revokeStream s)
  (s.conduits.map (·.1)).foldl revokeConduit s

/-- Any entry of the protection tables. -/
def anyProt (w : CtlWord) : Bool := match w with | .prot .. => true | _ => false

/-- COMMIT (R105): every entry of the tables in force is looked up. -/
def protCommit (s : State) : State :=
  if s.prot.busy then { s with prot := { s.prot with cmdLost := true } }
  else if !tablesOk s.prot.shadow then { s with prot := { s.prot with conflict := true } }
  else useCtl s anyProt fun s =>
    revokeAll s { s with prot := { s.prot with active := s.prot.shadow, old := s.prot.active, commits := s.prot.commits + 1, busy := true } }

/-- COMMIT (R105, R106). -/
def execProtCommit (s : State) : Out State := .next (bar0 s 0 false protCommit)

/-- PROT_COMMIT_DONE (R107). -/
def execProtCommitDone (s : State) : Out State :=
  .next (hostLive s fun s =>
    if s.jobs.any (fun e => match e.2 with | some j => j.revoked | none => false) || s.knotOps.any (opRevoked s) then s
    else { s with prot := { s.prot with busy := false, old := [] } })

/-- A write of PROT_CMD acts in bit order (R104). -/
def protCmd (s : State) (w : Nat) : State :=
  let s := if bitOf w 0 then protStage s else s
  let s := if bitOf w 1 then protCommit s else s
  if bitOf w 2 then protDiscard s else s

/-! ## Function-level reset (R57, R108, R398) -/

/-- A job stops without completion, result or signal; its units take their next job. A TRAIN_STEP that is being applied
has left its engines, and been counted. -/
def dropJob (s : State) (jn : Nat) : State :=
  match getJob s jn with
  | none => s
  | some j =>
    let s := endWaitsOf s (isJobWait jn)
    let s := if j.st = .queued ∧ j.attempt ≤ 1 ∨ j.finished ∨ j.st = .applying then s else leaveUnits s jn j
    let s := match j.buf with | some b => dropSnap s b | none => s
    setJob (freeEngines s jn) jn none

/-- A SLOT_LOAD stops: an image that waits for the active range of a Tier 0 slot is dropped, and a Tier 0 version whose
ranges have exchanged roles stays in force, without a completion. -/
def stopLoad (s : State) (slot : Nat) : State :=
  let x := getSlot s slot
  match x.load with
  | none => s
  | some l =>
    if tierOf slot = 0 then modSlot s slot (fun x => { x with load := if l.image.isSome then none else some { l with mute := true } })
    else modSlot (retireVersion s slot (if x.moving then !x.activeB else x.activeB)) slot (fun x => { x with load := none, moving := false })

/-- The descriptor that a message belongs to is the function's. -/
def refIsOf (s : State) (fn : Nat) (q : DescRef) : Bool := match findDesc s q with | some d => d.fn.toNat == fn | none => false

/-- The function's descriptors are discarded on whatever pair they stand: its KNOT_WAITs end and its loads stop. -/
def dropDescs (s : State) (fn : Nat) : State :=
  let s := endWaitsOf s (fun o => match o with | .ring q => refIsOf s fn q | _ => false)
  let s := ((s.slots.filter (fun e => match e.2.load with | some l => refIsOf s fn l.ref | none => false)).map (·.1)).foldl stopLoad s
  { s with rings := smMap {} s.rings (fun _ r => { r with inflight := r.inflight.filter (fun d => d.fn.toNat != fn) }) }

/-- The pair takes its Reset values, and RGEN advances. -/
def flrRing (s : State) (p : Nat) : State := { s with rings := smSet {} s.rings p { rgen := (getRing s p).rgen + 1 } }

/-- The stream is closed without notification, report or close completion (R57). -/
def flrStream (s : State) (st : Nat) : State :=
  let s := modStream s st (fun x => { x with ingests := [], reports := [], specOwed := none, act := none })
  let s := modStream (closeNoDrain s st none) st (fun x => { x with reports := [] })
  { s with results := s.results.filter (fun r => r.st.toNat != st) }

/-- A conduit of the function is disabled (R398). -/
def flrConduit (s : State) (n : Nat) : State :=
  modConduit (disarmConduit s n) n (fun c => { c with ctrl := c.ctrl &&& 0xFFFFFFFE, state := 0 })

/-- The sticky registers of configuration space: AER status, masks, severity and header log. -/
def aerKeys : List Nat := [0x104, 0x108, 0x10C, 0x110, 0x114, 0x118, 0x11C, 0x120, 0x124, 0x128]

/-- The function's configuration after an FLR: D0, no mastering, no MSI-X; PME_En, PME_Status and AER are sticky. -/
def flrFn (f : Fn) : Fn := { pmeEn := f.pmeEn, pmeStatus := f.pmeStatus, cfg := f.cfg.filter (fun e => aerKeys.contains e.1) }

/-- An FLR of one function. -/
def flrOne (s : State) (fn : Nat) : State :=
  let s := ((s.jobs.filter (fun e => match e.2 with | some j => j.fn.toNat == fn | none => false)).map (·.1)).foldl dropJob s
  let s := dropDescs s fn
  let s := ((List.range 1024).filter (ownsRing s fn)).foldl flrRing s
  let s := ((s.streams.filter (fun e => e.2.ctx.state != 0 && e.2.ctx.owner.toNat == fn)).map (·.1)).foldl flrStream s
  let s := ((s.conduits.filter (fun e => conduitOwner e.2 == fn)).map (·.1)).foldl flrConduit s
  modFn s fn flrFn

/-- FLR (R108): of the PF, an FLR of every VF too. -/
def execFlr (fn : FnId) (s : State) : Out State :=
  .next (hostLive s fun s =>
    if !fnPresent s fn.toNat then s
    else useCtl s (tableWords 1) fun s => if fn ≠ 0 then flrOne s fn.toNat
    else { (List.range 64).foldl flrOne s with vfEnable := false })

end Sys2Proof.Machine
end

