-- ==== Sys2Proof/Machine/Lantern.lean ====
section
/-! DEFINITION. Lantern.lean: the configuration flash and its copies (R455 to R464, R467 to R469), the boot
configuration store (R458 to R462), and the write-limited bank (R470). -/

namespace Sys2Proof.Machine

/-! ## Copies (R456, R457, R463) -/

/-- Word of a copy that begins at key `k`. -/
def copyAt (s : State) (k off : Nat) : Nat := leNat (peek s (k + off) 4)

/-- Every word agrees with its partner, in `n` pairs. -/
def pairsOk (s : State) (k n : Nat) : Bool := (List.range n).all (fun i => copyAt s k (8 * i) + copyAt s k (8 * i + 4) == 0xFFFFFFFF)

/-- R456 on a copy of a record, or of microcode if `uc`. -/
def copyValid (s : State) (k : Nat) (uc : Bool) : Bool :=
  let len := copyAt s k 0x18
  let w := copyAt s k 8
  copyAt s k 0 == (if uc then 0x5543424E else 0x5243424E) && w % 256 == 1 && decide (40 ≤ len ∧ len ≤ 65536) && len % 8 == 0 &&
  (uc || len == 40 + 16 * fld w 8 13) && pairsOk s k (len / 8) && copyAt s k (len - 8) == (crc32 (peek s k (len - 8))).toNat

/-- Key of flash copy `n`: 0 and 1 the records, 2 and 3 the microcode (R455). -/
def flashKey (n : Nat) : Nat := mkey spFlash (n * 0x10000)

def flashValid (s : State) (n : Nat) : Bool := !smGet false s.lnt.flashBad n && copyValid s (flashKey n) (decide (2 ≤ n))
def flashSeq (s : State) (n : Nat) : Nat := copyAt s (flashKey n) 0x10
/-- EPOCH of a microcode copy. -/
def copyEpoch (s : State) (k : Nat) : Nat := fld (copyAt s k 8) 8 8

/-- Of two copies `n` and `n + 1`, the one with the higher SEQ among those that qualify. -/
def pickCopy (s : State) (ok : Nat → Bool) (n : Nat) : Option Nat :=
  match ok n, ok (n + 1) with
  | true, true => some (if flashSeq s n < flashSeq s (n + 1) then n + 1 else n)
  | true, false => some n
  | false, true => some (n + 1)
  | false, false => none

/-! ## Items (R458 to R460) -/

/-- NDIV, FDIV and PDIV of R429, as CLK_PLL_CFG holds them. -/
def pllRow (p : Nat) : Nat :=
  let r := ([(20, 0, 1), (25, 0, 1), (30, 0, 1), (30, 0, 1), (27, 22528, 0), (160, 0, 0), (140, 0, 0)] : List (Nat × Nat × Nat))[p]?.getD (0, 0, 0)
  r.1 + r.2.1 * 2 ^ 8 + r.2.2 * 2 ^ 24

/-- The limits of R429 on PLLs 2 and 3: VCO, NDIV and output. -/
def pllLimits (v : Nat) : Bool :=
  let vco := fld v 0 8 * 65536 + fld v 8 16
  decide (20 ≤ fld v 0 8 ∧ fld v 0 8 ≤ 60 ∧ vco ≤ 60 * 65536 ∧ vco ≤ 15 * 65536 * 2 ^ fld v 24 2)

def pllCfgOk (p v : Nat) : Bool := if p = 2 ∨ p = 3 then pllLimits v else v % 2 ^ 26 == pllRow p

/-- The write that an item stands for would take effect, and its tag is not reserved. -/
def itemOk (key v : Nat) : Bool :=
  let t := key % 65536
  let i := key / 65536
  if t = 1 ∨ t = 2 ∨ t = 5 ∨ t = 0xE then i == 0
  else if t = 3 then i == 0 && decide (1 ≤ v % 64 ∧ v % 64 ≤ 32)
  else if t = 4 then decide (i ≤ 6) && pllCfgOk i v
  else if t = 6 ∨ t = 7 then decide (i < 64) && decide (rangeBase (v % 2 ^ 19) + rangeCount (v % 2 ^ 19) ≤ 512)
  else if t = 8 ∨ t = 9 then decide (i < 256) && tierOf i == 1 && placeOk (v % 2 ^ 18)
  else if t = 0xA ∨ t = 0xB then decide (i < 256) && tierOf i == 2
  else if t = 0xC then decide (i < 4)
  else if t = 0xD then decide (i < 4096)
  else if 0x100 ≤ t ∧ t < 0x118 then decide (i < protCount ((t - 0x100) / 4))
  else false

/-- The items of the record at key `k`. -/
def recordItems (s : State) (k : Nat) : List (U32 × U32) :=
  (List.range (fld (copyAt s k 8) 8 13)).map (fun i =>
    (BitVec.ofNat 32 (copyAt s k (0x20 + 16 * i)), BitVec.ofNat 32 (copyAt s k (0x28 + 16 * i))))

/-- What the store gives for a tag and index: the later item wins. -/
def bootVal (items : List (U32 × U32)) (tag idx : Nat) : Option Nat :=
  (items.reverse.find? (fun e => e.1.toNat == tag + idx * 65536)).map (·.2.toNat)

/-- Word `w` of an entry replaced. -/
def setWord32 (v w x : Nat) : Nat := v - fld v (32 * w) 32 * 2 ^ (32 * w) + x * 2 ^ (32 * w)

/-- The protection entries that the items gather, each from zero. -/
def bootEntries (items : List (U32 × U32)) : SMap (BitVec 128) :=
  items.foldl (fun m e =>
    let t := e.1.toNat % 65536
    if t < 0x100 then m
    else
      let k := protKey ((t - 0x100) / 4) (e.1.toNat / 65536)
      smPut m k (BitVec.ofNat 128 (setWord32 ((smFind m k).getD 0).toNat ((t - 0x100) % 4) e.2.toNat))) []

/-- The tables that the store gives. -/
def bootTables (items : List (U32 × U32)) : SMap (BitVec 128) :=
  (bootEntries items).foldl (fun m e => protPut m (e.1 / 0x10000) (e.1 % 0x10000) e.2.toNat) []

/-! ## Step A2 (R461, R464, R465) -/

/-- An invalid record copy: its log record waits in Lantern. -/
def holdRecord (s : State) (n : Nat) : State :=
  if flashValid s n then s
  else
    let (k, s) := takeFree s
    let seq := if smGet false s.lnt.flashBad n then Config.freeWord k else BitVec.ofNat 32 (flashSeq s n)
    setAlert { s with lnt := { s.lnt with heldRecs := s.lnt.heldRecs ++ [(n == 1, seq)] } } 1

def bootRecord (s : State) : State :=
  let s := holdRecord (holdRecord s 0) 1
  match pickCopy s (flashValid s) 0 with
  | none => { s with lnt := { s.lnt with recovery := true, cfgCopy := false, cfgOther := false, cfgSeq := 0, applied := 0, itemErr := 0
                                         protErr := false, store := [] } }
  | some n =>
    let all := recordItems s (flashKey n)
    let good := all.filter (fun e => itemOk e.1.toNat e.2.toNat)
    { s with lnt := { s.lnt with
        cfgCopy := n == 1, cfgOther := flashValid s (1 - n), cfgSeq := BitVec.ofNat 32 (flashSeq s n), store := good
        applied := BitVec.ofNat 13 good.length, itemErr := BitVec.ofNat 13 (all.length - good.length)
        protErr := !tablesOk (bootTables good) } }

def bootMicrocode (s : State) : State :=
  let ok (n : Nat) : Bool := flashValid s n && decide (s.lnt.epoch.toNat ≤ copyEpoch s (flashKey n))
  match pickCopy s ok 2 with
  | none => { s with lnt := { s.lnt with recovery := true, ucCopy := false, ucOther := false, ucFused := true, ucEpoch := 0, ucSeq := 0 } }
  | some n => { s with lnt := { s.lnt with
      ucCopy := n == 3, ucOther := ok (5 - n), ucFused := false, ucEpoch := BitVec.ofNat 8 (copyEpoch s (flashKey n))
      ucSeq := BitVec.ofNat 32 (flashSeq s n) } }

/-- Lantern chooses its copies; recovery mode sets its alert. -/
def bootChoose (s : State) : State :=
  let s := bootRecord (bootMicrocode { s with lnt := { s.lnt with recovery := false } })
  if s.lnt.recovery then setAlert s 2 else s

/-- The words of record copy `n` that disagree with their complements, whatever LENGTH they give it; undefined words
may, in any number. -/
def copyDamage (s : State) (n : Nat) : Nat × State :=
  if smGet false s.lnt.flashBad n then
    let (k, s) := takeFree s
    ((Config.freeWord k).toNat % 8193, s)
  else
    let pairs := min 8192 (max 5 (copyAt s (flashKey n) 0x18 / 8))
    (((List.range pairs).filter (fun i => !(copyAt s (flashKey n) (8 * i) + copyAt s (flashKey n) (8 * i + 4) == 0xFFFFFFFF))).length, s)

/-- The log record of an invalid copy; each damaged word is counted in FLT_CHECK (R399, R400). -/
def logCopy (s : State) (r : Bool × U32) : State :=
  let (bad, s) := copyDamage s (b2n r.1)
  logRec (c32 s 0x9006C bad) 0x18 0 { utype := 12, aux := b2n r.1, detail := r.2.toNat }

/-- Records held since step A2 are written to the log at step B5 (R461). -/
def logHeld (s : State) : State :=
  let rs := s.lnt.heldRecs
  rs.foldl logCopy { s with lnt := { s.lnt with heldRecs := [] } }

/-! ## Paths to Lantern (R469, R471, R476) -/

/-- Lantern answers on a path: the SMBus once VLANTERN is in regulation, BAR0 while the HOST domain runs. -/
def lntOn (s : State) (smb : Bool) : Bool :=
  if smb then s.pwr.state != .off || (match s.pwr.seq with | [] => false | e :: _ => e != 0)
  else hostRuns s && !s.flt.fatal

def lntLive (s : State) (smb : Bool) (g : State → State) : State := if lntOn s smb then g s else s

/-- A command over the SMBus ends with STOP, at which a new target address takes effect (R470). -/
def smbStop (s : State) : State := { s with lnt := { s.lnt with smbAddrNow := s.lnt.smbAddr } }

/-- A command that either path may bring; one of the SMBus ends with STOP. -/
def pathLive (s : State) (smb : Bool) (g : State → State) : State :=
  lntLive s smb (fun s => if smb then smbStop (g s) else g s)

/-! ### The PEC (R472) -/

/-- One bit of the PEC: a CRC-8 of the polynomial x^8 + x^2 + x + 1, as SMBus 3.2 has it. PRESUMED. -/
def pecBit (c : U8) : U8 := if c.getLsbD 7 then (c <<< 1) ^^^ 7 else c <<< 1

/-- PEC over the bytes of a transaction. PRESUMED: its form is that of SMBus 3.2. -/
def pecOf (bs : Bytes) : U8 :=
  bs.foldl (fun c b => pecBit (pecBit (pecBit (pecBit (pecBit (pecBit (pecBit (pecBit (c ^^^ b))))))))) 0

/-- The target answers a read of command `code`, to which the controller has sent the bytes `sent`: the PEC that follows
the answer covers both address bytes, the command, and what was sent and answered. -/
def smbAnswer (s : State) (code : Nat) (sent bytes : Bytes) : State :=
  let a := 2 * s.lnt.smbAddrNow.toNat
  emit s (.smbus true bytes (some (pecOf (natLE 1 a ++ natLE 1 code ++ sent ++ natLE 1 (a + 1) ++ bytes))))

def smbDrop (s : State) : State := { s with lnt := { s.lnt with smbErr := satAdd 32 s.lnt.smbErr 1 } }
def pathOf (smb : Bool) : BitVec 2 := if smb then 2 else 1

/-- A write of a staging register or LNT_FLASH_CMD over a path: locked (R471), owned by the other path (R469), or done. -/
def stageWrite (s : State) (smb : Bool) (g : State → State) : State :=
  if smb && s.lnt.smbLock then smbDrop s
  else if s.lnt.stageOwner ≠ 0 && s.lnt.stageOwner != pathOf smb then (if smb then smbDrop s else c32 s 0x90040 1)
  else g s

/-- STAGE_ADDR_WRITE (R469). -/
def execStageAddrWrite (smb : Bool) (w : U32) (s : State) : Out State :=
  .next (pathLive s smb fun s => stageWrite s smb fun s =>
    { s with lnt := { s.lnt with stageAddr := w.setWidth 16 &&& 0xFFFC, stageOwner := pathOf smb } })

def stepStage (s : State) : State := { s with lnt := { s.lnt with stageAddr := s.lnt.stageAddr + 4 } }

def putStage (s : State) (smb : Bool) (w : U32) : State :=
  stageWrite s smb fun s =>
    let s := poke s (mkey spStage s.lnt.stageAddr.toNat) (natLE 4 w.toNat)
    stepStage { s with lnt := { s.lnt with stageOwner := pathOf smb } }

/-- The staged word at ADDR; the read advances ADDR. -/
def takeStage (s : State) : U32 × State := (BitVec.ofNat 32 (leNat (peek s (mkey spStage s.lnt.stageAddr.toNat) 4)), stepStage s)

/-- STAGE_DATA_ACCESS (R469, R479). -/
def execStageDataAccess (smb write : Bool) (w : U32) (s : State) : Out State :=
  .next (pathLive s smb fun s =>
    if write then putStage s smb w
    else
      let (v, s) := takeStage s
      if smb then smbAnswer s 0x11 [] (natLE 1 4 ++ natLE 4 v.toNat) else emit s (.readData 0 0x80044 v))

def releaseStage (s : State) (smb : Bool) : State :=
  if smb && s.lnt.smbLock then smbDrop s
  else if s.lnt.stageOwner = pathOf smb then { s with lnt := { s.lnt with stageOwner := 0 } } else s

/-- RELEASE (R469). -/
def execStageRelease (smb : Bool) (s : State) : Out State := .next (pathLive s smb fun s => releaseStage s smb)

/-! ## Commits (R467, R468) -/

/-- A command ends: ownership with it (R469). -/
def endFlash (s : State) (st : Nat) : State :=
  setAlert { s with lnt := { s.lnt with flashBusy := false, flashStatus := BitVec.ofNat 8 st, flashDone := true, stageOwner := 0 } } 6

/-- A GO that is refused. -/
def refuseGo (s : State) : State :=
  { s with lnt := { s.lnt with flashStatus := BitVec.ofNat 8 stBad, flashDone := s.lnt.flashDone || !s.lnt.flashBusy } }

/-- Step 4 begins: the target is erased and programmed; it is valid once it has been read back. -/
def beginFlash (s : State) (n : Nat) : State :=
  let bs := peek s (mkey spStage 0) s.lnt.flashLen.toNat
  let s := poke (zeroRange s (flashKey n) 0x10000) (flashKey n) bs
  { s with lnt := { s.lnt with flashBusy := true, flashTgtNow := BitVec.ofNat 2 n, flashBad := smSet false s.lnt.flashBad n true } }

/-- Steps 1 to 3 of R467 on copies `n` and `n + 1`. -/
def runFlash (s : State) (n : Nat) : State :=
  let k := mkey spStage 0
  if !copyValid s k (n == 2) || copyAt s k 0x18 != s.lnt.flashLen.toNat then endFlash s stCheckFail
  else
    let valid := [n, n + 1].filter (flashValid s)
    let target := if !flashValid s n then n else if !flashValid s (n + 1) then n + 1
      else if flashSeq s n ≤ flashSeq s (n + 1) then n else n + 1
    if !valid.all (fun i => decide (flashSeq s i < copyAt s k 0x10)) || (n == 2 && decide (copyEpoch s k < s.lnt.epoch.toNat)) then
      endFlash s stBad
    else beginFlash s target

/-- The device is in Retain: a transition between states is not a state (R443). -/
def inRetain (s : State) : Bool := s.pwr.state == .retain && s.pwr.seq.isEmpty

/-- LNT_FLASH_CMD with GO. -/
def flashGo (s : State) (smb : Bool) (op : Nat) : State :=
  stageWrite s smb fun s =>
    let s := { s with lnt := { s.lnt with flashOp := BitVec.ofNat 2 op } }
    if s.lnt.flashBusy || !(op == 1 || op == 2) || inRetain s || s.lnt.stageOwner != pathOf smb then refuseGo s
    else runFlash s (2 * (op - 1))

/-- COMMIT_RECORD (R467, R468). -/
def execCommitRecord (smb : Bool) (s : State) : Out State := .next (pathLive s smb fun s => flashGo s smb 1)
/-- COMMIT_MICROCODE (R467, R468). -/
def execCommitMicrocode (smb : Bool) (s : State) : Out State := .next (pathLive s smb fun s => flashGo s smb 2)

/-- FLASH_COMMIT_DONE (R467): a copy that does not read back stays invalid. -/
def execFlashCommitDone (ok : Bool) (s : State) : Out State :=
  .next (
    if !s.lnt.flashBusy then s
    else if ok then
      endFlash { s with lnt := { s.lnt with
        flashTarget := s.lnt.flashTgtNow.getLsbD 0, flashBad := smSet false s.lnt.flashBad s.lnt.flashTgtNow.toNat false } } stOk
    else endFlash s stUncorr)

/-- A fundamental or supply reset abandons a commit (R468). -/
def abandonFlash (s : State) : State := if s.lnt.flashBusy then endFlash s stAborted else s

/-! ## The bank (R470) -/

/-- MAP, POL and LEFT of a port's lanes; the fused map is the identity. -/
def laneCfg (s : State) (p : Nat) : U16 := smGet 0x80E4 s.lnt.laneCfg p

/-- MAP is a permutation of the lanes. -/
def laneMapOk (m : Nat) : Bool := (List.range 4).all (fun i => (List.range 4).any (fun k => fld m (2 * k) 2 == i))

def bankAddr (s : State) (w : Nat) : State :=
  let v := w % 128
  if v = s.lnt.smbAddr.toNat ∨ s.lnt.smbLeft = 0 ∨ v < 8 ∨ 0x77 < v ∨ v = 0x0C ∨ v = 0x28 ∨ v = 0x37 ∨ v = 0x61 then s
  else { s with lnt := { s.lnt with smbAddr := BitVec.ofNat 7 v, smbLeft := s.lnt.smbLeft - 1 } }

def bankEpoch (s : State) (w : Nat) : State :=
  let v := w % 256
  if v ≤ s.lnt.epoch.toNat ∨ s.lnt.epochLeft = 0 ∨ s.lnt.ucEpoch.toNat < v then s
  else { s with lnt := { s.lnt with epoch := BitVec.ofNat 8 v, epochLeft := s.lnt.epochLeft - 1 } }

def bankLane (s : State) (p w : Nat) : State :=
  let old := (laneCfg s p).toNat
  let v := w % 4096
  if v = old % 4096 ∨ old / 4096 = 0 ∨ !laneMapOk (v % 256) ∨ (getPort s p).en then s
  else { s with lnt := { s.lnt with laneCfg := smSet 0x80E4 s.lnt.laneCfg p (BitVec.ofNat 16 (v + (old / 4096 - 1) * 4096)) } }

/-- The LNT_ offset of a write-limited setting. -/
def isBank (off : Nat) : Bool := off == 0x20 || off == 0x24 || off == 0x28 || off == 0x2C || off == 0x30 || off == 0x34

def bankWrite (s : State) (smb : Bool) (off w : Nat) : State :=
  if smb && s.lnt.smbLock then smbDrop s
  else if off = 0x20 then bankAddr s w
  else if off = 0x24 then bankEpoch s w
  else bankLane s ((off - 0x28) / 4) w

/-- BANK_WRITE (R470, R471). -/
def execBankWrite (smb : Bool) (off : U8) (w : U32) (s : State) : Out State :=
  if !isBank off.toNat then .fault (.illFormed "BANK_WRITE")
  else .next (pathLive s smb fun s => bankWrite s smb off.toNat w.toNat)

/-- LNT_CLEAR.CLR (R479). -/
def execLntClear (s : State) : Out State :=
  .next (if lntOn s true then { s with lnt := { s.lnt with smbErr := 0, smbCmds := 0 } } else s)

end Sys2Proof.Machine
end

