-- ==== Sys2Proof/Machine/Resets.lean ====
section
/-! DEFINITION. Resets.lean: what warm, fundamental and cold resets do to the state (R14, R15, R57, R109, R159, R196,
R200, R222, R280, R359, R398, R404, R427, R448, R462, R480). -/

namespace Sys2Proof.Machine

/-- The state that a meaning answers; a reset runs only steps that go on. -/
def goOn (s : State) (o : Out State) : State := match o with | .next t => t | _ => s

/-! ## Streams (R57, R448) -/

/-- The stream leaves OPEN or CLOSING for SUSPENDED with its next generation; its records, its episode and the
descriptors on it are gone, and NEXT_SAMPLE names the first sample not read. -/
def suspendCtx (x : Stream) : Stream :=
  let x := dropUnread x
  let moves := x.ctx.state == 1 || x.ctx.state == 2
  { x with
    job := none, held := none, latched := none, hold := [], slotRec := none, slotWait := [], reports := []
    specOwed := none, act := none, closeDesc := none, drain := false, useRevoked := false
    ctx := { x.ctx with
      state := if moves then 3 else x.ctx.state
      gen := if moves then x.ctx.gen + 1 else x.ctx.gen
      ep := 0, lag := if moves then false else x.ctx.lag } }

/-- A closure under way ends: without its acknowledgement (R149), or without its decision. -/
def endClosure (s : State) (st : Nat) : State :=
  match (getStream s st).waiting, getInst s st with
  | some w, _ => decisionPhase s st w
  | none, some i => (match i.waitAck with
    | some (_, n) => peerLostStep s st n
    | none => s)
  | none, none => s

/-- A step whose input is complete closes. -/
def closeNow (s : State) (st : Nat) : State :=
  if (getStream s st).inputDone then endClosure (goOn s (execStepClose (BitVec.ofNat 14 st) s)) st else s

/-- The open step's front-end and converter run, if all its samples have been read. -/
def finishInput (s : State) (st : Nat) : State :=
  let s := match feWork s st with
    | some (v, f) => runFrontend s st v f
    | none => s
  match convWork s st with
  | some (i, c) => convertStep s st i c (instPlace s i).img
  | none => s

/-- A stream in a reset: every step whose samples have all been read closes, its deferred emissions being kept. A
CLR_STREAMS of R63 that is still pending then is dropped, where a suspension of R58 keeps it: DESIGN CHOICE (log entry
198). -/
def resetStream (s : State) (st : Nat) : State :=
  let s := modStream s st (fun x => freshBacklog (suspendCtx x))
  let s := modInst s st (fun i => { i with deferred := true, heldMove := false })
  let s := endClosure s st
  let s := finishInput s st
  let es := s.events
  let s := closeNow (deliverAll { s with events := [] } 8 es) st
  let s := modStream s st (fun x => { x with waiting := none, clrPending := false })
  modInst s st (fun i => { i with nextEnd := none, srcChip := none, bridgePend := none, remoteOut := 0, waitAck := none
                                  cutLost := false, cutRight := false })

/-- All streams. Events in flight are accepted first. -/
def resetStreams (s : State) : State :=
  let es := s.events
  let s := deliverAll { s with events := [], results := [] } 8 es
  ((s.streams.filter (fun e => e.2.ctx.state != 0)).map (·.1)).foldl resetStream s

/-! ## Slots (R159, R196, R200, R280, R314) -/

/-- Placements of the boot configuration store. -/
def bootPlace (s : State) (slot : Nat) (b : Bool) : U32 :=
  BitVec.ofNat 32 ((bootVal s.lnt.store (6 + 2 * tierOf slot + b2n b) slot).getD 0 % (if tierOf slot = 0 then 2 ^ 19 else if tierOf slot = 1 then 2 ^ 18 else 2 ^ 16))

/-- A Tier 0 slot keeps its version; one without a version takes its boot ranges. -/
def resetT0 (s : State) (slot : Nat) : State :=
  let s := moveIdle s slot
  let x := getSlot s slot
  let s := if x.moving then retireVersion s slot (!x.activeB) else s
  let s := modSlot s slot (fun x => { x with load := none, moving := false, rangeErr := false })
  if slotLoaded s slot then s
  else modSlot s slot (fun x => { x with placeA := bootPlace s slot false, placeB := bootPlace s slot true })

/-- A Tier 1 or Tier 2 slot is empty and has its boot placements. -/
def resetT12 (s : State) (slot : Nat) : State :=
  let s := retireVersion (retireVersion s slot false) slot true
  { s with slots := smSet {} s.slots slot { placeA := bootPlace s slot false, placeB := bootPlace s slot true } }

def resetSlots (s : State) : State :=
  (List.range 256).foldl (fun t n => if tierOf n = 0 then resetT0 t n else resetT12 t n) s

/-! ## Knots (R222) -/

/-- A knot after a fundamental or warm reset. -/
def resetKnotOf (k : Knot) : Knot := { epoch := k.epoch + 1, nepoch := ~~~(k.epoch + 1) }

def resetKnots (s : State) : State :=
  { s with
    knots := ((List.range 4096).map (fun i => (i, resetKnotOf (getKnot s i)))).filter (fun e => e.2 != {})
    subs := [], kfwd := [], knotOps := [], knotWaits := [] }

/-! ## The boot configuration (R15, R460, R462) -/

/-- Registers of `State.regs` whose Reset column reads "boot". -/
def bootRegs (s : State) : SMap U32 :=
  let items := s.lnt.store
  let put (m : SMap U32) (off v : Nat) : SMap U32 := smSet (regReset off) m off (BitVec.ofNat 32 v)
  let m : SMap U32 := put [] 0x70100 (0x10104 + (bootVal items 5 0).getD 1 % 2)
  let m := put m 0xA0004 ((bootVal items 2 0).getD 0 % 4096)
  let m := put m 0xA000C ((bootVal items 3 0).getD 16 % 64)
  (items.filter (fun e => e.1.toNat % 65536 == 0xD)).foldl (fun m e =>
    put m (routeKey (e.1.toNat / 65536)) ((bootVal items 0xD (e.1.toNat / 65536)).getD 0)) m

/-- EN of a port. -/
def bootPort (s : State) (i : Nat) : Bool := (bootVal s.lnt.store 0xC i).getD 0 % 2 == 1

/-- CLK_PLL_CFG and EN of a PLL; PLL 6 is enabled when a port is. -/
def bootPllCfg (s : State) (p : Nat) : Nat × Bool :=
  match bootVal s.lnt.store 4 p with
  | some v => (v % 2 ^ 26, bitOf v 26)
  | none => (pllRow p, decide (p ≠ 6) || (List.range 4).any (bootPort s))

/-- A PLL takes its boot configuration; one that keeps it and is locked stays locked, and one that has failed is judged
again (R15, R430). -/
def bootPll (s : State) (p : Nat) (x : Pll) : Pll :=
  let (v, en) := bootPllCfg s p
  let same := x.en && en && x.ndiv.toNat + x.fdiv.toNat * 2 ^ 8 + x.pdiv.toNat * 2 ^ 24 == v
  let y : Pll := { ndiv := BitVec.ofNat 8 v, fdiv := BitVec.ofNat 16 (v / 2 ^ 8), pdiv := BitVec.ofNat 2 (v / 2 ^ 24), en := en
                   locked := same && x.locked }
  { y with judge := if !en || y.locked then none else if same && !x.fault then x.judge else some (0, 0) }

def bootPlls (s : State) : State := { s with plls := s.plls.zipIdx.map (fun e => bootPll s e.2 e.1) }

/-- LNT_CTRL and the protection tables. -/
def bootLantern (s : State) : State :=
  let c := (bootVal s.lnt.store 0xE 0).getD 0
  { s with subsys := (bootVal s.lnt.store 1 0).map (BitVec.ofNat 32), lnt := { s.lnt with pecReq := bitOf c 0, smbLock := bitOf c 1, flashLen := 0, flashOp := 0 } }

def bootProt (s : State) : State :=
  let t := if s.lnt.protErr then [] else bootTables s.lnt.store
  { s with prot := { active := t, shadow := t } }

/-- Ports enabled by the record begin to train. -/
def bootPorts (s : State) : State :=
  (List.range 4).foldl (fun t i => if bootPort t i then portSetEn t i true else t) s

/-! ## Functions, fault manager, counters -/

/-- Residency counters and what counts with them (R451). -/
def keptCtrs : List Nat := [0x70140, 0x70148, 0x70150, 0x70158, 0x7015C, 0x70160, 0x70164, 0x70168]

/-- The fault manager: retirements, maps and windows stay; `warm`: FATAL and its log too (R404, R427). A repair that has
not ended is given up: REPAIR_BUSY and FLT_REPAIR_CMD.BUSY read 0 (R15). -/
def resetFlt (f : FaultMgr) (warm : Bool) : FaultMgr :=
  { dramRet := f.dramRet, wins := f.wins, map := f.map
    retired := f.retired, outOf := f.outOf, physEpoch := f.physEpoch, fatal := warm && f.fatal
    fatalLog := if warm then f.fatalLog else 0 }

/-- The power registers: the state and its sequence go on; PWR_EVENT keeps what Lantern keeps. -/
def resetPwr (p : Power) : Power :=
  { p with dipEvent := false, govLimit := false, clockFault := false, limitMiss := false, inputP := 0, peak := 0, tj := 0
           railMv := [], railMin := [], railWarn := [], cfgErr := false }

def resetFns (s : State) : SMap Fn := smMap {} s.fns (fun _ f => flrFn f)

/-- A core keeps its epoch, which a role that ends has advanced (R196). -/
def resetCores (s : State) : SMap Core :=
  smMap {} s.cores (fun _ k => { epoch := k.epoch })

/-- The parts that a fundamental and a warm reset treat alike, ports aside. -/
def resetParts (s : State) (warm : Bool) : State :=
  { s with
    regs := bootRegs s, ctrs := s.ctrs.filter (fun e => keptCtrs.contains e.1)
    fns := resetFns s, vfEnable := false, rings := [], lastServed := []
    cores := resetCores s, satCtrs := [], memLogs := {}, stackTemp := [], stackHot := []
    lostChips := [], lossDue := [], evHold := [], conduits := [], rreg := {}
    doms := s.doms.map (fun d => { d with src := false, srcReq := false, switching := false, smin := 0, stretch := 0 })
    link := {}, pwr := resetPwr s.pwr, flt := resetFlt s.flt warm }

/-- A warm or fundamental reset, but for its ports and memories (R14, R109). -/
def resetCommon (s : State) (warm : Bool) : State :=
  let fatal := s.flt.fatal
  let s := resetStreams { s with flt := { s.flt with fatal := false } }
  let s := endAllWork { s with flt := { s.flt with fatal := fatal } }
  let s := resetParts (resetKnots (resetSlots s)) warm
  bootPlls (bootProt (bootLantern s))

/-! ## Ports (R389, R398) -/

/-- LEAVING goes out on every UP port, and the ports take their Reset values; retirements of ports and lanes outlast
a warm reset (R395). -/
def resetPorts (s : State) (warm : Bool) : State :=
  let s := (List.range 4).foldl sendLeaving s
  { s with ports := smMap {} s.ports (fun _ p => if warm then { retired := p.retired, laneRet := p.laneRet } else {}) }

/-! ## Memories (R359) -/

/-- Every Chamber engine loses its working region. -/
def loseWorking (s : State) : State := (List.range 16).foldl (fun t e => loseRegion t (spChamber e)) s

/-- The resident regions are cleared (R280). -/
def clearResident (s : State) : State := (List.range 16).foldl (fun t e => zeroRegion t (spChamber e + 0x1000)) s

/-- What Retain does not keep. -/
def loseRetain (s : State) : State :=
  let s := loseRegion (loseRegion s regSnap) regShared
  let s := (List.range 256).foldl (fun t c => loseRegion t (spBobbin c)) s
  loseWorking s

/-! ## The resets -/

/-- A warm reset (R14). -/
def warmReset (s : State) : State :=
  bootPorts (loseWorking (clearResident (resetPorts (resetCommon s true) true)))

/-- The actions of a fundamental reset (step H1); ports and memories follow with steps H2 to H4. -/
def fundamentalReset (s : State) : State := clearResident (abandonFlash (resetCommon s false))

/-- A cold start: what the bank, the flash and the outside hold is all that stays; no pin is driven (R483). -/
def coldReset (s : State) : State :=
  { State.reset with
    pending := s.pending, out := s.out, freeCtr := s.freeCtr
    mem := s.mem.filter (fun e => keySpace e.1 == spHost || keySpace e.1 == spFlash)
    lost := [(regStage, smGet 0 s.lost regStage + 1 + smGet 0 s.lost regStage % 2)]
    ctrs := [], pwr := { state := .off, perstHigh := s.pwr.perstHigh, refclk := s.pwr.refclk, tripped := s.pwr.tripped, clkreq := false }
    plls := resetPlls.map (fun p => { p with en := false, locked := false, last := 0 })
    doms := resetDoms.map (fun d => { d with running := false })
    lnt := { smbAddr := s.lnt.smbAddr, smbAddrNow := s.lnt.smbAddr, smbLeft := s.lnt.smbLeft, epoch := s.lnt.epoch
             epochLeft := s.lnt.epochLeft, laneCfg := s.lnt.laneCfg, flashBad := s.lnt.flashBad } }

end Sys2Proof.Machine
end

