-- ==== Sys2Proof/Machine/Power.lean ====
section
/-! DEFINITION. Power.lean: PLLs and domains (R428 to R437), supplies (R438 to R440, R485, R491), the governor (R441,
R442) and the events of CLK_ and PWR_ registers. Sequences.lean holds the power states. -/

namespace Sys2Proof.Machine

/-! ## Domains (R428, R435) -/

/-- A domain is powered: HOST and MESH with the device, the tiers on their own. -/
def domPowered (s : State) (d : Nat) : Bool := if d = 2 then s.pwr.bobUp else if d = 3 then s.pwr.chmUp else hostOn s

/-- A domain runs from REFCLK, or from a PLL that is locked (R430), unless a supply dip holds it (R439). -/
def domRunsNow (s : State) (d : Nat) : Bool := domPowered s d && !(s.pwr.dipHeld && (d == 2 || d == 3)) && !(d == 2 && tierFalls s false) && !(d == 3 && tierFalls s true) && clocked s d

def refreshDoms (s : State) : State :=
  { s with doms := s.doms.zipIdx.map (fun e => { e.1 with running := domRunsNow s e.2 }) }

/-- CLK_DOM_CTRL is written (R435): a switch to a PLL that is not locked is refused. -/
def domWrite (s : State) (w : Nat) : State :=
  let d := reg s 0x70020 % 4
  let want := bitOf w 0
  let s := modDom s d (fun x => { x with srcReq := want, smin := BitVec.ofNat 6 (w / 4) })
  match s.doms[d]? with
  | none => s
  | some x =>
    if x.src == want then s
    else if !want && !pllLocked s d then modPwr s (fun p => { p with cfgErr := true })
    else refreshDoms (c32 (modDom s d (fun x => { x with src := want })) 0x70034 1)

/-- SWITCH (R435): its five steps lose and repeat nothing. -/
def execDomSwitch (w : U32) (s : State) : Out State := .next (bar0 s 0 false fun s => domWrite s w.toNat)

/-- What stands on the pin CLKOBS: nothing that the device drives, a low level, or a source divided by `n` (R437). -/
inductive ObsLevel where
  | highZ
  | low
  | divided (sel : BitVec 5) (unit : BitVec 9) (n : Nat)
  deriving DecidableEq, Repr

/-- Without its 48 V input the device drives no pin (R483). -/
def unpowered (s : State) : Bool := s.pwr.state == .off && s.pwr.seq.isEmpty && !s.pwr.tripped

/-- The pin CLKOBS (R437, R483). -/
def clkObs (s : State) : ObsLevel :=
  let w := reg s 0x70030
  if unpowered s then .highZ
  else if s.pwr.state = .off ∨ s.pwr.state = .retain ∨ !bitOf w 5 then .low
  else .divided (BitVec.ofNat 5 w) (BitVec.ofNat 9 (w / 2 ^ 22)) (fld w 6 16 + 1)

/-- CLK_OBS_WRITE (R437): the pin follows the register, `clkObs`; the time between two selections is not modelled. -/
def execClkObsWrite (w : U32) (s : State) : Out State := .next (bar0 s 0 false fun s => setReg s 0x70030 (w.toNat % 2 ^ 31))

/-! ## Lock judgement (R429 to R431) -/

/-- E of R430, rounded to the nearest. -/
def pllExpect (p : Nat) (x : Pll) : Nat :=
  let n := x.ndiv.toNat * 65536 + x.fdiv.toNat
  let d := 16 * 2 ^ x.pdiv.toNat * (if 5 ≤ p then 16 else 2)
  (2 * n + d) / (2 * d)

/-- TOL_PPM as it acts. -/
def pllTol (x : Pll) : Nat := max 50 (min 2000 x.tol.toNat)

/-- A window passes. -/
def windowOkay (p : Nat) (x : Pll) (count : Nat) : Bool :=
  let e := pllExpect p x
  decide (max count e - min count e ≤ max 1 (e * pllTol x / 1000000))

/-- Judgement of a PLL that is enabled and not locked begins. -/
def relockPll (s : State) (p : Nat) : State :=
  modPll s p (fun x => if x.en && !x.locked && x.judge.isNone then { x with judge := some (0, 0) } else x)

/-- The same as a step of a sequence does it: PLLs 2, 3 and 4 stay as they are after a fault, until the PF relocks them
(R431). -/
def judgePll (s : State) (p : Nat) : State := if (p = 2 ∨ p = 3 ∨ p = 4) ∧ pllFault s p then s else relockPll s p
def judgePlls (s : State) (ps : List Nat) : State := ps.foldl judgePll s
def stopPll (s : State) (p : Nat) : State := modPll s p (fun x => { x with locked := false, judge := none })
def stopPlls (s : State) (ps : List Nat) : State := ps.foldl stopPll s
/-- No judgement of the PLL is under way. -/
def pllSettled (s : State) (p : Nat) : Bool := match s.plls[p]? with | some x => x.judge.isNone | none => true

/-- Jobs of a tier whose clock has failed (R431). -/
def failTier (s : State) (t : Nat) : State :=
  s.jobs.foldl (fun a e => match getJob a e.1 with
    | some j => if tierOf j.slot.toNat = t ∧ !j.finished ∧ j.st ≠ .applying then failReplay a e.1 j else a
    | none => a) s

/-- A load that was under way ends with UNCORRECTABLE. -/
def failLoad (s : State) (slot : Nat) : State :=
  match (getSlot s slot).load with
  | none => s
  | some l =>
    let s := modSlot s slot (fun x => { x with load := none, moving := false })
    if l.mute then s else finish s l.ref { status := BitVec.ofNat 8 stUncorr, res0 := verNow s slot }

/-- DRAM loses its contents, and must pass steps A6 to A9 (R431, R447). -/
def loseDram (s : State) : State := modPwr (loseRegion s regDram) (fun p => { p with dramDead := true })

/-- A fault of the DRAM clock (R431): every Tier 1 and Tier 2 slot is emptied. -/
def dramFault (s : State) : State :=
  let s := failTier (failTier s 1) 2
  let s := (s.slots.map (·.1)).foldl (fun t n => if tierOf n = 0 then t else retireVersion (retireVersion (failLoad t n) n false) n true) s
  loseDram s

/-- The ports count as disabled (R389, R431). -/
def psgFault (s : State) : State := (List.range 4).foldl (fun t i => if (getPort t i).en then losePeer t i 5 else t) s

/-- The PCIe link goes down, which is a warm reset (R14); the PLL locks again (R431). -/
def pcieFault (s : State) : State :=
  let s := if s.link.st = .down then s else warmReset s
  modPll s 5 (fun x => { x with fault := true, judge := some (0, 0) })

/-- A clock fault of PLL `p`, its window having counted `count` (R431). -/
def clockFault (s : State) (p count e : Nat) : State :=
  let s := modPll s p (fun x => { x with locked := false, fault := true, judge := none })
  if p ≤ 1 then fatalEvent s 3
  else
    let s := if p = 2 then failTier s 1 else if p = 3 then failTier s 2 else if p = 4 then dramFault s
      else if p = 5 then pcieFault s else psgFault s
    let s := modPwr s (fun x => { x with clockFault := true })
    if s.flt.fatal then s else logRec s 0x0A 0 { status := if p ≤ 4 then stUncorr else 0, utype := 11, unit := p, detail := count + e * 2 ^ 32 }

/-- A window has failed. -/
def countWindow (s : State) (p count : Nat) (ok : Bool) : State :=
  modPll s p (fun x => { x with last := BitVec.ofNat 17 count, fails := if ok then x.fails else satAdd 32 x.fails 1 })

/-- PLL_WINDOW (R430, R431). -/
def execPllWindow (p : BitVec 3) (count : BitVec 17) (s : State) : Out State :=
  .next (match s.plls[p.toNat]? with
    | none => s
    | some x =>
      let i := p.toNat
      let ok := windowOkay i x count.toNat
      if !s.pwr.refclk || !x.en then s
      else if x.locked then
        let s := countWindow s i count.toNat ok
        if ok then s else refreshDoms (clockFault s i count.toNat (pllExpect i x))
      else match x.judge with
        | none => s
        | some (w, k) =>
          let s := countWindow s i count.toNat ok
          let k := if ok then k + 1 else 0
          if k = 3 then refreshDoms (modPll s i (fun x => { x with locked := true, fault := false, judge := none }))
          else if 16 ≤ w + 1 then refreshDoms (clockFault s i count.toNat (pllExpect i x))
          else modPll s i (fun x => { x with judge := some (w + 1, k) }))

/-- PASSAGE_PLL_RETRY (R431). -/
def execPassagePllRetry (s : State) : Out State := .next (if pllFault s 6 && hostOn s then relockPll s 6 else s)

/-! ## The governor (R441, R442) -/

def stretchOf (s : State) (d : Nat) : Nat := match s.doms[d]? with | some x => x.stretch.toNat | none => 0
def sminOf (s : State) (d : Nat) : Nat := match s.doms[d]? with | some x => min x.smin.toNat 56 | none => 0
def setStretch (s : State) (d v : Nat) : State := modDom s d (fun x => { x with stretch := BitVec.ofNat 6 v })

/-- PWR_LIMIT.WATTS as it acts, and PWR_TJ_LIMIT.DEGC. -/
def powerLimit (s : State) : Nat := max 100 (min 1250 (reg s 0x70108 % 2048))
def tjLimit (s : State) : Nat := reg s 0x7010C % 256

/-- Every stretch is at least its SMIN. -/
def holdSmin (s : State) : State := [3, 2, 1].foldl (fun t d => setStretch t d (max (stretchOf t d) (sminOf t d))) s

/-- The governor may stretch a domain: during a sequence, only one that runs (R449). -/
def mayStretch (s : State) (d : Nat) : Bool := s.pwr.seq.isEmpty || domRuns s d

/-- One interval of R441 at `p` tenths of a watt and `t` degrees. -/
def govern (s : State) (p t : Nat) : State :=
  let l := powerLimit s
  let tj := tjLimit s
  if 10 * l < p ∨ tj < t then
    match [3, 2, 1].find? (fun d => mayStretch s d && decide (stretchOf s d < 56)) with
    | some d => setStretch s d (min (stretchOf s d + 4) 56)
    | none =>
      if [3, 2, 1].any (fun d => decide (stretchOf s d < 56)) then holdSmin s
      else holdSmin (setAlert (c32 (modPwr s (fun x => { x with limitMiss := true, govLimit := true })) 0x70128 1) 4)
  else if p < 10 * (l - l / 16) ∧ t + 3 < tj then
    match [1, 2, 3].find? (fun d => decide (sminOf s d < stretchOf s d)) with
    | some d => setStretch s d (max (stretchOf s d - 4) (sminOf s d))
    | none => holdSmin s
  else holdSmin s

/-! ## Supplies (R438 to R440) -/

/-- Nominal level of rail 0x10 + r, mV. -/
def railNominal (r : Nat) : Nat := [700, 700, 750, 800, 650, 750, 1050, 750, 850, 850, 1800].getD r 0

/-- The rail is powered (R438), or is being ramped by the step in progress (R450). In sequence H the rails that were on
stay on until step G5, with which H ends; step G6 follows G5. -/
def railOn (s : State) (r : Nat) : Bool :=
  let port := (List.range 4).any (fun i => (getPort s i).en)
  let main := hostOn s && !stepIn s 0x45 0x45
  if r = 0 then s.pwr.chmUp || (s.pwr.seqChm && stepIn s 0x20 0x23)
  else if r = 1 then s.pwr.bobUp || (!s.pwr.seqChm && stepIn s 0x20 0x23)
  else if r = 5 then s.pwr.state != .off || !s.pwr.seq.isEmpty
  else if stepIn s 0x48 0x4B then s.pwr.hRails.getLsbD r && (r != 9 || port)
  else if r = 3 then s.pwr.state != .off || stepIn s 0x03 0x08
  else if r = 6 ∨ r = 7 then s.pwr.state != .off || stepIn s 0x05 0x08
  else if r = 9 then port && (main || stepIn s 0x05 0x08 || stepIn s 0x15 0x19)
  else decide (r ≤ 10) && (main || stepIn s 0x04 0x08 || stepIn s (if r = 10 then 0x10 else 0x11) 0x19)

/-- The rails that are on. -/
def railsOn (s : State) : BitVec 11 := BitVec.ofNat 11 ((List.range 11).foldl (fun n r => n + b2n (railOn s r) * 2 ^ r) 0)

def tierUp (s : State) : Bool := s.pwr.bobUp || s.pwr.chmUp

/-- A level is below the warning level of the rail, or below its reset level. -/
def belowWarn (r : Nat) (mv : BitVec 12) : Bool := decide (100 * mv.toNat < 95 * railNominal r)
def belowReset (r : Nat) (mv : BitVec 12) : Bool := decide (100 * mv.toNat < 90 * railNominal r)

/-- The lowest level read in a dip, with its rail (R439). -/
def dipLow (d : Option (BitVec 4 × BitVec 12)) (r : BitVec 4) (mv : BitVec 12) : Option (BitVec 4 × BitVec 12) :=
  d.map (fun x => if mv.toNat < x.2.toNat then (r, mv) else x)

/-- A level is read on a rail: PWR_RAIL shows it, and a dip notes it. -/
def noteRail (s : State) (r : BitVec 4) (mv : BitVec 12) : State :=
  let i := r.toNat
  let on := railOn s i
  modPwr s (fun x => { x with
    railMv := smPut x.railMv i mv
    railMin := match smFind x.railMin i with
      | some m => if mv.toNat < m.toNat then smPut x.railMin i mv else x.railMin
      | none => smPut x.railMin i mv
    railWarn := smSet false x.railWarn i (on && belowWarn i mv)
    dip := if on && belowWarn i mv then dipLow x.dip r mv else x.dip })

/-- A rail has crossed its warning level: the tiers hold, and the dip begins or goes on (R439). -/
def warnRail (s : State) (r : BitVec 4) (mv : BitVec 12) : State :=
  let s := noteRail s r mv
  if s.pwr.dip.isSome then s
  else refreshDoms (modPwr (c32 s 0x70134 1) (fun x => { x with dip := some (r, mv), dipHeld := tierUp s, dipEvent := true }))

/-- RAIL_WARNING (R439). -/
def execRailWarning (r : BitVec 4) (mv : BitVec 12) (s : State) : Out State :=
  .next (if railOn s r.toNat && belowWarn r.toNat mv then warnRail s r mv else s)

/-! ### Readings (R441, R454) -/

/-- PWR_INPUT, PWR_TJ and PWR_RAIL take the readings of the interval (R454). -/
def takeReadings (s : State) (p : U16) (t : U8) (rails : List (BitVec 12)) : State :=
  let s := modPwr s (fun x => { x with inputP := p, peak := if x.peak.toNat < p.toNat then p else x.peak, tj := t })
  let s := rails.zipIdx.foldl (fun u e => noteRail u (BitVec.ofNat 4 e.2) e.1) s
  if tjLimit s < t.toNat then setAlert s 5 else s

/-- GOVERNOR_INTERVAL (R441). -/
def execGovernorInterval (p : U16) (t : U8) (rails : List (BitVec 12)) (s : State) : Out State :=
  if rails.length ≠ 11 then .fault (.illFormed "GOVERNOR_INTERVAL: a level of each of 11 rails")
  else .next (if hostOn s then govern (takeReadings s p t rails) p.toNat t.toNat else s)

/-! ### The end of a dip (R439) -/

/-- The values of a stage entry that do not match their complements. -/
def badStageByte (e : StageEntry) : Option Nat :=
  if !wakeOk e then some 2 else if !prewakeOk e then some 3 else if !holdOk e then some 4
  else if !holdCountOk e then some 5 else none

/-- The stages of a stream are checked, entries 0 to NSTAGE − 1; the others are all 0 and hold no value (R27). A stream
that is CLOSING is left to its results, where alone a mismatch of it can be found (R61). -/
def checkContext (s : State) (st : Nat) : State :=
  let c := (getStream s st).ctx
  if c.state ≠ 1 ∧ c.state ≠ 3 then s
  else match ((c.stages.take c.nstage.toNat).zipIdx).findSome? (fun e => (badStageByte e.1).map (fun b => (e.2, b))) with
    | some (k, b) => startAct s st (.check k b)
    | none => s

/-- The complement checks of R439. -/
def checkAll (s : State) : State :=
  let s := s.knots.foldl (fun t e => if knotOk e.2 ∨ e.2.broken then t else breakKnot t e.1 (knotOwner t e.1)) s
  let s := (s.streams.map (·.1)).foldl checkContext s
  useCtl s (fun _ => true) id

/-- Every rail has been at or above its warning level for long enough: the held domains resume (R439). -/
def endDip (s : State) (r : BitVec 4) (low : BitVec 12) : State :=
  let s := if s.flt.fatal then s else checkAll s
  let s := if s.flt.fatal then s else logRec s 0x17 0 { utype := 11, unit := 0x10 + r.toNat, aux := 0x10 + r.toNat, detail := low.toNat }
  refreshDoms (modPwr s (fun x => { x with dip := none, dipHeld := false, railWarn := [] }))

/-! ## Clears (R451, R453) -/

/-- PWR_CLEAR.CLR: the counters of the table, PEAK and MIN. -/
def execPwrClear (s : State) : Out State :=
  .next (bar0 s 0 false fun s => modPwr (clearCtrs s [0x70120, 0x70128, 0x70134, 0x70168]) (fun x => { x with peak := 0, railMin := [] }))

def clearResidency (s : State) : State := clearCtrs s [0x70140, 0x70148, 0x70150, 0x70158, 0x7015C, 0x70160, 0x70164]

/-- PWR_RES_CLEAR.CLR. -/
def execPwrResClear (s : State) : Out State := .next (bar0 s 0 false clearResidency)

end Sys2Proof.Machine
end

