-- ==== Sys2Proof/Machine/Sequences.lean ====
section
/-! DEFINITION. Sequences.lean: the power states and the sequences between them (R443 to R450, R466), resets from
outside, and the PCIe link (R48, R66, R433). -/

namespace Sys2Proof.Machine

/-! ## The delay table (R450) -/

/-- Entry, and its delay; a handshake counts no cycles. -/
def delayTable : List (Nat × Option Nat) :=
  [(0x00, none), (0x01, none), (0x02, none), (0x03, some 10000), (0x04, some 29488), (0x05, some 10000), (0x06, some 14288),
   (0x07, some 100000), (0x08, some 2000000), (0x10, some 5000), (0x11, some 10000), (0x12, some 2000), (0x13, some 12288),
   (0x14, some 100), (0x15, some 100), (0x16, some 14288), (0x17, some 2000), (0x18, some 200), (0x19, some 8000)] ++
  [(0x20, some 1600), (0x21, some 200), (0x22, some 100), (0x23, some 100), (0x28, some 10), (0x29, some 100), (0x2A, some 500),
   (0x30, some 500), (0x31, some 10), (0x32, some 200), (0x38, some 2000), (0x39, some 12288), (0x3A, some 2000), (0x3B, some 200)] ++
  [(0x40, some 500), (0x41, some 200), (0x42, some 100), (0x43, some 10), (0x44, some 500), (0x45, none), (0x48, some 1000),
   (0x49, some 100), (0x4A, some 610), (0x4B, some 1310), (0x50, none), (0x51, some 1024), (0x52, some 300)]

/-- PWR_DELAY of an entry. -/
def delayWord (e : Nat) : Nat :=
  match delayTable.find? (fun d => d.1 == e) with
  | none => 0
  | some (_, some n) => n + 2 ^ 25
  | some (_, none) => 2 ^ 24 + 2 ^ 25

/-- The entry in progress. -/
def curEntry (s : State) : Option Nat := s.pwr.seq.head?.map (·.toNat)
def inSeq (s : State) (lo hi : Nat) : Bool := stepIn s lo hi
def inH (s : State) : Bool := inSeq s 0x48 0x4B
def inG (s : State) : Bool := inSeq s 0x40 0x45

/-! ## Conditions (R445, R446) -/

/-- Operations that do not keep the device from Watch. -/
def quietOp (op : Nat) : Bool :=
  op == opNop || op == opKnotSignal || op == opKnotWait || op == opStreamOpen || op == opStreamClose || op == opStreamStatus || op == opIngest

def jobsIn (s : State) (p : Job → Bool) : Bool := s.jobs.any (fun e => match e.2 with | some j => p j | none => false)

/-- PWR_STATE.WATCH_BLOCK: the conditions of R445 not met, in list order. -/
def watchBlock (s : State) : Nat :=
  b2n (!bitOf (reg s 0x70100) 0) +
  2 * b2n (tierUp s || jobsIn s (fun _ => true)) +
  4 * b2n ((List.range 4).any (fun i => (getPort s i).en)) +
  8 * b2n (s.rings.any (fun e => e.2.inflight.any (fun d => d.done.isNone && !quietOp (descOp d.bytes)))) +
  16 * b2n (s.conduits.any (fun e => e.2.state == 2) || s.flt.repair.isSome || s.prot.busy)

/-- The conditions of Retain by request (R446, R468). -/
def mayRetain (s : State) : Bool :=
  bitOf (reg s 0x70100) 3 &&
  (List.range 64).all (fun f => !fnPresent s f || (getFn s f).dstate == 3) &&
  (match s.link.st with | .l1 _ => true | _ => false) &&
  !s.rings.any (fun e => ringBusy e.2) && s.jobs.isEmpty && !(List.range 4).any (fun i => (getPort s i).en) && s.snaps.isEmpty &&
  s.streams.all (fun e => e.2.ctx.state != 1 || e.2.ctx.backlog == 0) && !s.lnt.flashBusy

/-! ## Steps -/

/-- Offset of the entry counter of a state (R451). -/
def entryOff (p : PState) : Option Nat :=
  match p with
  | .run => some 0x70158
  | .idle => some 0x7015C
  | .watch => some 0x70160
  | .retain => some 0x70164
  | .off => none

/-- The device is in state `g`; an entry is counted. -/
def enterState (s : State) (g : PState) : State :=
  let s := if s.pwr.state = g then s else match entryOff g with | some o => c32 s o 1 | none => s
  refreshDoms (modPwr s (fun p => { p with state := g }))

/-- What the boot configuration store gives a cold start (step A5). -/
def bootFields (s : State) : State :=
  let s := bootProt (bootLantern { s with regs := bootRegs s })
  let place (t : State) (n : Nat) : State :=
    modSlot t n (fun x => { x with placeA := bootPlace t n false, placeB := bootPlace t n true })
  logHeld (bootPorts ((List.range 256).foldl place s))

/-- Loaded Tier 1 and Tier 2 versions are restored from the slot store (R360). -/
def restoreSlots (s : State) : State :=
  let s := (s.cores.map (·.1)).foldl rewriteCore s
  (List.range 16).foldl rewriteEngine s

/-- A Tier 1 or Tier 2 slot is loaded. -/
def slotsLoaded (s : State) : Bool := s.slots.any (fun e => tierOf e.1 != 0 && (e.2.verA.isSome || e.2.verB.isSome))

/-- What happens as a step begins. -/
def beginStep (s : State) : State :=
  match curEntry s with
  | none => s
  | some e =>
    if e = 0x04 then
      let s := bootPlls s
      { s with plls := s.plls.zipIdx.map (fun x => if x.2 = 0 ∨ x.2 = 1 ∨ x.2 = 5 then x.1 else { x.1 with judge := none }) }
    else if e = 0x12 then judgePlls s [0, 1, 5]
    else if e = 0x06 ∨ e = 0x16 then judgePll s 4
    else if e = 0x38 then judgePlls s [2, 3, 4, 6]
    else if e = 0x48 then modPwr (fundamentalReset s) (fun p => { p with byRequest := false })
    else s

/-- PLLs stop for Watch. -/
def watchPlls (s : State) : State := stopPlls s (if bitOf (reg s 0x70100) 1 then [6] else [6, 2, 3, 4])
def allPlls : List Nat := [0, 1, 2, 3, 4, 5, 6]

/-- What a Bobbin core keeps without power (R199): its role, its epoch and its SRAM. -/
def coldCore (k : Core) : Core := { slot := k.slot, inB := k.inB, rank := k.rank, epoch := k.epoch, st := k.st, jseq := k.jseq }

/-- The tiers lose power (step D3). -/
def dropTier (s : State) (chm : Bool) : State :=
  if chm then loseWorking (modPwr s (fun p => { p with chmUp := false }))
  else { modPwr s (fun p => { p with bobUp := false }) with cores := smMap {} s.cores (fun _ k => coldCore k) }

/-- What Retain by request loses beside `loseRetain`: the resident regions (R359). -/
def loseResident (s : State) : State := (List.range 16).foldl (fun t e => loseRegion t (spChamber e + 0x1000)) s

/-- What has happened when a step ends. -/
def endStep (s : State) (e : Nat) : State :=
  match e with
  | 0x01 => modPwr (bootChoose s) (fun p => { p with pwrGood := true })
  | 0x04 => judgePlls (bootFields s) [2, 3, 6]
  | 0x08 => if pllLocked s 4 then modPwr (zeroRegion s regDram) (fun p => { p with dramDead := false }) else s
  | 0x14 => judgePlls (if s.pwr.byRequest then s else logHeld (bootPorts s)) [2, 3, 6]
  | 0x15 => if s.pwr.byRequest then { s with link := { s.link with st := .l0 } } else s
  | 0x19 => restoreSlots s
  | 0x23 => c32 (modPwr s (fun p => if s.pwr.seqChm then { p with chmUp := true } else { p with bobUp := true })) 0x70168 1
  | 0x2A => dropTier s s.pwr.seqChm
  | 0x31 => watchPlls s
  | 0x43 => stopPlls s allPlls
  | 0x45 => modPwr (loseResident (loseRetain s)) (fun p => { p with clkreq := false })
  | 0x49 => resetPorts s false
  | 0x4A => dropTier (dropTier s true) false
  | 0x4B => loseRetain (stopPlls s allPlls)
  | _ => s

/-- The step in progress may end (R439, R447, R450). Once PERST# has been asserted, a step that can count no REFCLK
cycles ends by a handshake. -/
def stepMayEnd (s : State) (e : Nat) : Bool :=
  s.pwr.dip.isNone && (s.pwr.refclk || inH s || s.pwr.thenH || (delayTable.find? (fun d => d.1 == e)).any (fun d => d.2.isNone)) &&
  (if e = 0x02 then s.pwr.refclk && s.pwr.perstHigh
   else if e = 0x04 ∨ e = 0x13 then pllSettled s 0 && pllSettled s 1 && pllSettled s 5
   else if e = 0x06 ∨ e = 0x16 then pllSettled s 4
   else if e = 0x39 then pllSettled s 2 && pllSettled s 3 && pllSettled s 4 && pllSettled s 6
   else true)

/-! ## Sequences -/

def startSeq (s : State) (es : List Nat) (goal : PState) : State :=
  refreshDoms (beginStep (modPwr s (fun p => { p with seq := es.map (BitVec.ofNat 8), goal := goal })))

/-- Steps A6 to A9 when the rails are up. -/
def dramSteps : List Nat := [0x06, 0x07, 0x08]

/-- Sequence A: PWR_GOOD is low until step A2 (R440), and CLKREQ# is asserted (R433). -/
def startA (s : State) : State := startSeq (modPwr (coldReset s) (fun p => { p with pwrGood := false, clkreq := true })) [0x00, 0x01, 0x02, 0x03, 0x04, 0x05, 0x06, 0x07, 0x08] .idle

/-- Sequence B; step B10 only on leaving Retain by request with a slot loaded. -/
def startB (s : State) : State :=
  let es := [0x10, 0x11, 0x12, 0x13, 0x14, 0x15] ++ (if s.pwr.dramDead then dramSteps else [0x16, 0x17]) ++ [0x18] ++
    (if s.pwr.byRequest && slotsLoaded s then [0x19] else [])
  startSeq (modPwr s (fun p => { p with thenB := false, clkreq := true })) es .idle

/-- Sequence F; its first two steps take 0 cycles when PLLs 2 to 4 run, or cannot until the PF relocks them; PLL 6, which
no port uses yet, is then judged beside it. -/
def startF (s : State) : State :=
  let s := { modPwr s (fun p => { p with thenF := false }) with link := if s.link.st = .l0p then { s.link with st := .l0 } else s.link }
  let on := [2, 3, 4].all (fun p => match s.plls[p]? with | some x => !x.en || x.locked || x.fault | none => true)
  if on then startSeq (judgePll s 6) [0x3A, 0x3B] .idle else startSeq s [0x38, 0x39, 0x3A, 0x3B] .idle

/-- Sequence H, which ends in Retain. Where REFCLK has stopped before, other than in Retain, its steps end by handshakes,
DRAM loses its contents and CLK_EARLY is set (R447). -/
def startH (s : State) : State :=
  let s := if s.pwr.refclk || inRetain s then s else loseDram (modPwr s (fun p => { p with clkEarly := true }))
  let s := modPwr s (fun p => { p with
    thenH := false, thenF := false, hRails := railsOn s, dramDead := p.dramDead || inSeq s 0x03 0x08 })
  startSeq s (if tierUp s then [0x48, 0x49, 0x4A, 0x4B] else [0x48, 0x49, 0x4B]) .retain

/-- PERST# is deasserted, REFCLK is present and the rails are good. -/
def mayLeave (s : State) : Bool := s.pwr.perstHigh && s.pwr.refclk && !s.pwr.railReset

/-- The sequence that follows when none is in progress (R431, R449). -/
def followUp (s : State) : State :=
  if !s.pwr.seq.isEmpty then s
  else if s.pwr.thenH then startH s
  else if s.pwr.thenF && s.pwr.state == .watch then startF s
  else if s.pwr.thenB && s.pwr.state == .retain && (if s.pwr.byRequest then s.pwr.refclk else mayLeave s) then startB s
  else if s.pwr.dramDead && (s.pwr.state == .run || s.pwr.state == .idle) && (pllLocked s 4 || !pllSettled s 4) then
    startSeq s dramSteps s.pwr.state
  else s

/-- The step in progress has ended, and the next begins; H waits for the boundary (R449). -/
def nextStep (s : State) (e : Nat) (rest : List U8) : State :=
  let s := endStep s e
  if s.pwr.thenH && !inH s then startH s
  else
    let s := modPwr s (fun p => { p with seq := rest })
    match rest with
    | _ :: _ => refreshDoms (beginStep s)
    | [] => followUp (enterState (modPwr s (fun p => { p with byRequest := p.byRequest && p.goal == .retain })) s.pwr.goal)

/-- SEQUENCE_STEP_DONE (R450). -/
def execSequenceStepDone (s : State) : Out State :=
  .next (match s.pwr.seq with
    | [] => s
    | e :: rest => if stepMayEnd s e.toNat then nextStep s e.toNat rest else s)

/-! ## PLL_EN_WRITE (R431) -/

/-- CLK_PLL_CTRL of the selected PLL. What runs from a PLL that is stopped stops with it (R430): the ports with PLL 6, and
with PLL 5 the link, which is a warm reset (R14). EN 1 after 0 relocks a PLL that has failed (R431). -/
def pllEnWrite (s : State) (w : Nat) : State :=
  let p := reg s 0x70004 % 8
  let en := bitOf w 0
  match s.plls[p]? with
  | none => s
  | some x =>
    let s := modPll s p (fun y => { y with tol := BitVec.ofNat 11 (w / 2), en := en })
    if x.en && !en then
      let s := stopPll s p
      refreshDoms (if p = 6 then psgFault s else if p = 5 ∧ s.link.st ≠ .down then warmReset s else s)
    else if en && !x.en then followUp (relockPll (modPll s p (fun y => { y with fault := false })) p)
    else s

/-- PLL_EN_WRITE. -/
def execPllEnWrite (w : U32) (s : State) : Out State := .next (bar0 s 0 false fun s => pllEnWrite s w.toNat)

/-! ## Tiers (R444) -/

/-- A job of the tier is eligible to start. -/
def tierWanted (s : State) (chm : Bool) : Bool :=
  jobsIn s (fun j => tierOf j.slot.toNat == (if chm then 2 else 1) && j.st == .queued && !j.finished && j.wait.isNone)

def tierIsUp (s : State) (chm : Bool) : Bool := if chm then s.pwr.chmUp else s.pwr.bobUp

/-- TIER_UP (R444). -/
def execTierUp (chm : Bool) (s : State) : Out State :=
  .next (awake s fun s =>
    if (s.pwr.state == .run || s.pwr.state == .idle) && s.pwr.seq.isEmpty && !tierIsUp s chm && tierWanted s chm then
      startSeq (modPwr s (fun p => { p with seqChm := chm })) [0x20, 0x21, 0x22, 0x23] .run
    else s)

/-- TIER_DOWN (R444). -/
def execTierDown (chm : Bool) (s : State) : Out State :=
  .next (awake s fun s =>
    if s.pwr.seq.isEmpty && tierIsUp s chm && !jobsIn s (fun j => tierOf j.slot.toNat == (if chm then 2 else 1)) then
      startSeq (modPwr s (fun p => { p with seqChm := chm })) [0x28, 0x29, 0x2A] (if tierIsUp s (!chm) then .run else .idle)
    else s)

/-! ## Watch (R445) -/

/-- WATCH_ENTRY. -/
def execWatchEntry (s : State) : Out State :=
  .next (awake s fun s =>
    if s.pwr.state == .idle && s.pwr.seq.isEmpty && watchBlock s == 0 then
      let s := if bitOf (reg s 0x70100) 2 && s.link.st == .l0 then { s with link := { s.link with st := .l0p } } else s
      startSeq s [0x30, 0x31, 0x32] .watch
    else s)

/-- WATCH_EXIT: E completes first (R449). -/
def execWatchExit (s : State) : Out State :=
  .next (awake s fun s =>
    if watchBlock s = 0 then s
    else if s.pwr.state == .watch && s.pwr.seq.isEmpty then startF s
    else if inSeq s 0x30 0x32 then modPwr s (fun p => { p with thenF := true })
    else s)

/-! ## Retain (R446, R447, R449) -/

/-- RETAIN_ENTRY: G1 is skipped from Watch. -/
def execRetainEntry (s : State) : Out State :=
  .next (awake s fun s =>
    if (s.pwr.state == .idle || s.pwr.state == .watch) && s.pwr.seq.isEmpty && mayRetain s then
      let es := [0x41, 0x42, 0x43, 0x44, 0x45]
      startSeq (modPwr s (fun p => { p with byRequest := true })) (if s.pwr.state == .watch then es else 0x40 :: es) .retain
    else s)

/-- RETAIN_EXIT: CLKREQ# is asserted, by the host or after a WAKE (R477), and the host runs REFCLK, which it may stop only
while CLKREQ# is released (R433, R446). -/
def execRetainExit (s : State) : Out State :=
  .next (
    if inG s then modPwr s (fun p => { p with thenB := true })
    else if s.pwr.state == .retain && s.pwr.byRequest && s.pwr.seq.isEmpty then
      startB (modPwr s (fun p => { p with refclk := true }))
    else s)

/-- PERST_ASSERT (R447, R449): in Off, and before step A4, there is nothing to reset. -/
def execPerstAssert (s : State) : Out State :=
  .next (
    let up := !(s.pwr.state == .off && (s.pwr.seq.isEmpty || inSeq s 0x00 0x02))
    let s := modPwr s (fun p => { p with perstHigh := false, wake := false, thenB := false })
    if !up || inH s then s
    else if s.pwr.seq.isEmpty then startH s
    else modPwr s (fun p => { p with thenH := true }))

/-- PERST_DEASSERT (R447, R449), with REFCLK present (R486). -/
def execPerstDeassert (s : State) : Out State :=
  .next (
    let s := modPwr s (fun p => { p with perstHigh := true, refclk := true, wake := false })
    if inH s || s.pwr.thenH then modPwr s (fun p => { p with thenB := true })
    else if s.pwr.state == .retain && s.pwr.seq.isEmpty && !s.pwr.byRequest && mayLeave s then startB s
    else s)

/-- REFCLK_LOSS (R432, R447). -/
def execRefclkLoss (s : State) : Out State :=
  .next (
    let armed := hostOn s && s.pwr.perstHigh && curEntry s != some 0x45
    let s := modPwr s (fun p => { p with refclk := false })
    if armed then refreshDoms (fatalEvent s 2)
    else if inH s || s.pwr.thenH then loseDram (modPwr s (fun p => { p with clkEarly := true }))
    else s)

/-! ## Resets from outside (R14, R440, R466, R485, R491) -/

/-- WARM_RESET: the power state and its sequence go on. -/
def execWarmReset (s : State) : Out State := .next (if hostOn s then refreshDoms (warmReset s) else { s with link := {} })

/-- POWER_ON (R466): not while THERM_TRIP# is latched. -/
def execPowerOn (s : State) : Out State :=
  .next (if s.pwr.state == .off && s.pwr.seq.isEmpty && !s.pwr.tripped then startA s else s)

/-- UNDERVOLTAGE (R485): the latch of a trip is released. -/
def execUndervoltage (s : State) : Out State := .next (modPwr (coldReset s) (fun p => { p with tripped := false }))

/-- THERMAL_TRIP (R491). -/
def execThermalTrip (s : State) : Out State := .next (modPwr (coldReset s) (fun p => { p with tripped := true }))

/-- A rail other than VLANTERN and VSRAM has failed (R440): a fundamental reset at once, and Retain. -/
def supplyReset (s : State) : State :=
  let cold := s.pwr.state == .off
  let s := resetPorts (fundamentalReset s) false
  let s := loseRetain (stopPlls (dropTier (dropTier s true) false) allPlls)
  let s := modPwr s (fun p => { p with
    seq := [], thenB := false, thenF := false, thenH := false, byRequest := false, supplyReset := true, railReset := true
    dipHeld := false, pwrGood := false, dramDead := p.dramDead || cold })
  enterState (setAlert s 3) .retain

/-- RAIL_RESET (R440): `dip` stays until the rails have recovered. -/
def execRailReset (r : BitVec 4) (mv : BitVec 12) (s : State) : Out State :=
  .next (
    let i := r.toNat
    if !railOn s i || !belowReset i mv then s
    else if i = 3 ∨ i = 5 then startA s
    else supplyReset (warnRail s r mv))

/-- RAIL_RECOVERED (R439, R440). -/
def execRailRecovered (s : State) : Out State :=
  .next (match s.pwr.dip with
    | none => s
    | some (r, low) =>
      let s := endDip s r low
      if !s.pwr.railReset then s
      else
        let s := modPwr s (fun p => { p with railReset := false, pwrGood := true })
        if s.pwr.state == .retain && s.pwr.seq.isEmpty && mayLeave s then startB s else s)

/-! ## The link and configuration requests (R48, R66, R433, R447, R449) -/

/-- The PCIe PHY is released: step A5 or B6 has passed. -/
def phyUp (s : State) : Bool := hostOn s || inSeq s 0x05 0x08 || inSeq s 0x16 0x19

/-- PCIE_LINK_UP (R66): a link narrower than x4 stays down. -/
def execPcieLinkUp (speed : BitVec 3) (width : BitVec 5) (flit : Bool) (s : State) : Out State :=
  .next (
    let w := width.toNat
    let v := speed.toNat
    if !phyUp s || !pllLocked s 5 || !s.pwr.perstHigh || !(w == 4 || w == 8 || w == 16) || !(v == 4 || v == 5 || (v == 6 && flit)) then s
    else modPwr { s with link := { st := .l0, speed := speed, width := width, flit := flit, degraded := w != 16 || v != 6 } }
      (fun p => { p with wake := false }))

/-- ASPM_L1_ENTRY (R433): the substates need CLKREQ# released. -/
def execAspmL1Entry (sub : BitVec 2) (s : State) : Out State :=
  .next (
    if !linkUp s || s.flt.fatal then s
    else { s with link := { s.link with st := .l1 (if s.pwr.clkreq || sub = 3 then 0 else sub) } })

/-- The link has left L1 for L0. -/
def leaveL1 (s : State) : State :=
  match s.link.st with
  | .l1 _ => { s with link := { s.link with st := .l0 } }
  | _ => s

end Sys2Proof.Machine
end

