-- ==== Sys2Proof/Machine/ConfigSpace.lean ====
section
/-! DEFINITION. ConfigSpace.lean: configuration space (R65, R68 to R70, R460) and the requests that reach it (R447, R449). -/

namespace Sys2Proof.Machine

/-! ## The registers -/

/-- The place of a Physical Layer capability. -/
def phyBase : PhyRate → Nat
  | .g16 => 0x210
  | .g32 => 0x250
  | .g64 => 0x290

/-- The place of a register in `Fn.cfg`. -/
def cfgKey : CfgReg → Nat
  | .id => 0x00
  | .command => 0x04
  | .classRev => 0x08
  | .bar k => 0x10 + 4 * k.toNat
  | .subsystem => 0x2C
  | .rom => 0x30
  | .pmCap => 0x40
  | .pmCtl => 0x44
  | .msixCtl => 0x50
  | .msixTable => 0x54
  | .msixPba => 0x58
  | .expCap => 0x60
  | .devCap => 0x64
  | .devCtl => 0x68
  | .linkCap => 0x6C
  | .linkCtl => 0x70
  | .devCap2 => 0x84
  | .devCtl2 => 0x88
  | .devCap3 => 0x8C
  | .devCtl3 => 0x90
  | .aerUncStatus => 0x104
  | .aerUncMask => 0x108
  | .aerUncSeverity => 0x10C
  | .aerCorrStatus => 0x110
  | .aerCorrMask => 0x114
  | .aerCap => 0x118
  | .aerHeader k => aerHdrKey + 4 * k.toNat
  | .serial hi => 0x144 + 4 * b2n hi
  | .sriovCap => 0x160
  | .sriovCtl => 0x164
  | .sriovVfs => 0x168
  | .sriovNum => numVfsKey
  | .sriovOffset => 0x170
  | .sriovDevice => 0x174
  | .vfBar k => 0x180 + 4 * k.toNat
  | .ari => 0x1A0
  | .l1ssCap => 0x1B0
  | .l1ssCtl => 0x1B4
  | .ltr => 0x1C0
  | .secLinkCtl => 0x1D4
  | .laneError => 0x1D8
  | .laneEq k => 0x1DC + 4 * k.toNat
  | .dlfCap => 0x204
  | .dlfStatus => 0x208
  | .phyCap r => phyBase r + 0x4
  | .phyCtl r => phyBase r + 0x8
  | .phyStatus r => phyBase r + 0xC
  | .phyEq r k => phyBase r + 0x20 + 4 * k.toNat
  | .parity k => 0x220 + 4 * k.toNat
  | .modTs k => 0x260 + 4 * k.toNat
  | .marginPort => 0x2D4
  | .marginLane k => 0x2D8 + 4 * k.toNat

/-- What a register of `Fn.cfg` holds after a reset. -/
def cfgInit : CfgReg → U32
  | .aerUncMask => 0x400000
  | .aerUncSeverity => 0x462030
  | .aerCorrMask => 0xE000
  | .devCtl => 0x2100
  | .sriovNum => 63
  | .marginLane _ => 0x9C38
  | _ => 0

/-- The bits that a write of a register sets; the others are fixed, act, or belong to other state. -/
def cfgMask (fn : Nat) (r : CfgReg) : Nat :=
  match r with
  | .command => 0x0142
  | .bar k => if fn ≠ 0 then 0 else [0xFFF00000, 0xFFFFFFFF, 0xFFC00000, 0xFFFFFFFF, 0xFFFF0000, 0xFFFFFFFF].getD k.toNat 0
  | .vfBar k => [0xFFFF0000, 0xFFFFFFFF, 0xFFFC0000, 0xFFFFFFFF, 0xFFFFF000, 0xFFFFFFFF].getD k.toNat 0
  | .devCtl => 0x71EF
  | .linkCtl => 0x00C2
  | .devCtl2 => 0x0410
  | .devCtl3 => 0x0002
  | .aerUncMask => 0xFFFFFFF0
  | .aerUncSeverity => 0xFFFFFFF0
  | .aerCorrMask => 0xF1C1
  | .sriovCtl => 0x18
  | .l1ssCtl => 0xFFFFFFFF
  | .ltr => 0x1FFF1FFF
  | .marginLane _ => 0xFFFF
  | .phyCtl r => if r = .g32 then 0x0703 else 0
  | _ => 0

/-- Registers that only the PF has (R69): a VF carries the PCI Express, MSI-X, AER and ARI capabilities. -/
def pfOnly : CfgReg → Bool
  | .pmCap => true
  | .pmCtl => true
  | .serial _ => true
  | .sriovCap => true
  | .sriovCtl => true
  | .sriovVfs => true
  | .sriovNum => true
  | .sriovOffset => true
  | .sriovDevice => true
  | .vfBar _ => true
  | .l1ssCap => true
  | .l1ssCtl => true
  | .ltr => true
  | .secLinkCtl => true
  | .laneError => true
  | .laneEq _ => true
  | .dlfCap => true
  | .dlfStatus => true
  | .phyCap _ => true
  | .phyCtl _ => true
  | .phyStatus _ => true
  | .phyEq _ _ => true
  | .parity _ => true
  | .modTs _ => true
  | .marginPort => true
  | .marginLane _ => true
  | _ => false

def cfgHeld (s : State) (fn : Nat) (r : CfgReg) : Nat := (smGet (cfgInit r) (getFn s fn).cfg (cfgKey r)).toNat

/-- Subsystem vendor ID in [15:0], subsystem ID in [31:16] (R460). -/
def subsystemIds (s : State) : U32 :=
  match s.subsys with
  | some w => w
  | none => BitVec.ofNat 32 (Config.vendorId.toNat + 0x1640 * 2 ^ 16)

/-- What the link has found, in a register that follows the link (R69). PRESUMED: the contents are the base
specification's, whose values an implementation and its link partner settle. -/
def linkWord (r : CfgReg) (mask : Nat) : Nat := (Config.linkCfg (cfgKey r)).toNat &&& mask

/-- Fixed low bits of a BAR: 64-bit and non-prefetchable (R70). -/
def barType (k : BitVec 3) : Nat := if k = 0 ∨ k = 2 ∨ k = 4 then 4 else 0

/-- The value of a register, as function `fn` holds it. -/
def cfgRead (s : State) (fn : Nat) (r : CfgReg) : Nat :=
  let f := getFn s fn
  let pf := fn == 0
  if !pf && pfOnly r then 0
  else match r with
    | .id => Config.vendorId.toNat + (if pf then 0x1640 else 0x1641) * 2 ^ 16
    | .command => cfgHeld s fn r + b2n f.bme * 4 + 2 ^ 20
    | .classRev => revision.toNat + 0x120000 * 2 ^ 8
    | .bar k => cfgHeld s fn r + (if pf then barType k else 0)
    | .vfBar k => cfgHeld s fn r + barType k
    | .subsystem => (subsystemIds s).toNat
    | .rom => 0
    | .pmCap => 0x01 + 3 * 2 ^ 16 + 0x18 * 2 ^ 27
    | .pmCtl => f.dstate.toNat + 8 + b2n f.pmeEn * 2 ^ 8 + b2n f.pmeStatus * 2 ^ 15
    | .msixCtl => 0x11 + (tableSize s fn - 1) * 2 ^ 16 + b2n f.fmask * 2 ^ 30 + b2n f.msixEn * 2 ^ 31
    | .msixTable => 4
    | .msixPba => (if pf then 0x8000 else 0x800) + 4
    | .expCap => 0x10 + 2 * 2 ^ 16
    | .secLinkCtl => 0
    | .laneEq _ => linkWord r 0x7F7F7F7F
    | .dlfCap => 1 + 2 ^ 31
    | .dlfStatus => linkWord r 0x807FFFFF
    | .phyCap k => if k = .g32 then linkWord r 0x0703 else 0
    | .phyStatus _ => cfgHeld s fn r + linkWord r 0x0F
    | .phyEq _ _ => linkWord r 0xFFFFFFFF
    | .modTs _ => linkWord r 0xFFFFFFFF
    | .marginPort => linkWord r 0x30001
    | .marginLane k => cfgHeld s fn r % 2 ^ 16 + (Config.marginStatus k.toNat (cfgHeld s fn r % 2 ^ 16)).toNat * 2 ^ 16
    | .devCap => 2 + 2 ^ 5 + 2 ^ 15 + 2 ^ 28
    | .linkCap => 6 + 16 * 2 ^ 4 + 2 * 2 ^ 10
    | .linkCtl => cfgHeld s fn r + s.link.speed.toNat * 2 ^ 16 + s.link.width.toNat * 2 ^ 20
    | .devCap2 => 2 ^ 11 + 2 ^ 16 + 2 ^ 17
    | .devCap3 => 2 ^ 1 + 2 ^ 2
    | .serial hi => fld Config.serial.toNat (if hi then 32 else 0) 32
    | .sriovCap => 0x10
    | .sriovCtl => cfgHeld s fn r + b2n s.vfEnable
    | .sriovVfs => if s.lnt.recovery then 0 else 63 + 63 * 2 ^ 16
    | .sriovOffset => 1 + 2 ^ 16
    | .sriovDevice => 0x1641 * 2 ^ 16
    | .ari => 0x0E
    | .l1ssCap => 0x1F
    | _ => cfgHeld s fn r

/-! ## Writes -/

/-- VF Enable (R69): a VF exists while it is 1. -/
def setVfEnable (s : State) (f : Nat) (v : Bool) : State :=
  if f ≠ 0 ∨ v = s.vfEnable then s
  else if v then { s with vfEnable := true }
  else { ((List.range 64).filter (· ≠ 0)).foldl flrOne s with vfEnable := false }

def setPower (s : State) (f : Nat) (d : BitVec 2) : State := if d = 0 ∨ d = 3 then modFn s f (fun x => { x with dstate := d }) else s

/-- The writable bits of a register take what is written. -/
def cfgPut (s : State) (f : Nat) (r : CfgReg) (w : Nat) : State :=
  let m := BitVec.ofNat 32 (cfgMask f r)
  modFn s f (fun x => { x with cfg := smUpd (cfgInit r) x.cfg (cfgKey r) (fun v => (v &&& ~~~m) ||| (BitVec.ofNat 32 w &&& m)) })

/-- A bit written as 1 in a status register of AER is cleared. -/
def cfgClear (s : State) (f : Nat) (r : CfgReg) (w : U32) : State :=
  modFn s f (fun x => { x with cfg := smUpd (cfgInit r) x.cfg (cfgKey r) (fun v => v &&& ~~~w) })

/-- The bits of a link status register that the link sets and a write of 1 clears (R69). PRESUMED. -/
def linkBits : CfgReg → U32
  | .laneError => 0xFFFF
  | .parity _ => 0xFFFF
  | .phyStatus _ => 0x10
  | _ => 0

/-- The link sets bits of one of its status registers. -/
def noteLanes (s : State) (r : CfgReg) (w : U32) : State :=
  modFn s 0 (fun x => { x with cfg := smUpd 0 x.cfg (cfgKey r) (· ||| (w &&& linkBits r)) })

/-- A write of a register. -/
def cfgWrite (s : State) (f : Nat) (r : CfgReg) (v : U32) : State :=
  let w := v.toNat
  if f ≠ 0 ∧ pfOnly r = true then s
  else match r with
    | .command => modFn (cfgPut s f r w) f (fun x => { x with bme := bitOf w 2 })
    | .pmCtl => modFn (setPower s f (BitVec.ofNat 2 w)) f (fun x => { x with pmeEn := bitOf w 8, pmeStatus := x.pmeStatus && !bitOf w 15 })
    | .msixCtl => flushVecs (modFn s f (fun x => { x with fmask := bitOf w 30, msixEn := bitOf w 31 })) f
    | .devCtl => if bitOf w 15 then goOn s (execFlr (BitVec.ofNat 6 f) s) else cfgPut s f r w
    | .aerUncStatus => cfgClear s f r v
    | .aerCorrStatus => cfgClear s f r v
    | .laneError => cfgClear s f r v
    | .parity _ => cfgClear s f r v
    | .phyStatus _ => cfgClear s f r v
    | .sriovCtl => setVfEnable (cfgPut s f r w) f (bitOf w 0)
    | .sriovNum => if s.vfEnable then s else
        modFn s f (fun x => { x with cfg := smSet (cfgInit r) x.cfg (cfgKey r) (BitVec.ofNat 32 (min 63 (w % 65536))) })
    | _ => cfgPut s f r w

/-- What a configuration request changes. -/
def cfgOp (s : State) (f : Nat) (op : CfgOp) : State :=
  match op with
  | .read _ => s
  | .write r w => cfgWrite s f r w
  | .powerState d => setPower s f d
  | .busMaster v => modFn s f (fun x => { x with bme := v })
  | .pmeEn v => modFn s f (fun x => { x with pmeEn := v })
  | .pmeStatusClear => modFn s f (fun x => { x with pmeStatus := false })
  | .msixEnable v => flushVecs (modFn s f (fun x => { x with msixEn := v })) f
  | .functionMask v => flushVecs (modFn s f (fun x => { x with fmask := v })) f
  | .vfEnable v => setVfEnable s f v

/-- The word that the answer to a request carries. -/
def cfgData (s : State) (f : Nat) (op : CfgOp) : U32 := match op with | .read r => BitVec.ofNat 32 (cfgRead s f r) | _ => 0

/-- CONFIGURATION_REQUEST (R447, R449): no answer comes from a link that is down or from an absent function. -/
def execConfigRequest (fn : FnId) (op : CfgOp) (s : State) : Out State :=
  .next (
    if s.link.st = .down ∨ !phyUp s then s
    else if !hostOn s then emit s (.cfgAnswer fn true 0)
    else if inG s then emit (modPwr s (fun p => { p with thenB := true })) (.cfgAnswer fn true 0)
    else if !fnPresent s fn.toNat then s
    else cfgOp (emit (leaveL1 s) (.cfgAnswer fn false (cfgData s fn.toNat op))) fn.toNat op)

end Sys2Proof.Machine
end

