-- ==== Sys2Proof/Machine/RegRead.lean ====
section
/-! DEFINITION. RegRead.lean: what a read of each BAR0 register returns (R8 to R11, R16, R17 and the register tables). -/

namespace Sys2Proof.Machine

/-! ## The map -/

/-- Assigned offsets: the first and the last word of each run. -/
def regRuns : List (Nat × Nat) :=
  [(0x00000, 0x00028), (0x00100, 0x00100), (0x01000, 0x01000), (0x01008, 0x0103C), (0x08000, 0x08008), (0x08010, 0x08050),
   (0x10000, 0x10018), (0x20004, 0x20004), (0x20010, 0x20014), (0x20020, 0x20030), (0x20038, 0x20080), (0x20088, 0x2008C),
   (0x30004, 0x30004), (0x30010, 0x30030), (0x30040, 0x30078), (0x30080, 0x3008C), (0x30100, 0x30118), (0x30120, 0x30150)] ++
  [(0x40004, 0x40004), (0x40010, 0x40018), (0x40020, 0x40030), (0x40040, 0x4007C), (0x48004, 0x48004), (0x48010, 0x48014),
   (0x48040, 0x4805C), (0x50004, 0x50004), (0x50010, 0x50014), (0x50020, 0x50024), (0x50030, 0x50038), (0x50040, 0x50058),
   (0x50060, 0x5008C), (0x58000, 0x58000), (0x58010, 0x58044), (0x60004, 0x60008), (0x60010, 0x60040), (0x60050, 0x60058)] ++
  [(0x60060, 0x60088), (0x60100, 0x60148), (0x70000, 0x70018), (0x70020, 0x70034), (0x70100, 0x70118), (0x70120, 0x7016C),
   (0x70200, 0x70204), (0x80000, 0x80018), (0x80020, 0x80034), (0x80040, 0x8005C), (0x90000, 0x90010), (0x90020, 0x90070),
   (0x90080, 0x900AC), (0x94000, 0x94010), (0x94018, 0x94030), (0xA0000, 0xA000C)]

def assigned (off : Nat) : Bool := off % 4 == 0 && regRuns.any (fun r => decide (r.1 ≤ off ∧ off ≤ r.2))

/-- The offset in the PF's map that a function's BAR0 offset names (R17, R71): a VF has three windows. -/
def pfOffset (fn off : Nat) : Option Nat :=
  if fn = 0 then (if assigned off then some off else none)
  else if off < 0x100 then (if assigned off then some off else none)
  else if 0x1000 ≤ off ∧ off < 0x1100 then (if assigned off then some off else none)
  else if 0xF000 ≤ off ∧ off < 0xF100 then (if assigned (off - 0xF000 + 0xA0000) then some (off - 0xF000 + 0xA0000) else none)
  else none

/-- Lower halves of 64-bit counters. -/
def ctr64 : List Nat :=
  [0x08010, 0x08018, 0x08020, 0x08028, 0x08030, 0x08038, 0x08040, 0x20040, 0x20048, 0x20050, 0x30040, 0x30048, 0x30050, 0x30058,
   0x30060, 0x30120, 0x30138, 0x40040, 0x40048, 0x40050, 0x40058, 0x40060, 0x40068, 0x48040, 0x48048, 0x58010, 0x58018, 0x58020] ++
  [0x58028, 0x50060, 0x50068, 0x50070, 0x50078, 0x60074, 0x90060, 0x70120, 0x70140, 0x70148, 0x70150]

/-- Fields that hold what is written, by offset: the writable bits. -/
def plainMask : List (Nat × Nat) :=
  [(0x08000, 0x7), (0x10000, 0x3FFF000F), (0x20010, 0x1FF), (0x20020, 0x3F), (0x20038, 0x3FFF), (0x20088, 0x1FFFFFF), (0x30010, 0xFF),
   (0x30020, 0xFF), (0x30088, 0x3FFFFFF), (0x30100, 0xFFF), (0x3010C, 0xFFFFFFFF), (0x40010, 0xF), (0x40020, 0xFF), (0x48010, 0x3),
   (0x50010, 0x1F), (0x50020, 0x7), (0x50030, 0x1FFFF3), (0x60010, 0x3), (0x60050, 0xFFF), (0x60084, 0xFFFFF), (0x60100, 0xFF)] ++
  [(0x70004, 0x7), (0x70020, 0x3), (0x7002C, 0x1), (0x70030, 0x7FFFFFFF), (0x70100, 0xFFFFF), (0x70108, 0x7FF), (0x7010C, 0xFF),
   (0x7012C, 0xF), (0x70200, 0xFF), (0x90004, 0x7F), (0x90010, 0x1FF), (0x900A4, 0xFF), (0x94000, 0xFFF)]

def maskOf (off : Nat) : Option Nat := (plainMask.find? (fun e => e.1 == off)).map (·.2)

/-- A register that only holds or only counts. -/
def readPlain (s : State) (off : Nat) : Nat :=
  if (maskOf off).isSome || off == 0x30080 || off == 0x30084 || off == 0x60008 || off == 0xA0004 || off == 0xA000C then reg s off
  else if ctr64.contains off then ctr s off % 2 ^ 32
  else if 4 ≤ off ∧ ctr64.contains (off - 4) then ctr s (off - 4) / 2 ^ 32
  else ctr s off

def w2 (a : U64) (hi : Bool) : Nat := fld a.toNat (if hi then 32 else 0) 32
def n2 (n : Nat) (hi : Bool) : Nat := fld n (if hi then 32 else 0) 32

/-! ## HIF_ and PROT_ (R63, R64, R74, R104, R110, R111) -/

def ringCount (s : State) (fn : Nat) : Nat := ((List.range 1024).filter (ownsRing s fn)).length

def readFn (s : State) (fn off : Nat) : Nat :=
  let f := getFn s fn
  match off with
  | 0x00 => f.errVec.toNat + b2n f.errIen * 2 ^ 11
  | 0x04 => fn + b2n (fn != 0) * 2 ^ 6 + ringCount s fn * 2 ^ 8
  | 0x08 => f.dbErr
  | 0x0C => f.descErr
  | 0x10 => w2 f.dbLog false
  | 0x14 => w2 f.dbLog true
  | 0x18 => f.dbCause.toNat + f.dbPage.toNat * 2 ^ 4 + b2n f.dbValid * 2 ^ 31
  | 0x1C => f.stale
  | 0x20 => f.prot
  | 0x24 => f.irqLost
  | _ => 0

def readRingOf (r : Ring) (p off : Nat) : Nat :=
  match off with
  | 0x08 => w2 r.sqBase false
  | 0x0C => w2 r.sqBase true
  | 0x10 => w2 r.cqBase false
  | 0x14 => w2 r.cqBase true
  | 0x18 => w2 r.nqBase false
  | 0x1C => w2 r.nqBase true
  | 0x20 => r.sqLog2.toNat + r.cqLog2.toNat * 2 ^ 4 + r.nqLog2.toNat * 2 ^ 8
  | 0x24 => b2n r.enabled + b2n r.abort * 2 + r.prio.toNat * 4
  | 0x28 => r.cqVec.toNat + b2n r.cqIen * 2 ^ 11 + r.nqVec.toNat * 2 ^ 16 + b2n r.nqIen * 2 ^ 27
  | 0x2C => r.count.toNat + r.holdoff.toNat * 2 ^ 8
  | 0x30 => r.sqHead.toNat + r.sqTail.toNat * 2 ^ 16
  | 0x34 => r.cqTail.toNat + r.cqHead.toNat * 2 ^ 16
  | 0x38 => r.nqTail.toNat + r.nqHead.toNat * 2 ^ 16
  | 0x3C => 1 + b2n r.enabled * 2 + b2n (ringBusy r) * 4 + b2n r.cfgErr * 8 + b2n r.dbErr * 16 + b2n r.dmaErr * 32 +
      r.rgen.toNat * 2 ^ 8 + p * 2 ^ 16
  | _ => 0

/-- The ring window reads 0 while the selection names a pair that the function does not own (R74). -/
def readRing (s : State) (fn off : Nat) : Nat :=
  if off = 0 then (getFn s fn).ringSel.toNat
  else match selPair s fn with
    | some p => readRingOf (getRing s p) p off
    | none => 0

def countStreams (s : State) (q : StreamCtx → Bool) : Nat := min 16383 ((s.streams.filter (fun e => q e.2.ctx)).length)

def readHif (s : State) (fn off : Nat) : Nat :=
  if off < 0x100 then readFn s fn off
  else if off = 0x100 then s.link.speed.toNat + b2n s.link.flit * 2 ^ 3 + s.link.width.toNat * 2 ^ 4 + b2n s.link.degraded * 2 ^ 9
  else if off < 0x8000 then readRing s fn (off - 0x1000)
  else if off = 0x8004 then
    countStreams s (fun c => c.state == 1 || c.state == 2) + countStreams s (·.lag) * 2 ^ 16
  else readPlain s off

def readProt (s : State) (off : Nat) : Nat :=
  match off with
  | 0x10000 => reg s 0x10000
  | 0x10018 =>
    b2n s.prot.busy + b2n (s.prot.shadow != s.prot.active) * 2 + b2n s.prot.conflict * 4 + b2n s.prot.cmdLost * 8 + s.prot.commits.toNat * 2 ^ 16
  | 0x10014 => 0
  | _ =>
    if protSelOk s then
      fld (protIn (if bitOf (reg s 0x10000) 3 then s.prot.shadow else s.prot.active) (protTable s) (protIndex s)) (8 * (off - 0x10004)) 32
    else 0

/-! ## PIC_ (R158) -/

/-- Logical units of a type in service. -/
def inService (s : State) (utype n : Nat) : Nat := n - ((List.range n).filter (fun u => smGet false s.flt.outOf (utype * 4096 + u))).length
def sparesLeft (s : State) (utype : Nat) : Nat := (freeSpares s utype).length
def remapped (s : State) (utype u : Nat) : Bool := (smFind s.flt.map (utype * 4096 + u)).isSome
def repairing (s : State) (utype : Nat) : Bool := match s.flt.repair with | some r => r.utype.toNat == utype | none => false

/-- A version of a slot that is not active is still held by a job. -/
def oldHeld (s : State) (slot : Nat) : Bool :=
  let x := getSlot s slot
  (versionOf x (!x.activeB)).isSome && versionHeld s slot (!x.activeB)

def picBusy (s : State) : Bool :=
  s.streams.any (fun e => e.2.waiting.isSome) || s.insts.any (fun e => match e.2 with | some i => i.waitAck.isSome | none => false) ||
  s.slots.any (fun e => tierOf e.1 == 0 && e.2.moving)

/-- PIC_BRIDGE: what waits for the step boundary, else the binding in force. -/
def bridgeWord (s : State) (st : Nat) : Nat :=
  match getInst s st with
  | none => 0
  | some i => (match i.bridgePend with
    | some w => w.toNat
    | none => dirWord s (instPlace s i).core (instPlace s i).j 2 % 2 ^ 31)

def picInfo (s : State) (slot : Nat) : Nat :=
  let x := getSlot s slot
  let cap := match activeVersion s slot with
    | some v => min 16384 (t0Capacity (rangeOf0 x x.activeB) (t0Span v.image) (t0Npc v.image))
    | none => 0
  cap + b2n x.activeB * 2 ^ 15 + b2n x.moving * 2 ^ 16 + b2n x.rangeErr * 2 ^ 17

def readPic (s : State) (off : Nat) : Nat :=
  let slot := reg s 0x20020 % 64
  match off with
  | 0x20004 => inService s 2 512 + sparesLeft s 2 * 2 ^ 10 + b2n (picBusy s) * 2 ^ 16
  | 0x20014 => physOf s 2 (reg s 0x20010) + b2n (remapped s 2 (reg s 0x20010)) * 2 ^ 10
  | 0x20024 => (getSlot s slot).placeA.toNat
  | 0x20028 => (getSlot s slot).placeB.toNat
  | 0x2002C => picInfo s slot
  | 0x20030 => slotInsts s slot
  | 0x2003C => bridgeWord s (reg s 0x20038)
  | 0x2008C => peekWord s (mkey (spPicot (reg s 0x20088 % 512)) (4 * (reg s 0x20088 / 512)))
  | _ => readPlain s off

/-! ## BOB_ (R202, R235) -/

def jobsOf (s : State) (slot : Nat) : List Job := s.jobs.filterMap (fun e => match e.2 with
  | some j => if j.slot.toNat = slot then some j else none
  | none => none)
/-- A job runs: it has been taken, for its first attempt or a later one, and has not ended; one that has ended and waits
for its signal runs no more. -/
def jobGoes (j : Job) : Bool := (j.st != .queued || decide (1 < j.attempt)) && !j.finished
def slotQueue (s : State) (slot : Nat) : Nat :=
  min 65535 ((jobsOf s slot).filter (fun j => j.st == .queued && decide (j.attempt ≤ 1) && !j.finished)).length +
  b2n ((jobsOf s slot).any jobGoes) * 2 ^ 16
def tierBusy (s : State) (t utype : Nat) : Bool :=
  jobsIn s (fun j => tierOf j.slot.toNat == t && jobGoes j) || s.slots.any (fun e => tierOf e.1 == t && e.2.load.isSome) || repairing s utype

def slotFlags (s : State) (slot : Nat) : Nat :=
  b2n (getSlot s slot).activeB + b2n (oldHeld s slot) * 2 + b2n (getSlot s slot).rangeErr * 4

/-- A core of a loaded placement that serves no rank (R188). -/
def spareOfPlace (s : State) (c : Nat) : Bool :=
  (getCore s c).slot == 0 && s.slots.any (fun e => tierOf e.1 == 1 &&
    ((e.2.verA.isSome && (placeCores e.2.placeA.toNat).contains c) || (e.2.verB.isSome && (placeCores e.2.placeB.toNat).contains c)))

/-- The core is powered down: with its tier, or under R188. -/
def coreDown (s : State) (c : Nat) : Bool := !s.pwr.bobUp || spareOfPlace s c

/-- BOB_CORE_STATE.STATE: 0 for a core of no loaded placement (its Reset value, with the tier down). -/
def coreStateCode (s : State) (c : Nat) : Nat :=
  let k := getCore s c
  if spareOfPlace s c then 6
  else if k.slot = 0 then 0
  else if !s.pwr.bobUp then 6
  else if k.st = 5 then 5
  else if k.ending && k.job.isSome then (if coreDone k then 4 else 3)
  else k.st.toNat

def readBobSlot (s : State) (off : Nat) : Nat :=
  let slot := bobSel s
  let x := getSlot s slot
  if tierOf slot ≠ 1 then 0
  else match off with
    | 0x30024 => x.placeA.toNat
    | 0x30028 => x.placeB.toNat
    | 0x3002C => slotFlags s slot + (match activeVersion s slot with | some v => t1Cores v.image | none => 0) * 2 ^ 8
    | _ => slotQueue s slot

def readKnot (s : State) (off : Nat) : Nat :=
  let k := getKnot s (selKnot s)
  let n := selKnot s
  match off with
  | 0x30104 => k.value.toNat
  | 0x30108 => k.epoch.toNat + b2n k.broken * 2 ^ 16 + b2n k.sat * 2 ^ 17 + b2n k.mirror * 2 ^ 18 + b2n k.lost * 2 ^ 19 +
      min 255 (s.knotWaits.filter (fun w => w.knot.toNat == n)).length * 2 ^ 20
  | 0x30110 => 0
  | 0x30114 => k.rchip.toNat + k.rknot.toNat * 2 ^ 12 + b2n k.bindErr * 2 ^ 24
  | 0x30118 => s.subs.length
  | _ => readPlain s off

def readBob (s : State) (off : Nat) : Nat :=
  let c := reg s 0x30010
  if 0x30024 ≤ off ∧ off ≤ 0x30030 then readBobSlot s off
  else if 0x30104 ≤ off ∧ off ≤ 0x30118 then readKnot s off
  else match off with
    | 0x30004 => inService s 3 256 + sparesLeft s 3 * 2 ^ 9 + b2n (tierBusy s 1 3) * 2 ^ 14
    | 0x30014 => physOf s 3 c % 16 + physOf s 3 c / 16 * 2 ^ 4 + b2n (remapped s 3 c) * 2 ^ 9
    | 0x30018 => (getCore s c).slot.toNat + (getCore s c).rank.toNat * 2 ^ 8 + (getCore s c).epoch.toNat * 2 ^ 16
    | 0x3001C => coreStateCode s c + (getCore s c).lastPc.toNat * 2 ^ 12
    | 0x3008C => if coreDown s (reg s 0x30088 % 256) then 0
      else peekWord s (mkey (spBobbin (reg s 0x30088 % 256)) (4 * (reg s 0x30088 / 256)))
    | _ => readPlain s off

/-! ## FLT_SAT_ (R261) -/

def readSat (s : State) (off : Nat) : Nat :=
  let c := getSat s (reg s 0x94000)
  match off with
  | 0x94004 => c.winLog2.toNat + c.holder.toNat * 2 ^ 8 + b2n (c.holder != 0) * 2 ^ 16
  | 0x94008 => c.thresh.toNat
  | 0x9400C => c.winSat
  | 0x94010 => c.winOut
  | 0x94018 => n2 c.evt false
  | 0x9401C => n2 c.evt true
  | 0x94020 => n2 c.outs false
  | 0x94024 => n2 c.outs true
  | 0x94028 => b2n c.drift + b2n c.winDrift * 2 + c.drifts * 2 ^ 16
  | 0x94030 => (s.satCtrs.filter (·.2.drift)).length
  | _ => readPlain s off

/-! ## CHM_ and EDG_ (R314, R315) -/

/-- The engine belongs to a placement that holds a version; others stay powered down (R280). -/
def engPlaced (s : State) (e : Nat) : Bool :=
  s.slots.any (fun q => tierOf q.1 == 2 && ((q.2.verA.isSome && bitOf q.2.placeA.toNat e) || (q.2.verB.isSome && bitOf q.2.placeB.toNat e)))

def engState (s : State) (e : Nat) : Nat :=
  if smGet false s.flt.outOf (4 * 4096 + e) then 4
  else if !s.pwr.chmUp || !engPlaced s e then 3
  else match (getEngine s e).job with
    | none => 0
    | some jn => match getJob s jn with
      | none => 0
      | some j => (if j.st = .queued then 2 else 1) + j.slot.toNat * 2 ^ 8 + j.layer % 4096 * 2 ^ 16 + b2n j.back * 2 ^ 28

def readChmSlot (s : State) (off : Nat) : Nat :=
  let slot := reg s 0x40020
  let x := getSlot s slot
  if tierOf slot ≠ 2 then 0
  else match off with
    | 0x40024 => x.placeA.toNat
    | 0x40028 => x.placeB.toNat
    | 0x4002C => slotFlags s slot + (if (activeVersion s slot).isSome then (placedEngines x x.activeB).length else 0) * 2 ^ 8
    | _ => slotQueue s slot

def readChm (s : State) (off : Nat) : Nat :=
  let e := reg s 0x40010
  if 0x40024 ≤ off ∧ off ≤ 0x40030 then readChmSlot s off
  else match off with
    | 0x40004 => inService s 4 16 + sparesLeft s 4 * 2 ^ 5 + b2n (tierBusy s 2 4) * 2 ^ 7
    | 0x40014 => physOf s 4 e + b2n (remapped s 4 e) * 2 ^ 5
    | 0x40018 => engState s e
    | 0x48004 => unitsLeft s 5 + b2n ((List.range 4).any (edgTaken s)) * 2 ^ 3
    | 0x48014 => if smGet false s.flt.retired (5 * 4096 + reg s 0x48010) then 4 else if edgTaken s (reg s 0x48010) then 3 else 0
    | _ => readPlain s off

/-! ## GAL_ (R338, R363) -/

/-- DRAM is in self refresh: from the end of step E1, G1 or H4 to the end of step F3 or B8 (R450). -/
def selfRefresh (s : State) : Bool :=
  match s.pwr.state with
  | .watch => !inSeq s 0x3B 0x3B
  | .retain => !(inSeq s 0x06 0x08 || inSeq s 0x18 0x19)
  | _ => inSeq s 0x31 0x32 || inSeq s 0x41 0x45

def readGal (s : State) (off : Nat) : Nat :=
  match off with
  | 0x50004 => 32 + sparesLeft s 6 * 2 ^ 6 + 8 * 2 ^ 8 + b2n (curEntry s == some 0x08 && s.pwr.state == .off) * 2 ^ 12
  | 0x50014 => physOf s 6 (reg s 0x50010) + b2n (remapped s 6 (reg s 0x50010)) * 2 ^ 6
  | 0x50024 => (smGet 0 s.stackTemp (reg s 0x50020)).toNat + b2n (smGet false s.stackHot (reg s 0x50020)) * 2 ^ 8 +
      b2n (selfRefresh s) * 2 ^ 9
  | 0x50034 => s.memLogs.sramPass.toNat + s.memLogs.dramPass.toNat * 2 ^ 16
  | 0x50038 => snapUsed s + s.memLogs.snapPeak * 2 ^ 16
  | 0x50084 => s.memLogs.err.toNat
  | 0x50088 => w2 s.memLogs.errAddr false
  | 0x5008C => w2 s.memLogs.errAddr true
  | 0x58000 => 0
  | 0x58040 => s.memLogs.codec.toNat
  | 0x58044 => s.memLogs.codecBlk.toNat
  | _ => readPlain s off

/-! ## PSG_ (R397) -/

def portState (p : Port) : Nat :=
  (if p.retired then 4 else if p.idConflict then 5 else if p.train.isSome && p.en then 1 else if p.up then (if p.twoLanes then 3 else 2) else 0) +
  p.laneRet.toNat * 2 ^ 3 + p.peerChip.toNat * 2 ^ 8 + p.peerPort.toNat * 2 ^ 20

def readPort (s : State) (off : Nat) : Nat :=
  let i := selPort s
  let p := getPort s i
  match off with
  | 0x60014 => b2n p.en + b2n p.retrain * 2
  | 0x60018 => portState p
  | 0x6001C => (laneCfg s i).toNat % 4096
  | 0x60020 => n2 p.txFlits false
  | 0x60024 => n2 p.txFlits true
  | 0x60028 => n2 p.rxFlits false
  | 0x6002C => n2 p.rxFlits true
  | 0x60030 => p.fecUncorr
  | 0x60034 => p.naks
  | 0x60038 => p.retrains
  | 0x6003C => p.laneCorr.toNat
  | 0x60040 => leNat (p.laneWin.map (fun w => BitVec.ofNat 8 (min 255 w.2)))
  | _ => readPlain s off

def readConduit (s : State) (off : Nat) : Nat :=
  let c := getConduit s (reg s 0x60100 % 256)
  match off with
  | 0x60104 => c.ctrl.toNat
  | 0x60108 => w2 c.src false
  | 0x6010C => w2 c.src true
  | 0x60110 => w2 c.dst false
  | 0x60114 => w2 c.dst true
  | 0x60118 => w2 c.stg false
  | 0x6011C => w2 c.stg true
  | 0x60120 => w2 c.rstg false
  | 0x60124 => w2 c.rstg true
  | 0x60128 => c.len.toNat
  | 0x6012C => c.stgMax.toNat
  | 0x60130 => c.trig.toNat
  | 0x60134 => c.tinc.toNat
  | 0x60138 => c.done.toNat
  | 0x6013C => c.ack.toNat
  | 0x60140 => c.state.toNat + c.status.toNat * 2 ^ 8
  | 0x60144 => c.next.toNat
  | 0x60148 => c.count.toNat
  | _ => readPlain s off

def readPsg (s : State) (off : Nat) : Nat :=
  if 0x60010 ≤ off ∧ off ≤ 0x60040 then readPort s off
  else if 0x60100 ≤ off then readConduit s off
  else match off with
    | 0x60004 => ((List.range 4).map (fun i => b2n ((getPort s i).up && !(getPort s i).retrain) * 2 ^ i)).sum + min 4095 s.lostChips.length * 2 ^ 4
    | 0x60054 => routeWord s (reg s 0x60050)
    | 0x60058 => b2n (smGet false s.lostChips (reg s 0x60050))
    | 0x60080 => reg s 0x60080 % 4096 + b2n s.rreg.busy * 2 ^ 13 + s.rreg.status.toNat * 2 ^ 16
    | 0x60088 => s.rreg.data.toNat
    | _ => readPlain s off

/-! ## CLK_ and PWR_ (R452, R453) -/

def readPll (s : State) (off : Nat) : Nat :=
  let p := reg s 0x70004
  match s.plls[p]? with
  | none => 0
  | some x => match off with
    | 0x70008 => x.ndiv.toNat + x.fdiv.toNat * 2 ^ 8 + x.pdiv.toNat * 2 ^ 24
    | 0x7000C => b2n x.en + x.tol.toNat * 2
    | 0x70010 => x.last.toNat
    | 0x70014 => pllExpect p x
    | _ => x.fails

def readDom (s : State) (off : Nat) : Nat :=
  match s.doms[reg s 0x70020]? with
  | none => 0
  | some x => if off = 0x70024 then b2n x.srcReq + b2n x.switching * 2 + x.smin.toNat * 4 else b2n x.src + b2n x.running * 2 + x.stretch.toNat * 4

def readClk (s : State) (off : Nat) : Nat :=
  if off = 0x70000 then
    (s.plls.zipIdx.map (fun e => b2n e.1.locked * 2 ^ e.2 + b2n e.1.fault * 2 ^ (7 + e.2))).sum + b2n s.pwr.refclk * 2 ^ 14 + b2n s.pwr.cfgErr * 2 ^ 15
  else if 0x70008 ≤ off ∧ off ≤ 0x70018 then readPll s off
  else if off = 0x70024 ∨ off = 0x70028 then readDom s off
  else readPlain s off

def pstateCode : PState → Nat
  | .run => 0
  | .idle => 1
  | .watch => 2
  | .retain => 3
  | .off => 4

/-- PWR_STATE.ENTRY: the step of the sequence in progress, or step I2 of a supply dip. -/
def entryNow (s : State) : Nat := (curEntry s).getD (if s.pwr.dip.isSome then 0x51 else 0)

/-- PWR_STATE: 4 while a sequence leads to another state. -/
def pwrStateWord (s : State) : Nat :=
  (if !s.pwr.seq.isEmpty && s.pwr.goal != s.pwr.state then 4 else pstateCode s.pwr.state) + b2n s.pwr.bobUp * 2 ^ 3 + b2n s.pwr.chmUp * 2 ^ 4 +
  watchBlock s * 2 ^ 8 + entryNow s * 2 ^ 16

/-- PWR_GOV.ACTIVE: some S above its SMIN. -/
def govActive (s : State) : Bool := [1, 2, 3].any (fun d => decide (sminOf s d < stretchOf s d))

def pwrEvent (p : Power) : Nat :=
  b2n p.dipEvent + b2n p.supplyReset * 2 + b2n p.clkEarly * 4 + b2n p.govLimit * 8 + b2n p.clockFault * 16

def readPwr (s : State) (off : Nat) : Nat :=
  let r := reg s 0x7012C
  match off with
  | 0x70104 => pwrStateWord s
  | 0x70110 => s.pwr.inputP.toNat + s.pwr.peak.toNat * 2 ^ 16
  | 0x70114 => s.pwr.tj.toNat
  | 0x70118 => b2n (govActive s) + b2n s.pwr.limitMiss * 2 + stretchOf s 3 * 2 ^ 2 + stretchOf s 2 * 2 ^ 8 + stretchOf s 1 * 2 ^ 14
  | 0x70130 => ((smFind s.pwr.railMv r).getD 0).toNat + ((smFind s.pwr.railMin r).getD 0).toNat * 2 ^ 12 + b2n (railOn s r) * 2 ^ 24 +
      b2n (smGet false s.pwr.railWarn r) * 2 ^ 25
  | 0x70138 => pwrEvent s.pwr
  | 0x70204 => delayWord (reg s 0x70200)
  | _ => readPlain s off

/-! ## LNT_, FLT_ and CAP_ (R112, R426, R479) -/

def readLnt (s : State) (off : Nat) : Nat :=
  let l := s.lnt
  match off with
  | 0x80000 => b2n l.recovery + b2n l.cfgCopy * 2 + b2n l.cfgOther * 4 + b2n l.ucCopy * 8 + b2n l.ucOther * 16 + b2n l.ucFused * 32 + l.ucEpoch.toNat * 64
  | 0x80004 => l.cfgSeq.toNat
  | 0x80008 => l.ucSeq.toNat
  | 0x8000C => l.applied.toNat + l.itemErr.toNat * 2 ^ 16 + b2n l.protErr * 2 ^ 29
  | 0x80010 => b2n l.pecReq + b2n l.smbLock * 2
  | 0x80014 => l.alert.toNat
  | 0x80018 => l.alertMask.toNat
  | 0x80020 => l.smbAddr.toNat + l.smbLeft.toNat * 2 ^ 8
  | 0x80024 => l.epoch.toNat + l.epochLeft.toNat * 2 ^ 8
  | 0x80028 => (laneCfg s 0).toNat
  | 0x8002C => (laneCfg s 1).toNat
  | 0x80030 => (laneCfg s 2).toNat
  | 0x80034 => (laneCfg s 3).toNat
  | 0x80040 => l.stageAddr.toNat + l.stageOwner.toNat * 2 ^ 16
  | 0x80044 => (takeStage s).1.toNat
  | 0x8004C => l.flashOp.toNat + b2n l.flashBusy * 8 + l.flashStatus.toNat * 2 ^ 4 + b2n l.flashTarget * 2 ^ 12 + b2n l.flashDone * 2 ^ 13
  | 0x80050 => l.flashLen.toNat
  | 0x80054 => l.smbErr
  | 0x80058 => l.smbCmds
  | _ => 0

def readFlt (s : State) (off : Nat) : Nat :=
  let f := s.flt
  if 0x94000 ≤ off then readSat s off
  else if 0x90020 ≤ off ∧ off < 0x90040 then fld (smGet 0 f.log (reg s 0x90010)).toNat (8 * (off - 0x90020)) 32
  else if 0x90080 ≤ off ∧ off < 0x900A0 then fld f.fatalLog.toNat (8 * (off - 0x90080)) 32
  else match off with
    | 0x90000 => b2n f.fatal + b2n f.logOvf * 2 + b2n (f.repair.isSome || !f.repairQ.isEmpty) * 4
    | 0x90008 => f.head.toNat
    | 0x9000C => f.tail.toNat
    | 0x900A0 => reg s 0x900A0 % 2 ^ 18 + b2n f.cmdBusy * 2 ^ 19 + f.cmdStatus.toNat * 2 ^ 20
    | 0x900A8 => (f.dramRet[reg s 0x900A4]?.getD 0).toNat
    | 0x900AC => f.dramRet.length
    | _ => readPlain s off

def readCap (s : State) (off : Nat) : Nat :=
  match off with
  | 0xA0000 => 0x1640 + revision.toNat * 2 ^ 16
  | 0xA0008 => inService s 4 16 + sparesLeft s 3 * 2 ^ 5 + sparesLeft s 2 * 2 ^ 10
  | _ => readPlain s off

/-- The value of the register at an assigned offset of the PF's map, as function `fn` reads it. -/
def readReg (s : State) (fn off : Nat) : Nat :=
  let b := off / 0x10000
  if b = 0 then readHif s fn off
  else if b = 1 then readProt s off
  else if b = 2 then readPic s off
  else if b = 3 then readBob s off
  else if b = 4 then readChm s off
  else if b = 5 then readGal s off
  else if b = 6 then readPsg s off
  else if b = 7 then (if off < 0x70100 then readClk s off else readPwr s off)
  else if b = 8 then readLnt s off
  else if b = 9 then readFlt s off
  else readCap s off

/-- The lower half of a 64-bit register (R9). -/
def lowHalf (off : Nat) : Bool :=
  ctr64.contains off || [0x00010, 0x01008, 0x01010, 0x01018, 0x50088, 0x60020, 0x60028, 0x60108, 0x60110, 0x60118, 0x60120, 0x94018, 0x94020].contains off

/-- What a read changes: LNT_STAGE_DATA advances its address (R479). -/
def readEffect (s : State) (off : Nat) : State := if off = 0x80044 then stepStage s else s

/-- A read by function `fn` of the register at an assigned offset of the PF's map (R9): the read of a low half latches the
high half, and the function's next read of that high half returns and uses up what was latched. -/
def readBar0 (s : State) (fn off : Nat) : U32 × State :=
  match smFind (getFn s fn).latch off with
  | some w => (w, modFn s fn (fun f => { f with latch := f.latch.filter (fun e => e.1 != off) }))
  | none =>
    let w := BitVec.ofNat 32 (readReg s fn off)
    if lowHalf off then
      let hi := BitVec.ofNat 32 (readReg s fn (off + 4))
      (w, modFn s fn (fun f => { f with latch := smPut f.latch (off + 4) hi }))
    else (w, readEffect s off)

/-- A word of BAR4 (R69, R70): the MSI-X table at 0, the PBA at 0x8000 of the PF and at 0x800 of a VF. -/
def readMsix (s : State) (fn off : Nat) : Nat :=
  let pba := if fn = 0 then 0x8000 else 0x800
  let vec (v : Nat) : MsixVec := smGet {} (getFn s fn).vecs v
  if pba ≤ off then
    ((List.range 32).map (fun i =>
      let v := 8 * (off - pba) + i
      b2n (decide (v < tableSize s fn) && (vec v).pend) * 2 ^ i)).sum
  else if tableSize s fn ≤ off / 16 then 0
  else
    let e := vec (off / 16)
    match off % 16 with
    | 0 => w2 e.addr false
    | 4 => w2 e.addr true
    | 8 => e.data.toNat
    | _ => b2n e.masked

end Sys2Proof.Machine
end

