-- ==== Sys2Proof/Machine/RegWrite.lean ====
section
/-! DEFINITION. RegWrite.lean: what a write of each BAR0 register and of the MSI-X table does (R6, R8 to R12, R70, R402,
R465 and the register tables), the reads that have an effect (R9, R10), and the remote register read (R388). -/

namespace Sys2Proof.Machine

/-- Bits written as 1 are cleared. -/
def w1c (b : Bool) (w i : Nat) : Bool := b && !bitOf w i

/-- Word 0 or 1 of a 64-bit register replaced. -/
def putHalf (v : U64) (hi : Bool) (w : Nat) : U64 :=
  if hi then BitVec.ofNat 64 (v.toNat % 2 ^ 32 + w * 2 ^ 32) else BitVec.ofNat 64 (v.toNat / 2 ^ 32 * 2 ^ 32 + w)

/-! ## HIF_ (R63, R64, R74, R75, R77, R102, R110) -/

def writeFnReg (s : State) (fn off w : Nat) : State :=
  match off with
  | 0x00 => modFn s fn (fun f => { f with errVec := BitVec.ofNat 11 w, errIen := bitOf w 11 })
  | 0x18 => modFn s fn (fun f => { f with dbValid := w1c f.dbValid w 31 })
  | 0x28 => if bitOf w 0 then goOn s (execFnClear (BitVec.ofNat 6 fn) s) else s
  | _ => s

/-- The bases and sizes of a pair. -/
def writeRingBase (r : Ring) (off w : Nat) : Ring :=
  match off with
  | 0x08 => { r with sqBase := putHalf r.sqBase false w }
  | 0x0C => { r with sqBase := putHalf r.sqBase true w }
  | 0x10 => { r with cqBase := putHalf r.cqBase false w }
  | 0x14 => { r with cqBase := putHalf r.cqBase true w }
  | 0x18 => { r with nqBase := putHalf r.nqBase false w }
  | 0x1C => { r with nqBase := putHalf r.nqBase true w }
  | 0x20 => { r with sqLog2 := BitVec.ofNat 4 w, cqLog2 := BitVec.ofNat 4 (w / 2 ^ 4), nqLog2 := BitVec.ofNat 4 (w / 2 ^ 8) }
  | _ => r

/-- HIF_RING_VEC: an IEN that becomes 1 evaluates the conditions of R102 at once. -/
def writeRingVec (s : State) (p w : Nat) : State :=
  let r := getRing s p
  let s := modRing s p (fun r => { r with
    cqVec := BitVec.ofNat 11 w, cqIen := bitOf w 11, nqVec := BitVec.ofNat 11 (w / 2 ^ 16), nqIen := bitOf w 27 })
  let s := if r.cqIen then s else checkAnnounce s p false false
  if r.nqIen then s else checkAnnounce s p true false

/-- HIF_RING_CTRL: ABORT, or ENABLE as written. -/
def writeRingCtrl (s : State) (fn : FnId) (w : Nat) : State :=
  let prio := BitVec.ofNat 2 (w / 4)
  if bitOf w 1 then goOn s (execRingAbort fn prio (bitOf w 0) s)
  else if bitOf w 0 then goOn s (execRingEnable fn prio s)
  else goOn s (execRingDisable fn prio s)

def writeRing (s : State) (fn off w : Nat) : State :=
  if off = 0 then modFn s fn (fun f => { f with ringSel := BitVec.ofNat 10 w })
  else match selPair s fn with
    | none => s
    | some p =>
      if off ≤ 0x20 then modRing s p (fun r => if r.enabled || ringBusy r then r else writeRingBase r off w)
      else if off = 0x24 then writeRingCtrl s (BitVec.ofNat 6 fn) w
      else if off = 0x28 then writeRingVec s p w
      else if off = 0x2C then modRing s p (fun r => { r with count := BitVec.ofNat 8 w, holdoff := BitVec.ofNat 16 (w / 2 ^ 8) })
      else if off = 0x3C then modRing s p (fun r => { r with cfgErr := w1c r.cfgErr w 3, dbErr := w1c r.dbErr w 4, dmaErr := w1c r.dmaErr w 5 })
      else s

/-- A plain field takes its writable bits. -/
def writePlain (s : State) (off w : Nat) : State := match maskOf off with | some m => setReg s off (w &&& m) | none => s

def writeHif (s : State) (fn off w : Nat) : State :=
  if off < 0x100 then writeFnReg s fn off w
  else if off < 0x1000 then s
  else if off < 0x8000 then writeRing s fn (off - 0x1000) w
  else if off = 0x8008 then
    let s := if bitOf w 0 then goOn s (execCscClear s) else s
    if bitOf w 1 then goOn s (execClrStreams s) else s
  else writePlain s off w

/-! ## PROT_ (R104) -/

def writeProt (s : State) (off w : Nat) : State :=
  match off with
  | 0x10000 => writePlain s off w
  | 0x10014 => protCmd s w
  | 0x10018 => { s with prot := { s.prot with conflict := w1c s.prot.conflict w 2, cmdLost := w1c s.prot.cmdLost w 3 } }
  | _ => { s with prot := { s.prot with staging := BitVec.ofNat 128 (setWord32 s.prot.staging.toNat ((off - 0x10004) / 4) w) } }

/-! ## PIC_, BOB_, CHM_ and EDG_ (R158, R202, R235, R261, R314, R315) -/

def writePic (s : State) (off w : Nat) : State :=
  let v := BitVec.ofNat 32 w
  match off with
  | 0x20024 => goOn s (execPicRangeWrite false v s)
  | 0x20028 => goOn s (execPicRangeWrite true v s)
  | 0x2002C => modSlot s (reg s 0x20020 % 64) (fun x => { x with rangeErr := w1c x.rangeErr w 17 })
  | 0x2003C => goOn s (execPicBridgeWrite v s)
  | 0x20080 => if bitOf w 0 then goOn s (execPicClear s) else s
  | _ => writePlain s off w

/-- BOB_KNOT_CMD: its bits act in bit order. -/
def writeKnotCmd (s : State) (w : Nat) : State :=
  let s := if bitOf w 0 then goOn s (execKnotCmdReset s) else s
  let s := if bitOf w 1 then goOn s (execKnotBind s) else s
  if bitOf w 2 then goOn s (execKnotUnbind s) else s

def writeKnotReg (s : State) (off w : Nat) : State :=
  let k := selKnot s
  match off with
  | 0x30108 => modKnot s k (fun x => { x with sat := w1c x.sat w 17 })
  | 0x30110 => writeKnotCmd s w
  | 0x30114 => modKnot s k (fun x => { x with rchip := BitVec.ofNat 12 w, rknot := BitVec.ofNat 12 (w / 2 ^ 12), bindErr := w1c x.bindErr w 24 })
  | _ => writePlain s off w

def writeBob (s : State) (off w : Nat) : State :=
  let v := BitVec.ofNat 32 w
  let n := bobSel s
  if 0x30104 ≤ off ∧ off ≤ 0x30118 then writeKnotReg s off w
  else match off with
    | 0x30024 => goOn s (execBobPlaceWrite false v s)
    | 0x30028 => goOn s (execBobPlaceWrite true v s)
    | 0x3002C => if tierOf n = 1 then modSlot s n (fun x => { x with rangeErr := w1c x.rangeErr w 2 }) else s
    | 0x30078 => if bitOf w 0 then goOn s (execBobClear s) else s
    | 0x30080 => if bitOf w 31 then setReg s off (reg s off % 2 ^ 31) else s
    | 0x30150 => if bitOf w 0 then goOn s (execBobMsgClear s) else s
    | _ => writePlain s off w

def writeSat (s : State) (off w : Nat) : State :=
  let v := BitVec.ofNat 32 w
  match off with
  | 0x94004 => goOn s (execSatCfgWrite false v s)
  | 0x94008 => goOn s (execSatCfgWrite true v s)
  | 0x94028 => modSat s (reg s 0x94000) (fun c => { c with drift := w1c c.drift w 0 })
  | 0x9402C =>
    let s := if bitOf w 0 then goOn s (execSatClr s) else s
    if bitOf w 1 then goOn s (execSatClrAll s) else s
  | _ => writePlain s off w

def writeChm (s : State) (off w : Nat) : State :=
  let v := BitVec.ofNat 32 w
  let n := reg s 0x40020
  match off with
  | 0x40024 => goOn s (execChmPlaceWrite false v s)
  | 0x40028 => goOn s (execChmPlaceWrite true v s)
  | 0x4002C => if tierOf n = 2 then modSlot s n (fun x => { x with rangeErr := w1c x.rangeErr w 2 }) else s
  | 0x4007C => if bitOf w 0 then goOn s (execChmClear s) else s
  | 0x4805C => if bitOf w 0 then goOn s (execEdgClear s) else s
  | _ => writePlain s off w

/-! ## GAL_ (R338, R363, R364) -/

def clearLog31 (v : U32) (w : Nat) : U32 := if bitOf w 31 then v &&& 0x7FFFFFFF else v

def writeGal (s : State) (off w : Nat) : State :=
  match off with
  | 0x50080 => if bitOf w 0 then goOn s (execGalClear s) else s
  | 0x50084 => { s with memLogs := { s.memLogs with err := clearLog31 s.memLogs.err w } }
  | 0x5803C => if bitOf w 0 then goOn s (execGalCodecClear s) else s
  | 0x58040 => { s with memLogs := { s.memLogs with codec := clearLog31 s.memLogs.codec w } }
  | _ => writePlain s off w

/-! ## PSG_ (R367, R377, R378, R388, R392, R395) -/

/-- PSG_PORT_CTRL: EN as written, then RETRAIN, then REVIVE. -/
def writePortCtrl (s : State) (w : Nat) : State :=
  let i := selPort s
  let s := portSetEn s i (bitOf w 0)
  let s := if bitOf w 1 then startRetrain s i true else s
  if bitOf w 2 then revivePort s i else s

/-- A conduit's configuration, while EN is 0 (R378). -/
def writeConduitCfg (c : Conduit) (off w : Nat) : Conduit :=
  let v := BitVec.ofNat 32 w
  match off with
  | 0x60108 => { c with src := putHalf c.src false w }
  | 0x6010C => { c with src := putHalf c.src true w }
  | 0x60110 => { c with dst := putHalf c.dst false w }
  | 0x60114 => { c with dst := putHalf c.dst true w }
  | 0x60118 => { c with stg := putHalf c.stg false w }
  | 0x6011C => { c with stg := putHalf c.stg true w }
  | 0x60120 => { c with rstg := putHalf c.rstg false w }
  | 0x60124 => { c with rstg := putHalf c.rstg true w }
  | 0x60128 => { c with len := v }
  | 0x6012C => { c with stgMax := v }
  | 0x60130 => { c with trig := v &&& 0x0FFFFFFF }
  | 0x60134 => { c with tinc := v }
  | 0x60138 => { c with done := v &&& 0x1FFFFFFF }
  | 0x6013C => { c with ack := v &&& 0x1FFFFFFF }
  | _ => c

def writePsg (s : State) (off w : Nat) : State :=
  let v := BitVec.ofNat 32 w
  let chip := reg s 0x60050
  if 0x60108 ≤ off then modConduit s (reg s 0x60100) (fun c => if c.ctrl.getLsbD 0 then c else writeConduitCfg c off w)
  else match off with
    | 0x60008 => setReg s off (reg s off - (reg s off &&& w))
    | 0x60014 => writePortCtrl s w
    | 0x60054 => returnChip (setReg s (routeKey chip) w) chip
    | 0x60058 => if bitOf w 0 then returnChip s chip else s
    | 0x6007C => if bitOf w 0 then goOn s (execPsgClear s) else s
    | 0x60080 =>
      let s := setReg s off (w % 4096)
      if bitOf w 12 then rregStart s else s
    | 0x60104 => goOn s (execConduitEnable v s)
    | _ => writePlain s off w

/-! ## CLK_ and PWR_ (R429, R431, R435, R451 to R453) -/

/-- CLK_PLL_CFG (R429). -/
def pllCfgWrite (s : State) (w : Nat) : State :=
  let p := reg s 0x70004
  let off := match s.plls[p]? with | some x => !x.en | none => false
  if (p == 2 || p == 3) && off && pllLimits (w % 2 ^ 26) then
    modPll s p (fun x => { x with ndiv := BitVec.ofNat 8 w, fdiv := BitVec.ofNat 16 (w / 2 ^ 8), pdiv := BitVec.ofNat 2 (w / 2 ^ 24) })
  else modPwr s (fun p => { p with cfgErr := true })

def writeClk (s : State) (off w : Nat) : State :=
  match off with
  | 0x70000 => modPwr s (fun p => { p with cfgErr := w1c p.cfgErr w 15 })
  | 0x70008 => pllCfgWrite s w
  | 0x7000C => pllEnWrite s w
  | 0x70024 => domWrite s w
  | _ => writePlain s off w

def writePwr (s : State) (off w : Nat) : State :=
  match off with
  | 0x70118 => modPwr s (fun p => { p with limitMiss := w1c p.limitMiss w 1 })
  | 0x70138 => modPwr s (fun p => { p with
      dipEvent := w1c p.dipEvent w 0, supplyReset := w1c p.supplyReset w 1, clkEarly := w1c p.clkEarly w 2
      govLimit := w1c p.govLimit w 3, clockFault := w1c p.clockFault w 4 })
  | 0x7013C => if bitOf w 0 then goOn s (execPwrClear s) else s
  | 0x7016C => if bitOf w 0 then clearResidency s else s
  | _ => writePlain s off w

/-! ## LNT_ and FLT_ (R404, R425, R426, R467 to R471, R479) -/

/-- LNT_FLASH_CMD without GO holds OP; with GO it starts a commit. -/
def flashCmd (s : State) (smb : Bool) (w : Nat) : State :=
  if bitOf w 2 then flashGo s smb (w % 4)
  else stageWrite s smb fun s => { s with lnt := { s.lnt with flashOp := BitVec.ofNat 2 w } }

/-- A write of a Lantern register over BAR0 or the SMBus; LNT_CTRL is written only through BAR0 (R471). -/
def writeLnt (s : State) (smb : Bool) (off w : Nat) : State :=
  let l := s.lnt
  if 0x80020 ≤ off ∧ off ≤ 0x80034 then bankWrite s smb (off - 0x80000) w
  else match off with
    | 0x80010 => if smb then s else { s with lnt := { l with pecReq := bitOf w 0, smbLock := bitOf w 1 } }
    | 0x80014 => { s with lnt := { l with alert := l.alert &&& ~~~(BitVec.ofNat 7 w) } }
    | 0x80018 => { s with lnt := { l with alertMask := BitVec.ofNat 7 w } }
    | 0x80040 => goOn s (execStageAddrWrite smb (BitVec.ofNat 32 w) s)
    | 0x80044 => putStage s smb (BitVec.ofNat 32 w)
    | 0x80048 => if bitOf w 0 || (smb && l.smbLock) then releaseStage s smb else s
    | 0x8004C => flashCmd s smb w
    | 0x80050 => { s with lnt := { l with flashLen := BitVec.ofNat 17 w } }
    | 0x8005C => if bitOf w 0 then goOn s (execLntClear s) else s
    | _ => s

/-- FLT_REPAIR_CMD: its fields, and GO. -/
def writeRepair (s : State) (w : Nat) : State :=
  if bitOf w 18 then repairCmd s (fld w 0 4) (fld w 4 12) (fld w 16 2) else putRepairCmd s (fld w 0 4) (fld w 4 12) (fld w 16 2)

def writeFlt (s : State) (off w : Nat) : State :=
  if 0x94000 ≤ off then writeSat s off w
  else match off with
    | 0x90000 => { s with flt := { s.flt with logOvf := w1c s.flt.logOvf w 1 } }
    | 0x9000C => goOn s (execFltLogTailWrite (BitVec.ofNat 32 w) s)
    | 0x90070 => if bitOf w 0 then goOn s (execFltClear s) else s
    | 0x900A0 => writeRepair s w
    | _ => writePlain s off w

/-! ## Accesses (R6, R8, R10, R17, R71, R402, R465) -/

/-- A write of the register at an assigned offset of the PF's map, by function `fn`. -/
def writeReg (s : State) (fn off w : Nat) : State :=
  let b := off / 0x10000
  if b = 0 then writeHif s fn off w
  else if b = 1 then writeProt s off w
  else if b = 2 then writePic s off w
  else if b = 3 then writeBob s off w
  else if b = 4 then writeChm s off w
  else if b = 5 then writeGal s off w
  else if b = 6 then writePsg s off w
  else if b = 7 then (if off < 0x70100 then writeClk s off w else writePwr s off w)
  else if b = 8 then writeLnt s false off w
  else if b = 9 then writeFlt s off w
  else s

/-- The register that a 32-bit access of a function reaches, if any: in recovery mode only LNT_ and CAP_ are there. -/
def reaches (s : State) (fn off : Nat) : Option Nat :=
  match pfOffset fn off with
  | none => none
  | some o => if s.lnt.recovery && o / 0x10000 != 8 && o / 0x10000 != 0xA then none else some o

/-- A BAR0 write; after a fatal event only FLT_ registers take one (R402). -/
def bar0Write (s : State) (fn off w : Nat) : State :=
  match reaches s fn off with
  | none => countBad s
  | some o => if s.flt.fatal && o / 0x10000 != 9 then s else writeReg s fn o w

/-- A write of the MSI-X table, which begins at offset 0 of BAR4: 16 B for each vector, the mask bit in its last word. -/
def msixWrite (s : State) (fn off w : Nat) : State :=
  let v := off / 16
  let put (g : MsixVec → MsixVec) : State := modFn s fn (fun f => { f with vecs := smUpd {} f.vecs v g })
  if off % 4 ≠ 0 ∨ tableSize s fn ≤ v then s
  else match off % 16 with
    | 0 => put (fun e => { e with addr := putHalf e.addr false w })
    | 4 => put (fun e => { e with addr := putHalf e.addr true w })
    | 8 => put (fun e => { e with data := BitVec.ofNat 32 w })
    | _ => flushVecs (put (fun e => { e with masked := bitOf w 0 })) fn

/-- REGISTER_WRITE (R11). -/
def execRegisterWrite (fn : FnId) (msix : Bool) (off : BitVec 20) (w : U32) (s : State) : Out State :=
  .next (
    if !regsRun s || !fnPresent s fn.toNat then s
    else if msix then msixWrite s fn.toNat off.toNat w.toNat
    else bar0Write s fn.toNat off.toNat w.toNat)

/-- BAD_BAR0_ACCESS (R10). -/
def execBadBar0Access (fn : FnId) (off : BitVec 20) (size : Nat) (write : Bool) (s : State) : Out State :=
  .next (
    if !regsRun s || !fnPresent s fn.toNat || (size == 4 && (reaches s fn.toNat off.toNat).isSome) then s
    else
      let s := countBad s
      if write then s else emit s (.readData fn off 0xFFFFFFFF))

/-- LOW_HALF_READ (R9, R70): a read of a register of BAR0 at an assigned offset, or of BAR4. -/
def execLowHalfRead (fn : FnId) (r : BarAddr) (s : State) : Out State :=
  .next (
    if !regsRun s || !fnPresent s fn.toNat || r.off.toNat % 4 != 0 then s
    else if r.bar4 then emit s (.msixData fn r.off (BitVec.ofNat 32 (readMsix s fn.toNat r.off.toNat)))
    else match reaches s fn.toNat r.off.toNat with
      | none => s
      | some o =>
        let (w, s) := readBar0 s fn.toNat o
        emit s (.readData fn r.off w))

/-! ## The remote register read (R388) -/

/-- The block of an offset answers a remote read. -/
def remoteBlock (off : Nat) : Bool := off / 0x10000 == 6 || off / 0x10000 == 8 || off / 0x10000 == 9 || off / 0x10000 == 0xA

def answerRread (s : State) (m : PMsg) (data st : Nat) : State := psgSend s 3 2 m.src.toNat 0 (natLE 4 data ++ natLE 1 st)

/-- RREAD (R388). -/
def execRxRread (k : Nat) (s : State) : Out State :=
  .next (live s fun s => takeMsg k 3 1 s fun s m =>
    let off := leAt m.body 0 4 % 2 ^ 20
    if !remoteBlock off || !passageRight s 0 3 m.src.toNat then answerRread (noRight s 1) m 0 stProtection
    else if (reaches s 0 off).isNone then answerRread (countBad s) m 0xFFFFFFFF stOk
    else
      let (w, s) := readBar0 s 0 off
      answerRread s m w.toNat stOk)

end Sys2Proof.Machine
end

