-- ==== Sys2Proof/Machine/Smbus.lean ====
section
/-! DEFINITION. Smbus.lean: the SMBus target of Lantern (R49, R471 to R478). -/

namespace Sys2Proof.Machine

/-- The commands of this file have been addressed to the target: the address byte on the bus was that of `smbAddrNow`,
which it matches with every other clock stopped (R472). A byte that names another target is no command to it. -/
def countCmd (s : State) : State := { s with lnt := { s.lnt with smbCmds := satAdd 32 s.lnt.smbCmds 1 } }

/-- A write completes: the target has acknowledged its bytes. -/
def smbDone (s : State) : State := smbStop (emit (countCmd s) (.smbus true [] none))

/-- A read of command `code` completes, after the bytes `sent`: its answer goes out, the PEC behind it. -/
def smbReply (s : State) (code : Nat) (sent bytes : Bytes) : State := smbStop (smbAnswer (countCmd s) code sent bytes)

/-- A command that is refused with NACK, and counted. -/
def smbNack (s : State) : State := smbStop (emit (smbDrop s) (.smbus false [] none))

/-- A write as its PEC allows it (R473): a discarded one is acknowledged on the bus and counted. -/
def smbPec (s : State) (pec : Pec) (g : State → State) : State :=
  if pec = .bad ∨ (pec = .absent ∧ s.lnt.pecReq) then smbStop (smbDrop s) else g s

/-- The register that an SMBus address reaches (R474): 0 a Lantern register, 1 a residency register, 2 a mirror. -/
def smbMap (a : Nat) : Option (Nat × Nat) :=
  if a % 4 ≠ 0 then none
  else if a < 0x100 then (if assigned (0x80000 + a) then some (0, 0x80000 + a) else none)
  else if 0x1040 ≤ a ∧ a < 0x1070 then some (1, 0x70100 + a - 0x1000)
  else if 0x2000 ≤ a ∧ a ≤ 0x2014 then some (2, [0xA0000, 0xA0004, 0x70104, 0x70110, 0x70114, 0x90000].getD ((a - 0x2000) / 4) 0)
  else none

def setNa (s : State) (v : Bool) : State := { s with lnt := { s.lnt with na := v } }

/-- A residency register, with the latch of the SMBus (R9, R474). -/
def readResidency (s : State) (off : Nat) : Nat × State :=
  if lowHalf off then
    (readPwr s off, { s with lnt := { s.lnt with latch := smPut s.lnt.latch (off + 4) (BitVec.ofNat 32 (readPwr s (off + 4))) } })
  else match smFind s.lnt.latch off with
    | some v => (v.toNat, { s with lnt := { s.lnt with latch := s.lnt.latch.filter (fun e => e.1 != off) } })
    | none => (readPwr s off, s)

/-- A read at an SMBus address. -/
def smbRead (s : State) (a : Nat) : Nat × State :=
  match smbMap a with
  | none => (0xFFFFFFFF, setNa (smbDrop s) false)
  | some (0, off) => (readLnt s off, setNa (readEffect s off) false)
  | some (1, off) => let (v, s) := readResidency s off; (v, setNa s false)
  | some (_, off) => if hostRuns s then (readReg s 0 off, setNa s false) else (0, setNa s true)

/-- A write at an SMBus address: of the residency registers only the clear takes one, and mirrors take none. -/
def smbWrite (s : State) (a w : Nat) : State :=
  match smbMap a with
  | none => smbDrop s
  | some (0, off) => writeLnt s true off w
  | some (1, off) => if off = 0x7016C ∧ bitOf w 0 then clearResidency s else s
  | some _ => s

def setPtr (s : State) (a : U16) : State := { s with lnt := { s.lnt with ptr := a } }
def stepPtr (s : State) : State := setPtr s (s.lnt.ptr + 4)

/-- A read at the pointer by command `code`, after the bytes `sent`; the pointer advances, and the block's count comes
first. -/
def readAtPtr (s : State) (code : Nat) (sent : Bytes) : State :=
  let (v, s) := smbRead s s.lnt.ptr.toNat
  smbReply (stepPtr s) code sent (natLE 1 4 ++ natLE 4 v)

/-- ADDR (R473). -/
def execSmbAddr (a : U16) (pec : Pec) (s : State) : Out State :=
  .next (lntLive s true fun s => smbPec s pec fun s => smbDone (setPtr s a))

/-- READ32 (R473). -/
def execSmbRead32 (s : State) : Out State := .next (lntLive s true fun s => readAtPtr s 0x11 [])

/-- WRITE32 (R473): another block count is refused. -/
def execSmbWrite32 (data : Bytes) (pec : Pec) (s : State) : Out State :=
  .next (lntLive s true fun s =>
    if data.length ≠ 4 then smbNack s
    else smbPec s pec fun s => smbDone (stepPtr (smbWrite s s.lnt.ptr.toNat (leNat data))))

/-- RDADDR (R473). -/
def execSmbRdaddr (data : Bytes) (pec : Pec) (s : State) : Out State :=
  .next (lntLive s true fun s =>
    if data.length ≠ 2 then smbNack s
    else smbPec s pec fun s => readAtPtr (setPtr s (BitVec.ofNat 16 (leNat data))) 0x13 (natLE 1 2 ++ data))

/-- A bit of LNT_ALERT is set and not masked. -/
def alertOn (s : State) : Bool := (s.lnt.alert &&& ~~~s.lnt.alertMask) != 0

def smbStatusByte (s : State) : Nat :=
  b2n (inRetain s) + b2n s.lnt.na * 2 + b2n (alertOn s) * 4 + b2n s.lnt.flashBusy * 8 + b2n s.lnt.recovery * 16 + b2n (!s.pwr.perstHigh) * 32

/-- STATUS (R473). -/
def execSmbStatus (s : State) : Out State := .next (lntLive s true fun s => smbReply s 0x20 [] (natLE 1 (smbStatusByte s)))

/-- What WAKE does (R49, R477): on Retain by request sequence B follows at once if REFCLK is present, else with it. -/
def wakeUp (s : State) : State :=
  if inG s then modPwr s (fun p => { p with thenB := true })
  else if inRetain s then
    (if s.pwr.byRequest then followUp (modPwr s (fun p => { p with clkreq := true, thenB := true }))
     else if s.pwr.perstHigh then s
     else modFn (modPwr s (fun p => { p with wake := true })) 0 (fun f => { f with pmeStatus := f.pmeStatus || f.pmeEn }))
  else s

/-- WAKE (R477). -/
def execSmbWake (pec : Pec) (s : State) : Out State :=
  .next (lntLive s true fun s => smbPec s pec fun s => smbDone (wakeUp s))

/-- IDENT (R473). -/
def execSmbIdent (s : State) : Out State :=
  .next (lntLive s true fun s => smbReply s 0x30 [] (natLE 1 8 ++ natLE 2 0x1640 ++ natLE 1 revision.toNat ++ natLE 2 (chipId s) ++ natLE 3 0))

/-- ALERT_RESPONSE (R478). -/
def execSmbAlertResponse (s : State) : Out State :=
  .next (lntLive s true fun s =>
    let me := natLE 1 (2 * s.lnt.smbAddrNow.toNat)
    smbStop (if alertOn s && !s.lnt.alertQuiet then
      emit { s with lnt := { s.lnt with alertQuiet := true } } (.smbus true me (some (pecOf (natLE 1 0x19 ++ me))))
    else emit s (.smbus false [] none)))

/-- The command codes of R473. -/
def smbCodes : List Nat := [0x10, 0x11, 0x12, 0x13, 0x20, 0x21, 0x30]

/-- UNLISTED_COMMAND_CODE (R473). -/
def execSmbUnlisted (code : U8) (s : State) : Out State :=
  .next (lntLive s true fun s => if smbCodes.contains code.toNat then s else smbNack s)

end Sys2Proof.Machine
end

