-- ==== Sys2Proof/Machine/Dispatch.lean ====
section
/-! DEFINITION. Dispatch.lean: the meaning of each command. -/

namespace Sys2Proof.Machine

/-- The effect of a command on everything but the queue. -/
def exec (i : Instr) (s : State) : Host.Outcome State Fault Refusal :=
  match i with
  | .doorbell fn page off len w => Sys2Proof.Machine.execDoorbell fn page off len w s
  | .descriptorFetch n => Sys2Proof.Machine.execDescriptorFetch n s
  | .nop pair idx => Sys2Proof.Machine.execNop pair idx s
  | .knotSignal pair idx => Sys2Proof.Machine.execKnotSignal pair idx s
  | .knotWait pair idx => Sys2Proof.Machine.execKnotWait pair idx s
  | .streamOpen pair idx => Sys2Proof.Machine.execStreamOpen pair idx s
  | .streamClose pair idx => Sys2Proof.Machine.execStreamClose pair idx s
  | .streamStatus pair idx => Sys2Proof.Machine.execStreamStatus pair idx s
  | .ingest pair idx => Sys2Proof.Machine.execIngest pair idx s
  | .ingestStepRead st => Sys2Proof.Machine.execIngestStepRead st s
  | .slotLoad pair idx => Sys2Proof.Machine.execSlotLoad pair idx s
  | .slotLoadComplete slot => Sys2Proof.Machine.execSlotLoadComplete slot s
  | .versionRetire slot => Sys2Proof.Machine.execVersionRetire slot s
  | .jobRun pair idx => Sys2Proof.Machine.execJobRun pair idx s
  | .trainStep pair idx => Sys2Proof.Machine.execTrainStep pair idx s
  | .dmaCopy pair idx => Sys2Proof.Machine.execDmaCopy pair idx s
  | .pack pair idx => Sys2Proof.Machine.execPack pair idx s
  | .unpack pair idx => Sys2Proof.Machine.execUnpack pair idx s
  | .completionWrite pair => Sys2Proof.Machine.execCompletionWrite pair s
  | .reportWrite st => Sys2Proof.Machine.execReportWrite st s
  | .notifyWrite st => Sys2Proof.Machine.execNotifyWrite st s
  | .holdoffExpiry pair nq => Sys2Proof.Machine.execHoldoffExpiry pair nq s
  | .msixUnmask fn vec => Sys2Proof.Machine.execMsixUnmask fn vec s
  | .ringEnable fn prio => Sys2Proof.Machine.execRingEnable fn prio s
  | .ringDisable fn prio => Sys2Proof.Machine.execRingDisable fn prio s
  | .ringAbort fn prio en => Sys2Proof.Machine.execRingAbort fn prio en s
  | .ringDrained pair => Sys2Proof.Machine.execRingDrained pair s
  | .protStage => Sys2Proof.Machine.execProtStage s
  | .protCommit => Sys2Proof.Machine.execProtCommit s
  | .protDiscard => Sys2Proof.Machine.execProtDiscard s
  | .protCommitDone => Sys2Proof.Machine.execProtCommitDone s
  | .flr fn => Sys2Proof.Machine.execFlr fn s
  | .cscClear => Sys2Proof.Machine.execCscClear s
  | .clrStreams => Sys2Proof.Machine.execClrStreams s
  | .fnClear fn => Sys2Proof.Machine.execFnClear fn s
  | .badBar0Access fn off size write => Sys2Proof.Machine.execBadBar0Access fn off size write s
  | .registerWrite fn msix off w => Sys2Proof.Machine.execRegisterWrite fn msix off w s
  | .frontendRun st => Sys2Proof.Machine.execFrontendRun st s
  | .convert st => Sys2Proof.Machine.execConvert st s
  | .eventArrive k => Sys2Proof.Machine.execEventArrive k s
  | .stepClose st => Sys2Proof.Machine.execStepClose st s
  | .onResult k => Sys2Proof.Machine.execOnResult k s
  | .deferredResume st => Sys2Proof.Machine.execDeferredResume st s
  | .snapshotResume => Sys2Proof.Machine.execSnapshotResume s
  | .closeComplete st => Sys2Proof.Machine.execCloseComplete st s
  | .picRangeWrite b w => Sys2Proof.Machine.execPicRangeWrite b w s
  | .picBridgeWrite w => Sys2Proof.Machine.execPicBridgeWrite w s
  | .picClear => Sys2Proof.Machine.execPicClear s
  | .bundleIssue c => Sys2Proof.Machine.execBundleIssue c s
  | .iAdd c d a b => Sys2Proof.Machine.execIAdd c d a b s
  | .iSub c d a b => Sys2Proof.Machine.execISub c d a b s
  | .iAnd c d a b => Sys2Proof.Machine.execIAnd c d a b s
  | .iOr c d a b => Sys2Proof.Machine.execIOr c d a b s
  | .iXor c d a b => Sys2Proof.Machine.execIXor c d a b s
  | .iShl c d a b => Sys2Proof.Machine.execIShl c d a b s
  | .iShr c d a b => Sys2Proof.Machine.execIShr c d a b s
  | .iSra c d a b => Sys2Proof.Machine.execISra c d a b s
  | .iSlt c d a b => Sys2Proof.Machine.execISlt c d a b s
  | .iSltu c d a b => Sys2Proof.Machine.execISltu c d a b s
  | .iMin c d a b => Sys2Proof.Machine.execIMin c d a b s
  | .iMax c d a b => Sys2Proof.Machine.execIMax c d a b s
  | .iMul c d a b => Sys2Proof.Machine.execIMul c d a b s
  | .iMulh c d a b => Sys2Proof.Machine.execIMulh c d a b s
  | .iAddi c d a im => Sys2Proof.Machine.execIAddi c d a im s
  | .iShli c d a im => Sys2Proof.Machine.execIShli c d a im s
  | .iShri c d a im => Sys2Proof.Machine.execIShri c d a im s
  | .iSrai c d a im => Sys2Proof.Machine.execISrai c d a im s
  | .iMovi c d im => Sys2Proof.Machine.execIMovi c d im s
  | .iLi c d im => Sys2Proof.Machine.execILi c d im s
  | .iLw c d a im => Sys2Proof.Machine.execILw c d a im s
  | .iSw c d a im => Sys2Proof.Machine.execISw c d a im s
  | .iLwp c d a im => Sys2Proof.Machine.execILwp c d a im s
  | .iSwp c d a im => Sys2Proof.Machine.execISwp c d a im s
  | .iVld c d a im => Sys2Proof.Machine.execIVld c d a im s
  | .iVst c d a im => Sys2Proof.Machine.execIVst c d a im s
  | .iVldp c d a im => Sys2Proof.Machine.execIVldp c d a im s
  | .iVstp c d a im => Sys2Proof.Machine.execIVstp c d a im s
  | .iVsplat c d a t => Sys2Proof.Machine.execIVsplat c d a t s
  | .iVext c d a l => Sys2Proof.Machine.execIVext c d a l s
  | .iBeqz c a off => Sys2Proof.Machine.execIBeqz c a off s
  | .iBnez c a off => Sys2Proof.Machine.execIBnez c a off s
  | .iBltz c a off => Sys2Proof.Machine.execIBltz c a off s
  | .iBgez c a off => Sys2Proof.Machine.execIBgez c a off s
  | .iJmp c off => Sys2Proof.Machine.execIJmp c off s
  | .iCall c off => Sys2Proof.Machine.execICall c off s
  | .iJr c a => Sys2Proof.Machine.execIJr c a s
  | .iLoop c a im => Sys2Proof.Machine.execILoop c a im s
  | .iCsrr c d im => Sys2Proof.Machine.execICsrr c d im s
  | .iCsrw c d im => Sys2Proof.Machine.execICsrw c d im s
  | .iSync c => Sys2Proof.Machine.execISync c s
  | .iEnd c => Sys2Proof.Machine.execIEnd c s
  | .iMop c tile a b m => Sys2Proof.Machine.execIMop c tile a b m s
  | .iMzero c tile => Sys2Proof.Machine.execIMzero c tile s
  | .iMrd c d tile row half => Sys2Proof.Machine.execIMrd c d tile row half s
  | .iMwr c tile a row half => Sys2Proof.Machine.execIMwr c tile a row half s
  | .iVadd c d a b t => Sys2Proof.Machine.execIVadd c d a b t s
  | .iVsub c d a b t => Sys2Proof.Machine.execIVsub c d a b t s
  | .iVmul c d a b t => Sys2Proof.Machine.execIVmul c d a b t s
  | .iVfma c d a b => Sys2Proof.Machine.execIVfma c d a b s
  | .iVmin c d a b t => Sys2Proof.Machine.execIVmin c d a b t s
  | .iVmax c d a b t => Sys2Proof.Machine.execIVmax c d a b t s
  | .iVand c d a b => Sys2Proof.Machine.execIVand c d a b s
  | .iVor c d a b => Sys2Proof.Machine.execIVor c d a b s
  | .iVxor c d a b => Sys2Proof.Machine.execIVxor c d a b s
  | .iVshr c d a b t => Sys2Proof.Machine.execIVshr c d a b t s
  | .iVcvt c d a dst src => Sys2Proof.Machine.execIVcvt c d a dst src s
  | .iVperm c d a b => Sys2Proof.Machine.execIVperm c d a b s
  | .iVsum c d a fp => Sys2Proof.Machine.execIVsum c d a fp s
  | .iVfn c d a fn => Sys2Proof.Machine.execIVfn c d a fn s
  | .iVcmp c d a b t op => Sys2Proof.Machine.execIVcmp c d a b t op s
  | .iPtb c buf a kind m => Sys2Proof.Machine.execIPtb c buf a kind m s
  | .iPta c tile a m => Sys2Proof.Machine.execIPta c tile a m s
  | .iCbld c cb a => Sys2Proof.Machine.execICbld c cb a s
  | .iDma c a ch => Sys2Proof.Machine.execIDma c a ch s
  | .iDmaw c ch => Sys2Proof.Machine.execIDmaw c ch s
  | .iSend c a b => Sys2Proof.Machine.execISend c a b s
  | .iRecv c a => Sys2Proof.Machine.execIRecv c a s
  | .iRpop c => Sys2Proof.Machine.execIRpop c s
  | .iKsig c a b => Sys2Proof.Machine.execIKsig c a b s
  | .iKwait c a b => Sys2Proof.Machine.execIKwait c a b s
  | .iEpeek c a => Sys2Proof.Machine.execIEpeek c a s
  | .iEpop c => Sys2Proof.Machine.execIEpop c s
  | .dmaRunCopy c ch => Sys2Proof.Machine.execDmaRunCopy c ch s
  | .dmaRunExpand c ch => Sys2Proof.Machine.execDmaRunExpand c ch s
  | .dmaRunTern c ch => Sys2Proof.Machine.execDmaRunTern c ch s
  | .dmaDone c ch => Sys2Proof.Machine.execDmaDone c ch s
  | .messageReceive k => Sys2Proof.Machine.execMessageReceive k s
  | .bounceReturn k => Sys2Proof.Machine.execBounceReturn k s
  | .partitionTakeJob slot inB => Sys2Proof.Machine.execPartitionTakeJob slot inB s
  | .jobEnd slot inB => Sys2Proof.Machine.execJobEnd slot inB s
  | .knotAdd k => Sys2Proof.Machine.execKnotAdd k s
  | .knotReset k => Sys2Proof.Machine.execKnotReset k s
  | .knotWaitArrive k => Sys2Proof.Machine.execKnotWaitArrive k s
  | .knotCmdReset => Sys2Proof.Machine.execKnotCmdReset s
  | .knotBind => Sys2Proof.Machine.execKnotBind s
  | .knotUnbind => Sys2Proof.Machine.execKnotUnbind s
  | .engineGrant e => Sys2Proof.Machine.execEngineGrant e s
  | .layerConv j => Sys2Proof.Machine.execLayerConv j s
  | .layerGconv j => Sys2Proof.Machine.execLayerGconv j s
  | .layerMatmul j => Sys2Proof.Machine.execLayerMatmul j s
  | .layerAdd j => Sys2Proof.Machine.execLayerAdd j s
  | .layerPool j => Sys2Proof.Machine.execLayerPool j s
  | .layerResult j => Sys2Proof.Machine.execLayerResult j s
  | .edgLayerPiece j e => Sys2Proof.Machine.execEdgLayerPiece j e s
  | .tier2JobEnd j => Sys2Proof.Machine.execTier2JobEnd j s
  | .satCfgWrite thresh w => Sys2Proof.Machine.execSatCfgWrite thresh w s
  | .satClr => Sys2Proof.Machine.execSatClr s
  | .satClrAll => Sys2Proof.Machine.execSatClrAll s
  | .bobClear => Sys2Proof.Machine.execBobClear s
  | .bobMsgClear => Sys2Proof.Machine.execBobMsgClear s
  | .chmClear => Sys2Proof.Machine.execChmClear s
  | .edgClear => Sys2Proof.Machine.execEdgClear s
  | .bobPlaceWrite b w => Sys2Proof.Machine.execBobPlaceWrite b w s
  | .chmPlaceWrite b w => Sys2Proof.Machine.execChmPlaceWrite b w s
  | .galCodecClear => Sys2Proof.Machine.execGalCodecClear s
  | .galClear => Sys2Proof.Machine.execGalClear s
  | .sramScrub finds => Sys2Proof.Machine.execSramScrub finds s
  | .dramScrub finds => Sys2Proof.Machine.execDramScrub finds s
  | .stackTemperature stack temp => Sys2Proof.Machine.execStackTemperature stack temp s
  | .portEnWrite en => Sys2Proof.Machine.execPortEnWrite en s
  | .portTrainStep p => Sys2Proof.Machine.execPortTrainStep p s
  | .portTrainTimeout p => Sys2Proof.Machine.execPortTrainTimeout p s
  | .dataFlit p rx lanes hdr payload => Sys2Proof.Machine.execDataFlit p rx lanes hdr payload s
  | .linkIdle p hdr credits => Sys2Proof.Machine.execLinkIdle p hdr credits s
  | .linkNak p hdr credits seq => Sys2Proof.Machine.execLinkNak p hdr credits seq s
  | .linkIdent f chip port lanes rev => Sys2Proof.Machine.execLinkIdent f chip port lanes rev s
  | .linkLeaving p => Sys2Proof.Machine.execLinkLeaving p s
  | .linkRetrain f => Sys2Proof.Machine.execLinkRetrain f s
  | .creditFlitDue p => Sys2Proof.Machine.execCreditFlitDue p s
  | .peerTimeout p => Sys2Proof.Machine.execPeerTimeout p s
  | .portRetrain => Sys2Proof.Machine.execPortRetrain s
  | .portRevive => Sys2Proof.Machine.execPortRevive s
  | .rxXstart k => Sys2Proof.Machine.execRxXstart k s
  | .rxXdata k => Sys2Proof.Machine.execRxXdata k s
  | .rxXend k => Sys2Proof.Machine.execRxXend k s
  | .rxXabort k => Sys2Proof.Machine.execRxXabort k s
  | .rxXack k => Sys2Proof.Machine.execRxXack k s
  | .rxEvents k => Sys2Proof.Machine.execRxEvents k s
  | .rxStepEnd k => Sys2Proof.Machine.execRxStepEnd k s
  | .rxStepAck k => Sys2Proof.Machine.execRxStepAck k s
  | .rxKop k => Sys2Proof.Machine.execRxKop k s
  | .rxKopReply k => Sys2Proof.Machine.execRxKopReply k s
  | .rxSubscribe k => Sys2Proof.Machine.execRxSubscribe k s
  | .rxSubReply k => Sys2Proof.Machine.execRxSubReply k s
  | .rxUpdate k => Sys2Proof.Machine.execRxUpdate k s
  | .rxUnsubscribe k => Sys2Proof.Machine.execRxUnsubscribe k s
  | .rxLoss k => Sys2Proof.Machine.execRxLoss k s
  | .rxRread k => Sys2Proof.Machine.execRxRread k s
  | .rxRreadReply k => Sys2Proof.Machine.execRxRreadReply k s
  | .rregGo => Sys2Proof.Machine.execRregGo s
  | .conduitEnable w => Sys2Proof.Machine.execConduitEnable w s
  | .conduitTrigger n => Sys2Proof.Machine.execConduitTrigger n s
  | .chipReturn => Sys2Proof.Machine.execChipReturn s
  | .psgClear => Sys2Proof.Machine.execPsgClear s
  | .logicCheckFail utype unit check rerunFails => Sys2Proof.Machine.execLogicCheckFail utype unit check rerunFails s
  | .spareBringupDone => Sys2Proof.Machine.execSpareBringupDone s
  | .picotCoreMove => Sys2Proof.Machine.execPicotCoreMove s
  | .bankCopyDone => Sys2Proof.Machine.execBankCopyDone s
  | .fltLogTailWrite w => Sys2Proof.Machine.execFltLogTailWrite w s
  | .fltRetire utype unit => Sys2Proof.Machine.execFltRetire utype unit s
  | .fltRestore utype unit => Sys2Proof.Machine.execFltRestore utype unit s
  | .fltClear => Sys2Proof.Machine.execFltClear s
  | .pllWindow p count => Sys2Proof.Machine.execPllWindow p count s
  | .pllEnWrite w => Sys2Proof.Machine.execPllEnWrite w s
  | .passagePllRetry => Sys2Proof.Machine.execPassagePllRetry s
  | .refclkLoss => Sys2Proof.Machine.execRefclkLoss s
  | .domSwitch w => Sys2Proof.Machine.execDomSwitch w s
  | .clkObsWrite w => Sys2Proof.Machine.execClkObsWrite w s
  | .governorInterval p t rails => Sys2Proof.Machine.execGovernorInterval p t rails s
  | .railWarning rail mv => Sys2Proof.Machine.execRailWarning rail mv s
  | .railRecovered => Sys2Proof.Machine.execRailRecovered s
  | .railReset rail mv => Sys2Proof.Machine.execRailReset rail mv s
  | .tierUp chm => Sys2Proof.Machine.execTierUp chm s
  | .tierDown chm => Sys2Proof.Machine.execTierDown chm s
  | .watchEntry => Sys2Proof.Machine.execWatchEntry s
  | .watchExit => Sys2Proof.Machine.execWatchExit s
  | .retainEntry => Sys2Proof.Machine.execRetainEntry s
  | .retainExit => Sys2Proof.Machine.execRetainExit s
  | .sequenceStepDone => Sys2Proof.Machine.execSequenceStepDone s
  | .perstAssert => Sys2Proof.Machine.execPerstAssert s
  | .perstDeassert => Sys2Proof.Machine.execPerstDeassert s
  | .warmReset => Sys2Proof.Machine.execWarmReset s
  | .powerOn => Sys2Proof.Machine.execPowerOn s
  | .undervoltage => Sys2Proof.Machine.execUndervoltage s
  | .thermalTrip => Sys2Proof.Machine.execThermalTrip s
  | .pwrClear => Sys2Proof.Machine.execPwrClear s
  | .smbAddr a pec => Sys2Proof.Machine.execSmbAddr a pec s
  | .smbWrite32 data pec => Sys2Proof.Machine.execSmbWrite32 data pec s
  | .smbRdaddr data pec => Sys2Proof.Machine.execSmbRdaddr data pec s
  | .smbWake pec => Sys2Proof.Machine.execSmbWake pec s
  | .commitRecord smb => Sys2Proof.Machine.execCommitRecord smb s
  | .commitMicrocode smb => Sys2Proof.Machine.execCommitMicrocode smb s
  | .flashCommitDone ok => Sys2Proof.Machine.execFlashCommitDone ok s
  | .stageRelease smb => Sys2Proof.Machine.execStageRelease smb s
  | .stageAddrWrite smb w => Sys2Proof.Machine.execStageAddrWrite smb w s
  | .stageDataAccess smb write w => Sys2Proof.Machine.execStageDataAccess smb write w s
  | .bankWrite smb off w => Sys2Proof.Machine.execBankWrite smb off w s
  | .configRequest fn op => Sys2Proof.Machine.execConfigRequest fn op s
  | .pcieLinkUp speed width flit => Sys2Proof.Machine.execPcieLinkUp speed width flit s
  | .aspmL1Entry sub => Sys2Proof.Machine.execAspmL1Entry sub s
  | .lowHalfRead fn r => Sys2Proof.Machine.execLowHalfRead fn r s
  | .smbUnlisted code => Sys2Proof.Machine.execSmbUnlisted code s
  | .smbRead32 => Sys2Proof.Machine.execSmbRead32 s
  | .smbStatus => Sys2Proof.Machine.execSmbStatus s
  | .smbIdent => Sys2Proof.Machine.execSmbIdent s
  | .smbAlertResponse => Sys2Proof.Machine.execSmbAlertResponse s
  | .lntClear => Sys2Proof.Machine.execLntClear s
  | .pwrResClear => Sys2Proof.Machine.execPwrResClear s

end Sys2Proof.Machine
end

