-- ==== Sys2Proof/Machine/Idle.lean ====
section
/-! DEFINITION. Idle.lean: what one REFCLK cycle without a command does: counters that follow time (R451, R453), what
befalls the block from outside its commands, and what the block does of its own accord (R391, R410). -/

namespace Sys2Proof.Machine

/-! ## Counters that follow REFCLK (R451, R453) -/

/-- The residency counter of the present power state (R451), by the offset of its low half. -/
def residencyOff (p : PState) : Option Nat :=
  match p with
  | .run => some 0x70140
  | .idle => some 0x70148
  | .watch => some 0x70150
  | _ => none

/-- One REFCLK cycle passes: the residency counter of the present power state counts it, and so does PWR_GOV_CYCLES
while the governor stretches a domain. -/
def tick (s : State) : State :=
  if !s.pwr.refclk then s
  else
    let s := match residencyOff s.pwr.state with
      | some o => c64 s o 1
      | none => s
    if govActive s then c64 s 0x70120 1 else s

/-! ## Upsets -/

/-- Whether ECC protects the byte (R179, R276, R355, R356, R410). -/
def hasEcc (k : Nat) : Bool :=
  let sp := keySpace k
  let o := keyOff k
  (sp == spDram && decide (o < dramSize)) || (sp == spGal && decide (o < galSize)) ||
  (decide (0x100 ≤ sp ∧ sp < 0x300) && decide (o < 0x40000)) || (decide (0x1000 ≤ sp ∧ sp < 0x1100) && decide (o < 0x100000)) ||
  (decide (0x2000 ≤ sp ∧ sp < 0x2010) && decide (o < 0x400000))

/-- An error comes into a protected word. A table word of a Picot core that can no longer be read right reads as
anything: nothing stops the core's work on it. -/
def flipWord (s : State) (k : Nat) (two : Bool) : State :=
  let b := eccBase k
  let old := smGet 0 s.flaws b
  if !hasEcc k || smGet false s.poison b || isRetired s k then s
  else
    let s := { s with flaws := smSet 0 s.flaws b (if old = 3 then 3 else if two || old == 2 then 2 else 1) }
    if two && decide (0x100 ≤ keySpace k ∧ keySpace k < 0x300) && decide (0x8000 ≤ keyOff k) then
      let (n, s) := takeFree s
      poke s b (natLE 4 (Config.freeWord n).toNat)
    else s

/-- Bits of a knot change against their complements. -/
def upsetKnot (s : State) (k : Nat) (v : U32) (e : U16) : State :=
  modKnot s k (fun x => { x with value := x.value ^^^ v, epoch := x.epoch ^^^ e })

/-- Bits of one byte of a stage entry change against their complements. -/
def upsetStage (e : StageEntry) (byte : BitVec 2) (m : U8) : StageEntry :=
  match byte with
  | 0 => { e with wake := e.wake ^^^ m }
  | 1 => { e with prewake := e.prewake ^^^ m }
  | 2 => { e with hold := e.hold ^^^ m }
  | _ => { e with holdCount := e.holdCount ^^^ m }

def upsetContext (s : State) (st k : Nat) (byte : BitVec 2) (m : U8) : State :=
  if (getStream s st).ctx.state = 0 then s
  else modCtx s st (fun c => { c with stages := setNth c.stages k (fun e => upsetStage e byte m) })

/-- A packet is requested again on hop `h`, `n` times in a row: each mismatch counts in FLT_CHECK and, as one of a packet,
in its class (R400); 1,024 resends in the window write a record, and 64 for one packet are fatal (R233, R402, R410). -/
def hopResends (s : State) (h n : Nat) : State :=
  if n = 0 then s
  else
    let n := min n 64
    let s := c32 (c32 (c32 s 0x3014C n) 0x9006C n) 0x90048 n
    let (c, s) := winAdd s (winKey 0x1A h) n (2 ^ 32)
    let s := if c < 1024 then s
      else logRec { s with flt := { s.flt with wins := smSet (0, 0) s.flt.wins (winKey 0x1A h) (0, 0) } } 0x16 0
        { utype := 10, unit := h, count := c, detail := c }
    if 64 ≤ n then fatalEvent s 4 else s

/-- The link partner takes the link to another state, if the link can go there from its present one. -/
def linkMoves (s : State) (to_ : LinkState) : State :=
  match s.link.st, to_ with
  | .l0, .l0p | .l0p, .l0 | .l0, .l2 | .l0p, .l2 | .l1 _, .l2 => { s with link := { s.link with st := to_ } }
  | .l2, .l0 => modPwr { s with link := { s.link with st := .l0 } } (fun p => { p with wake := false })
  | _, _ => s

def applyUpset (s : State) (u : Upset) : State :=
  match u with
  | .none => s
  | .flip k two => flipWord s k two
  | .knot k v e => upsetKnot s k.toNat v e
  | .context st k byte m => upsetContext s st.toNat k byte m
  | .hop h n => hopResends s h.toNat n
  | .control w => { s with flt := { s.flt with ctlBad := s.flt.ctlBad ++ [w] } }
  | .dmaError p => if (getRing s p.toNat).enabled || ringBusy (getRing s p.toNat) then modRing s p.toNat (fun r => { r with dmaErr := true }) else s
  | .link st => linkMoves s st
  | .lanes r w => if linkUp s then noteLanes s r w else s
  | .aer fn corr bit hdr => if fnPresent s fn.toNat then aerError s fn.toNat corr bit.toNat hdr else s

/-- What befalls the block in this cycle. -/
def upsets (s : State) : State :=
  let (n, s) := takeFree s
  applyUpset s (Config.upset n)

/-! ## The cycle -/

/-- One REFCLK cycle without a command: time is counted; while the device works, an upset may come, and the retirements
and losses for which there is cause are taken up. -/
def idle (s : State) : State := live (tick s) (fun s => settleVerdicts (settleLoss (upsets s)))

end Sys2Proof.Machine
end

