-- ==== Sys2Proof/WellFormed.lean ====
section
/-! DEFINITION. WellFormed.lean: which operands a command may carry. Everything that the device itself must check
(a wrong doorbell, a misaligned access, an operand that names nothing) is well-formed: the spec says what happens. -/

namespace Sys2Proof

/-- Finds of one read, each unit at most once, in rising order. -/
def findsOk (n : Nat) : List Finding → Bool
  | [] => true
  | [f] => decide (f.at_ < n)
  | f :: g :: r => decide (f.at_ < g.at_) && findsOk n (g :: r)

/-- The units with logic checks (R406, R410), by logical number: Picot, Bobbin, Chamber, Edging, codec. -/
def checkUnit (utype unit : Nat) : Bool :=
  (utype == 2 && decide (unit < 512)) || (utype == 3 && decide (unit < 256)) || (utype == 4 && decide (unit < 16)) ||
  (utype == 5 && decide (unit < 4)) || (utype == 8 && decide (unit < 4))

/-- The checks on the operands of a command. -/
def wf : Instr → Bool
  | .doorbell _ _ off len _ => decide (1 ≤ len ∧ len ≤ 8 ∧ off.toNat + len ≤ 4096)
  | .descriptorFetch n => decide (1 ≤ n ∧ n ≤ 64)
  | .badBar0Access _ _ size _ => decide (1 ≤ size ∧ size ≤ 64)
  | .registerWrite _ _ off _ => decide (off.toNat % 4 = 0)
  | .sramScrub fs => findsOk 16 fs
  | .dramScrub fs => findsOk 1024 fs
  | .dataFlit _ _ _ hdr payload => !hdr.getLsbD 26 && payload.length == 248
  | .logicCheckFail utype unit _ _ => checkUnit utype.toNat unit.toNat
  | .governorInterval _ _ rails => rails.length == 11
  | .bankWrite _ off _ => [0x20, 0x24, 0x28, 0x2C, 0x30, 0x34].contains off.toNat
  | .smbWrite32 data _ => decide (data.length ≤ 255)
  | .smbRdaddr data _ => decide (data.length ≤ 255)
  | _ => true

end Sys2Proof
end

