-- ==== Sys2Proof/Safety.lean ====
section
/-! DEFINITION. Safety.lean: the words of the claims: outcomes, the conditions under which a unit works, and what a
step may change. -/

namespace Sys2Proof.Machine

/-- The command answers a next state. -/
def Completes (c : Instr) (s : State) : Prop := ∃ t, exec c s = .next t

/-- The step answers a next state. -/
def StepGoes (s : State) : Prop := ∃ t, step s = .next t

/-- No state of the last row of R399 differs from its complement. -/
def Sound (s : State) : Prop := s.flt.ctlBad = []

/-- Work that needs neither the HOST nor the MESH clock goes on: that of the cores, of Lantern and of the power manager. -/
def Awake (s : State) : Prop := s.flt.fatal = false ∧ hostOn s = true ∧ Sound s

/-- The device works: it is in a state in which the HOST domain is powered (R443), the clocks of the HOST and the MESH
domain run (R428, R430), no fatal event has ended all work (R402), and the state that is checked is sound (R399). -/
def Runs (s : State) : Prop := s.flt.fatal = false ∧ hostRuns s = true ∧ clocked s 1 = true ∧ Sound s

/-- A register access by function `fn` reaches the block: the HOST domain runs, the function exists (R69), and Lantern
is not in recovery mode (R465). -/
def Reached (s : State) (fn : Nat) : Prop :=
  s.flt.fatal = false ∧ hostRuns s = true ∧ fnPresent s fn = true ∧ s.lnt.recovery = false ∧ Sound s

/-- The same for a register of FLT_, which a fatal event leaves open (R402). -/
def ReachedFlt (s : State) : Prop := regsRun s = true ∧ s.lnt.recovery = false ∧ Sound s

/-! ## Bobbin cores -/

/-- Core `c` may issue, no loop is active, and the next bundle lies within the SRAM. -/
def Straight (s : State) (c : Nat) : Prop :=
  Awake s ∧ canIssue s c = true ∧ (getCore s c).loops = [] ∧ (getCore s c).pc.toNat + 1 < 131072

/-- What the issue of a bundle leaves (R169): core `c` is `k`, but its PC is `pc`, its loops are `ls` and it runs; the
other cores are as in `s`; all else is as in `u`, but for the bundle counted in BOB_BUNDLES and one operation passed in
the core's failure window (R409). -/
def CoreGoes (s u t : State) (c : Nat) (k : Core) (pc : Nat) (ls : List LoopFrame) : Prop :=
  getCore t c = { k with pc := BitVec.ofNat 17 pc, lastPc := (getCore s c).pc, st := 2, loops := ls } ∧
  (∀ q, q ≠ c → getCore t q = getCore s q) ∧
  t = { c64 (winPass u (winKey 3 (physCore s c)) 1) 0x30048 1 with cores := t.cores }

/-- The bundle issues and the next one in sequence follows: core `c` is `k` but for its PC. -/
def CoreStep (s t : State) (c : Nat) (k : Core) : Prop := CoreGoes s s t c k ((getCore s c).pc.toNat + 1) []

/-- One read of the SRAM of core `c` has passed in its failure window (R410). -/
def sramRead (s : State) (c : Nat) : State := winPass s (winKey 0x13 (physCore s c)) 1

/-- A core with `v` in scalar register `i`; s0 takes nothing (R164). -/
def putS (k : Core) (i : BitVec 5) (v : U32) : Core := if i = 0 then k else { k with s := smSet 0 k.s i.toNat v }

/-- A core with `v` in vector register `i`. -/
def putV (k : Core) (i : BitVec 4) (v : BitVec 512) : Core := { k with v := smSet 0 k.v i.toNat v }

/-- Lane `i`, `w` bits wide, of a vector register. -/
def lane (w : Nat) (v : BitVec 512) (i : Nat) : Nat := fld v.toNat (w * i) w

/-! ## Ring pairs -/

/-- Ring pair `p` becomes `r`, the other pairs are as in `s`, and all else is as in `u`. -/
def RingGoes (s u t : State) (p : Nat) (r : Ring) : Prop :=
  getRing t p = r ∧ (∀ q, q ≠ p → getRing t q = getRing s q) ∧ t = { u with rings := t.rings }

/-- The descriptor of SQ entry `idx`, fetched and sound, may start with opcode `op`, and its function still holds every
right that it names (R86, R106). -/
def Starts (s : State) (p : PairId) (idx : U16) (op : Nat) (d : Desc) : Prop :=
  Runs s ∧ mayStart (getRing s p.toNat) idx.toNat = some d ∧ descOp d.bytes = op ∧
  descRights s d.fn.toNat d.bytes = (true, s)

/-- `e` has not ended, and carries the job tag and tag generation of `d` (R78). -/
def sameTag (d e : Desc) : Bool := bearsTag e (BitVec.ofNat 12 (descTag d.bytes)) (BitVec.ofNat 4 (descTgen d.bytes))

/-- A ring pair whose descriptor `d` has started. -/
def startIn (r : Ring) (d : Desc) : Ring :=
  { r with inflight := r.inflight.map (fun e => if sameTag d e then { e with started := true } else e) }

/-- A ring pair whose descriptor `d` has ended with `c`. -/
def endIn (r : Ring) (d : Desc) (c : Compl) : Ring :=
  { r with inflight := r.inflight.map (fun e => if sameTag d e then { e with started := true, done := some c } else e) }

/-- The sparse map is in canonical form: keys rise, and no entry is the default. -/
def Canon {α : Type} [DecidableEq α] (d : α) (m : SMap α) : Prop := smWf (fun _ => d) m = true

/-- Descriptor `d` of pair `p` has ended with `c`, and the other ring pairs are as they were. -/
def Ends (s t : State) (p : PairId) (d : Desc) (c : Compl) : Prop :=
  getRing t p.toNat = endIn (getRing s p.toNat) d c ∧ ∀ q, q ≠ p.toNat → getRing t q = getRing s q

/-- Descriptor `d` of pair `p` has started, and waits for what is to end it. -/
def Begins (s t : State) (p : PairId) (d : Desc) : Prop :=
  getRing t p.toNat = startIn (getRing s p.toNat) d ∧ ∀ q, q ≠ p.toNat → getRing t q = getRing s q

/-- No byte of memory is poisoned, no word holds an error, and no DRAM is retired. -/
def Clean (s : State) : Prop := s.poison = [] ∧ s.flaws = [] ∧ s.flt.dramRet = []

/-- Streams other than `st` are as they were. -/
def OneStream (s t : State) (st : Nat) : Prop := ∀ q, q ≠ st → getStream t q = getStream s q

/-- Every byte of memory outside `[k, k + n)` reads as before. -/
def KeepsOutside (s t : State) (k n : Nat) : Prop := ∀ a, (a < k ∨ k + n ≤ a) → peek1 t a = peek1 s a

/-- Every byte of memory reads as before. -/
def KeepsMemory (s t : State) : Prop := ∀ a, peek1 t a = peek1 s a

/-- The closure of the step `w.stamp` of stream `st` is complete, or its decision `w` waits (R46, R348). -/
def ClosedOrWaits (s t : State) (st : Nat) (w : WaitDecision) : Prop :=
  ((getStream t st).closedSteps = (getStream s st).closedSteps + 1 ∧ (getStream t st).ctx.curStep = w.stamp ∧
    (getStream t st).waiting = none) ∨
  ((getStream t st).closedSteps = (getStream s st).closedSteps ∧
    ∃ v, (getStream t st).waiting = some v ∧ v.stamp = w.stamp ∧ v.conf = w.conf ∧ v.cls = w.cls)

/-- A vector of a function can be sent at once: in the table, MSI-X on, neither the function nor the vector masked. -/
def VecOpen (s : State) (f v : Nat) : Prop :=
  v < tableSize s f ∧ (getFn s f).msixEn = true ∧ (getFn s f).fmask = false ∧ (smGet {} (getFn s f).vecs v).masked = false

/-- The message `m`, delivered as the `k`-th, is of the class and type and the next of its class from its source, and
every dependent of a lost chip has been told; the rest of the claim speaks of the state without the message. -/
def Takes (s : State) (k cls mtype : Nat) (m : PMsg) : Prop :=
  Runs s ∧ s.delivered[k]? = some m ∧ m.cls.toNat = cls ∧ m.mtype.toNat = mtype ∧
  (s.delivered.take k).any (fun q => q.cls == m.cls && q.src == m.src) = false ∧ s.lossDue = []

/-- The state without the `k`-th delivered message `m`, whose receive buffer is free. -/
def taken (s : State) (k : Nat) (m : PMsg) : State := leaveBuffer { s with delivered := s.delivered.eraseIdx k } m

/-- A message for the chip makes no new loss: it has a route, or is lost already (R377, R390). -/
def Known (s : State) (chip : ChipId) : Prop := smGet false s.lostChips chip.toNat = true ∨ routeHops (routeWord s chip.toNat) ≠ 0

/-- The counters at `offs` read 0, every other counter and every other part of the state is as it was. -/
def Zeroed (s t : State) (offs : List Nat) : Prop :=
  (∀ o, ctr t o = if o ∈ offs then 0 else ctr s o) ∧ t = { s with ctrs := t.ctrs }

/-- Memory and the list of cores are in their canonical form. -/
def FormKept (s : State) : Prop := Memory.wf s = true ∧ Canon {} s.cores

/-- Memory with its losses, poison and errors, the registers and the counters are in their canonical form. Region 0 of
`regionOf` stands for the memory that is never lost. -/
structure MemoryForm (s : State) : Prop where
  mem : Memory.wf s = true
  lost : Canon 0 s.lost
  never : smGet 0 s.lost 0 = 0
  poison : Canon false s.poison
  flaws : Canon 0 s.flaws
  regs : smWf regReset s.regs = true
  ctrs : Canon 0 s.ctrs
  sats : Canon {} s.satCtrs

/-- The functions, ring pairs, streams, slots and jobs are listed in their canonical form. -/
structure WorkForm (s : State) : Prop where
  fns : Canon {} s.fns
  rings : Canon {} s.rings
  served : Canon 1024 s.lastServed
  streams : Canon {} s.streams
  slots : Canon {} s.slots
  insts : Canon none s.insts
  snaps : Canon none s.snaps
  jobs : Canon none s.jobs

/-- The cores, engines, knots, ports and chips are listed in their canonical form. -/
structure UnitForm (s : State) : Prop where
  cores : Canon {} s.cores
  engines : Canon {} s.engines
  knots : Canon {} s.knots
  ports : Canon {} s.ports
  conduits : Canon {} s.conduits
  chips : Canon false s.lostChips
  held : Canon [] s.evHold

/-- Every sparse map of the state is in its canonical form, so that equal contents are equal data. -/
def InForm (s : State) : Prop := MemoryForm s ∧ WorkForm s ∧ UnitForm s

end Sys2Proof.Machine
end

