-- ==== Sys2Proof/Certificates/Slice0/Obligations.lean ====
section
/-! DEFINITION. Certificates/Slice0/Obligations.lean: the statements about the block, for the provers. -/

open Sys2Proof Sys2Proof.Machine

/-- O1. On a core that may issue, with no loop active, each scalar arithmetic instruction answers a next state in which sD holds the result of R172 on sA and sB as they stood before the bundle (nothing is written for s0), the PC is the next bundle, and nothing else changes but the bundle count and the core's failure window: ADD, SUB, AND, OR, XOR, SHL, SHR, SRA (shifts by sB[4:0]), SLT, SLTU, MIN, MAX (signed), MUL (low half), MULH (high half of the signed product), ADDI, SHLI, SHRI, SRAI, MOVI, LI. Of every core, s0 reads 0 before and after any write, a write of s0 changes nothing, and where the register list is in its canonical order a write of another scalar register reads back, leaves the others and keeps that order. -/
def Obligations.ScalarArithmetic : Prop :=
  ∀ (s : State) (c : BitVec 8) (d a b : BitVec 5), Straight s c.toNat →
    let k := getCore s c.toNat
    let x := sReg k a
    let y := sReg k b
    let gives (i : Instr) (v : U32) : Prop := ∃ t, exec i s = .next t ∧ CoreStep s t c.toNat (putS k d v)
    gives (.iAdd c d a b) (x + y) ∧
    gives (.iSub c d a b) (x - y) ∧
    gives (.iAnd c d a b) (x &&& y) ∧
    gives (.iOr c d a b) (x ||| y) ∧
    gives (.iXor c d a b) (x ^^^ y) ∧
    gives (.iShl c d a b) (x <<< (y.toNat % 32)) ∧
    gives (.iShr c d a b) (x >>> (y.toNat % 32)) ∧
    gives (.iSra c d a b) (x.sshiftRight (y.toNat % 32)) ∧
    gives (.iSlt c d a b) (if x.toInt < y.toInt then 1 else 0) ∧
    gives (.iSltu c d a b) (if x.toNat < y.toNat then 1 else 0) ∧
    gives (.iMin c d a b) (if x.toInt < y.toInt then x else y) ∧
    gives (.iMax c d a b) (if x.toInt < y.toInt then y else x) ∧
    gives (.iMul c d a b) (BitVec.ofNat 32 (x.toNat * y.toNat)) ∧
    gives (.iMulh c d a b) (BitVec.ofInt 32 (x.toInt * y.toInt / 2 ^ 32)) ∧
    (∀ i : BitVec 6, gives (.iAddi c d a i) (BitVec.ofInt 32 (x.toInt + i.toInt))) ∧
    (∀ i : BitVec 6, i.toNat < 32 →
      gives (.iShli c d a i) (x <<< i.toNat) ∧
      gives (.iShri c d a i) (x >>> i.toNat) ∧
      gives (.iSrai c d a i) (x.sshiftRight i.toNat)) ∧
    (∀ i : BitVec 11, gives (.iMovi c d i) (BitVec.ofInt 32 i.toInt)) ∧
    (∀ i : U32, gives (.iLi c d i) i) ∧
    (∀ (k : Core) (i j : BitVec 5) (v : U32),
      sReg k 0 = 0 ∧ sReg (putS k i v) 0 = 0 ∧ putS k 0 v = k ∧
      (smWf (fun _ => 0) k.s = true → i ≠ 0 → sReg (putS k i v) i = v ∧ (j ≠ i → sReg (putS k i v) j = sReg k j) ∧
        smWf (fun _ => 0) (putS k i v).s = true))

/-- O2. On a core that may issue, with no loop active, and no uncorrected error in any word, an aligned access whose address lies in the SRAM answers a next state: LW, LWP read 4 bytes, VLD, VLDP 64 bytes, least significant byte first, into their register, and no byte of memory changes; SW, SWP, VST, VSTP store the register as it stood before the bundle to exactly the 4 or 64 bytes at the address and change no other byte; each counts one access in the failure window of the SRAM (R410); the address is sA plus the signed offset times the size, or sA itself for the post-increment forms, which then add that product to sA (the increment lands after the load, log 73; the sign is the model's reading, log 204). Where the core's memory is in its canonical form, the stored bytes read back. -/
def Obligations.LoadsAndStores : Prop :=
  ∀ (s : State) (c : BitVec 8) (a : BitVec 5) (i : BitVec 6), Straight s c.toNat → s.flaws = [] →
    let k := getCore s c.toNat
    let addr (size : Nat) (post : Bool) : Nat := (if post then sReg k a else sReg k a + BitVec.ofInt 32 (i.toInt * size)).toNat
    let next (size : Nat) : U32 := sReg k a + BitVec.ofInt 32 (i.toInt * size)
    let ok (size : Nat) (post : Bool) : Prop := addr size post % size = 0 ∧ addr size post < 0x100000
    let word (size : Nat) (post : Bool) : Nat := leNat (peek s (mkey (spBobbin c.toNat) (addr size post)) size)
    let took (t : State) (k' : Core) : Prop := CoreGoes s { sramRead s c.toNat with freeCtr := s.freeCtr + 1 } t c.toNat k' (k.pc.toNat + 1) []
    let stored (t : State) (size : Nat) (post : Bool) (v : Nat) (k' : Core) : Prop :=
      CoreGoes s { sramRead s c.toNat with mem := t.mem } t c.toNat k' (k.pc.toNat + 1) [] ∧
      (∀ q, (q < mkey (spBobbin c.toNat) (addr size post) ∨ mkey (spBobbin c.toNat) (addr size post) + size ≤ q) →
        Memory.wf s = true → peek1 t q = peek1 s q) ∧
      (Memory.wf s = true → peek t (mkey (spBobbin c.toNat) (addr size post)) size = natLE size v)
    (∀ d : BitVec 5, ok 4 false → ∃ t, exec (.iLw c d a i) s = .next t ∧ took t (putS k d (BitVec.ofNat 32 (word 4 false)))) ∧
    (∀ d : BitVec 5, ok 4 true → ∃ t, exec (.iLwp c d a i) s = .next t ∧
      took t (putS (putS k d (BitVec.ofNat 32 (word 4 true))) a (next 4))) ∧
    (∀ d : BitVec 4, ok 64 false → ∃ t, exec (.iVld c d a i) s = .next t ∧ took t (putV k d (BitVec.ofNat 512 (word 64 false)))) ∧
    (∀ d : BitVec 4, ok 64 true → ∃ t, exec (.iVldp c d a i) s = .next t ∧
      took t (putS (putV k d (BitVec.ofNat 512 (word 64 true))) a (next 64))) ∧
    (∀ d : BitVec 5, ok 4 false → ∃ t, exec (.iSw c d a i) s = .next t ∧ stored t 4 false (sReg k d).toNat k) ∧
    (∀ d : BitVec 5, ok 4 true → ∃ t, exec (.iSwp c d a i) s = .next t ∧ stored t 4 true (sReg k d).toNat (putS k a (next 4))) ∧
    (∀ d : BitVec 4, ok 64 false → ∃ t, exec (.iVst c d a i) s = .next t ∧ stored t 64 false (vReg k d).toNat k) ∧
    (∀ d : BitVec 4, ok 64 true → ∃ t, exec (.iVstp c d a i) s = .next t ∧ stored t 64 true (vReg k d).toNat (putS k a (next 64)))

/-- O3. On a core that may issue: BEQZ, BNEZ, BLTZ, BGEZ go to PC + OFF11 if sA is 0, not 0, negative, not negative, and else to the next bundle; JMP and CALL go to PC + OFF11, CALL with s31 = PC + 1; JR goes to the bundle that sA names; LOOP with a count other than 0 makes its body active from the next bundle, and a count of 0 skips the body; a bundle that ends the innermost body goes back to its first bundle while iterations remain, and else leaves the loop; a taken branch leaves the loops whose body does not hold its target. BUNDLE_ISSUE of a bundle that encodes LI, in words without errors, fetches it and writes its register. Nothing else changes but the bundle count and the core's failure window. The target lies within the SRAM. -/
def Obligations.ControlFlow : Prop :=
  ∀ (s : State) (c : BitVec 8) (a : BitVec 5), Awake s → canIssue s c.toNat = true →
    let k := getCore s c.toNat
    let pc := k.pc.toNat
    let goes (i : Instr) (k' : Core) (tgt : Nat) (ls : List LoopFrame) : Prop :=
      ∃ t, exec i s = .next t ∧ CoreGoes s s t c.toNat k' tgt ls
    let kept (tgt : Nat) : List LoopFrame := k.loops.dropWhile (fun f => !(decide (f.first ≤ tgt ∧ tgt < f.first + f.len)))
    (∀ (off : BitVec 11) (tgt : Nat), (tgt : Int) = (pc : Int) + off.toInt → tgt < 131072 →
      (sReg k a = 0 → goes (.iBeqz c a off) k tgt (kept tgt)) ∧
      (sReg k a ≠ 0 → goes (.iBnez c a off) k tgt (kept tgt)) ∧
      ((sReg k a).toInt < 0 → goes (.iBltz c a off) k tgt (kept tgt)) ∧
      (0 ≤ (sReg k a).toInt → goes (.iBgez c a off) k tgt (kept tgt)) ∧
      goes (.iJmp c off) k tgt (kept tgt) ∧
      goes (.iCall c off) (putS k 31 (BitVec.ofNat 32 (pc + 1))) tgt (kept tgt)) ∧
    (∀ off : BitVec 11, k.loops = [] → pc + 1 < 131072 →
      (sReg k a ≠ 0 → goes (.iBeqz c a off) k (pc + 1) []) ∧
      (sReg k a = 0 → goes (.iBnez c a off) k (pc + 1) []) ∧
      (0 ≤ (sReg k a).toInt → goes (.iBltz c a off) k (pc + 1) []) ∧
      ((sReg k a).toInt < 0 → goes (.iBgez c a off) k (pc + 1) [])) ∧
    ((sReg k a).toNat < 131072 → goes (.iJr c a) k (sReg k a).toNat (kept (sReg k a).toNat)) ∧
    (∀ i : BitVec 6, i ≠ 0 → k.loops.length < 2 → pc + 1 < 131072 → sReg k a ≠ 0 →
      goes (.iLoop c a i) k (pc + 1) ({ first := pc + 1, len := i.toNat, left := (sReg k a).toNat } :: k.loops)) ∧
    (∀ i : BitVec 6, i ≠ 0 → k.loops = [] → pc + 1 + i.toNat < 131072 → sReg k a = 0 →
      goes (.iLoop c a i) k (pc + 1 + i.toNat) []) ∧
    (∀ (f : LoopFrame) (d : BitVec 5) (v : U32), k.loops = [f] → pc + 1 = f.first + f.len → pc + 1 < 131072 →
      (1 < f.left → goes (.iLi c d v) (putS k d v) f.first [{ f with left := f.left - 1 }]) ∧
      (f.left ≤ 1 → goes (.iLi c d v) (putS k d v) (pc + 1) [])) ∧
    (∀ (d : BitVec 5) (v : U32) (w : Nat), s.flaws = [] → k.loops = [] → pc + 1 < 131072 → bundleOf (.iLi c d v) = some (c, w) →
      fetchBundle s c.toNat = w →
      ∃ t, exec (.bundleIssue c) s = .next t ∧ CoreGoes s (sramRead s c.toNat) t c.toNat (putS k d v) (pc + 1) [])

/-- O4. On a core that may issue, with no loop active: CSRR writes sD with the control register of R174 (the low half of the cycle counter is a free value, and the read latches the high half, free as well; CORE_ID, ROLE, CYCLES_HI, PTP, SATGRP, DMA_DONE0 to 3, INBOX_COUNT, EQ_COUNT and PSIZE read what R174 says, every other index 0); CSRW writes PTP and SATGRP and discards a write of any other control register; SYNC issues when no DMA descriptor of the core is left, and otherwise the core waits with the state unchanged but for its own state; END makes the core's part of the job end, and its PC stays. -/
def Obligations.ControlRegisters : Prop :=
  ∀ (s : State) (c : BitVec 8) (d : BitVec 5), Straight s c.toNat →
    let k := getCore s c.toNat
    let x := (sReg k d).toNat
    let go (i : Instr) (k' : Core) : Prop := ∃ t, exec i s = .next t ∧ CoreStep s t c.toNat k'
    (∀ i : BitVec 11, i ≠ 2 → go (.iCsrr c d i) (putS k d (BitVec.ofNat 32 (csrValue s c.toNat i.toNat)))) ∧
    (∃ t, exec (.iCsrr c d 2) s = .next t ∧
      CoreGoes s { s with freeCtr := s.freeCtr + 2 } t c.toNat
        (putS { k with cyclesHi := Config.freeWord (s.freeCtr + 1) } d (Config.freeWord s.freeCtr)) (k.pc.toNat + 1) []) ∧
    csrValue s c.toNat 0x000 = physCore s c.toNat ∧
    csrValue s c.toNat 0x001 = k.slot.toNat + k.rank.toNat * 2 ^ 8 + k.epoch.toNat * 2 ^ 16 ∧
    csrValue s c.toNat 0x003 = k.cyclesHi.toNat ∧
    csrValue s c.toNat 0x004 = k.ptpCol.toNat + k.ptpRow.toNat * 2 ^ 8 ∧
    csrValue s c.toNat 0x005 = k.satgrp.toNat ∧
    (∀ ch, ch < 4 → csrValue s c.toNat (8 + ch) = (smGet 0 k.dmaDone ch).toNat) ∧
    csrValue s c.toNat 0x00C = k.inbox.length ∧
    csrValue s c.toNat 0x00D = k.eq.length ∧
    (let img := coreImage s k
     csrValue s c.toNat 0x010 = t1Cores img + t1W img * 2 ^ 16 + t1H img * 2 ^ 24) ∧
    (∀ i, (i = 6 ∨ i = 7 ∨ i = 0xE ∨ i = 0xF ∨ 0x10 < i) → csrValue s c.toNat i = 0) ∧
    go (.iCsrw c d 4) { k with ptpCol := BitVec.ofNat 5 x, ptpRow := BitVec.ofNat 5 (x / 256) } ∧
    go (.iCsrw c d 5) { k with satgrp := BitVec.ofNat 12 x } ∧
    (∀ i : BitVec 11, i ≠ 4 → i ≠ 5 → go (.iCsrw c d i) k) ∧
    (k.dmas = [] → go (.iSync c) k) ∧
    (k.dmas ≠ [] → ∃ t, exec (.iSync c) s = .next t ∧ getCore t c.toNat = { k with st := 3 } ∧
      t = { s with cores := t.cores } ∧ ∀ q, q ≠ c.toNat → getCore t q = getCore s q) ∧
    (∃ t, exec (.iEnd c) s = .next t ∧ getCore t c.toNat = { k with ending := true, st := 4, lastPc := k.pc } ∧
      (∀ q, q ≠ c.toNat → getCore t q = getCore s q) ∧
      t = { c64 (winPass s (winKey 3 (physCore s c.toNat)) 1) 0x30048 1 with cores := t.cores })

/-- O5. On a core that may issue, with no loop active: VAND, VOR, VXOR write the bitwise result to vD; VEXT writes FP32/INT32 lane l of vA to sD; VSPLAT writes sA to every lane of vD (its low bits for narrow lanes); VPERM picks bytes of vA by the low six bits of each byte of vB, 0 where its bit 7 is set; MRD copies half a tile row to vD; MWR writes half a tile row from vA, and with the accumulators in canonical form every other tile element keeps its value; MZERO makes every element of the tile 0 and keeps the other tiles; CBLD loads a codebook from bytes 0 to 15 of vA. Nothing else changes but the bundle count and the core's failure window. -/
def Obligations.RegisterMoves : Prop :=
  ∀ (s : State) (c : BitVec 8) (d a b : BitVec 4), Straight s c.toNat →
    let k := getCore s c.toNat
    let x := vReg k a
    let y := vReg k b
    let go (i : Instr) (k' : Core) : Prop := ∃ t, exec i s = .next t ∧ CoreStep s t c.toNat k'
    go (.iVand c d a b) (putV k d (x &&& y)) ∧
    go (.iVor c d a b) (putV k d (x ||| y)) ∧
    go (.iVxor c d a b) (putV k d (x ^^^ y)) ∧
    (∀ (sd : BitVec 5) (l : BitVec 4), go (.iVext c sd a l) (putS k sd (BitVec.ofNat 32 (lane 32 x l.toNat)))) ∧
    (∀ (sa : BitVec 5) (ty : BitVec 2), ∃ v, go (.iVsplat c d sa ty) (putV k d v) ∧
      ∀ i, i < 512 / laneBits ty → lane (laneBits ty) v i = (sReg k sa).toNat % 2 ^ laneBits ty) ∧
    (∃ v, go (.iVperm c d a b) (putV k d v) ∧
      ∀ i, i < 64 → lane 8 v i = if lane 8 y i < 128 then lane 8 x (lane 8 y i % 64) else 0) ∧
    (∀ (tile : BitVec 3) (row : BitVec 5) (half : Bool),
      (∃ v, go (.iMrd c d tile row half) (putV k d v) ∧
        ∀ i, i < 16 → lane 32 v i = (accGet k tile.toNat row.toNat (16 * b2n half + i)).toNat) ∧
      (∃ m, go (.iMwr c tile a row half) { k with acc := m } ∧ (smWf (fun _ => 0) k.acc = true →
        (∀ i, i < 16 → smGet 0 m (accKey tile.toNat row.toNat (16 * b2n half + i)) = BitVec.ofNat 32 (lane 32 x i)) ∧
        (∀ q, (∀ i, i < 16 → q ≠ accKey tile.toNat row.toNat (16 * b2n half + i)) → smGet 0 m q = smGet 0 k.acc q))) ∧
      (∃ m, go (.iMzero c tile) { k with acc := m } ∧ (smWf (fun _ => 0) k.acc = true →
        ∀ q, smGet 0 m q = if q / 1024 = tile.toNat then 0 else smGet 0 k.acc q))) ∧
    (∀ cb : BitVec 2, go (.iCbld c cb a) { k with cb := smSet 0 k.cb cb.toNat (BitVec.ofNat 128 x.toNat) })

/-- O6. On a core that may issue, with no loop active, and for the lane types INT8, INT16 and INT32: VADD, VSUB, VMUL, VMIN, VMAX write to each lane of vD the exact result of the signed lanes of vA and vB clamped to the lane type; VSHR divides by 2 to the lane of vB with round to nearest, ties to even, or multiplies for a negative amount, and clamps; every lane whose exact result lies outside counts one event in the saturation counter that SATGRP selects, in lane order, and a lane that fits counts none; VCMP writes all ones or 0 by EQ, LT or LE; the integer VSUM writes the clamped sum of the 16 INT32 lanes to lane 0, 0 elsewhere, with one event if it saturates. All else is as the counting leaves it, but for the bundle count and the core's failure window. -/
def Obligations.IntegerLanes : Prop :=
  ∀ (s : State) (c : BitVec 8) (d a b : BitVec 4) (ty : BitVec 2), Straight s c.toNat → ty ≠ 3 →
    let k := getCore s c.toNat
    let w := laneBits ty
    let x (i : Nat) : Int := sext w (lane w (vReg k a) i)
    let y (i : Nat) : Int := sext w (lane w (vReg k b) i)
    let clamp (e : Int) : Int := clampI (-(2 ^ (w - 1))) (2 ^ (w - 1) - 1) e
    let lanes (i : Instr) (e : Nat → Int) : Prop := ∃ t v evs, exec i s = .next t ∧
      (∀ j, j < 512 / w → lane w v j = twos w (clamp (e j)) ∧ evs[j]? = some (decide (e j ≠ clamp (e j)))) ∧
      evs.length = 512 / w ∧
      CoreGoes s (coreSat s s c.toNat false evs) t c.toNat (putV k d v) (k.pc.toNat + 1) []
    lanes (.iVadd c d a b ty) (fun j => x j + y j) ∧
    lanes (.iVsub c d a b ty) (fun j => x j - y j) ∧
    lanes (.iVmul c d a b ty) (fun j => x j * y j) ∧
    lanes (.iVmin c d a b ty) (fun j => if x j ≤ y j then x j else y j) ∧
    lanes (.iVmax c d a b ty) (fun j => if x j ≤ y j then y j else x j) ∧
    lanes (.iVshr c d a b ty) (fun j => if 0 ≤ y j then rneShift (x j) (y j).toNat else x j * 2 ^ (-(y j)).toNat) ∧
    (∀ op : BitVec 2, op ≠ 3 → ∃ t v, exec (.iVcmp c d a b ty op) s = .next t ∧ CoreStep s t c.toNat (putV k d v) ∧
      ∀ j, j < 512 / w → lane w v j =
        if (op = 0 ∧ x j = y j) ∨ (op = 1 ∧ x j < y j) ∨ (op = 2 ∧ x j ≤ y j) then 2 ^ w - 1 else 0) ∧
    (∃ t v, exec (.iVsum c d a false) s = .next t ∧
      (let e := ((List.range 16).map (fun i => sext 32 (lane 32 (vReg k a) i))).sum
       lane 32 v 0 = twos 32 (satInt32 e) ∧ (∀ j, 0 < j → j < 16 → lane 32 v j = 0) ∧
       CoreGoes s (coreSat s s c.toNat false [decide (satInt32 e ≠ e)]) t c.toNat (putV k d v) (k.pc.toNat + 1) []))

/-- O7. On a core that may issue, with no loop active: with T = FP32, VADD, VSUB, VMUL, VMIN, VMAX, VSHR write to each of the 16 lanes of vD the FP32 result on the lanes of vA and vB; VFMA adds the product to vD with one rounding; VCMP writes all ones or 0, and 0 wherever an operand is a NaN; VFN writes each lane's function; VSUM writes the pairwise sum of the lanes to lane 0, and 0 elsewhere; VCVT writes 16 converted elements packed from byte 0 of vD, 0 in the rest, and counts each element as an output and each counted event. The instructions but VCVT change nothing else but the bundle count and the core's failure window. Where R166 and R175 state no result (VMIN and VMAX, VFN) the value is free. -/
def Obligations.FloatLanes : Prop :=
  ∀ (s : State) (c : BitVec 8) (d a b : BitVec 4), Straight s c.toNat →
    let k := getCore s c.toNat
    let x (i : Nat) : U32 := BitVec.ofNat 32 (lane 32 (vReg k a) i)
    let y (i : Nat) : U32 := BitVec.ofNat 32 (lane 32 (vReg k b) i)
    let z (i : Nat) : U32 := BitVec.ofNat 32 (lane 32 (vReg k d) i)
    let lanes (i : Instr) (r : Nat → U32) : Prop := ∃ t v, exec i s = .next t ∧ CoreStep s t c.toNat (putV k d v) ∧
      ∀ j, j < 16 → lane 32 v j = (r j).toNat
    lanes (.iVadd c d a b 3) (fun j => fpAdd (x j) (y j)) ∧
    lanes (.iVsub c d a b 3) (fun j => fpSub (x j) (y j)) ∧
    lanes (.iVmul c d a b 3) (fun j => fpMul (x j) (y j)) ∧
    lanes (.iVfma c d a b) (fun j => fpFma (z j) (x j) (y j)) ∧
    lanes (.iVmin c d a b 3) (fun j => fpMinMax false (x j) (y j)) ∧
    lanes (.iVmax c d a b 3) (fun j => fpMinMax true (x j) (y j)) ∧
    lanes (.iVshr c d a b 3) (fun j => shiftFpCut (x j) (y j)) ∧
    (∀ op : BitVec 2, op ≠ 3 → lanes (.iVcmp c d a b 3 op) (fun j => if cmpFp op (x j) (y j) then 0xFFFFFFFF else 0)) ∧
    (∀ fn : BitVec 2, lanes (.iVfn c d a fn) (fun j => vfn fn.toNat (x j))) ∧
    (∃ r, (pairSum (pairSum (pairSum (pairSum (sumLeaves ((List.range 16).map (fun i => (x i).toNat))))))) = [r] ∧
      lanes (.iVsum c d a true) (fun j => if j = 0 then r else 0)) ∧
    (∀ dst src : BitVec 4, dst ≠ 1 → src ≠ 1 → ∃ t v evs, exec (.iVcvt c d a dst src) s = .next t ∧ evs.length = 16 ∧
      CoreGoes s (coreSat s s c.toNat true evs) t c.toNat (putV k d v) (k.pc.toNat + 1) [] ∧
      v.toNat < 2 ^ (16 * fmtBits dst.toNat) ∧
      ∀ j, j < 16 →
        let r := cvt dst.toNat (elemVal src.toNat (fld (vReg k a).toNat (fmtBits src.toNat * j) (fmtBits src.toNat)))
        fld v.toNat (fmtBits dst.toNat * j) (fmtBits dst.toNat) = r.1 % 2 ^ fmtBits dst.toNat ∧ evs[j]? = some r.2)

/-- O8. On a core that may issue, with no loop active, its accumulators and product tables in canonical form: MOP adds to each of the 32 by 32 elements of its tile the product of an element of the chosen half of vA and one of vB, clamped to INT32, and counts each clamped element in BOB_ACC_SAT; PTB fills the entries of its buffer for each of the 32 activations with the products with the codebook of its kind; PTA adds to 4 (or 8) elements of row PTP.ROW from column PTP.COL on the sums of the table entries that the codes select, clamped and counted, and moves PTP on by as many columns, to the next row at the end. Elements, entries and registers not named keep their values. -/
def Obligations.MicroArray : Prop :=
  ∀ (s : State) (c : BitVec 8) (a b : BitVec 4), Straight s c.toNat →
    let k := getCore s c.toNat
    smWf (fun _ => 0) k.acc = true → smWf (fun _ => 0) k.pt = true →
    let el (v : BitVec 512) (half unsigned : Bool) (i : Nat) : Int :=
      if unsigned then (lane 8 v (i + 32 * b2n half) : Int) else sext 8 (lane 8 v (i + 32 * b2n half))
    (∀ (tile : BitVec 3) (m : BitVec 4),
      let e (i j : Nat) : Int := (accGet k tile.toNat i j).toInt +
        el (vReg k a) (m.getLsbD 0) (m.getLsbD 2) i * el (vReg k b) (m.getLsbD 1) (m.getLsbD 3) j
      let n := ((List.range 1024).filter (fun q => decide (satInt32 (e (q / 32) (q % 32)) ≠ e (q / 32) (q % 32)))).length
      ∃ t acc', exec (.iMop c tile a b m) s = .next t ∧
        CoreGoes s (c64 (c32 s 0x3006C n) 0x30050 1) t c.toNat { k with acc := acc' } (k.pc.toNat + 1) [] ∧
        (∀ i j, i < 32 → j < 32 → smGet 0 acc' (accKey tile.toNat i j) = BitVec.ofInt 32 (satInt32 (e i j))) ∧
        (∀ q, q / 1024 ≠ tile.toNat → smGet 0 acc' q = smGet 0 k.acc q)) ∧
    (∀ (buf : Bool) (kind : BitVec 4) (m : BitVec 2) (cb : List Int), codebook k kind.toNat = some cb →
      ∃ t pt', exec (.iPtb c buf a kind m) s = .next t ∧ CoreStep s t c.toNat { k with pt := pt' } ∧
        (∀ j e v, j < 32 → cb[e]? = some v →
          smGet 0 pt' (512 * b2n buf + 16 * j + e) = BitVec.ofInt 16 (el (vReg k a) (m.getLsbD 0) (m.getLsbD 1) j * v)) ∧
        (∀ q, (∀ j e, j < 32 → e < cb.length → q ≠ 512 * b2n buf + 16 * j + e) → smGet 0 pt' q = smGet 0 k.pt q)) ∧
    (∀ (tile : BitVec 3) (m : BitVec 2),
      let w := if m.getLsbD 1 then 2 else 4
      let outs := if m.getLsbD 1 then 8 else 4
      let col := k.ptpCol.toNat
      let row := k.ptpRow.toNat
      let sum (o : Nat) : Int := ((List.range 32).map (fun j =>
        (smGet 0 k.pt (512 * b2n (m.getLsbD 0) + 16 * j + fld (vReg k a).toNat (32 * w * o + w * j) w)).toInt)).sum
      let e (o : Nat) : Int := (accGet k tile.toNat row (col + o)).toInt + sum o
      let n := ((List.range outs).filter (fun o => decide (satInt32 (e o) ≠ e o))).length
      col % outs = 0 →
      ∃ t acc', exec (.iPta c tile a m) s = .next t ∧
        CoreGoes s (c64 (c32 s 0x3006C n) 0x30058 1) t c.toNat { k with
          acc := acc'
          ptpCol := if col + outs = 32 then 0 else BitVec.ofNat 5 (col + outs)
          ptpRow := if col + outs = 32 then k.ptpRow + 1 else k.ptpRow } (k.pc.toNat + 1) [] ∧
        (∀ o, o < outs → smGet 0 acc' (accKey tile.toNat row (col + o)) = BitVec.ofInt 32 (satInt32 (e o))) ∧
        (∀ q, (∀ o, o < outs → q ≠ accKey tile.toNat row (col + o)) → smGet 0 acc' q = smGet 0 k.acc q))

/-- O9. On a core that may issue, with no loop active: DMA, where no word of the SRAM holds an uncorrected error, queues the descriptor at sA on its channel while the channel holds fewer than 8; DMAW issues when its channel has none left and waits otherwise; RECV gives the local address of the head entry of the inbox, and waits while it is empty; RPOP and EPOP free the head entry, or do nothing on an empty queue; EPEEK gives the address of the head entry of the error queue, or 0xFFFFFFFF; KWAIT issues when its answer has come. A slot that waits leaves everything but the core's own state as it was. -/
def Obligations.CrossSlot : Prop :=
  ∀ (s : State) (c : BitVec 8) (a b : BitVec 5) (ch : BitVec 2), Straight s c.toNat →
    let k := getCore s c.toNat
    let go (i : Instr) (k' : Core) : Prop := ∃ t, exec i s = .next t ∧ CoreStep s t c.toNat k'
    let waits (i : Instr) : Prop := ∃ t, exec i s = .next t ∧ getCore t c.toNat = { k with st := 3 } ∧
      t = { s with cores := t.cores } ∧ ∀ q, q ≠ c.toNat → getCore t q = getCore s q
    (∀ d, dmaAt s c.toNat (sReg k a) ch = some d → (k.dmas.filter (fun e => e.ch == ch && !e.ran)).length < 8 → s.flaws = [] →
      ∃ t, exec (.iDma c a ch) s = .next t ∧
        CoreGoes s (sramRead s c.toNat) t c.toNat { k with dmas := k.dmas ++ [d], order := k.order + 1 } (k.pc.toNat + 1) []) ∧
    (8 ≤ (k.dmas.filter (fun e => e.ch == ch && !e.ran)).length → waits (.iDma c a ch)) ∧
    ((∀ e ∈ k.dmas, e.ch ≠ ch) → go (.iDmaw c ch) k) ∧
    ((∃ e ∈ k.dmas, e.ch = ch) → waits (.iDmaw c ch)) ∧
    (k.inbox ≠ [] → go (.iRecv c a) (putS k a (BitVec.ofNat 32 (0x100000 + 64 * k.inboxHead)))) ∧
    (k.inbox = [] → waits (.iRecv c a)) ∧
    (∀ m ms, k.inbox = m :: ms → go (.iRpop c) { k with inbox := ms, inboxHead := (k.inboxHead + 1) % 64 }) ∧
    (k.inbox = [] → go (.iRpop c) k) ∧
    (k.eq ≠ [] → go (.iEpeek c a) (putS k a (BitVec.ofNat 32 (0x101000 + 64 * k.eqHead)))) ∧
    (k.eq = [] → go (.iEpeek c a) (putS k a 0xFFFFFFFF)) ∧
    (∀ m ms, k.eq = m :: ms → go (.iEpop c) { k with eq := ms, eqHead := (k.eqHead + 1) % 16 }) ∧
    (k.eq = [] → go (.iEpop c) k) ∧
    (k.waitDone = true → go (.iKwait c a b) { k with waitOut := false, waitDone := false }) ∧
    (k.waitDone = false → k.waitOut = true → waits (.iKwait c a b))

/-- O10. On a core that may issue, with no loop active: SEND to a rank of its partition, where no word of the SRAM holds an uncorrected error, puts one message on the data mesh with the header, the payload read at sB, the role epoch of the receiver and of the sender, and takes one of the 4 outbound entries, and a SEND that finds all 4 in use waits; a KSIG of a job in its first attempt, with nothing of the core issued before it still outstanding, sends its ADD (or RESET) to the control net with the operand word's knot, epoch and amount, and one behind a DMA descriptor or a message of the core that is still outstanding, or behind an earlier KSIG that is, stays queued in order (R229); the first KWAIT of such a job sends its WAIT and the core waits. Nothing else changes but the bundle count and the core's failure window. -/
def Obligations.SendsAndSignals : Prop :=
  ∀ (s : State) (c : BitVec 8) (a b : BitVec 5), Straight s c.toNat →
    let k := getCore s c.toNat
    let h := sReg k a
    let p := sReg k b
    (∀ d, fld h.toNat 11 5 = 0 → p.toNat % 8 = 0 → p.toNat + 8 * fld h.toNat 8 3 ≤ 0x100000 → k.outb.length < 4 → s.flaws = [] →
      fld h.toNat 0 8 < numRanks s k.slot.toNat k.inB → rankCore s k.slot.toNat k.inB (fld h.toNat 0 8) = some d →
      ∃ t, exec (.iSend c a b) s = .next t ∧
        CoreGoes s { (if fld h.toNat 8 3 = 0 then s else sramRead s c.toNat) with msgs := s.msgs ++ [{
            dst := BitVec.ofNat 9 (physCore s d), depoch := (getCore s d).epoch, src := BitVec.ofNat 9 (physCore s c.toNat)
            sepoch := k.epoch, jseq := k.jseq, srcRank := k.rank, dstRank := BitVec.ofNat 8 (fld h.toNat 0 8), hdr := h
            payload := peek s (mkey (spBobbin c.toNat) p.toNat) (8 * fld h.toNat 8 3), order := k.order }] } t c.toNat
          { k with order := k.order + 1, outb := k.outb ++ [(k.order, 1)] } (k.pc.toNat + 1) []) ∧
    (4 ≤ k.outb.length → ∃ t, exec (.iSend c a b) s = .next t ∧ getCore t c.toNat = { k with st := 3 } ∧
      t = { s with cores := t.cores } ∧ ∀ q, q ≠ c.toNat → getCore t q = getCore s q) ∧
    (∀ jn j, k.job = some jn → getJob s jn = some j → j.attempt ≤ 1 → opsHeld k < 8 →
      (k.ksigs = [] → k.dmas = [] → k.outb = [] →
        ∃ t, exec (.iKsig c a b) s = .next t ∧
          CoreGoes s { s with knotOps := s.knotOps ++ [coreKnotOp j c.toNat false h p] } t c.toNat
            { k with order := k.order + 1, unacked := k.unacked + 1 } (k.pc.toNat + 1) []) ∧
      (let sig : KsigPend := { word := h, amount := p, order := k.order }
       ∀ f, (k.ksigs ++ [sig]).head? = some f → ((∃ e ∈ k.dmas, e.order < f.order) ∨ ∃ o ∈ k.outb, o.1 < f.order) →
        ∃ t, exec (.iKsig c a b) s = .next t ∧
          CoreStep s t c.toNat { k with ksigs := k.ksigs ++ [sig], order := k.order + 1 }) ∧
      (k.waitDone = false → k.waitOut = false → k.ksigs = [] →
        ∃ t, exec (.iKwait c a b) s = .next t ∧ getCore t c.toNat = { k with waitOut := true, st := 3 } ∧
          (∀ q, q ≠ c.toNat → getCore t q = getCore s q) ∧
          t = { s with cores := t.cores, knotOps := s.knotOps ++ [coreKnotOp j c.toNat true h p] }))

/-- O11. On a core that may issue: an illegal bundle at its PC, in words without errors, a shift by 32 or more, LOOP of length 0, VCVT that names TERN, VCMP with op 3 and PTB of a reserved kind are program faults of cause 1; each of the eight loads and stores (LW, LWP, VLD, VLDP, SW, SWP, VST, VSTP) at an address that is not a multiple of its size one of cause 2, at an aligned address outside the regions of R178 one of cause 3, and each of the four stores at an aligned address of a read-only region one of cause 4; LOOP inside two active loops of cause 5; PTA at a column that is no multiple of its outputs of cause 6; a DMA descriptor that breaks R181 or R182, with room in its queue, of cause 7; JR to an address of more than 17 bits of cause 3. The state after each is that of the shared program fault operation, which (R194): ends the job with BAD_DESCRIPTOR, unless a status had ended it before; stops every core of the job's partition, without its DMA descriptors, its held KSIGs, its outbound entries and its WAIT, the faulting core in STATE 5 and the others in 4; leaves every other core; discards the messages of those cores that are on the mesh; counts in BOB_FAULTS; and writes BOB_FAULT_LOG and BOB_FAULT_ADDR if VALID was 0, and keeps them if it was 1. That I6 is signed (log 204) and that a fault is met after the waits of the bundle (log 72) are the model's readings. -/
def Obligations.IllegalAndFaulting : Prop :=
  ∀ (s : State) (c : BitVec 8) (d a : BitVec 5) (vd va vb : BitVec 4) (i : BitVec 6), Awake s → canIssue s c.toNat = true →
    let k := getCore s c.toNat
    let faults (j : Instr) (cause addr : Nat) : Prop := exec j s = .next (programFault s c.toNat ⟨cause, addr⟩)
    let at4 := (sReg k a + BitVec.ofInt 32 (i.toInt * 4)).toNat
    let at64 := (sReg k a + BitVec.ofInt 32 (i.toInt * 64)).toNat
    let p := (sReg k a).toNat
    (decodeBundle (fetchBundle s c.toNat) = none → s.flaws = [] →
      exec (.bundleIssue c) s = .next (programFault (sramRead s c.toNat) c.toNat ⟨1, 0⟩)) ∧
    (32 ≤ i.toNat → faults (.iShli c d a i) 1 0 ∧ faults (.iShri c d a i) 1 0 ∧ faults (.iSrai c d a i) 1 0) ∧
    faults (.iLoop c a 0) 1 0 ∧
    faults (.iVcvt c vd va 1 vb) 1 0 ∧ faults (.iVcvt c vd va vb 1) 1 0 ∧
    (∀ ty, faults (.iVcmp c vd va vb ty 3) 1 0) ∧
    (∀ buf m, codebook k vb.toNat = none → faults (.iPtb c buf va vb m) 1 0) ∧
    (∀ (j : Instr) (x n : Nat) (st : Bool),
      (j, x, n, st) ∈ [((.iLw c d a i : Instr), at4, 4, false), (.iLwp c d a i, p, 4, false), (.iVld c vd a i, at64, 64, false),
        (.iVldp c vd a i, p, 64, false), (.iSw c d a i, at4, 4, true), (.iSwp c d a i, p, 4, true),
        (.iVst c vd a i, at64, 64, true), (.iVstp c vd a i, p, 64, true)] →
      (x % n ≠ 0 → faults j 2 x) ∧
      (x % n = 0 → (0x101400 ≤ x ∧ x < 0x102000) ∨ (0x102800 ≤ x ∧ x < 0x103800) ∨ 0x103840 ≤ x → faults j 3 x) ∧
      (x % n = 0 → st = true → (0x100000 ≤ x ∧ x < 0x101400) ∨ (0x102000 ≤ x ∧ x < 0x102800) ∨
        (0x103800 ≤ x ∧ x < 0x103840 ∧ ¬ (x = 0x103830 ∧ n = 4)) → faults j 4 x)) ∧
    (131072 ≤ (sReg k a).toNat → faults (.iJr c a) 3 (8 * (sReg k a).toNat % 2 ^ 32)) ∧
    (i ≠ 0 → 2 ≤ k.loops.length → faults (.iLoop c a i) 5 0) ∧
    (∀ tile m, k.ptpCol.toNat % (if m.getLsbD 1 then 8 else 4) ≠ 0 → faults (.iPta c tile va m) 6 0) ∧
    (∀ ch, (k.dmas.filter (fun e => e.ch == ch && !e.ran)).length < 8 → dmaAt s c.toNat (sReg k a) ch = none →
      faults (.iDma c a ch) 7 (sReg k a).toNat) ∧
    (∀ (f : PFault) (jn : Nat) (j : Job), k.job = some jn → getJob s jn = some j → smWf regReset s.regs = true → f.cause < 16 →
      f.addr < 2 ^ 32 → c.toNat ∈ jobCores s jn →
      let t := programFault s c.toNat f
      let ofJob := jobCores s jn
      getJob t jn = some { j with err := some (j.err.getD (BitVec.ofNat 8 stBad)) } ∧
      (∀ q, getCore t q = if q ∈ ofJob then
          { getCore s q with
            st := if q = c.toNat ∨ (getCore s q).st = 5 then 5 else 4
            ending := true, dmas := [], ksigs := [], outb := [], waitOut := false, waitDone := false }
        else getCore s q) ∧
      t.msgs = s.msgs.filter (fun m => !ofJob.any (fun q => physCore s q == m.src.toNat)) ∧
      ctr t 0x30068 = satAdd 32 (ctr s 0x30068) 1 ∧
      reg t 0x30080 = (if bitOf (reg s 0x30080) 31 then reg s 0x30080
        else c.toNat + f.cause * 2 ^ 8 + k.pc.toNat * 2 ^ 12 + 2 ^ 31) ∧
      reg t 0x30084 = if bitOf (reg s 0x30080) 31 then reg s 0x30084 else f.addr)

/-- O12. For every instruction of the Bobbin set with every operand value that R171 admits, whatever the core holds: where the 8 bytes of SRAM at the PC of its core are the bundle that encodes it alone (FORM 0 with NOPs beside it, FORM 1 for LI), on a device that is awake, a core that may issue words without errors and checked state that is sound (R399), BUNDLE_ISSUE of that core fetches the bundle, one read of the core's SRAM, and then does exactly what the command of that instruction does, whether it issues, waits or faults; on a core that may not issue both change nothing. Every field of the encoding reaches the operand it stands for. -/
def Obligations.BundleIsInstruction : Prop :=
  ∀ (i : Instr) (c : BitVec 8) (w : Nat) (s : State), bundleOf i = some (c, w) → fetchBundle s c.toNat = w → s.flaws = [] → Sound s →
    (Awake s → canIssue s c.toNat = true → exec (.bundleIssue c) s = exec i (sramRead s c.toNat)) ∧
    (¬ (Awake s ∧ canIssue s c.toNat = true) → exec (.bundleIssue c) s = .next s ∧ exec i s = .next s)

/-- O13. From every state in which memory and the list of cores are in their canonical form (keys rise, and nothing is listed that an unlisted address reads as), a step whose command is an instruction of the Bobbin set, with any operands that R171 admits, whether it issues, waits, faults or ends its job, leads to a state in which both still are, and takes just that command from the queue. (The form is the model's own.) -/
def Obligations.ProgramsKeepForm : Prop :=
  ∀ (s t : State) (i : Instr) (rest : List Instr) (c : BitVec 8) (w : Nat),
    bundleOf i = some (c, w) → s.pending = i :: rest → FormKept s → step s = .next t → FormKept t ∧ t.pending = rest

/-- O14. While the device works and is not in recovery mode, an aligned 64-bit write to a doorbell page whose two values stand beside their complements, that names the pair the page belongs to, owned by the function and enabled, with KIND 0 and a tail that is not behind the present one, sets that pair's SQ tail and nothing else; with KIND 1 (or 2, for a pair with an NQ) and a head that does not pass the tail nor go back, it sets the CQ (NQ) head, and consumed entries are no longer unannounced. -/
def Obligations.DoorbellAccepted : Prop :=
  ∀ (s : State) (fn : FnId) (page : BitVec 10) (w : U64) (p k : Nat), Runs s → s.lnt.recovery = false → fnPresent s fn.toNat = true →
    let v := w.extractLsb' 0 16
    let id := w.extractLsb' 32 16
    let r := getRing s p
    w.extractLsb' 16 16 = ~~~v → w.extractLsb' 48 16 = ~~~id → id.toNat = p + 1024 * k → p < 1024 →
    pagePair s fn.toNat page.toNat = some p → ownsRing s fn.toNat p = true → r.enabled = true →
    (k = 0 → v.toNat < sqSize r → ringDist (sqSize r) r.sqTail r.sqHead ≤ ringDist (sqSize r) v r.sqHead →
      exec (.doorbell fn page 0 8 w) s = .next (modRing s p (fun r => { r with sqTail := v }))) ∧
    (k = 1 → v.toNat < cqSize r → ringDist (cqSize r) r.cqTail v ≤ ringDist (cqSize r) r.cqTail r.cqHead →
      exec (.doorbell fn page 0 8 w) s = .next (modRing s p (fun r =>
        { r with cqHead := v, cqUnann := min r.cqUnann (ringDist (cqSize r) r.cqTail v) }))) ∧
    (k = 2 → r.nqLog2 ≠ 0 → v.toNat < nqSize r → ringDist (nqSize r) r.nqTail v ≤ ringDist (nqSize r) r.nqTail r.nqHead →
      exec (.doorbell fn page 0 8 w) s = .next (modRing s p (fun r =>
        { r with nqHead := v, nqUnann := min r.nqUnann (ringDist (nqSize r) r.nqTail v) })))

/-- O15. While the device works and is not in recovery mode, a doorbell that fails a check of R81 (not an aligned 64-bit write; a value that is not beside its complement; reserved bits or KIND 3; a pair that is not the page's or not the function's; a pair that is disabled, or KIND 2 with no NQ; a pointer outside the ring, an SQ tail that goes back, a CQ or NQ head that goes back or passes its tail) changes no SQ tail, CQ head or NQ head of any ring pair, counts one in HIF_FN_DB_ERR, keeps the doorbell log if it is valid and else records word, cause and page, sets DB_ERR on the pair that the page belongs to and on no other, and changes no state but functions, ring pairs, counters, the fault log and what is sent; a damaged complement counts one in FLT_CHECK, and any other rejection none. -/
def Obligations.DoorbellRejected : Prop :=
  ∀ (s : State) (fn : FnId) (page : BitVec 10) (off : BitVec 12) (len : Nat) (w : U64) (c : DbCause), Runs s →
    s.lnt.recovery = false → fnPresent s fn.toNat = true →
    let v := w.extractLsb' 0 16
    let nv := w.extractLsb' 16 16
    let id := w.extractLsb' 32 16
    let nid := w.extractLsb' 48 16
    let p := id.toNat % 1024
    let k := id.toNat / 1024 % 4
    let r := getRing s p
    let form := len = 8 ∧ off = 0
    let whole := v ^^^ nv = 0xFFFF ∧ id ^^^ nid = 0xFFFF
    let shape := id.toNat < 4096 ∧ k ≠ 3
    let mine := pagePair s fn.toNat page.toNat = some p ∧ ownsRing s fn.toNat p = true
    let up := r.enabled = true ∧ (k = 2 → r.nqLog2 ≠ 0)
    let size := if k = 0 then sqSize r else if k = 1 then cqSize r else nqSize r
    let back := ringDist size v r.sqHead < ringDist size r.sqTail r.sqHead
    let past (head tail : U16) := ringDist size tail head < ringDist size tail v
    let off_ := size ≤ v.toNat ∨ (k = 0 ∧ back) ∨ (k = 1 ∧ past r.cqHead r.cqTail) ∨ (k = 2 ∧ past r.nqHead r.nqTail)
    (c = .form ∧ (¬ form ∨ (form ∧ whole ∧ ¬ shape))) ∨ (c = .check ∧ form ∧ ¬ whole) ∨
      (c = .ring ∧ form ∧ whole ∧ shape ∧ ¬ mine) ∨ (c = .state ∧ form ∧ whole ∧ shape ∧ mine ∧ ¬ up) ∨
      (c = .range ∧ form ∧ whole ∧ shape ∧ mine ∧ up ∧ off_) →
    ∃ t, exec (.doorbell fn page off len w) s = .next t ∧
      (∀ q, (getRing t q).sqTail = (getRing s q).sqTail ∧ (getRing t q).cqHead = (getRing s q).cqHead ∧
        (getRing t q).nqHead = (getRing s q).nqHead ∧ (getRing t q).sqHead = (getRing s q).sqHead) ∧
      (∀ q, pagePair s fn.toNat page.toNat = some q → (getRing t q).dbErr = true ∧
        ∀ q', q' ≠ q → getRing t q' = getRing s q') ∧
      (pagePair s fn.toNat page.toNat = none → t.rings = s.rings) ∧
      (getFn t fn.toNat).dbErr = satAdd 32 (getFn s fn.toNat).dbErr 1 ∧
      (getFn t fn.toNat).dbValid = true ∧
      (if (getFn s fn.toNat).dbValid then (getFn t fn.toNat).dbLog = (getFn s fn.toNat).dbLog
       else (getFn t fn.toNat).dbLog = w ∧ (getFn t fn.toNat).dbCause = BitVec.ofNat 3 (DbCauseCode c) ∧
        (getFn t fn.toNat).dbPage = page) ∧
      ctr t 0x9006C = (if c = .check then satAdd 32 (ctr s 0x9006C) 1 else ctr s 0x9006C) ∧
      t = { s with fns := t.fns, rings := t.rings, ctrs := t.ctrs, flt := t.flt, out := t.out }

/-- O16. While the device works, a fetch that finds no pair to serve leaves the state as it is (which pairs wait is the model's choice where a pair cannot be served, log 200); one that serves pair p and reads one descriptor puts the 64 bytes at the SQ head in flight with their entry number and the pair's owner, moves the head on by one entry of the ring, and does R79's bookkeeping; a descriptor that passes every check of R85 changes nothing else; one whose header is sound but whose opcode is none of R89 ends at once with BAD_DESCRIPTOR, counted for its owner; one whose header does not stand beside its complement ends with CHECK_FAIL. -/
def Obligations.DescriptorFetches : Prop :=
  ∀ (s : State) (n : Nat), Runs s → 1 ≤ n → n ≤ 64 →
    (pickRing s = none → exec (.descriptorFetch n) s = .next s) ∧
    (∀ p f, pickRing s = some p → ringOwner s p = some f → fetchable s p n = 1 → (getRing s p).sqHead.toNat < sqSize (getRing s p) →
      let d : Desc := { idx := (getRing s p).sqHead, fn := BitVec.ofNat 6 f
                        bytes := peek s (mkey spHost (((getRing s p).sqBase.toNat + 64 * (getRing s p).sqHead.toNat) % 2 ^ 63)) 64 }
      let v := modRing (ageRings s p) p (fun r => { r with sqHead := BitVec.ofNat 16 ((r.sqHead.toNat + 1) % sqSize r) })
      let u := modRing v p (fun r => { r with inflight := r.inflight ++ [d] })
      (checkDesc v p d = (none, v) → exec (.descriptorFetch n) s = .next u) ∧
      (headerOk d.bytes = true → ¬ descOp d.bytes ∈ hostOps →
        ∃ t, exec (.descriptorFetch n) s = .next t ∧
          (getRing t p).inflight = (getRing s p).inflight ++ [{ d with started := true, done := some (plain stBad) }] ∧
          t = { u with rings := t.rings, fns := t.fns } ∧
          (getFn t d.fn.toNat).descErr = satAdd 32 (getFn s d.fn.toNat).descErr 1) ∧
      (headerOk d.bytes = false →
        ∃ t, exec (.descriptorFetch n) s = .next t ∧
          (getRing t p).inflight = (getRing s p).inflight ++ [{ d with started := true, done := some (plain stCheckFail) }] ∧
          (∀ e ∈ (getRing s p).inflight, e ∈ (getRing t p).inflight) ∧
          (∀ q, q ≠ p → getRing t q = getRing (ageRings s p) q) ∧ ctr t 0x9006C = satAdd 32 (ctr s 0x9006C) 1))

/-- O17. A descriptor that may start, with its rights intact: NOP ends with OK and nothing else changes but its place in its ring pair; KNOT_SIGNAL starts and sends an ADD of its amount to its knot with its epoch on the control net, for its function and with its tag; KNOT_WAIT starts and sends a WAIT. A KNOT_SIGNAL or KNOT_WAIT whose function has lost the knot ends with PROTECTION when it starts, counted for the knot store and for the function, and nothing is sent. A command for a descriptor that may not start changes nothing. (That the refusal falls at the ring, is counted in BOB_KNOT_PROT and sends nothing is the model's choice, log 33; R110 gives the function's count.) -/
def Obligations.KnotDescriptors : Prop :=
  ∀ (s : State) (p : PairId) (idx : U16) (d : Desc),
    let r := getRing s p.toNat
    let knotOp (op : BitVec 2) : KnotOp :=
      { op := op, knot := BitVec.ofNat 12 (leAt d.bytes 8 2), epoch := BitVec.ofNat 16 (leAt d.bytes 10 2)
        amount := BitVec.ofNat 32 (leAt d.bytes 12 4), fn := d.fn, origin := .ring (refOf s p d) }
    let refused (i : Instr) : Prop := ∃ t, exec i s = .next t ∧ getRing t p.toNat = endIn r d { status := 6 } ∧
      t = { c32 s 0x3012C 1 with rings := t.rings, fns := t.fns } ∧ (∀ q, q ≠ p.toNat → getRing t q = getRing s q) ∧
      (getFn t d.fn.toNat).prot = satAdd 32 (getFn s d.fn.toNat).prot 1
    (Starts s p idx opNop d →
      ∃ t, exec (.nop p idx) s = .next t ∧ RingGoes s s t p.toNat (endIn r d { status := 0 })) ∧
    (Starts s p idx opKnotSignal d →
      ∃ t, exec (.knotSignal p idx) s = .next t ∧ RingGoes s { s with knotOps := s.knotOps ++ [knotOp 0] } t p.toNat (startIn r d)) ∧
    (Starts s p idx opKnotWait d →
      ∃ t, exec (.knotWait p idx) s = .next t ∧ RingGoes s { s with knotOps := s.knotOps ++ [knotOp 2] } t p.toNat (startIn r d)) ∧
    (Runs s → mayStart r idx.toNat = some d → ownsKnot s d.fn.toNat (leAt d.bytes 8 2 % 4096) = false →
      (∀ e ∈ r.inflight, sameTag d e = true → e = d) →
      (descOp d.bytes = opKnotSignal → refused (.knotSignal p idx)) ∧ (descOp d.bytes = opKnotWait → refused (.knotWait p idx))) ∧
    (Runs s → mayStart r idx.toNat = none → exec (.nop p idx) s = .next s ∧ exec (.knotSignal p idx) s = .next s ∧
      exec (.knotWait p idx) s = .next s)

/-- O18. While the device works, for an enabled or draining pair whose first descriptor in flight has ended: with OK, a sound header and CQE 0 it leaves the pair and nothing is written; with a former owner it is discarded and counted; otherwise, with the function a bus master on a link that is up, its 32 bytes stand at the CQ tail in host memory, the tail and the count of unannounced entries move on by one, no vector is sent while the CQ's interrupt enable is 0, and every other byte of memory reads as before. With the interrupt enabled and either IRQ or COUNT entries unannounced, the vector is sent and nothing is unannounced. While the first descriptor has not ended nothing changes. -/
def Obligations.CompletionWrites : Prop :=
  ∀ (s : State) (p : PairId) (d : Desc) (rest : List Desc), Runs s →
    let r := getRing s p.toNat
    let k := mkey spHost ((r.cqBase.toNat + 32 * r.cqTail.toNat) % 2 ^ 63)
    r.inflight = d :: rest → (r.enabled = true ∨ r.draining = true) →
    (d.done = none → exec (.completionWrite p) s = .next s) ∧
    (∀ c, d.done = some c →
      (c.status = 0 → headerOk d.bytes = true → descCqe d.bytes = false →
        ∃ t, exec (.completionWrite p) s = .next t ∧ RingGoes s s t p.toNat { r with inflight := rest }) ∧
      (¬ (c.status = 0 ∧ headerOk d.bytes = true ∧ descCqe d.bytes = false) →
        (ringOwner s p.toNat ≠ some d.fn.toNat →
          ∃ t, exec (.completionWrite p) s = .next t ∧ RingGoes s (c32 s 0x9005C 1) t p.toNat { r with inflight := rest }) ∧
        (ringOwner s p.toNat = some d.fn.toNat → canMaster s d.fn.toNat = false → exec (.completionWrite p) s = .next s) ∧
        (ringOwner s p.toNat = some d.fn.toNat → canMaster s d.fn.toNat = true → Memory.wf s = true →
          r.cqBase.toNat + 32 * r.cqTail.toNat + 32 ≤ 2 ^ 63 →
          (r.cqIen = false →
            ∃ t, exec (.completionWrite p) s = .next t ∧
              RingGoes s { s with mem := t.mem } t p.toNat
                { r with inflight := rest, cqTail := BitVec.ofNat 16 ((r.cqTail.toNat + 1) % cqSize r), cqUnann := r.cqUnann + 1 } ∧
              peek t k 32 = complBytes d r.rgen c ∧ Memory.wf t = true ∧
              ∀ a, (a < k ∨ k + 32 ≤ a) → peek1 t a = peek1 s a) ∧
          (r.cqIen = true → (descIrq d.bytes = true ∧ headerOk d.bytes = true ∨ r.count.toNat ≤ r.cqUnann + 1) →
            VecOpen s d.fn.toNat r.cqVec.toNat →
            ∃ t, exec (.completionWrite p) s = .next t ∧
              RingGoes s { s with mem := t.mem, out := .msix d.fn r.cqVec :: s.out } t p.toNat
                { r with inflight := rest, cqTail := BitVec.ofNat 16 ((r.cqTail.toNat + 1) % cqSize r), cqUnann := 0 } ∧
              peek t k 32 = complBytes d r.rgen c))))

/-- O19. While the device works, for a stream whose owner owns the ring pair, masters the bus and has the interrupt enable off, with no poison and no error in memory: REPORT_WRITE reads the oldest held report from its place in Gallery, puts its 32 bytes of R93 at the CQ tail if a free entry is left beside those that fetched descriptors have reserved, and takes it from the hold; NOTIFY_WRITE does so with the 32 bytes of R42 of the next record in the order of R44, from the hold or the status slot, and the NQ, if an entry is free, and counts it for the stream and the device. The bytes of memory outside the entry read as before. A report for a former owner of the pair is discarded and counted. With no held report or record, nothing changes. -/
def Obligations.HeldRecordsAreWritten : Prop :=
  ∀ (s : State) (st : StreamId) (f : Nat), Runs s → Clean s → Memory.wf s = true →
    let x := getStream s st.toNat
    let q := x.ctx.ingestRing.toNat
    let p := x.ctx.notifyRing.toNat
    let rq := getRing s q
    let rp := getRing s p
    let kq := mkey spHost ((rq.cqBase.toNat + 32 * rq.cqTail.toNat) % 2 ^ 63)
    let kp := mkey spHost ((rp.nqBase.toNat + 32 * rp.nqTail.toNat) % 2 ^ 63)
    let read (base : Nat) (second : Bool) : State := (memRd s spGal (holdOff st.toNat base second) 32).2
    x.ctx.owner.toNat = f →
    (x.reports = [] → exec (.reportWrite st) s = .next s) ∧
    (x.hold = [] → x.slotRec = none → exec (.notifyWrite st) s = .next s) ∧
    (∀ rep rest, x.reports = rep :: rest →
      (ringOwner s q ≠ some f → exec (.reportWrite st) s = .next (c32 (modStream s st.toNat (fun x => { x with reports := rest })) 0x9005C 1)) ∧
      (canMaster s f = true → ringOwner s q = some f → rq.enabled = true → rq.cqIen = false →
        rq.inflight.length < cqFree rq → rq.cqBase.toNat + 32 * rq.cqTail.toNat + 32 ≤ 2 ^ 63 →
        ∃ t, exec (.reportWrite st) s = .next t ∧
          t = { modRing (modStream (read 0xE40 rep.second) st.toNat (fun x => { x with reports := rest })) q (fun r =>
                  { r with cqTail := BitVec.ofNat 16 ((r.cqTail.toNat + 1) % cqSize r), cqUnann := r.cqUnann + 1 }) with mem := t.mem } ∧
          peek t kq 32 = reportBytes st.toNat rq.rgen rep ∧
          ∀ a, (a < kq ∨ kq + 32 ≤ a) → peek1 t a = peek1 s a)) ∧
    (∀ rec inSlot, nextRecord x = some (rec, inSlot) → (inSlot = true → x.slotWait = []) → canMaster s f = true →
      ringOwner s p = some f → rp.enabled = true → rp.nqIen = false → rp.nqLog2 ≠ 0 → 0 < nqFree rp →
      rp.nqBase.toNat + 32 * rp.nqTail.toNat + 32 ≤ 2 ^ 63 →
      ∃ t, exec (.notifyWrite st) s = .next t ∧
        t = { modRing (c64 (modCtx (modStream (read (if inSlot then 0xE80 else 0xE00) rec.second) st.toNat
                (fun x => if inSlot then { x with slotRec := none } else { x with hold := x.hold.tail })) st.toNat
                (fun c => { c with stNotify := satAdd 32 c.stNotify 1 })) 0x08038 1) p (fun r =>
                { r with nqTail := BitVec.ofNat 16 ((r.nqTail.toNat + 1) % nqSize r), nqUnann := r.nqUnann + 1 }) with mem := t.mem } ∧
        peek t kp 32 = recordBytes st.toNat x rec ∧
        ∀ a, (a < kp ∨ kp + 32 ≤ a) → peek1 t a = peek1 s a)

/-- O20. A write of HIF_RING_CTRL that reaches the block acts on the pair that the function selects and owns, and on no other: ENABLE = 1 on an idle pair whose bases and sizes meet R75 enables it with every head and tail at 0, on one that does not meet it sets CFG_ERR, and on an enabled pair changes PRIO alone; ENABLE = 0 stops an enabled pair, which drains; ABORT ends with ABORTED_BY_RESET every fetched descriptor that has not started and every one whose job still waits in its queue, which leaves it, and the pair drains. Where no pair is selected and owned, nothing changes. RING_DRAINED of a draining pair with nothing in flight clears BUSY and ABORT, disables an aborted pair and advances RGEN by 1 modulo 16, and of any other pair changes nothing. (The model's choices: that RING_ENABLE on an enabled pair changes PRIO alone, and that RING_ABORT acts with either value of EN, log 34; that an abort ends a started descriptor whose job still waits in its queue, log 51.) -/
def Obligations.RingControl : Prop :=
  ∀ (s : State) (fn : FnId) (prio : BitVec 2),
    (Reached s fn.toNat →
      (selPair s fn.toNat = none → exec (.ringEnable fn prio) s = .next s ∧ exec (.ringDisable fn prio) s = .next s ∧
        ∀ en, exec (.ringAbort fn prio en) s = .next s) ∧
      (∀ p, selPair s fn.toNat = some p →
        let r := getRing s p
        (r.enabled = false → r.draining = false → r.inflight = [] → r.sqBase.toNat % 4096 = 0 → r.cqBase.toNat % 4096 = 0 →
          (r.nqLog2 = 0 ∨ (r.nqBase.toNat % 4096 = 0 ∧ 4 ≤ r.nqLog2.toNat)) → 4 ≤ r.sqLog2.toNat → r.sqLog2.toNat ≤ r.cqLog2.toNat →
          ∃ t, exec (.ringEnable fn prio) s = .next t ∧ RingGoes s s t p { r with
            prio := prio, enabled := true, sqHead := 0, sqTail := 0, cqHead := 0, cqTail := 0, nqHead := 0, nqTail := 0
            cqUnann := 0, nqUnann := 0 }) ∧
        (r.enabled = false → (r.draining = true ∨ r.inflight ≠ [] ∨ r.sqBase.toNat % 4096 ≠ 0 ∨ r.cqBase.toNat % 4096 ≠ 0 ∨
            (r.nqLog2 ≠ 0 ∧ (r.nqBase.toNat % 4096 ≠ 0 ∨ r.nqLog2.toNat < 4)) ∨
            r.sqLog2.toNat < 4 ∨ r.cqLog2.toNat < r.sqLog2.toNat) →
          ∃ t, exec (.ringEnable fn prio) s = .next t ∧ RingGoes s s t p { r with prio := prio, cfgErr := true }) ∧
        (r.enabled = true →
          (∃ t, exec (.ringEnable fn prio) s = .next t ∧ RingGoes s s t p { r with prio := prio }) ∧
          (∃ t, exec (.ringDisable fn prio) s = .next t ∧
            RingGoes s s t p { r with prio := prio, enabled := false, draining := true })) ∧
        (∀ en, ∃ t, exec (.ringAbort fn prio en) s = .next t ∧
          getRing t p = { r with
            prio := prio, draining := true, abort := true
            inflight := r.inflight.map (fun e =>
              if e.done.isSome || (e.started && !(queuedOf s p).any (fun x => isRef r x.2 e)) then e
              else { e with started := true, done := some { status := 8 } }) } ∧
          (∀ q, q ≠ p → getRing t q = getRing s q) ∧ KeepsMemory s t ∧
          (Canon none s.jobs → ∀ x ∈ queuedOf s p, getJob t x.1 = none)))) ∧
    (Runs s → ∀ p : PairId, let r := getRing s p.toNat
      (r.draining = true → r.inflight = [] →
        exec (.ringDrained p) s = .next (modRing s p.toNat (fun r =>
          { r with enabled := r.enabled && !r.abort, draining := false, abort := false, rgen := r.rgen + 1 }))) ∧
      (r.draining = false ∨ r.inflight ≠ [] → exec (.ringDrained p) s = .next s))

/-- O21. HOLDOFF_EXPIRY of a CQ or NQ with its interrupt enabled, a holdoff other than 0 and unannounced entries leaves none unannounced and sends the vector: at once if it can be sent, kept pending if MSI-X, the function or the vector is masked, and counted in HIF_FN_IRQ_LOST, one for each entry, if the vector lies outside the function's table; otherwise nothing changes. MSIX_UNMASK of any vector of a present function's table clears its mask bit and no other; with MSI-X on and the function not masked, it is sent if it was pending, and is then no longer pending, with every other vector that pends unmasked; and else nothing is sent and it stays pending. -/
def Obligations.Interrupts : Prop :=
  (∀ (s : State) (p : PairId) (nq : Bool) (f : Nat), Runs s →
    let r := getRing s p.toNat
    let n := if nq then r.nqUnann else r.cqUnann
    let v := (if nq then r.nqVec else r.cqVec)
    let u := modRing s p.toNat (fun r => if nq then { r with nqUnann := 0 } else { r with cqUnann := 0 })
    ((if nq then r.nqIen else r.cqIen) = false ∨ n = 0 ∨ r.holdoff = 0 → exec (.holdoffExpiry p nq) s = .next s) ∧
    ((if nq then r.nqIen else r.cqIen) = true → 0 < n → r.holdoff ≠ 0 → ringOwner s p.toNat = some f →
      (VecOpen s f v.toNat → exec (.holdoffExpiry p nq) s = .next { u with out := .msix (BitVec.ofNat 6 f) v :: s.out }) ∧
      (v.toNat < tableSize s f → ¬ VecOpen s f v.toNat →
        exec (.holdoffExpiry p nq) s = .next (modFn u f (fun x =>
          { x with vecs := smSet {} x.vecs v.toNat { smGet {} x.vecs v.toNat with pend := true } }))) ∧
      (tableSize s f ≤ v.toNat →
        exec (.holdoffExpiry p nq) s = .next (modFn u f (fun x => { x with irqLost := satAdd 32 x.irqLost n }))))) ∧
  (∀ (s : State) (fn : FnId) (v : BitVec 11), fnPresent s fn.toNat = true → v.toNat < tableSize s fn.toNat →
    let f := getFn s fn.toNat
    let vecs := smUpd {} f.vecs v.toNat (fun e => { e with masked := false })
    let ready := vecs.filter (fun e => e.2.pend && !e.2.masked)
    let u := modFn s fn.toNat (fun x => { x with vecs := vecs })
    (f.msixEn = false ∨ f.fmask = true ∨ ready = [] → exec (.msixUnmask fn v) s = .next u) ∧
    (f.msixEn = true → f.fmask = false →
      (∀ e, ready = [(v.toNat, e)] → exec (.msixUnmask fn v) s = .next (modFn { u with out := .msix fn v :: s.out } fn.toNat
        (fun x => { x with vecs := smUpd {} x.vecs v.toNat (fun q => { q with pend := false }) }))) ∧
      (∃ t, exec (.msixUnmask fn v) s = .next t ∧ t = { s with out := t.out, fns := t.fns } ∧
        t.out = (ready.map (fun e => OutMsg.msix fn (BitVec.ofNat 11 e.1))).reverse ++ s.out)))

/-- O22. A STREAM_OPEN that may start, whose image is readable: without RESUME, on a CLOSED stream with a sound image (R27), a Tier 0 slot with a version whose front-end fits, the stream's present generation and a free instance, it makes the context that of the image with state OPEN, gives the stream the instance, and ends with OK, GEN and NEXT_SAMPLE; a stream that is not CLOSED or an image that is not sound ends it with BAD_DESCRIPTOR, another generation with STALE_DROPPED, and the streams stay as they are. With RESUME, on a SUSPENDED stream with a sound program, rights and a version in force whose front-end fits, the stream is OPEN again with the image's rings and thresholds, an empty backlog, IDLE and armed, with no job, its records held as they were and, where the suspension left no episode, all else as it was; a front-end that does not fit ends it with BAD_DESCRIPTOR, and a resume that would withdraw a job whose report is due into a full report hold waits, counted once. Each end gives GEN and NEXT_SAMPLE. An open whose slot is being loaded into its active range waits, with nothing changed (the model's choice, log 186). -/
def Obligations.StreamsOpen : Prop :=
  ∀ (s : State) (p : PairId) (idx : U16) (d : Desc) (sp off : Nat),
    let st := descStream d.bytes
    let x := getStream s st
    let b := peek s (mkey sp off) 128
    let c := ctxFrom b x.ctx.gen
    let slot := (stageOf c 0).slot
    Starts s p idx opStreamOpen d → addrOf (leAt d.bytes 16 8) = some (sp, off) → off % 128 = 0 →
    memWaits s (leAt d.bytes 16 8) = false → dramFails s sp = false → Clean s →
    let ends (t : State) (k : BitVec 8) : Prop :=
      Ends s t p d { status := k, res0 := BitVec.ofNat 32 x.ctx.gen.toNat, res1 := x.ctx.nextSample }
    (opensLoading s p idx = true → exec (.streamOpen p idx) s = .next s) ∧ (opensLoading s p idx = false →
    (∀ v f i, descOptA d.bytes = false → x.ctx.state = 0 → imageOk s d.fn.toNat b = true → activeVersion s slot.toNat = some v →
      frontOf v.image = some f → frontFits f c = true → descSgen d.bytes = x.ctx.gen.toNat → openInst s slot.toNat = some i →
      ∃ t, exec (.streamOpen p idx) s = .next t ∧ getStream t st = { ctx := c, openSample := c.nextSample } ∧ c.state = 1 ∧
        c.gen = x.ctx.gen ∧ OneStream s t st ∧
        getInst t st = some { slot := slot, inB := (getSlot s slot.toNat).activeB, idx := i
                              range := BitVec.ofNat 32 (rangeOf0 (getSlot s slot.toNat) (getSlot s slot.toNat).activeB) } ∧
        Ends s t p d { status := 0, res0 := BitVec.ofNat 32 x.ctx.gen.toNat, res1 := c.nextSample }) ∧
    (descOptA d.bytes = false → x.ctx.state ≠ 0 ∨ imageOk s d.fn.toNat b = false →
      ∃ t, exec (.streamOpen p idx) s = .next t ∧ t.streams = s.streams ∧ t.insts = s.insts ∧ ends t 9) ∧
    (∀ v f, descOptA d.bytes = false → x.ctx.state = 0 → imageOk s d.fn.toNat b = true → activeVersion s slot.toNat = some v →
      frontOf v.image = some f → frontFits f c = true → descSgen d.bytes ≠ x.ctx.gen.toNat →
      ∃ t, exec (.streamOpen p idx) s = .next t ∧ t.streams = s.streams ∧ t.insts = s.insts ∧ ends t 2) ∧
    (let g := ctxFrom b 0
     let c := { x.ctx with ingestRing := g.ingestRing, notifyRing := g.notifyRing
                           stages := (List.range 6).map (fun k => resumeStage (stageOf x.ctx k) (stageOf g k)) }
     descOptA d.bytes = true →
     (x.ctx.state ≠ 3 → ∃ t, exec (.streamOpen p idx) s = .next t ∧ t.streams = s.streams ∧ ends t 9) ∧
     (resumeWaits s d = true → exec (.streamOpen p idx) s = .next (holdDesc s p d)) ∧
     (∀ v f, resumeWaits s d = false → activeVersion s (stageOf x.ctx 0).slot.toNat = some v → frontOf v.image = some f →
      x.ctx.state = 3 → frontFits f x.ctx = false → ∃ t, exec (.streamOpen p idx) s = .next t ∧ t.streams = s.streams ∧ ends t 9) ∧
     (∀ v f, resumeWaits s d = false → activeVersion s (stageOf x.ctx 0).slot.toNat = some v → frontOf v.image = some f →
      frontFits f x.ctx = true → x.ctx.state = 3 → stagesOk c.nstage.toNat c.stages c.histSteps.toNat = true → programRights s d.fn.toNat c.nstage.toNat c = true →
      leAt b 16 2 < 1024 → leAt b 18 2 < 1024 →
      (descSgen d.bytes ≠ x.ctx.gen.toNat →
        ∃ t, exec (.streamOpen p idx) s = .next t ∧ t.streams = s.streams ∧ ends t 2) ∧
      (descSgen d.bytes = x.ctx.gen.toNat →
        ∃ t, exec (.streamOpen p idx) s = .next t ∧ OneStream s t st ∧ ends t 0 ∧ let y := getStream t st
          y.ctx = { c with state := 1, backlog := 0, lag := false, ep := 0, armed := true } ∧ y.job = none ∧ y.held = none ∧
          y.latched = none ∧ y.hold = x.hold ∧ y.slotRec = x.slotRec ∧
          (x.job = none → x.specOwed = none → y = { x with job := none, held := none, latched := none, ctx := y.ctx })))))

/-- O23. A STREAM_CLOSE that may start: with another generation it ends with STALE_DROPPED, on a CLOSED or CLOSING stream with BAD_DESCRIPTOR, and no stream changes; one that would withdraw a job whose report is due into a full report hold waits, counted once (the model's choice from R46 and R97, log 45); else the stream is CLOSING, holds no INGEST, NEXT_SAMPLE is its first unread sample if it held one and else stands (log 195), and the close waits for the stream. Without DRAIN the generation advances now, the episode is gone and so are the records not yet posted; with DRAIN the generation stays and speculative work is gone. CLOSE_COMPLETE of a CLOSING stream of which nothing remains makes it CLOSED, frees its instance, advances the generation after a drain, and ends the STREAM_CLOSE with OK, GEN and NEXT_SAMPLE; while something remains nothing changes. -/
def Obligations.StreamsClose : Prop :=
  (∀ (s : State) (p : PairId) (idx : U16) (d : Desc), Starts s p idx opStreamClose d →
    let st := descStream d.bytes
    let x := getStream s st
    let ends (t : State) (k : BitVec 8) : Prop :=
      Ends s t p d { status := k, res0 := BitVec.ofNat 32 x.ctx.gen.toNat, res1 := x.ctx.nextSample }
    (descSgen d.bytes ≠ x.ctx.gen.toNat →
      ∃ t, exec (.streamClose p idx) s = .next t ∧ t.streams = s.streams ∧ ends t 2) ∧
    (descSgen d.bytes = x.ctx.gen.toNat → (x.ctx.state = 0 ∨ x.ctx.state = 2) →
      ∃ t, exec (.streamClose p idx) s = .next t ∧ t.streams = s.streams ∧ ends t 9) ∧
    (descSgen d.bytes = x.ctx.gen.toNat → x.ctx.state ≠ 0 → x.ctx.state ≠ 2 → closeWaits s x (descOptA d.bytes) = true →
      exec (.streamClose p idx) s =
        .next (if d.deferred then s else modDesc (c32 s 0x0804C 1) (refOf s p d) (fun d => { d with deferred := true }))) ∧
    (descSgen d.bytes = x.ctx.gen.toNat → x.ctx.state ≠ 0 → x.ctx.state ≠ 2 → closeWaits s x (descOptA d.bytes) = false →
      ∃ t, exec (.streamClose p idx) s = .next t ∧ OneStream s t st ∧
        let y := getStream t st
        y.ctx.state = 2 ∧ y.closeDesc = some (refOf s p d) ∧ y.ingests = [] ∧
        y.ctx.nextSample = (if x.ingests = [] then x.ctx.nextSample else BitVec.ofNat 64 (firstUnread x)) ∧
        y.drain = descOptA d.bytes ∧
        (descOptA d.bytes = false → y.ctx.gen = x.ctx.gen + 1 ∧ y.ctx.ep = 0 ∧ y.job = none ∧ y.hold = [] ∧ y.slotRec = none ∧ y.slotWait = []) ∧
        (descOptA d.bytes = true → y.ctx.gen = x.ctx.gen ∧ (y.ctx.ep = 0 ∨ (y.ctx.ep = x.ctx.ep ∧ x.ctx.ep = 3)) ∧ y.hold = x.hold))) ∧
  (∀ (s : State) (st : StreamId), Runs s →
    let x := getStream s st.toNat
    let gen := if x.drain then x.ctx.gen + 1 else x.ctx.gen
    (closeReady s st.toNat = false → exec (.closeComplete st) s = .next s) ∧
    (closeReady s st.toNat = true → x.ctx.stepLen ≠ 0 →
      ∃ t, exec (.closeComplete st) s = .next t ∧ OneStream s t st.toNat ∧
        (getStream t st.toNat).ctx = { x.ctx with state := 0, gen := gen, lag := false, peer := false } ∧
        (∀ i, getInst s st.toNat = some i → t.insts = smSet none s.insts st.toNat none) ∧
        (x.closeDesc = none → t.rings = s.rings) ∧
        (∀ q d, x.closeDesc = some q → findDesc s q = some d →
          Ends s t q.pair d { status := 0, res0 := BitVec.ofNat 32 gen.toNat, res1 := x.ctx.nextSample })))

/-- O24. A STREAM_STATUS that may start, with the stream's generation and a 128-byte aligned destination that is awake, with no poison in memory, puts the 128 bytes of the context there, as at its last step boundary, ends with OK, and every other byte of memory, every stream, slot, instance, knot and core stays as it is. A destination that is not aligned ends it with BAD_DESCRIPTOR and another generation with STALE_DROPPED, and no byte of memory changes. -/
def Obligations.StreamStatusStores : Prop :=
  ∀ (s : State) (p : PairId) (idx : U16) (d : Desc) (sp off : Nat), Starts s p idx opStreamStatus d →
    addrOf (leAt d.bytes 16 8) = some (sp, off) → memWaits s (leAt d.bytes 16 8) = false → Clean s → Memory.wf s = true →
    let c := (getStream s (descStream d.bytes)).ctx
    (off % 128 = 0 → descSgen d.bytes = c.gen.toNat → dramFails s sp = false →
      ∃ t, exec (.streamStatus p idx) s = .next t ∧ Ends s t p d { status := 0 } ∧ peek t (mkey sp off) 128 = ctxBytes { c with sampleInStep := 0 } ∧
        KeepsOutside s t (mkey sp off) 128 ∧ Memory.wf t = true ∧
        t = { s with mem := t.mem, rings := t.rings, ctrs := t.ctrs, flt := { s.flt with wins := t.flt.wins } }) ∧
    (off % 128 ≠ 0 →
      ∃ t, exec (.streamStatus p idx) s = .next t ∧ Ends s t p d { status := 9 } ∧ t = { s with rings := t.rings, fns := t.fns }) ∧
    (off % 128 = 0 → descSgen d.bytes ≠ c.gen.toNat →
      ∃ t, exec (.streamStatus p idx) s = .next t ∧ Ends s t p d { status := 2 } ∧
        t = { s with rings := t.rings, fns := t.fns, ctrs := t.ctrs })

/-- O25. An INGEST that may start, with a count, a unit size, a ring pair, a generation and a SAMPLE_INDEX that are the stream's, on an OPEN stream that is not fed by a bridge: its samples follow those announced, NEXT_SAMPLE advances by the count, BACKLOG counts the steps announced and not closed, at most 127, and the descriptor stays started; a count of 0 or one too large, another generation, a stream that is not OPEN, or another index ends it with the status of R90 and NEXT_SAMPLE, and no stream changes; a notification of lagging is the only store. INGEST_STEP_READ takes the next samples from the oldest INGEST, byte for byte, until the open step is full, while the owner keeps its window on them; an INGEST read to its end completes with OK, its count and the sample after it. (The order of the checks is the model's choice, log 179.) -/
def Obligations.IngestAccepts : Prop :=
  (∀ (s : State) (p : PairId) (idx : U16) (d : Desc), Starts s p idx opIngest d →
    let st := descStream d.bytes
    let x := getStream s st
    let unit := leAt d.bytes 12 2
    let count := leAt d.bytes 32 4
    let index := leAt d.bytes 16 8
    let nx := x.ctx.nextSample + BitVec.ofNat 64 count
    let sound := 1 ≤ count ∧ count ≤ 1048576 ∧ count * unit ≤ 2 ^ 24 ∧ unit = unitBytes s x.ctx ∧ x.ctx.ingestRing = p
    (sound → descSgen d.bytes = x.ctx.gen.toNat → x.ctx.state = 1 → (∀ i, getInst s st = some i → remoteFed s i = false) →
      index = x.ctx.nextSample.toNat →
      ∃ t, exec (.ingest p idx) s = .next t ∧ Begins s t p d ∧ OneStream s t st ∧
        let y := getStream t st
        let n := min 127 ((nx.toNat - x.openSample.toNat) / x.ctx.stepLen.toNat - x.closedSteps)
        y.ctx.nextSample = nx ∧ y.ctx.backlog = BitVec.ofNat 7 n ∧
        y.ingests = x.ingests ++ [{ ref := refOf s p d, buf := leAt d.bytes 24 8, unit := unit, count := count, taken := 0, next := nx }] ∧
        y.ctx.lag = (decide (x.ctx.lagDepth.toNat < n) || (x.ctx.lag && !decide (n ≤ x.ctx.lagDepth.toNat / 2))) ∧
        y.hold = x.hold ∧ (n ≤ x.ctx.lagDepth.toNat ∨ x.ctx.lag = true → t.mem = s.mem) ∧
        (Clean s → Memory.wf s = true → KeepsOutside s t (mkey spGal (holdOff st 0xE80 false)) 32)) ∧
    (∀ k : BitVec 8, (¬ sound ∧ k = 9) ∨ (sound ∧ descSgen d.bytes ≠ x.ctx.gen.toNat ∧ k = 2) ∨
        (sound ∧ descSgen d.bytes = x.ctx.gen.toNat ∧
          ((k = 9 ∧ (x.ctx.state = 0 ∨ x.ctx.state = 3 ∨ (x.ctx.state = 1 ∧ index ≠ x.ctx.nextSample.toNat))) ∨
            (k = 2 ∧ x.ctx.state = 2) ∨ (k = 3 ∧ x.ctx.state = 4))) →
      ∃ t, exec (.ingest p idx) s = .next t ∧ Ends s t p d { status := k, res1 := x.ctx.nextSample } ∧ t.streams = s.streams ∧ t.mem = s.mem)) ∧
  (∀ (s : State) (st : StreamId) (i : Inst) (g : IngestJob) (rest : List IngestJob) (sp off : Nat), Runs s → Clean s →
    let x := getStream s st.toNat
    let need := x.ctx.stepLen.toNat - x.ctx.sampleInStep.toNat
    let have_ := g.count - g.taken
    getInst s st.toNat = some i → i.waitAck = none → x.ctx.state = 1 → x.frameReady = false → x.inputDone = false → x.waiting = none → x.act = none →
    canMaster s x.ctx.owner.toNat = true → samplesWait s x = false → samplesFail s x = false →
    samplesRefused s x = false → x.ingests = g :: rest →
    addrOf (g.buf + g.taken * g.unit) = some (sp, off) → 0 < need → g.taken < g.count →
    (need < have_ →
      ∃ t, exec (.ingestStepRead st) s = .next t ∧ OneStream s t st.toNat ∧ t.rings = s.rings ∧ t.mem = s.mem ∧
        getStream t st.toNat = { x with
          ingests := { g with taken := g.taken + need } :: rest, stepBuf := x.stepBuf ++ peek s (mkey sp off) (need * g.unit)
          ctx := { x.ctx with sampleInStep := x.ctx.sampleInStep + BitVec.ofNat 16 need } }) ∧
    (have_ = need ∨ (have_ < need ∧ rest = []) →
      ∃ t, exec (.ingestStepRead st) s = .next t ∧ OneStream s t st.toNat ∧ t.mem = s.mem ∧
        getStream t st.toNat = { x with
          ingests := rest, stepBuf := x.stepBuf ++ peek s (mkey sp off) (have_ * g.unit)
          ctx := { x.ctx with sampleInStep := x.ctx.sampleInStep + BitVec.ofNat 16 have_ } } ∧
        ∀ d, findDesc s g.ref = some d → Ends s t g.ref.pair d { status := 0, res0 := BitVec.ofNat 32 g.count, res1 := g.next }))

/-- O26. FRONTEND_RUN of a stream whose open step has been read makes its frame ready, unless an older step is ready: the frame holds the outputs of the last stage of the front-end (R310), and no byte of memory changes outside the frame and the front-end's state. CONVERT of a ready frame, while no front-end waits, completes the step's input: each channel of the frame takes the converter's step from its state (R151), which stores the new state and sends the emission's event to each destination entry, in channel order, with the open step's stamp and the stream's generation, and no other byte of memory changes. Each leaves every other part of the stream, the other streams, instances, ring pairs and slots as they are. STEP_CLOSE of a step whose input is complete, of a stream with no bridge, opens the next step, and the step's decision, on the readout of the evaluated instance, is taken or waits. DEFERRED_ACTION_RESUME takes a waiting decision up again, and so does SNAPSHOT_WAIT_RESUME for the stream at the head of the line; a stream that is not OPEN closes its step at once; an action from without that finds no room in the report hold waits on, and no decision of its stream overtakes it (log 213). Without such work nothing changes. -/
def Obligations.StepsClose : Prop :=
  (∀ (s : State) (st : StreamId) (i : Inst) (v : Version) (f : Front), Runs s → Clean s →
    let x := getStream s st.toNat
    getInst s st.toNat = some i → versionOf (getSlot s i.slot.toNat) i.inB = some v → frontOf v.image = some f → x.waiting = none →
    i.waitAck = none → x.inputDone = false →
    (x.ctx.state ≠ 0 → stepRead x = true → x.frameReady = false →
      (feNext s = none ∨ feNext s = some st.toNat →
        ∃ t, exec (.frontendRun st) s = .next t ∧ getStream t st.toNat = { x with frameReady := true } ∧ OneStream s t st.toNat ∧
          t = { s with mem := t.mem, ctrs := t.ctrs, streams := t.streams, freeCtr := t.freeCtr
                       feLine := s.feLine.filter (· != st), flt := { s.flt with wins := t.flt.wins } } ∧
          (frontOk v.image = true → frontFits f x.ctx = true → Memory.wf s = true →
            let u := { s with feLine := s.feLine.filter (· != st) }
            let y := (feChain u st.toNat f v.coef { sfmt := x.ctx.sfmt.toNat, chans := x.ctx.chan.toNat + 1, stepLen := x.ctx.stepLen.toNat
                                                    unitB := f.unitB, samples := x.stepBuf, x := [], xfmt := 0, coefs := [], state := [] }
                        0 0 f.stages).2
            let w := fmtBytes y.xfmt
            let fk := mkey spGal (stagingOff st.toNat)
            let sk := mkey spGal (feStateOff st.toNat)
            peek t fk f.frameB = bytesAt (y.x.flatMap (fun v => natLE w (twos (8 * w) v))) 0 f.frameB ∧
            ∀ a, (a < fk ∨ fk + f.frameB ≤ a) → (a < sk ∨ sk + 512 ≤ a) → peek1 t a = peek1 s a)) ∧
      (∀ q, feNext s = some q → q ≠ st.toNat → exec (.frontendRun st) s = .next s)) ∧
    (x.ctx.state = 0 ∨ stepRead x = false ∨ x.frameReady = true → exec (.frontendRun st) s = .next s) ∧
    (∀ c, convOf (instPlace s i).img = some c →
      (x.frameReady = true → feWaits s = false →
        ∃ t, exec (.convert st) s = .next t ∧ getStream t st.toNat = { x with inputDone := true } ∧ OneStream s t st.toNat ∧
          (Memory.wf s = true →
            let pl := instPlace s i
            let frame := peek s (mkey spGal (stagingOff st.toNat)) (frameBytes x.ctx)
            let sk (j : Nat) : Nat := mkey spGal (convStateOff st.toNat + 4 * j)
            let ch (j : Nat) := convStep c (convIn c frame j) (sext 32 (leNat (peek s (sk j) 4))) j
            t.events = s.events ++ (List.range c.f).flatMap (fun j => match (ch j).2.1 with
              | none => []
              | some (pos, g, m) => (List.range c.ndest).map (fun d =>
                let mc := leAt pl.img (c.off + 16 + 8 * d) 8
                ({ word := eventWord st.toNat (pl.core + fld mc 1 9) (pos + fld mc 13 12) i.openStep.toNat m g (fld mc 10 3)
                   egen := BitVec.ofNat 4 (dirSgen s pl.core pl.j) } : Ev))) ∧
            (∀ j, j < c.f → peek t (sk j) 4 = natLE 4 (twos 32 (ch j).1)) ∧ KeepsOutside s t (sk 0) (4 * c.f)) ∧
          t = { s with mem := t.mem, ctrs := t.ctrs, streams := t.streams, events := t.events, flt := { s.flt with wins := t.flt.wins } }) ∧
      (x.frameReady = false ∨ feWaits s = true → exec (.convert st) s = .next s))) ∧
  (∀ (s : State) (st : StreamId) (i : Inst), Runs s → getInst s st.toNat = some i →
    (closable s st.toNat = false → exec (.stepClose st) s = .next s) ∧
    (closable s st.toNat = true → s.flaws = [] →
      let pl := instPlace s i
      let u := evalRanks s st.toNat pl 0 8
      let r := readout u pl i.openStep.toNat
      bitOf (dirWord u pl.core pl.j 2) 30 = false →
      ∃ t j, exec (.stepClose st) s = .next t ∧ getInst t st.toNat = some j ∧ j.openStep = i.openStep + 1 ∧ j.waitAck = none ∧
        ClosedOrWaits s t st.toNat { stamp := i.openStep, conf := r.1, cls := r.2 } ∧ OneStream s t st.toNat)) ∧
  (∀ (s : State) (st : StreamId), Runs s →
    let x := getStream s st.toNat
    (∀ a, x.act = some a → actWaits s st.toNat = true → exec (.deferredResume st) s = .next s) ∧
    (x.act = none → x.waiting = none → x.latched = none → toMove s st.toNat = false → exec (.deferredResume st) s = .next s) ∧
    (∀ w, x.waiting = some w → x.act = none →
      (∃ t, exec (.deferredResume st) s = .next t ∧ ClosedOrWaits s t st.toNat w ∧ OneStream s t st.toNat ∧
        (x.ctx.state ≠ 1 → x.latched = none → (getStream t st.toNat).waiting = none ∧ (getStream t st.toNat).ctx.curStep = w.stamp)) ∧
      (∀ more, s.snapWait = st :: more →
        ∃ t, exec .snapshotResume s = .next t ∧ ClosedOrWaits s t st.toNat w ∧ OneStream s t st.toNat ∧
          (x.ctx.state ≠ 1 → x.latched = none → (getStream t st.toNat).waiting = none ∧ (getStream t st.toNat).ctx.curStep = w.stamp))) ∧
    (s.snapWait = [] → exec .snapshotResume s = .next s))

/-- O27. A decision of an OPEN stream whose thresholds match their complements and whose holds are empty, with no work left for its step boundary: HOLD_RUN is 0 at a confidence of HOLD or more and else counts. IDLE and not armed, with HOLD_RUN below HOLD_COUNT, nothing begins. IDLE, armed, WAKE or more, one stage: a notification of stage 0 with the stream's next SEQ is held and the stream is no longer armed. IDLE, armed, PREWAKE or more but below WAKE, several stages, speculation on, a snapshot buffer free: EP is SPEC with a stage 1 job on the lowest free buffer. SPEC and WAKE or more: EP is ACTIVE. SPEC, below WAKE and HOLD_RUN at HOLD_COUNT: EP is IDLE with no job. -/
def Obligations.StepDecisions : Prop :=
  ∀ (s : State) (st : StreamId) (w : WaitDecision), Runs s → Clean s →
    let x := getStream s st.toNat
    let c := x.ctx
    let e := stageOf c 0
    let hr : BitVec 8 := if e.hold ≤ w.conf then 0 else if c.holdRun = 255 then 255 else c.holdRun + 1
    x.waiting = some w → x.act = none → x.latched = none → x.held = none → x.clrPending = false → x.useRevoked = false → c.state = 1 →
    x.hold = [] → x.reports = [] →
    wakeOk e = true → prewakeOk e = true → holdOk e = true → holdCountOk e = true → toMove s st.toNat = false → s.snapWait = [] →
    (c.ep = 0 → c.armed = false → hr < e.holdCount →
      ∃ t, exec (.deferredResume st) s = .next t ∧ let y := getStream t st.toNat
        y.ctx.ep = 0 ∧ y.ctx.holdRun = hr ∧ y.ctx.curStep = w.stamp ∧ y.ctx.armed = false ∧ y.hold = [] ∧ y.job = x.job ∧ t.jobs = s.jobs) ∧
    (c.ep = 0 → c.armed = true → e.wake ≤ w.conf → c.nstage = 1 →
      ∃ t r, exec (.deferredResume st) s = .next t ∧ let y := getStream t st.toNat
        y.ctx.ep = 0 ∧ y.ctx.armed = false ∧ y.hold = [r] ∧ r.stage = 0 ∧ r.status = 0 ∧ r.conf = w.conf ∧ r.cls = w.cls ∧
        r.stamp = w.stamp ∧ r.seq = x.seq ∧ r.gen = c.gen ∧ r.last = true ∧ r.specf = false ∧ t.jobs = s.jobs) ∧
    (∀ b, c.ep = 0 → c.armed = true → w.conf < e.wake → e.prewake ≤ w.conf → bitOf (reg s 0x08000) 2 = true → c.nstage ≠ 1 →
      s.snaps.length < 1024 → freeSnap s = some b →
      ∃ t, exec (.deferredResume st) s = .next t ∧ let y := getStream t st.toNat
        y.ctx.ep = 1 ∧ y.ctx.armed = false ∧ y.ctx.specStamp = w.stamp ∧ y.ctx.actStage = 1 ∧ y.hold = [] ∧
        y.job = some { stage := 1, stamp := w.stamp, gen := c.gen, job := s.nextJob, buf := b } ∧ smGet none t.snaps b = some st) ∧
    (c.ep = 1 → e.wake ≤ w.conf → e.notify = false →
      ∃ t, exec (.deferredResume st) s = .next t ∧ let y := getStream t st.toNat
        y.ctx.ep = 3 ∧ y.hold = [] ∧ y.job = x.job) ∧
    (c.ep = 1 → w.conf < e.wake → e.holdCount ≤ hr →
      ∃ t, exec (.deferredResume st) s = .next t ∧ let y := getStream t st.toNat
        y.ctx.ep = 0 ∧ y.job = none ∧ y.hold = [] ∧ y.ctx.armed = true)

/-- O28. A result in flight that is of the stream's outstanding job, on a stream that acts on results: while EP is SPEC it is held and EP is SPEC_HELD; while ACTIVE, of the last stage with status 0 and WAKE or more and room in the holds, a notification of its stage with its confidence, class and stamp is held, and the episode is over; below WAKE the episode is over without one; without room it is latched. A result that is not of the outstanding job of a stream with none is dropped and counted as stale twice, in HIF_CSC_STALE and FLT_STALE, and its report, if its stage asks for one, is held. It leaves the results in flight in each case, the hops of the control net count it, and the other streams stay as they are; an index that names no result changes nothing. -/
def Obligations.ResultsArrive : Prop :=
  (∀ (s : State) (k : Nat) (r : CascResult), Runs s → s.results[k]? = some r →
     let st := r.st.toNat
     let x := getStream s st
     let e := stageOf x.ctx r.stage.toNat
     let u := hopPass { s with results := s.results.eraseIdx k }
     (acceptable x r = true → x.ctx.ep = 1 →
       ∃ t, exec (.onResult k) s = .next t ∧ t = { u with streams := t.streams } ∧ OneStream s t st ∧
         getStream t st = { x with held := some r, ctx := { x.ctx with ep := 2 } }) ∧
     (acceptable x r = true → x.ctx.ep ≠ 1 → r.status = 0 → wakeOk e = true → holdCountOk (stageOf x.ctx 0) = true →
       (e.wake ≤ r.conf → r.stage.toNat + 1 = x.ctx.nstage.toNat → x.hold.length < 2 → x.reports.length + b2n e.report ≤ 2 →
         ∃ t n, exec (.onResult k) s = .next t ∧ t.results = u.results ∧ OneStream s t st ∧ let y := getStream t st
           y.ctx.ep = 0 ∧ y.job = none ∧ y.hold = x.hold ++ [n] ∧ n.stage = r.stage ∧ n.conf = r.conf ∧ n.cls = r.cls ∧
           n.stamp = r.stamp ∧ n.status = 0 ∧ n.last = true ∧ n.seq = x.seq ∧ y.seq = x.seq + 1) ∧
       (r.conf < e.wake → x.hold.length ≤ 2 → x.reports.length + b2n e.report ≤ 2 →
         ∃ t, exec (.onResult k) s = .next t ∧ t.results = u.results ∧ OneStream s t st ∧ let y := getStream t st
           y.ctx.ep = 0 ∧ y.job = none ∧ y.hold = x.hold ∧ y.seq = x.seq) ∧
       (e.wake ≤ r.conf → r.stage.toNat + 1 = x.ctx.nstage.toNat → 2 ≤ x.hold.length →
         exec (.onResult k) s = .next (modStream (c32 u 0x0804C 1) st (fun x => { x with latched := some r })))) ∧
     (acceptable x r = false → x.job = none → r.reportOnly = false → toMove s st = false →
       (e.report = false ∨ x.ctx.state = 0 → exec (.onResult k) s = .next (c64 (c64 u 0x08040 1) 0x90060 1)) ∧
       (e.report = true → x.ctx.state ≠ 0 → x.reports.length < 2 →
         ∃ t n, exec (.onResult k) s = .next t ∧ t.results = u.results ∧ OneStream s t st ∧
           getStream t st = { x with reports := x.reports ++ [n] } ∧ n.stage = r.stage ∧ n.stamp = r.stamp ∧ n.gen = r.gen ∧
           n.status = (if r.cancelled then 1 else r.status)))) ∧
  (∀ (s : State) (k : Nat), Runs s → s.results[k]? = none → exec (.onResult k) s = .next s)

/-- O29. An event of this chip that arrives leaves flight and is counted in PIC_EVENTS. If its stream has no instance at its core, or its generation or its step is not the instance's present one, it is dropped, counted in PIC_STALE and FLT_STALE, and nothing else changes; with a reserved KIND, a MULT of 0, an unused port, a position outside the input or a target outside the population it is dropped, counted in PIC_BADEVT. Else, where no target has a per-contribution entry, each target's ACC takes in turn the sum with its contribution, clamped to 24 bits, and is TOUCHED, every contribution is counted, and no byte of memory outside the core's accumulator words changes. The targets are those of R126: of a dense port a row of weights, of a kernel port the positions that the kernel, its padding and its stride reach, weights of 0 apart. An index that names no event changes nothing. Of the micro-ops: MOV, ADD, SUB, LEAK, SHIFT, MULS and CLAMP give their destination the value of R119 (AUX kept to 0 to 15), ADD, SUB, SHIFT and MULS counting a clamp of MEM, T, U or PAIR, and leave every other operand; CGE, CEQ, AUXOP, BR and END do as R119 says; FIRE and GRADE do as R119 and R120 say, and a second emission of the step is suppressed and counted (R121). At a step's close a neuron's run from micro-op 0 leaves its MEM and AUX, its pair partner's MEM, and ACC, TOUCHED and EMITTED cleared, and answers the run's emission. -/
def Obligations.EventsAndNeurons : Prop :=
  (∀ (s : State) (k : Nat), Runs s →
    (s.events[k]? = none → exec (.eventArrive k) s = .next s) ∧
    (∀ e, s.events[k]? = some e → e.src = none →
      let u := c64 { s with events := s.events.eraseIdx k } 0x20040 1
      let w := e.word.toNat
      let c := fld w 41 9
      let port := fld w 0 3
      let kind := fld w 3 2
      let m := fld w 5 4
      let drops : Prop := exec (.eventArrive k) s = .next (c32 u 0x2005C 1)
      (eventHome s w = none ∨
        (∃ i pl, eventHome s w = some (i, pl) ∧ (e.egen.toNat ≠ dirSgen s c pl.j ∨ fld w 9 20 ≠ i.openStep.toNat)) →
        exec (.eventArrive k) s = .next (c64 (c32 u 0x20058 1) 0x90060 1)) ∧
      (∀ i pl, eventHome s w = some (i, pl) → e.egen.toNat = dirSgen s c pl.j → fld w 9 20 = i.openStep.toNat →
        let v : Int := if kind = 0 then m else sext 4 m
        let q := popAt s c (coreRd s c (portOff port + 1) 1 % 64)
        let at_ (x : Nat × Int) : Nat := (pl.base + q.off + x.1) % 4096
        let gain (a : Nat) (x : Nat × Int) : Nat :=
          let b := twos 24 (sat24 (sext 24 a + x.2)) + fld a 24 8 * 2 ^ 24
          if bitOf b 29 then b else b + 2 ^ 29
        (2 ≤ kind ∨ m = 0 ∨ coreRd s c (portOff port) 1 % 4 = 0 → drops) ∧
        (kind < 2 → m ≠ 0 → coreRd s c (portOff port) 1 % 4 ≠ 0 →
          (portTargets s c port (fld w 29 12) v = none → drops) ∧
          (∀ ts, portTargets s c port (fld w 29 12) v = some ts →
            ((∃ x ∈ ts, q.count ≤ x.1) → drops) ∧
            ((∀ x ∈ ts, x.1 < q.count) → (∀ x ∈ ts, fld (controlWord s c (fld (coreRd s c (neuronOff (at_ x)) 4) 28 4)) 4 6 = 0) →
              s.flaws = [] → Memory.wf s = true → Canon 0 s.ctrs → ctr s 0x20048 < 2 ^ 64 →
              ∃ t, exec (.eventArrive k) s = .next t ∧ t.events = s.events.eraseIdx k ∧
                ctr t 0x20040 = satAdd 64 (ctr s 0x20040) 1 ∧ ctr t 0x20048 = satAdd 64 (ctr s 0x20048) ts.length ∧
                (∀ n, n < 4096 → coreRd t c (accOff n) 4 = (ts.filter (fun x => at_ x == n)).foldl gain (coreRd s c (accOff n) 4)) ∧
                (∀ a, (a < mkey (spPicot c) 0x4000 ∨ mkey (spPicot c) 0x8000 ≤ a) → peek1 t a = peek1 s a) ∧
                t = { s with mem := t.mem, events := t.events, ctrs := t.ctrs, flt := { s.flt with wins := t.flt.wins } })))))) ∧
  (∀ (s : State) (c port pos : Nat) (v : Int) (ts : List (Nat × Int)), portTargets s c port pos v = some ts →
    let b (o n : Nat) : Nat := coreRd s c (portOff port + o) n
    let part (w : Nat) (z : Int) : Prop := w ≠ 0 ∧ z = sext 8 w * v * 2 ^ (b 14 1 % 8)
    let tab := 8 * b 2 2
    (b 0 1 % 4 ≠ 1 →
      let cols := b 6 2 % 8192
      pos < b 4 2 % 8192 ∧ ∀ n z, (n, z) ∈ ts ↔ n < cols ∧ part (coreRd s c (denseOff + tab + pos * cols + n) 1) z) ∧
    (b 0 1 % 4 = 1 →
      let iw := b 4 1
      let ic := b 6 1 % 32
      let kw := fld (b 11 1) 0 3
      let kh := fld (b 11 1) 3 3
      let stride := max 1 (b 13 1 % 4)
      pos / (ic * iw) < b 5 1 ∧ ∀ n z, (n, z) ∈ ts ↔ ∃ ky kx q ox oy, ky < kh ∧ kx < kw ∧ q < b 10 1 % 128 ∧ ox < b 8 1 ∧ oy < b 9 1 ∧
        ox * stride + kx = pos / ic % iw + fld (b 12 1) 0 3 ∧ oy * stride + ky = pos / (ic * iw) + fld (b 12 1) 3 3 ∧
        n = (oy * b 8 1 + ox) * (b 10 1 % 128) + q ∧
        part (coreRd s c (kernelOff + tab + (((q * kh + ky) * kw + kx) * ic + pos % ic)) 1) z)) ∧
  (∀ (r : NRun) (par : Nat → Int) (w : Nat),
    let op := fld w 12 4
    let d := fld w 9 3
    let imm := fld w 0 6
    let n := sext 6 imm
    let x := srcVal r par d imm
    let y := srcVal r par (fld w 6 3) imm
    let r' := uop r par w
    let val (r : NRun) (k : Nat) : Int := srcVal r (fun _ => 0) k 0
    let kept (e : Int) : Int := if d = 5 then clampI 0 15 e else e
    let plain (e : Int) : Prop := val r' d = kept e ∧ r'.sats = r.sats
    let sat (e : Int) : Prop :=
      val r' d = kept (sat24 e) ∧ r'.sats = r.sats + (if sat24 e ≠ e ∧ d ≠ 1 ∧ d ≠ 5 then 1 else 0)
    let emits (g : Bool) (e : Int) : Prop :=
      (r.emitted = false → r'.emit = some (g, e) ∧ r'.emitted = true ∧ r'.doubles = r.doubles) ∧
      (r.emitted = true → r'.emit = r.emit ∧ r'.emitted = true ∧ r'.doubles = r.doubles + 1)
    (d < 6 →
      (op = 1 → plain y) ∧ (op = 2 → sat (x + y)) ∧ (op = 3 → sat (x - y)) ∧
      (op = 4 → imm % 16 ≠ 0 → plain (x - x / 2 ^ (imm % 16))) ∧ (op = 4 → imm % 16 = 0 → r' = r) ∧
      (op = 5 → 0 < n → sat (x * 2 ^ n.toNat)) ∧ (op = 5 → n < 0 → sat (rneShift x (-n).toNat)) ∧ (op = 5 → n = 0 → r' = r) ∧
      (op = 12 → sat (rneShift (x * y) 12)) ∧ (op = 13 → plain (min (max x (-(y.natAbs : Int))) (y.natAbs : Int))) ∧
      (op ∈ [1, 2, 3, 4, 5, 12, 13] → ∀ k, k < 6 → k ≠ d → val r' k = val r k)) ∧
    (op = 0 → r' = { r with ended := true }) ∧
    (op = 6 → r' = { r with c := decide (y ≤ x) }) ∧ (op = 7 → r' = { r with c := decide (x = y) }) ∧
    (op = 8 → r' = if d = 0 ∨ (d = 1 ∧ r.c = true) ∨ (d = 2 ∧ r.c = false) then { r with skip := imm } else r) ∧
    (op = 9 → y ≤ 0 ∨ r.mem < y → r' = { r with c := false }) ∧
    (op = 9 → 0 < y → y ≤ r.mem →
      let m := min (r.mem / y) 15
      emits false m ∧ 1 ≤ m ∧ m ≤ 15 ∧ r'.c = true ∧
      (d % 4 = 0 → (bitOf d 2 = true ∧ par 14 < r.mem - m * y → r'.mem = par 14 ∧ r'.clips = r.clips + 1) ∧
        (bitOf d 2 = false ∨ r.mem - m * y ≤ par 14 → r'.mem = r.mem - m * y ∧ r'.clips = r.clips)) ∧
      (d % 4 = 1 → r'.mem = 0) ∧ (d % 4 = 2 → r'.mem = r.mem)) ∧
    (op = 10 →
      let q := clampI (-8) 7 (rneShift y d)
      r'.u = q * 2 ^ d ∧ r'.c = decide (q ≠ 0) ∧ (q ≠ 0 → emits true q) ∧ (q = 0 → r'.emit = r.emit ∧ r'.emitted = r.emitted)) ∧
    (op = 11 → (d = 0 → r' = { r with aux := imm % 16 }) ∧
      (d = 1 → r' = { r with aux := r.aux - 1, c := decide (1 < r.aux) }) ∧ (d = 2 → r' = { r with c := decide (r.aux ≠ 0) }))) ∧
  (∀ (s : State) (c n : Nat), Memory.wf s = true → c < 512 → n < 4096 →
    let w := coreRd s c (neuronOff n) 4
    let a := coreRd s c (accOff n) 4
    let pw := coreRd s c (neuronOff (n ^^^ 1)) 4
    let set := fld w 28 4
    let r := runOps (fun k => coreRd s c (opOff (controlWord s c set % 8) k) 2) (paramVal s c set)
      { mem := sext 24 w, acc := sext 24 a, pair := sext 24 pw, aux := fld w 24 4, emitted := bitOf a 30 } 0 64
    let t := (runNeuron s c n 0 0 true).1
    (runNeuron s c n 0 0 true).2 = r.emit ∧
    coreRd t c (neuronOff n) 4 = twos 24 r.mem + r.aux * 2 ^ 24 + set * 2 ^ 28 ∧
    coreRd t c (neuronOff (n ^^^ 1)) 4 = twos 24 r.pair + fld pw 24 8 * 2 ^ 24 ∧
    coreRd t c (accOff n) 4 = fld a 24 5 * 2 ^ 24 ∧
    ∀ q, q ≠ n → q < 4096 → coreRd t c (accOff q) 4 = coreRd s c (accOff q) 4 ∧
      (q ≠ n ^^^ 1 → coreRd t c (neuronOff q) 4 = coreRd s c (neuronOff q) 4))

/-- O30. For the next operation of its originator on the control net, to a home knot that its function owns and that is whole: with the knot's epoch, ADD makes VALUE the sum, saturating at 2^32 - 1 with SAT set, and releases the WAITs whose value is reached; RESET makes VALUE the amount, the epoch the next one, and ends every WAIT of the knot; a WAIT whose value is reached is answered and any other is held, and the knots stay as they are. With another epoch or a malformed word, or without the right, nothing of the store changes, the refusal is counted, and a descriptor that asked ends with STALE_DROPPED or PROTECTION. A knot that does not match its complements becomes broken. Every VALUE and EPOCH is written beside its complement. -/
def Obligations.KnotOperations : Prop :=
  ∀ (s : State) (k : Nat) (o : KnotOp), Runs s → s.knotOps[k]? = some o → Canon {} s.knots →
    (s.knotOps.take k).any (fun q => q.knot == o.knot && sameSource q o) = false →
    let n := o.knot.toNat
    let kn := getKnot s n
    let whole := knotRight s o = true ∧ kn.bindPend = false ∧ kn.mirror = false ∧ kn.broken = false
    let sum := kn.value.toNat + o.amount.toNat
    let v : BitVec 32 := if 2 ^ 32 ≤ sum then 0xFFFFFFFF else BitVec.ofNat 32 sum
    (whole → knotOk kn = true → o.malformed = false → o.epoch = kn.epoch →
      (o.op = 0 → ∃ t, exec (.knotAdd k) s = .next t ∧ t.knotOps = s.knotOps.eraseIdx k ∧
        t.knots = smSet {} s.knots n { kn with
          value := v, nvalue := ~~~v, epoch := kn.epoch, nepoch := ~~~kn.epoch, sat := kn.sat || decide (2 ^ 32 ≤ sum) } ∧
        t.knotWaits = s.knotWaits.filter (fun w => !(w.knot == o.knot && decide (w.value ≤ v)))) ∧
      (o.op = 1 → ∃ t, exec (.knotReset k) s = .next t ∧
        t.knots = smSet {} s.knots n { kn with
          value := o.amount, nvalue := ~~~o.amount, epoch := kn.epoch + 1, nepoch := ~~~(kn.epoch + 1), sat := false, broken := false } ∧
        t.knotWaits = s.knotWaits.filter (fun w => w.knot != o.knot)) ∧
      (o.op = 2 → ∃ t, exec (.knotWaitArrive k) s = .next t ∧ t.knotOps = s.knotOps.eraseIdx k ∧ t.knots = s.knots ∧
        t.knotWaits = (if o.amount ≤ kn.value then s.knotWaits
          else s.knotWaits ++ [{ knot := o.knot, value := o.amount, epoch := kn.epoch, origin := o.origin }]))) ∧
    (∀ q d, o.origin = .ring q → findDesc s q = some d →
      let refused (c : Instr) (off : Nat) (st : BitVec 8) : Prop :=
        ∃ t, exec c s = .next t ∧ t.knotOps = s.knotOps.eraseIdx k ∧ t.knots = s.knots ∧ t.knotWaits = s.knotWaits ∧
          ctr t off = ctr (c32 s off 1) off ∧ Ends s t q.pair d { status := st }
      (whole → knotOk kn = true → (o.malformed = true ∨ o.epoch ≠ kn.epoch) →
        (o.op = 0 → refused (.knotAdd k) 0x30128 2) ∧ (o.op = 1 → refused (.knotReset k) 0x30128 2) ∧
        (o.op = 2 → refused (.knotWaitArrive k) 0x30128 2)) ∧
      (knotRight s o = false →
        (o.op = 0 → refused (.knotAdd k) 0x3012C 6) ∧ (o.op = 1 → refused (.knotReset k) 0x3012C 6) ∧
        (o.op = 2 → refused (.knotWaitArrive k) 0x3012C 6))) ∧
    (whole → knotOk kn = false →
      let breaks (c : Instr) : Prop := ∃ t, exec c s = .next t ∧ t.knots = smSet {} s.knots n { kn with broken := true } ∧
        t.knotWaits = s.knotWaits.filter (fun w => w.knot != o.knot)
      (o.op = 0 → breaks (.knotAdd k)) ∧ (o.op = 1 → breaks (.knotReset k)) ∧ (o.op = 2 → breaks (.knotWaitArrive k))) ∧
    (o.op ≠ 0 → exec (.knotAdd k) s = .next s) ∧ (o.op ≠ 1 → exec (.knotReset k) s = .next s) ∧
    (o.op ≠ 2 → exec (.knotWaitArrive k) s = .next s)

/-- O31. A write of BOB_KNOT_CMD that reaches the block acts on the knot that BOB_KNOT_SEL names, if it has an owner and no bind is pending: RESET of a home knot, broken or whole, makes VALUE the prepared word and the epoch the next one and clears SAT and BROKEN, one that finds the knot not to match its complements breaks it (R221), and one of a mirror does nothing; BIND asks the home that the mirror register names, or sets BIND_ERR at once if that chip is lost or has no route (log 169, the model's choice, with R377); UNBIND makes a mirror a home that keeps VALUE and EPOCH, and ends its WAITs. A knot without an owner stays as it is. After POWER_ON begins a cold start, every knot has VALUE 0 and EPOCH 0, as in the state after reset. WARM_RESET while the HOST domain runs, and PERST# asserted in any state but Off with no sequence in progress (a fundamental reset), set the VALUE of every knot to 0 and advance its EPOCH by 1 modulo 65,536, clear SAT and BROKEN, unbind every mirror, and leave no pending WAIT and no knot operation on its way, nor a core, job or descriptor that a release could let go on; an operation issued with a knot's EPOCH of before the reset differs from the EPOCH after it. An FLR of any function leaves every knot as it is, and sends no knot operation. -/
def Obligations.KnotCommandsAndResets : Prop :=
  let cold (t : State) : Prop := ∀ k, k < 4096 → (getKnot t k).value = 0 ∧ (getKnot t k).epoch = 0
  let after (s t : State) : Prop :=
    (∀ k, k < 4096 → let kn := getKnot t k
      kn.value = 0 ∧ kn.epoch = (getKnot s k).epoch + 1 ∧ kn.sat = false ∧ kn.broken = false ∧ kn.mirror = false) ∧
    t.knotWaits = [] ∧ t.knotOps = [] ∧ t.rings = [] ∧ t.jobs = [] ∧ (∀ c, (getCore t c).job = none) ∧
    (∀ o : KnotOp, o.epoch = (getKnot s o.knot.toNat).epoch → o.epoch ≠ (getKnot t o.knot.toNat).epoch)
  (∀ (s : State), Reached s 0 → Canon {} s.knots →
    let n := selKnot s
    let kn := getKnot s n
    let w := BitVec.ofNat 32 (reg s 0x3010C)
    (knotOwner s n = none → exec .knotCmdReset s = .next s ∧ exec .knotBind s = .next s ∧ exec .knotUnbind s = .next s) ∧
    (∀ f, knotOwner s n = some f → kn.bindPend = false →
      (kn.mirror = true → exec .knotCmdReset s = .next s) ∧
      (kn.mirror = false → kn.broken = false → knotOk kn = false → ∃ t, exec .knotCmdReset s = .next t ∧
        t.knots = smSet {} s.knots n { kn with broken := true } ∧ t.knotWaits = s.knotWaits.filter (fun x => x.knot.toNat != n)) ∧
      (kn.mirror = false → kn.broken = true ∨ knotOk kn = true → ∃ t, exec .knotCmdReset s = .next t ∧
        t.knots = smSet {} s.knots n { kn with
          value := w, nvalue := ~~~w, epoch := kn.epoch + 1, nepoch := ~~~(kn.epoch + 1), sat := false, broken := false } ∧
        t.knotWaits = s.knotWaits.filter (fun x => x.knot.toNat != n)) ∧
      (chipLost s kn.rchip.toNat = true → exec .knotBind s =
        .next (modKnot (needRoute s kn.rchip.toNat) n (fun x => { x with bindErr := true }))) ∧
      (chipLost s kn.rchip.toNat = false → ∃ t, exec .knotBind s = .next t ∧
        t.knots = smSet {} s.knots n { kn with bindPend := true, hchip := kn.rchip, hknot := kn.rknot } ∧
        t = { s with knots := t.knots, ports := t.ports, ctrs := t.ctrs, out := t.out }) ∧
      (kn.mirror = true → ∃ t, exec .knotUnbind s = .next t ∧
        t.knots = smSet {} s.knots n { kn with mirror := false, lost := false } ∧
        t.knotWaits = s.knotWaits.filter (fun x => x.knot.toNat != n)) ∧
      (kn.mirror = false → exec .knotUnbind s = .next s))) ∧
  cold State.reset ∧
  ∀ (s : State),
    (s.pwr.state = .off → s.pwr.seq = [] → s.pwr.tripped = false → ∃ t, exec .powerOn s = .next t ∧ cold t) ∧
    (s.pwr.state ≠ .off → s.pwr.seq = [] → ∃ t, exec .perstAssert s = .next t ∧ after s t) ∧
    (hostOn s = true → ∃ t, exec .warmReset s = .next t ∧ after s t) ∧
    (Runs s → ∀ fn, ∃ t, exec (.flr fn) s = .next t ∧ t.knots = s.knots ∧ t.knotOps.length ≤ s.knotOps.length)

/-- O32. A SLOT_LOAD that may start, in its turn, with the memories awake and no damage in them: a misaligned or empty image or one whose header does not fit ends it with BAD_DESCRIPTOR, one whose CRC does not hold with CHECK_FAIL, and no slot changes. The version out of force, which nothing holds, is retired first. A Tier 0 image that the slot's range refuses ends it with the status of the refusal; one that it admits waits as the load of the slot if no stream holds an instance, and else becomes the next version in the other range, which the streams move to. A Tier 1 image, or a Tier 2 image, that is sound becomes the next version of the active placement, or of the inactive one while jobs of the slot are unfinished, and the ranks of a Tier 1 image stand on its cores. A failure gives the version in force in RES0. SLOT_LOAD_COMPLETE of a pending load, no stream being left on the other range, brings its version into force, exchanging the placements of a Tier 1 or Tier 2 slot that loaded into the other one, and ends the descriptor with OK and its number. VERSION_RETIRE removes the version out of force once nothing holds it, and keeps the one in force. The model's choices here: the header is judged before the CRC (log 65), versions of a slot are numbered one after the other (log 64), which placement a load takes and when the placements change over (log 68), and the image that waits for the active range (log 186). -/
def Obligations.SlotLoads : Prop :=
  (∀ (s : State) (p : PairId) (idx : U16) (d : Desc) (sp off : Nat), Starts s p idx opSlotLoad d → Clean s →
    let slot := leAt d.bytes 8 1
    let len := leAt d.bytes 24 4
    let x := getSlot s slot
    let img := peek s (mkey sp off) len
    let sound := off % 4096 = 0 ∧ len ≠ 0 ∧ len % 4096 = 0
    let fails (t : State) (k : Nat) : Prop := Ends s t p d { status := BitVec.ofNat 8 k, res0 := verNow s slot }
    addrOf (leAt d.bytes 16 8) = some (sp, off) → memAwake s = true → dramWaits s = false → dramFails s spDram = false →
    loadWaits s slot = false →
    (¬ sound → ∃ t, exec (.slotLoad p idx) s = .next t ∧ t.slots = s.slots ∧ fails t 9) ∧
    (sound → headerFits img slot len = false → ∃ t, exec (.slotLoad p idx) s = .next t ∧ t.slots = s.slots ∧ fails t 9) ∧
    (sound → headerFits img slot len = true → headerCrcOk img = false →
      ∃ t, exec (.slotLoad p idx) s = .next t ∧ t.slots = s.slots ∧ fails t 3) ∧
    (let u := retireVersion s slot (!x.activeB)
     let y := getSlot u slot
     let ldg : LoadInFlight := { ref := refOf s p d }
     let placed (t : State) (inB actB mv : Bool) : Prop :=
       Begins s t p d ∧ (∀ q, q ≠ slot → getSlot t q = getSlot s q) ∧
       ∃ v, v.number = x.verNo + 1 ∧ v.image = img ∧
         getSlot t slot = { setVersion y inB (some v) with activeB := actB, verNo := v.number, load := some ldg, moving := mv }
     let busy := !(slotJobs u slot).isEmpty
     let inB := if busy then !x.activeB else x.activeB
     let w := (if inB then x.placeB else x.placeA).toNat
     let es := rankEngines w (t2Neng img)
     sound → headerFits img slot len = true → headerCrcOk img = true →
     (tierOf slot = 0 →
       (∀ k, t0Refusal u slot img (x.activeB != (slotInsts u slot != 0)) = some k →
         ∃ t, exec (.slotLoad p idx) s = .next t ∧ t.slots = u.slots ∧ t.insts = s.insts ∧ fails t k) ∧
       (slotInsts u slot = 0 → t0Refusal u slot img x.activeB = none →
         ∃ t, exec (.slotLoad p idx) s = .next t ∧ Begins s t p d ∧ getSlot t slot = { y with load := some { ldg with image := some img } } ∧
           ∀ q, q ≠ slot → getSlot t q = getSlot s q) ∧
       (slotInsts u slot ≠ 0 → t0Refusal u slot img (!x.activeB) = none →
         ∃ t, exec (.slotLoad p idx) s = .next t ∧ placed t (!x.activeB) (!x.activeB) true)) ∧
     (tierOf slot = 1 → t1ImageOk u slot img = true → t1W img ≤ placeW w → t1H img ≤ placeH w → placeOk w = true →
       placeClash u slot inB w = false → (deviceBlobsOk u d.fn.toNat img).1 = true →
       ∃ t, exec (.slotLoad p idx) s = .next t ∧ placed t inB x.activeB busy ∧
         ∀ r, r < t1Cores img → let k := getCore t (rankPos w img r)
           k.slot = BitVec.ofNat 8 slot ∧ k.inB = inB ∧ k.rank = BitVec.ofNat 8 r) ∧
     (tierOf slot = 2 → t2ImageOk u slot img = true → t2ShapeBad img = false → t2Neng img ≤ es.length →
       ((maskEngines w).any fun e => match es.findIdx? (· == e) with
         | some r => residentClash u slot inB (resRanges img r) e
         | none => false) = false →
       (deviceBlobsOk u d.fn.toNat img).1 = true → (scratchOk u d.fn.toNat img).1 = true →
       ∃ t, exec (.slotLoad p idx) s = .next t ∧ placed t inB x.activeB busy))) ∧
  (∀ (s : State) (slot : SlotId), Runs s →
    let n := slot.toNat
    let x := getSlot s n
    (x.load = none → exec (.slotLoadComplete slot) s = .next s) ∧
    (∀ l, x.load = some l → l.image = none →
      (tierOf n = 0 → versionHeld s n (!x.activeB) = true → exec (.slotLoadComplete slot) s = .next s) ∧
      (∀ v, (tierOf n = 0 → versionHeld s n (!x.activeB) = false) →
        let b := if tierOf n ≠ 0 ∧ x.moving = true then !x.activeB else x.activeB
        versionOf x b = some v →
        ∃ t, exec (.slotLoadComplete slot) s = .next t ∧ (getSlot t n).load = none ∧ (getSlot t n).activeB = b ∧
          versionOf (getSlot t n) b = some v ∧ (tierOf n = 0 → versionOf (getSlot t n) (!b) = none) ∧
          (l.mute = true → t.rings = s.rings) ∧
          ∀ d, l.mute = false → findDesc s l.ref = some d →
            Ends s t l.ref.pair d { status := 0, res0 := v.number.setWidth 32 })) ∧
    (∀ l img d, x.load = some l → l.image = some img → l.mute = false → findDesc s l.ref = some d → tierOf n = 0 →
      (∀ k, t0Refusal s n img x.activeB = some k →
        ∃ t, exec (.slotLoadComplete slot) s = .next t ∧ getSlot t n = { x with load := none } ∧
          Ends s t l.ref.pair d { status := BitVec.ofNat 8 k, res0 := verNow s n }) ∧
      (t0Refusal s n img x.activeB = none →
        ∃ t v, exec (.slotLoadComplete slot) s = .next t ∧ v.number = x.verNo + 1 ∧ v.image = img ∧
          (getSlot t n).load = none ∧ (getSlot t n).activeB = x.activeB ∧ versionOf (getSlot t n) x.activeB = some v ∧
          Ends s t l.ref.pair d { status := 0, res0 := v.number.setWidth 32 })) ∧
    (x.load ≠ none ∨ versionHeld s n (!x.activeB) = true → exec (.versionRetire slot) s = .next s) ∧
    (∀ v, x.load = none → versionHeld s n (!x.activeB) = false → versionOf x x.activeB = some v →
      ∃ t, exec (.versionRetire slot) s = .next t ∧ versionOf (getSlot t n) (!x.activeB) = none ∧
        versionOf (getSlot t n) x.activeB = some v ∧ ∀ q, q ≠ n → getSlot t q = getSlot s q))

/-- O33. A JOB_RUN that may start, for a slot with a version whose units are in service and a batch that fits, becomes the next job of its slot's queue, with the descriptor's ranges, priority and knots, and sends its WAIT; with a unit out of service it ends with UNCORRECTABLE; a Tier 0 slot, a slot with no version or a bad batch ends it with BAD_DESCRIPTOR. A TRAIN_STEP does the same if its arguments fit and the header of its state area is sound, and ends with BAD_DESCRIPTOR if not. PARTITION_TAKE_JOB starts the job that R191 picks on every core of a free partition, which takes the next job sequence; ENGINE_GRANT gives a free engine to the job picked, and the job starts when it holds every engine of its placement. A job that starts notes whether one of its units is a spare. The job picked is a replay if one is ready, and else has the highest level of those that are ready. -/
def Obligations.JobsQueueAndStart : Prop :=
  (∀ (s : State) (p : PairId) (idx : U16) (d : Desc) (v : Version),
    let slot := leAt d.bytes 8 1
    let j := hostJobOf s (refOf s p d) d v
    let wait := match j.wait with
      | none => []
      | some (k, e, n) => [{ op := 2, knot := k, epoch := e, amount := n, fn := d.fn, origin := .jobWait s.nextJob : KnotOp }]
    let queued (t : State) : Prop := getJob t s.nextJob = some j ∧ t.nextJob = s.nextJob + 1 ∧ t.knotOps = s.knotOps ++ wait ∧ Begins s t p d
    let out := slotOut s slot (getSlot s slot).activeB
    (Starts s p idx opJobRun d →
      (activeVersion s slot = some v → tierOf slot ≠ 0 → batchOk d.bytes v = true →
        (out = false → ∃ t, exec (.jobRun p idx) s = .next t ∧ queued t ∧
          t = { s with rings := t.rings, jobs := t.jobs, nextJob := t.nextJob, knotOps := t.knotOps }) ∧
        (out = true → ∃ t, exec (.jobRun p idx) s = .next t ∧ Ends s t p d { status := 0x0C })) ∧
      (activeVersion s slot = none ∨ tierOf slot = 0 ∨ (activeVersion s slot = some v ∧ batchOk d.bytes v = false) →
        ∃ t, exec (.jobRun p idx) s = .next t ∧ t.jobs = s.jobs ∧ Ends s t p d { status := 9 })) ∧
    (∀ sp off, Starts s p idx opTrainStep d → memAwake s = true → addrOn s d.bytes 32 = true →
      addrOf (leAt d.bytes 32 8) = some (sp, off) → activeVersion s slot = some v →
      let fits := tierOf slot ≠ 0 ∧ sp ≠ spHost ∧ leAt d.bytes 57 1 % 4 ≠ 3 ∧ batchOk d.bytes v = true ∧ trains s slot v = true
      (¬ fits → ∃ t, exec (.trainStep p idx) s = .next t ∧ t.jobs = s.jobs ∧ Ends s t p d { status := 9 }) ∧
      (fits → Clean s → dramFails s sp = false → (devCheck s d.fn.toNat sp off 64 false none).1 = true →
        (trainHeaderOk (peek s (mkey sp off) 64) = true → out = false → ∃ t, exec (.trainStep p idx) s = .next t ∧ queued t) ∧
        (trainHeaderOk (peek s (mkey sp off) 64) = false →
          ∃ t, exec (.trainStep p idx) s = .next t ∧ t.jobs = s.jobs ∧ Ends s t p d { status := 9 })))) ∧
  (∀ (s : State) (slot : SlotId) (b : Bool) (jn : Nat) (j : Job) (v : Version), Runs s → Canon {} s.cores →
    let n := slot.toNat
    let x := getSlot s n
    tierOf n = 1 → bobRuns s = true → versionOf x b = some v → repairHolds s n b = false → runOf x b = none →
    (pickJob (readyJobs s n b) = some (jn, j) → startRights s j = (true, s) →
      ∃ t, exec (.partitionTakeJob slot b) s = .next t ∧ runOf (getSlot t n) b = some jn ∧
        getJob t jn = some (beginJob j ((members s n b).any fun e => decide (256 ≤ physCore s e.1))) ∧
        let y := getSlot t n
        let seq := if b then y.jseqB else y.jseqA
        seq = (if b then x.jseqB else x.jseqA) + 1 ∧
        ∀ c, getCore t c = (if (getCore s c).slot = slot ∧ (getCore s c).inB = b ∧ n ≠ 0
          then startCore (getCore s c) jn (t1Entry v.image) seq (jobBlockOf j) else getCore s c)) ∧
    (pickJob (readyJobs s n b) = none → exec (.partitionTakeJob slot b) s = .next s)) ∧
  (∀ (s : State) (e : BitVec 4) (jn : Nat) (j : Job), Runs s → Canon none s.jobs → chmRuns s = true →
    (getEngine s e.toNat).job = none → smGet false s.flt.outOf (4 * 4096 + e.toNat) = false → engineMoves s e.toNat = false →
    pickJob (waitingFor s e.toNat) = some (jn, j) →
    let j' := { j with engines := j.engines ++ [e] }
    let u := setJob { s with engines := smSet {} s.engines e.toNat { job := some jn } } jn (some j')
    let img := jobImage s j
    (holdsAll s j' = false → exec (.engineGrant e) s = .next u) ∧
    (holdsAll s j' = true → startRights u j' = (true, u) →
      ∃ t, exec (.engineGrant e) s = .next t ∧ t.engines = u.engines ∧
        getJob t jn = some (beginJob { j' with scratchAddr := BitVec.ofNat 64 (t2Scratch img), scratchBytes := t2ScratchBytes img }
          ((jobRanks s j').any fun e => physOf s 4 e == 16)))) ∧
  (∀ (js : List (Nat × Job)) (jn : Nat) (j : Job), pickJob js = some (jn, j) →
    (jn, j) ∈ js ∧ ((∃ q ∈ js, 1 < q.2.attempt) → 1 < j.attempt) ∧
    ((∀ q ∈ js, q.2.attempt ≤ 1) → ∀ q ∈ js, q.2.level ≤ j.level))

/-- O34. JOB_END of a partition whose running job has ended on all its cores, a host job with no signal: the descriptor ends with the job's status, its drift events in RES0, its items in RES1 and its saturation events in RES2, and the partition runs no job; that RES1 holds the items only of a job that ended well, and 0 for a TRAIN_STEP of MODE 2, is the model's choice (log 110), and that a status of the error queue goes before the status of a fault is too (log 83); a job with a signal sends its ADD first; a cascade job sends its result, with the class and the confidence of rank 0's job block. TIER2_JOB_END of a job that has run all its layers or has failed frees its engines and ends it so; a training step that accumulates first adds its batch to the items of its state area; one that applies becomes a job of its optimiser slot. Without such a job nothing changes. -/
def Obligations.JobsEnd : Prop :=
  (∀ (s : State) (slot : SlotId) (b : Bool) (jn : Nat) (j : Job), Runs s →
    let n := slot.toNat
    let base := (eqStatus s jn).getD (j.err.getD 0).toNat
    let st := jobStatus j base
    let items := if endedWell st = true ∧ ¬ (j.kind = 1 ∧ j.mode = 2) then j.batch.toNat else 0
    runOf (getSlot s n) b = some jn → getJob s jn = some j →
    (jobRuns s jn = false ∨ (jobCores s jn).all (fun c => coreDone (getCore s c)) = false → exec (.jobEnd slot b) s = .next s) ∧
    (tierOf n = 1 → jobRuns s jn = true → (jobCores s jn).all (fun c => coreDone (getCore s c)) = true →
      (∀ q d, j.origin = .host q → findDesc s q = some d →
        (j.sig = none → ∃ t, exec (.jobEnd slot b) s = .next t ∧ runOf (getSlot t n) b = none ∧
          Ends s t q.pair d { status := BitVec.ofNat 8 st, res0 := BitVec.ofNat 32 j.driftEvents, res1 := BitVec.ofNat 64 items
                              res2 := BitVec.ofNat 64 j.satEvents }) ∧
        (∀ k e a, j.sig = some (k, e, a) → ∃ t, exec (.jobEnd slot b) s = .next t ∧ runOf (getSlot t n) b = none ∧ t.rings = s.rings ∧
          t.knotOps = s.knotOps ++ [{ op := 0, knot := k, epoch := e, amount := a, fn := j.fn, origin := .jobSig jn q }])) ∧
      (∀ i g k stamp, j.origin = .cascade i g k stamp → ∃ t r, exec (.jobEnd slot b) s = .next t ∧ runOf (getSlot t n) b = none ∧
        t.results = s.results ++ [r] ∧ r.st = i ∧ r.gen = g ∧ r.stage = k ∧ r.stamp = stamp ∧ r.status = BitVec.ofNat 8 st ∧
        r.slot = j.slot ∧ r.spec = j.spec ∧ r.withdrawn = j.withdrawn ∧ r.cancelled = j.cancelled ∧
        (∀ c more, jobCores s jn = c :: more → st = 0 →
          let blk := (getCore s c).jobBlock
          bitOf (leAt blk 0x33 1) 0 = true → r.cls = BitVec.ofNat 16 (leAt blk 0x30 2) ∧ r.conf = BitVec.ofNat 8 (leAt blk 0x32 1)) ∧
        (st ≠ 0 → r.cls = 0 ∧ r.conf = 0)))) ∧
  (∀ (s : State) (jn : Nat) (j : Job), Runs s → getJob s jn = some j →
    let img := jobImage s j
    let st := jobStatus j (j.err.getD 0).toNat
    let items := if endedWell st = true ∧ ¬ (j.kind = 1 ∧ j.mode = 2) then j.batch.toNat else 0
    let ended (t : State) : Prop := t.engines = s.engines.filter (fun e => e.2.job != some jn) ∧
      ∀ q d, j.origin = .host q → j.sig = none → findDesc s q = some d →
        Ends s t q.pair d { status := BitVec.ofNat 8 st, res0 := BitVec.ofNat 32 j.driftEvents, res1 := BitVec.ofNat 64 items
                            res2 := BitVec.ofNat 64 j.satEvents }
    (j.st = .applying ∨ (j.st = .queued ∧ j.attempt ≤ 1) → exec (.tier2JobEnd jn) s = .next s) ∧
    (j.st = .running → tierOf j.slot.toNat = 2 → j.finished = false → (j.err ≠ none ∨ curPlace img j = none) →
      (∀ q, j.origin = .host q → j.kind ≠ 1 ∨ j.err ≠ none → ∃ t, exec (.tier2JobEnd jn) s = .next t ∧ ended t) ∧
      (∀ q sp o, j.origin = .host q → j.kind = 1 → j.mode = 0 → j.err = none → addrOf j.stateAddr.toNat = some (sp, o) → sp ≠ spHost →
        Clean s → Memory.wf s = true → (jobAccess s jn sp (o + 0xC) 4 false).1 = true → (jobAccess s jn sp (o + 0xC) 4 true).1 = true →
        ∃ t, exec (.tier2JobEnd jn) s = .next t ∧ ended t ∧ KeepsOutside s t (mkey sp (o + 0xC)) 4 ∧
          peek t (mkey sp (o + 0xC)) 4 = natLE 4 (satAdd 32 (leNat (peek s (mkey sp (o + 0xC)) 4)) j.batch.toNat)) ∧
      (∀ i g k stamp, j.origin = .cascade i g k stamp → j.kind = 2 → ∃ t r, exec (.tier2JobEnd jn) s = .next t ∧ ended t ∧
        t.results = s.results ++ [r] ∧ r.st = i ∧ r.gen = g ∧ r.stage = k ∧ r.stamp = stamp ∧ r.status = BitVec.ofNat 8 st ∧
        r.cls = (if st = 0 then j.cls else 0) ∧ r.conf = (if st = 0 then j.conf else 0) ∧ r.slot = j.slot ∧ r.spec = j.spec ∧
        r.withdrawn = j.withdrawn ∧ r.cancelled = j.cancelled) ∧
      (∀ w, j.kind = 1 → j.mode ≠ 0 → j.err = none → activeVersion s (t2OptSlot img) = some w → jn ≠ s.nextJob →
        slotOut s (t2OptSlot img) (getSlot s (t2OptSlot img)).activeB = false →
        ∃ t a, exec (.tier2JobEnd jn) s = .next t ∧ getJob t jn = some { j with st := .applying, engines := [] } ∧
          t.engines = s.engines.filter (fun e => e.2.job != some jn) ∧
          getJob t s.nextJob = some a ∧ a.origin = .apply jn ∧ a.slot = BitVec.ofNat 8 (t2OptSlot img) ∧ a.kind = 1 ∧ a.mode = j.mode ∧
          a.stateAddr = j.stateAddr ∧ a.level = j.level)))

/-- O35. A DMA_COPY that may start, with sound arguments and the memories awake, without damage in them: with CODEC 0 the destination holds the bytes of the source, every other byte reads as before, and it ends with OK and its length; with CODEC 1 and a packed tensor that fits DST_MAX it ends with OK and its size, the destination holds the header, the table and the index with the blocks of R326, coded by the table that R330 builds, and every other byte reads as before; with one that does not fit it ends with BAD_DESCRIPTOR and no byte changes; with CODEC 2, of a tensor whose snapshot and blocks are sound, the destination holds the blocks' bytes and every other byte reads as before; one whose snapshot fails ends with that failure, one of another size than LENGTH or too long for DST_MAX with BAD_DESCRIPTOR, and no byte changes. Arguments that R90 refuses end it with BAD_DESCRIPTOR, and an address in a DRAM whose clock has failed (R431) with UNCORRECTABLE, and no byte changes. -/
def Obligations.Copies : Prop :=
  ∀ (s : State) (p : PairId) (idx : U16) (d : Desc), Starts s p idx opDmaCopy d → Clean s → Memory.wf s = true → memAwake s = true →
    addrOn s d.bytes 16 = true → addrOn s d.bytes 24 = true →
    let c := leAt d.bytes 8 1 % 4
    let only (t : State) : Prop :=
      t = { s with mem := t.mem, rings := t.rings, ctrs := t.ctrs, freeCtr := t.freeCtr, flt := { s.flt with wins := t.flt.wins } }
    let nothing (k : BitVec 8) : Prop :=
      (c = 0 ∨ c = 3 → ∃ t, exec (.dmaCopy p idx) s = .next t ∧ Ends s t p d { status := k } ∧ t.mem = s.mem) ∧
      (c = 1 → ∃ t, exec (.pack p idx) s = .next t ∧ Ends s t p d { status := k } ∧ t.mem = s.mem) ∧
      (c = 2 → ∃ t, exec (.unpack p idx) s = .next t ∧ Ends s t p d { status := k } ∧ t.mem = s.mem)
    (∀ a, copyArgs d.bytes = some a → copyArgsOk a = true → (dramFails s a.src.1 = true ∨ dramFails s a.dst.1 = true) → nothing 0x0C) ∧
    (∀ a, copyArgs d.bytes = some a → copyArgsOk a = true → dramFails s a.src.1 = false → dramFails s a.dst.1 = false →
      let src := mkey a.src.1 a.src.2
      let dst := mkey a.dst.1 a.dst.2
      (c = 0 → ∃ t, exec (.dmaCopy p idx) s = .next t ∧ Ends s t p d { status := 0, res0 := BitVec.ofNat 32 a.len } ∧
        peek t dst a.len = peek s src a.len ∧ KeepsOutside s t dst a.len ∧ only t) ∧
      (c = 1 →
        let bs := peek s src a.len
        let nblk := a.len / 1024
        let tab := buildTable bs nblk
        let raws := (List.range nblk).map (fun n => (bs.drop (1024 * n)).take 1024)
        let packed (g : Nat) := packedBytes tab g nblk (raws.map (fun r => codedBytes (encodeBlock (blockCols r) tab) r g))
        let size := 0x1040 + (packed 0).2.2.length
        (size ≤ a.dstMax → ∃ t g, exec (.pack p idx) s = .next t ∧ g < 16 ∧
          Ends s t p d { status := 0, res0 := BitVec.ofNat 32 size } ∧
          peek t dst 64 = (packed g).1 ∧ peek t (dst + 0x40) (packed g).2.1.length = (packed g).2.1 ∧
          peek t (dst + 0x1040) (packed g).2.2.length = (packed g).2.2 ∧ KeepsOutside s t dst size ∧ only t) ∧
        (a.dstMax < size → ∃ t, exec (.pack p idx) s = .next t ∧ Ends s t p d { status := 9 } ∧ t.mem = s.mem)) ∧
      (c = 2 →
        (∀ g rs, snapshot (rdAt s a.src) none = (.inl g, rs) → ∃ t, exec (.unpack p idx) s = .next t ∧
          Ends s t p d { status := BitVec.ofNat 8 g.status } ∧ t.mem = s.mem) ∧
        (∀ sn rs, snapshot (rdAt s a.src) none = (.inr sn, rs) →
          (sn.bytes ≠ a.len ∨ a.dstMax < 1024 * sn.nblk → ∃ t, exec (.unpack p idx) s = .next t ∧ Ends s t p d { status := 9 } ∧
            t.mem = s.mem) ∧
          (∀ ys n rs', sn.bytes = a.len → 1024 * sn.nblk ≤ a.dstMax → readBlocks (rdAt s a.src) sn 0 sn.nblk = (ys, n, none, rs') →
            ∃ t, exec (.unpack p idx) s = .next t ∧ Ends s t p d { status := 0, res0 := BitVec.ofNat 32 ys.length } ∧
              peek t dst ys.length = ys ∧ KeepsOutside s t dst ys.length ∧ only t)))) ∧
    (copyArgs d.bytes = none ∨ (∃ a, copyArgs d.bytes = some a ∧ copyArgsOk a = false) → nothing 9)

/-- O36. The descriptor at the head of a channel of a core whose job runs, with the command of its OP: it is marked as run unless its job failed. One of one row, one end of which is local and the other in device or host space (R181), reads its row, zero bytes where R183 does not allow the read, and writes the row as it is (COPY), the bytes of its tensor's blocks (EXPAND) or two bits for each trit (TERN_UNPACK) at its destination and nothing else; where R183 does not allow the write, no byte changes; a byte above 242 is a program fault. One that has run leaves its queue and DMA_DONE of its channel counts it. A message whose receiver has its role epoch and job, and room, enters the inbox last, if no KSIG of its sender waits for it; with 64 entries held it waits; with another role epoch it bounces; of another job it is dropped. A bounce enters the error queue of its sender, if it still runs the job; a full queue overflows. The order of a sender's messages to one receiver is kept. -/
def Obligations.BobbinTransfers : Prop :=
  (∀ (s : State) (c : BitVec 8) (ch : BitVec 2) (jn : Nat) (d : DmaDesc), Runs s →
    let k := getCore s c.toNat
    let ran := k.dmas.map (fun e => if e.order = d.order then { e with ran := true } else e)
    k.job = some jn → k.dmas.find? (fun d => d.ch == ch) = some d →
    (d.ran = false → dmaMayRun s jn d = true →
      let goes (t : State) : Prop := jobFailed t jn = false → (getCore t c.toNat).dmas = ran
      let src := dmaEnd d.srcLoc d.src
      let dst := dmaEnd d.dstLoc d.dst
      let key (e : DmaEnd) : Nat := match e with
        | .loc a => mkey (spBobbin c.toNat) a
        | .dev sp off => mkey sp off
      let may (e : DmaEnd) (n : Nat) (wr : Bool) : Bool := match e with
        | .loc a => decide (a + n ≤ sramSize)
        | .dev sp off => (jobAccess s jn sp off n wr).1
      let row := if may src d.rowBytes false = true then peek s (key src) d.rowBytes else List.replicate d.rowBytes 0
      let oneRow : Prop := jobFailed s jn = false ∧ d.srcLoc ≠ d.dstLoc ∧ d.rows = 1 ∧ Memory.wf s = true ∧ Clean s ∧
        ∀ a, src = .loc a → may src d.rowBytes false = true ∨ d.op = 1
      let wrote (t : State) (bs : Bytes) : Prop := (getCore t c.toNat).dmas = ran ∧
        (may dst bs.length true = true → peek t (key dst) bs.length = bs ∧ KeepsOutside s t (key dst) bs.length) ∧
        (d.dstLoc = false → may dst bs.length true = false → KeepsMemory s t)
      let rd := expandRd s c.toNat jn src
      (d.op = 0 → ∃ t, exec (.dmaRunCopy c ch) s = .next t ∧ goes t ∧ (oneRow → wrote t row)) ∧
      (d.op = 1 → ∃ t, exec (.dmaRunExpand c ch) s = .next t ∧ goes t ∧
        ∀ sn rs ys n rs', oneRow → snapshot rd (some d.layout) = (.inr sn, rs) →
          readBlocks rd sn d.srcStride.toNat (d.rowBytes / 1024) = (ys, n, none, rs') →
          (d.srcLoc = true → ∀ r ∈ rs ++ rs', d.src.toNat + r.1 + r.2 ≤ sramSize) → wrote t (ys.take d.rowBytes)) ∧
      (d.op = 2 → ∃ t, exec (.dmaRunTern c ch) s = .next t ∧ goes t ∧
        (oneRow → (∀ b ∈ row, b.toNat ≤ 242) → wrote t (packCodes row)) ∧
        (oneRow → (∃ b ∈ row, 242 < b.toNat) → jobFailed t jn = true ∧ (getCore t c.toNat).st = 5))) ∧
    (d.ran = true → ∀ e, e = Instr.dmaRunCopy c ch ∨ e = .dmaRunExpand c ch ∨ e = .dmaRunTern c ch → exec e s = .next s) ∧
    (d.ran = false → exec (.dmaDone c ch) s = .next s) ∧
    (d.ran = true → k.ksigs = [] → exec (.dmaDone c ch) s = .next (modCore s c.toNat (fun k => { k with
        dmas := k.dmas.filter (fun e => e.order != d.order), dmaDone := smUpd 0 k.dmaDone ch.toNat (· + 1) })))) ∧
  (∀ (s : State) (k : Nat) (m : Msg), Runs s →
    (s.msgs[k]? = some m → (s.msgs.take k).any (fun q => q.src == m.src && q.dst == m.dst) = false →
      let u := { s with msgs := s.msgs.eraseIdx k }
      (coreAt s m.dst.toNat = none → exec (.messageReceive k) s =
        .next { c32 u 0x90068 1 with bounces := s.bounces ++ [{ m with found := smGet 0 s.flt.physEpoch m.dst.toNat }] }) ∧
      ∀ c, coreAt s m.dst.toNat = some c →
        let q := getCore s c
        (q.slot ≠ 0 → s.pwr.bobUp = true → q.epoch = m.depoch →
          (q.job ≠ none → q.jseq = m.jseq →
            (q.inbox.length < 64 → (∀ x, senderOf s m = some x → (getCore s x).ksigs = []) → ∃ t, exec (.messageReceive k) s = .next t ∧ t.msgs = u.msgs ∧
              (getCore t c).inbox = q.inbox ++ [inboxEntry m]) ∧
            (64 ≤ q.inbox.length → exec (.messageReceive k) s = .next s)) ∧
          (q.job = none ∨ q.jseq ≠ m.jseq → senderOf s m = none →
            exec (.messageReceive k) s = .next (c64 (c32 u 0x30144 1) 0x90060 1))) ∧
        (q.slot = 0 ∨ s.pwr.bobUp = false ∨ q.epoch ≠ m.depoch →
          exec (.messageReceive k) s = .next { c32 u 0x90068 1 with bounces := s.bounces ++ [{ m with found := q.epoch }] })) ∧
    (s.bounces[k]? = some m →
      let u := { s with bounces := s.bounces.eraseIdx k }
      (senderOf s m = none → exec (.bounceReturn k) s = .next (c64 (c32 u 0x30144 1) 0x90060 1)) ∧
      (∀ c, senderOf s m = some c → (getCore s c).eq.length < 16 → (getCore s c).ksigs = [] →
        ∃ t, exec (.bounceReturn k) s = .next t ∧ t.bounces = u.bounces ∧
          (getCore t c).eq = (getCore s c).eq ++ [bounceEntry m.hdr m.payload m.found.toNat]) ∧
      (∀ c, senderOf s m = some c → 16 ≤ (getCore s c).eq.length → (getCore s c).ksigs = [] →
        ∃ t, exec (.bounceReturn k) s = .next t ∧ t.bounces = u.bounces ∧
          (getCore t c).eq = (getCore s c).eq ∧ (getCore t c).eqOvf = true)))

/-- O37. CONV, GCONV, MATMUL, ADD and POOL: when the next layer of a running job is of that kind and none of its reads ends the job, memory and the engines' buffers hold the writes of the layer's ranks, every other byte reads as before, and the job stands at the layer that follows, item by item and program by program. RESULT gives a cascade job the lowest index among the highest scores as its class and that score as its confidence, writes both at OUT for a job of the host, and the job passes the layer. EDG_LAYER_PIECE on an engine that R305 gives to the layer counts one piece, and the last piece of a layer passes it. A job with no such layer stays as it is, but that a replay which holds its engines begins. -/
def Obligations.LayersRun : Prop :=
  (∀ (s : State) (jn : Nat), Runs s →
    let u := restartT2 s jn
    let passed (t : State) (img : Bytes) (j : Job) : Prop := ∃ i, getJob t jn = some i ∧ let q := passLayer img j
      i.layer = q.layer ∧ i.item = q.item ∧ i.back = q.back ∧ i.piece = q.piece ∧ i.edgEng = none ∧ i.st = j.st ∧ i.origin = j.origin
    let ran (v : State) (img : Bytes) (j : Job) (p : Nat) (l : Layer) : Prop :=
      let r := runRanks v jn img j p l
      let w := if endsReplay img j l then modJob r.2 jn (fun j => { j with replayable := false }) else r.2
      jobFailed r.2 jn = false ∧ jobFailed (writeOuts w jn l r.1) jn = false
    let wrote (v t : State) (img : Bytes) (j : Job) (p : Nat) (l : Layer) : Prop :=
      let r := runRanks v jn img j p l
      let w := if endsReplay img j l then modJob r.2 jn (fun j => { j with replayable := false }) else r.2
      t.mem = (writeOuts w jn l r.1).mem ∧
      (Memory.wf v = true → ∀ a, (∀ o ∈ r.1, ∀ q ∈ o.runs,
          let at_ := tgtKey q.tgt (q.first * q.bits / 8)
          a < at_ ∨ at_ + (q.first * q.bits % 8 + q.codes.length * q.bits + 7) / 8 ≤ a) → peek1 t a = peek1 v a)
    (readyLayer u jn false = none → exec (.layerConv jn) s = .next u ∧ exec (.layerGconv jn) s = .next u ∧
      exec (.layerMatmul jn) s = .next u ∧ exec (.layerAdd jn) s = .next u ∧ exec (.layerPool jn) s = .next u ∧
      exec (.layerResult jn) s = .next u) ∧
    (readyLayer u jn true = none → ∀ e, exec (.edgLayerPiece jn e) s = .next u) ∧
    (∀ j img p l, readyLayer u jn false = some (j, img, p, l) →
      (ran u img j p l →
        (l.op = lopConv → ∃ t, exec (.layerConv jn) s = .next t ∧ passed t img j ∧ wrote u t img j p l) ∧
        (l.op = lopGconv → ∃ t, exec (.layerGconv jn) s = .next t ∧ passed t img j ∧ wrote u t img j p l) ∧
        (l.op = lopMatmul → ∃ t, exec (.layerMatmul jn) s = .next t ∧ passed t img j ∧ wrote u t img j p l) ∧
        (l.op = lopAdd → ∃ t, exec (.layerAdd jn) s = .next t ∧ passed t img j ∧ wrote u t img j p l) ∧
        (l.op = lopPool → ∃ t, exec (.layerPool jn) s = .next t ∧ passed t img j ∧ wrote u t img j p l)) ∧
      (l.op = lopResult →
        let e := ((jobRanks u j)[l.first]?).getD 0
        let r := tgtRead u jn (refTgt img j e l.inRef) 0 l.ic
        let best := bestScore r.1
        jobFailed r.2 jn = false →
        ∃ t, exec (.layerResult jn) s = .next t ∧ passed t img j ∧
          (j.kind = 2 → KeepsMemory r.2 t ∧ ∃ i, getJob t jn = some i ∧ i.cls = BitVec.ofNat 16 best.1 ∧ i.conf = BitVec.ofNat 8 best.2) ∧
          (∀ sp off, j.kind = 0 → refTgt img j e l.outRef = .dev sp off → Memory.wf r.2 = true → Clean r.2 →
            (jobAccess r.2 jn sp off 4 true).1 = true →
            peek t (mkey sp off) 4 = natLE 2 best.1 ++ natLE 1 best.2 ++ [0] ∧ KeepsOutside r.2 t (mkey sp off) 4))) ∧
    (∀ j img p l e, readyLayer u jn true = some (j, img, p, l) →
      (edgNext u jn j (BitVec.toNat (w := 2) e) = false → exec (.edgLayerPiece jn e) s = .next u) ∧
      (edgNext u jn j e.toNat = true →
        (j.piece + 1 < edgPieces l →
          ∃ t, exec (.edgLayerPiece jn e) s = .next t ∧ getJob t jn = some { j with piece := j.piece + 1, edgEng := some e }) ∧
        (edgPieces l ≤ j.piece + 1 → ran (edgPass u (some e.toNat)) img j p l →
          ∃ t, exec (.edgLayerPiece jn e) s = .next t ∧ passed t img j ∧ wrote (edgPass u (some e.toNat)) t img j p l)))) ∧
  (∀ (bs : Bytes), bs ≠ [] →
    let r := bestScore bs
    (∃ b, bs[r.1]? = some b ∧ b.toNat = r.2) ∧ (∀ k b, bs[k]? = some b → b.toNat ≤ r.2 ∧ (k < r.1 → b.toNat < r.2)))

/-- O38. Writes of the protection registers that reach the block: STAGE puts the staging word, cut to its table's width, into the selected entry of the shadow; DISCARD makes the shadow the active tables; COMMIT while BUSY only sets CMD_LOST, and of tables that conflict only sets CONFLICT; else the shadow becomes active at once, the commit is counted, BUSY is 1, and a stream whose owner no longer owns it, and whose report hold has room, is CLOSING with its next generation. PROT_COMMIT_DONE clears BUSY when no running job holds or has tried a revoked right and no knot operation under a revoked right is on its way, and else changes nothing: that these hold BUSY is the model's reading of R107 (log 52). -/
def Obligations.ProtectionCommits : Prop :=
  ∀ (s : State),
    (Reached s 0 →
      (protSelOk s = true → exec .protStage s = .next { s with prot := { s.prot with
        shadow := smSet (protDefault (protTable s) (protIndex s)) s.prot.shadow (protKey (protTable s) (protIndex s))
          (BitVec.ofNat 128 (s.prot.staging.toNat % 2 ^ protWidth (protTable s))) } }) ∧
      (protSelOk s = false → exec .protStage s = .next s) ∧
      exec .protDiscard s = .next { s with prot := { s.prot with shadow := s.prot.active } } ∧
      (s.prot.busy = true → exec .protCommit s = .next { s with prot := { s.prot with cmdLost := true } }) ∧
      (s.prot.busy = false → tablesOk s.prot.shadow = false →
        exec .protCommit s = .next { s with prot := { s.prot with conflict := true } }) ∧
      (s.prot.busy = false → tablesOk s.prot.shadow = true → Canon {} s.streams →
        ∃ t, exec .protCommit s = .next t ∧
          t.prot = { s.prot with active := s.prot.shadow, old := s.prot.active, commits := s.prot.commits + 1, busy := true } ∧
          ∀ st, let x := getStream s st
            (x.ctx.state = 1 ∨ x.ctx.state = 3 ∨ x.ctx.state = 4) → reportRoom x = true → x.act = none →
            validOwner (protIn s.prot.shadow 0 st) x.ctx.owner.toNat 6 = false →
            (getStream t st).ctx.state = 2 ∧ (getStream t st).ctx.gen = x.ctx.gen + 1 ∧ (getStream t st).hold = [])) ∧
    (Runs s →
      let held : Bool := s.jobs.any (fun e => match e.2 with | some j => j.revoked | none => false) || s.knotOps.any (opRevoked s)
      (held = true → exec .protCommitDone s = .next s) ∧
      (held = false → exec .protCommitDone s = .next { s with prot := { s.prot with busy := false, old := [] } }))

/-- O39. While the device works, an FLR of a VF that exists: every job of the function is gone, every ring pair that it owns has its Reset values with the next RGEN, no stream that it owned is OPEN, SUSPENDED or FAULTED any more, and the function is in D0 with no mastering, MSI-X off and no vector set. An FLR of a function that does not exist changes nothing, and one of the PF does the same to it, and turns VF Enable off. The state of the function in configuration space, and VF Enable, after an FLR are the model's choice (log 16, PRESUMED). -/
def Obligations.FunctionResets : Prop :=
  ∀ (s : State) (fn : FnId), Runs s → Canon {} s.rings → Canon {} s.fns → Canon {} s.streams → Canon none s.jobs →
    (fnPresent s fn.toNat = false → exec (.flr fn) s = .next s) ∧
    (fnPresent s fn.toNat = true → fn ≠ 0 →
      ∃ t, exec (.flr fn) s = .next t ∧
        (∀ jn j, getJob s jn = some j → j.fn = fn → getJob t jn = none) ∧
        (∀ p, p < 1024 → ownsRing s fn.toNat p = true → getRing t p = { rgen := (getRing s p).rgen + 1 }) ∧
        (∀ st, (getStream s st).ctx.owner = fn → (getStream t st).ctx.state = 0 ∨ (getStream t st).ctx.state = 2) ∧
        (getFn t fn.toNat).dstate = 0 ∧ (getFn t fn.toNat).bme = false ∧ (getFn t fn.toNat).msixEn = false ∧
        (getFn t fn.toNat).vecs = []) ∧
    (fn = 0 → ∃ t, exec (.flr fn) s = .next t ∧ t.vfEnable = false ∧
      (∀ jn j, getJob s jn = some j → j.fn = 0 → getJob t jn = none) ∧
      (∀ st, (getStream s st).ctx.owner = 0 → (getStream t st).ctx.state = 0 ∨ (getStream t st).ctx.state = 2) ∧
      (getFn t 0).dstate = 0 ∧ (getFn t 0).bme = false ∧ (getFn t 0).msixEn = false)

/-- O40. WARM_RESET while the HOST domain runs: no ring pair is set up, no VF exists, no conduit and no subscription is left, every knot has VALUE 0 and its next epoch, no knot operation or WAIT is left, and a stream that was OPEN is SUSPENDED with its next generation and no record held, no word of memory being damaged. PERST# asserted with no sequence in progress does the same to the ring pairs and starts sequence H toward Retain; in a sequence other than H it waits for the step in progress; deasserted in Retain, with the rails good, it starts sequence B. POWER_ON in Off starts sequence A, unless the trip is latched. UNDERVOLTAGE and THERMAL_TRIP turn the device off, release or set the latch, leave no stream, ring pair, knot or slot, and keep the bytes of host memory and of the flash. -/
def Obligations.DeviceResets : Prop :=
  ∀ (s : State),
    (hostOn s = true → Canon {} s.streams → s.flaws = [] →
      ∃ t, exec .warmReset s = .next t ∧ t.rings = [] ∧ t.vfEnable = false ∧ t.conduits = [] ∧ t.subs = [] ∧ t.knotOps = [] ∧
        t.knotWaits = [] ∧ (∀ k, k < 4096 → (getKnot t k).value = 0 ∧ (getKnot t k).epoch = (getKnot s k).epoch + 1) ∧
        ∀ st, st < 16384 → (getStream s st).ctx.state = 1 →
          (getStream t st).ctx.state = 3 ∧ (getStream t st).ctx.gen = (getStream s st).ctx.gen + 1 ∧ (getStream t st).hold = []) ∧
    (hostOn s = false → exec .warmReset s = .next { s with link := {} }) ∧
    (s.pwr.state ≠ .off →
      (s.pwr.seq = [] → ∃ t, exec .perstAssert s = .next t ∧ t.pwr.perstHigh = false ∧ t.rings = [] ∧ t.pwr.goal = .retain ∧
        t.pwr.seq = (if tierUp s then [0x48, 0x49, 0x4A, 0x4B] else [0x48, 0x49, 0x4B])) ∧
      (s.pwr.seq ≠ [] → exec .perstAssert s = .next (modPwr s (fun p =>
        { p with perstHigh := false, wake := false, thenB := false, thenH := !inH s || p.thenH })))) ∧
    (s.pwr.state = .retain → s.pwr.seq = [] → s.pwr.thenH = false → s.pwr.byRequest = false → s.pwr.railReset = false →
      ∃ t, exec .perstDeassert s = .next t ∧ t.pwr.perstHigh = true ∧ t.pwr.goal = .idle ∧ t.pwr.seq.head? = some 0x10) ∧
    (inH s = true ∨ s.pwr.thenH = true → exec .perstDeassert s = .next (modPwr s (fun p =>
      { p with perstHigh := true, refclk := true, wake := false, thenB := true }))) ∧
    (s.pwr.state = .off → s.pwr.seq = [] → s.pwr.tripped = false →
      ∃ t, exec .powerOn s = .next t ∧ t.pwr.seq = [0, 1, 2, 3, 4, 5, 6, 7, 8] ∧ t.pwr.goal = .idle ∧ t.rings = [] ∧ t.streams = []) ∧
    (s.pwr.tripped = true → exec .powerOn s = .next s) ∧
    (smGet 0 s.lost 0 = 0 → Memory.wf s = true →
      let off (t : State) : Prop := t.pwr.state = .off ∧ t.rings = [] ∧ t.streams = [] ∧ t.knots = [] ∧ t.slots = [] ∧ t.jobs = [] ∧
        ∀ k, (keySpace k = spHost ∨ keySpace k = spFlash) → peek1 t k = peek1 s k
      (∃ t, exec .undervoltage s = .next t ∧ off t ∧ t.pwr.tripped = false) ∧
      (∃ t, exec .thermalTrip s = .next t ∧ off t ∧ t.pwr.tripped = true))

/-- O41. A window of an enabled PLL with REFCLK present, whose count is counted: of a locked PLL a good one changes nothing else and a bad one is a clock fault; while its lock is judged, the third good window in a row locks it, the sixteenth window without that is a clock fault, and any other goes on judging. A clock fault leaves the PLL not locked and at fault. Enabling a PLL clears its fault and begins its judgement, and disabling it takes its lock away; with PLL 5 the link goes down, which is a warm reset (R14); that a fault ends so is the model's choice (log 158), as is what stops with a PLL (logs 151 and 210). The retry judges PLL 6 again. A domain switches to REFCLK or to a locked PLL at once, counted, and to one that is not locked not at all, setting CFG_ERR. Loss of REFCLK while it is needed is fatal. The observation register only holds what is written. -/
def Obligations.ClocksLock : Prop :=
  (∀ (s : State) (p : BitVec 3) (count : BitVec 17) (x : Pll), s.plls[p.toNat]? = some x →
    let i := p.toNat
    let ok := windowOkay i x count.toNat
    let y := { x with last := count, fails := if ok then x.fails else satAdd 32 x.fails 1 }
    (s.pwr.refclk = false ∨ x.en = false ∨ (x.locked = false ∧ x.judge = none) → exec (.pllWindow p count) s = .next s) ∧
    (s.pwr.refclk = true → x.en = true →
      (x.locked = true → ok = true → exec (.pllWindow p count) s = .next (modPll s i (fun _ => y))) ∧
      ((x.locked = true ∧ ok = false) ∨ (x.locked = false ∧ ∃ w k, x.judge = some (w, k) ∧ 15 ≤ w ∧ ¬ (ok = true ∧ k = 2)) →
        ∃ t z, exec (.pllWindow p count) s = .next t ∧ t.plls[i]? = some z ∧ z.locked = false ∧ z.fault = true) ∧
      (∀ w k, x.locked = false → x.judge = some (w, k) →
        (ok = true → k = 2 →
          ∃ t, exec (.pllWindow p count) s = .next t ∧ t.plls[i]? = some { y with locked := true, fault := false, judge := none } ∧
            t = { s with plls := t.plls, doms := t.doms }) ∧
        (w < 15 → ¬ (ok = true ∧ k = 2) →
          exec (.pllWindow p count) s = .next (modPll s i (fun _ => { y with judge := some (w + 1, if ok then k + 1 else 0) })))))) ∧
  (∀ (s : State) (w : BitVec 32), Reached s 0 →
    let p := reg s 0x70004 % 8
    let d := reg s 0x70020 % 4
    (∀ x, s.plls[p]? = some x →
      (x.en = true → w.getLsbD 0 = false → p = 5 → s.link.st ≠ .down →
        ∃ t, exec (.pllEnWrite w) s = .next t ∧ t.rings = [] ∧ t.vfEnable = false ∧ t.link.st = .down) ∧
      (x.en = true → w.getLsbD 0 = false → p ≠ 5 ∨ s.link.st = .down → ∃ t z, exec (.pllEnWrite w) s = .next t ∧ t.plls[p]? = some z ∧ z.en = false ∧ z.locked = false) ∧
      (x.en = false → w.getLsbD 0 = true → x.locked = false → x.judge = none →
        s.pwr.seq ≠ [] ∨ (s.pwr.thenH = false ∧ s.pwr.thenF = false ∧ s.pwr.thenB = false ∧ s.pwr.dramDead = false) →
        ∃ t z, exec (.pllEnWrite w) s = .next t ∧ t.plls[p]? = some z ∧ z.en = true ∧ z.fault = false ∧ z.judge = some (0, 0))) ∧
    (∀ x, s.doms[d]? = some x →
      (x.src = w.getLsbD 0 → exec (.domSwitch w) s = .next (modDom s d (fun x =>
        { x with srcReq := w.getLsbD 0, smin := BitVec.ofNat 6 (w.toNat / 4) }))) ∧
      (x.src ≠ w.getLsbD 0 →
        (w.getLsbD 0 = false → pllLocked s d = false →
          ∃ t y, exec (.domSwitch w) s = .next t ∧ t.pwr.cfgErr = true ∧ t.doms[d]? = some y ∧ y.src = x.src) ∧
        (w.getLsbD 0 = true ∨ pllLocked s d = true →
          ∃ t y, exec (.domSwitch w) s = .next t ∧ t.doms[d]? = some y ∧ y.src = w.getLsbD 0 ∧
            t = { c32 s 0x70034 1 with doms := t.doms }))) ∧
    exec (.clkObsWrite w) s = .next (setReg s 0x70030 (w.toNat % 2 ^ 31))) ∧
  (∀ (s : State) (x : Pll),
    (s.plls[6]? = some x → x.fault = true → hostOn s = true → x.en = true → x.locked = false → x.judge = none →
      exec .passagePllRetry s = .next (modPll s 6 (fun x => { x with judge := some (0, 0) }))) ∧
    (hostOn s = true → s.pwr.perstHigh = true → curEntry s ≠ some 0x45 →
      ∃ t, exec .refclkLoss s = .next t ∧ t.flt.fatal = true ∧ t.pwr.refclk = false))

/-- O42. A powered rail read below 95 % of its level, with no dip under way: the dip begins with that rail and level, the tiers are held if one is powered, and the event is counted; during a dip only a lower level takes its place; a rail that is off or not below its level changes nothing. RAIL_RECOVERED of a dip that was no reset ends it and releases the tiers. A rail below 90 %: the device is in Retain with no ring pair set up, SUPPLY_RESET and a pending recovery, but a rail of the Lantern or of the SRAM starts sequence A. GOVERNOR_INTERVAL takes the readings; above a limit the first domain of Chamber, Bobbin and mesh that is not at 56, and runs if a sequence is in progress, is stretched by 4, at most to 56, and with all three at 56 the miss is counted; well below both limits the first of mesh, Bobbin and Chamber above its minimum is relaxed by 4. PWR_CLEAR clears its counters, the peak power and the lowest reading of each rail, and the residency clear the seven residency counters, and nothing else changes. Any other number of levels than 11 is no such command and ends in the fault of the model's log 23 (DESIGN CHOICE). The model's choices here: which rail and level a dip keeps (log 148), the domains that may be stretched and relaxed (log 147), that PWR_TIER_UPS goes with PWR_CLEAR (log 156). -/
def Obligations.RailsAndGovernor : Prop :=
  (∀ (s : State) (r : BitVec 4) (mv : BitVec 12),
    (railOn s r.toNat = false ∨ 95 * railNominal r.toNat ≤ 100 * mv.toNat → exec (.railWarning r mv) s = .next s) ∧
    (railOn s r.toNat = true → 100 * mv.toNat < 95 * railNominal r.toNat → s.pwr.dip = none →
      ∃ t, exec (.railWarning r mv) s = .next t ∧ t.pwr.dip = some (r, mv) ∧ t.pwr.dipHeld = tierUp s ∧ t.pwr.dipEvent = true ∧
        t = { c32 s 0x70134 1 with pwr := t.pwr, doms := t.doms }) ∧
    (∀ r0 low, railOn s r.toNat = true → 100 * mv.toNat < 95 * railNominal r.toNat → s.pwr.dip = some (r0, low) →
      ∃ t, exec (.railWarning r mv) s = .next t ∧ t.pwr.dip = some (if mv.toNat < low.toNat then (r, mv) else (r0, low)) ∧
        t = { s with pwr := t.pwr }) ∧
    (railOn s r.toNat = false ∨ 90 * railNominal r.toNat ≤ 100 * mv.toNat → exec (.railReset r mv) s = .next s) ∧
    (railOn s r.toNat = true → 100 * mv.toNat < 90 * railNominal r.toNat →
      (r ≠ 3 → r ≠ 5 → ∃ t, exec (.railReset r mv) s = .next t ∧ t.pwr.state = .retain ∧ t.pwr.seq = [] ∧ t.rings = [] ∧
        t.pwr.supplyReset = true ∧ t.pwr.railReset = true) ∧
      (r = 3 ∨ r = 5 → ∃ t, exec (.railReset r mv) s = .next t ∧ t.pwr.state = .off ∧ t.pwr.seq = [0, 1, 2, 3, 4, 5, 6, 7, 8]))) ∧
  (∀ (s : State),
    (s.pwr.dip = none → exec .railRecovered s = .next s) ∧
    (∀ r low, s.pwr.dip = some (r, low) → s.pwr.railReset = false →
      ∃ t, exec .railRecovered s = .next t ∧ t.pwr.dip = none ∧ t.pwr.dipHeld = false ∧ t.pwr.railWarn = [])) ∧
  (∀ (s : State) (p : BitVec 16) (t : BitVec 8) (rails : List (BitVec 12)),
    (rails.length ≠ 11 → ∃ f, exec (.governorInterval p t rails) s = .fault f) ∧
    (rails.length = 11 → hostOn s = true →
      let l := powerLimit s
      let tj := tjLimit s
      let above := 10 * l < p.toNat ∨ tj < t.toNat
      let under := p.toNat < 10 * (l - l / 16) ∧ t.toNat + 3 < tj
      (∃ u, exec (.governorInterval p t rails) s = .next u ∧ u.pwr.inputP = p ∧ u.pwr.tj = t ∧ s.pwr.peak.toNat ≤ u.pwr.peak.toNat ∧
        p.toNat ≤ u.pwr.peak.toNat) ∧
      (∀ d, above → [3, 2, 1].find? (fun d => mayStretch s d && decide (stretchOf s d < 56)) = some d →
        ∃ u, exec (.governorInterval p t rails) s = .next u ∧ stretchOf u d = min (stretchOf s d + 4) 56 ∧
          ∀ q, q ≠ d → u.doms[q]? = s.doms[q]?) ∧
      (above → (∀ d ∈ [3, 2, 1], 56 ≤ stretchOf s d) →
        ∃ u, exec (.governorInterval p t rails) s = .next u ∧ u.pwr.limitMiss = true ∧ u.ctrs = (c32 s 0x70128 1).ctrs) ∧
      (¬ above → ∃ u, exec (.governorInterval p t rails) s = .next u ∧ u.pwr.limitMiss = s.pwr.limitMiss ∧ u.ctrs = s.ctrs) ∧
      (∀ d, ¬ above → under → [1, 2, 3].find? (fun d => decide (sminOf s d < stretchOf s d)) = some d →
        ∃ u, exec (.governorInterval p t rails) s = .next u ∧ stretchOf u d = max (stretchOf s d - 4) (sminOf s d) ∧
          ∀ q, q ≠ d → u.doms[q]? = s.doms[q]?))) ∧
  (∀ (s : State), Reached s 0 → Canon 0 s.ctrs →
    (∃ t, exec .pwrResClear s = .next t ∧ Zeroed s t [0x70140, 0x70148, 0x70150, 0x70158, 0x7015C, 0x70160, 0x70164]) ∧
    (∃ u t, exec .pwrClear s = .next t ∧ Zeroed s u [0x70120, 0x70128, 0x70134, 0x70168] ∧
      t = { u with pwr := { s.pwr with peak := 0, railMin := [] } }))

/-- O43. TIER_UP of a tier that is down and has work, in Run or Idle with no sequence in progress, starts sequence C; TIER_DOWN of one without work starts D; WATCH_ENTRY in Idle with nothing that blocks Watch starts E, and WATCH_EXIT from Watch with something that does starts F; RETAIN_ENTRY under the conditions of R446 starts G, without its first step from Watch, and RETAIN_EXIT from Retain by request starts B with CLKREQ# asserted. When a step of C ends the next begins, and after the last the tier is powered, the state is Run and no sequence is left. Without a sequence no step ends. The PCIe link comes up only with its PLL locked, PERST# high and a speed and width of the device, degraded below 64 GT/s or x16; it enters L1, in a substate only with CLKREQ# released. A configuration request to a link that is up takes effect on its function and is answered, a read with the register's value, with a retry while the HOST domain is off or Retain is being entered; an absent function answers nothing; VF Enable written as 1 makes the VFs exist, and as 0 resets them. What a request does to a register, and VF Enable, are the model's choices where R65 to R70 name a field alone (logs 16 and 18, PRESUMED), and so is the REFCLK that RETAIN_EXIT brings (log 220). -/
def Obligations.PowerSequences : Prop :=
  ∀ (s : State),
    (Runs s → s.pwr.seq = [] →
      (∀ chm, (s.pwr.state = .run ∨ s.pwr.state = .idle) → tierIsUp s chm = false → tierWanted s chm = true →
        ∃ t, exec (.tierUp chm) s = .next t ∧ t = { s with doms := t.doms, pwr := { s.pwr with
          seqChm := chm, seq := [0x20, 0x21, 0x22, 0x23], goal := .run } }) ∧
      (∀ chm, tierIsUp s chm = true ∨ tierWanted s chm = false → exec (.tierUp chm) s = .next s) ∧
      (∀ chm, tierIsUp s chm = true → jobsIn s (fun j => tierOf j.slot.toNat == (if chm then 2 else 1)) = false →
        ∃ t, exec (.tierDown chm) s = .next t ∧ t = { s with doms := t.doms, pwr := { s.pwr with
          seqChm := chm, seq := [0x28, 0x29, 0x2A], goal := if tierIsUp s (!chm) then .run else .idle } }) ∧
      (s.pwr.state = .idle → watchBlock s = 0 →
        ∃ t, exec .watchEntry s = .next t ∧ t.pwr = { s.pwr with seq := [0x30, 0x31, 0x32], goal := .watch }) ∧
      (watchBlock s ≠ 0 → exec .watchEntry s = .next s) ∧
      (watchBlock s = 0 → exec .watchExit s = .next s) ∧
      (s.pwr.state = .watch → watchBlock s ≠ 0 →
        ∃ t, exec .watchExit s = .next t ∧ t.pwr.goal = .idle ∧ t.pwr.seq.getLast? = some 0x3B ∧ t.pwr.state = .watch) ∧
      (s.pwr.state = .idle ∨ s.pwr.state = .watch → mayRetain s = true →
        ∃ t, exec .retainEntry s = .next t ∧ t.pwr = { s.pwr with
          byRequest := true, goal := .retain
          seq := if s.pwr.state = .watch then [0x41, 0x42, 0x43, 0x44, 0x45] else [0x40, 0x41, 0x42, 0x43, 0x44, 0x45] })) ∧
    (s.pwr.state = .retain → s.pwr.byRequest = true → s.pwr.seq = [] →
      ∃ t, exec .retainExit s = .next t ∧ t.pwr.clkreq = true ∧ t.pwr.refclk = true ∧ t.pwr.goal = .idle ∧ t.pwr.seq.head? = some 0x10) ∧
    (inG s = true → exec .retainExit s = .next (modPwr s (fun p => { p with thenB := true }))) ∧
    (s.pwr.seq = [] → exec .sequenceStepDone s = .next s) ∧
    (∀ e rest, s.pwr.seq = e :: rest → stepMayEnd s e.toNat = false → exec .sequenceStepDone s = .next s) ∧
    (∀ e rest, s.pwr.seq = e :: rest → stepMayEnd s e.toNat = true → s.pwr.thenH = false →
      (e = 0x20 ∨ e = 0x21 ∨ e = 0x22 → rest.head? = some (e + 1) →
        ∃ t, exec .sequenceStepDone s = .next t ∧ t = { s with doms := t.doms, pwr := { s.pwr with seq := rest } }) ∧
      (e = 0x23 → rest = [] → s.pwr.goal = .run → s.pwr.dramDead = false →
        ∃ t, exec .sequenceStepDone s = .next t ∧ t.pwr.state = .run ∧ t.pwr.seq = [] ∧
          (if s.pwr.seqChm then t.pwr.chmUp = true ∧ t.pwr.bobUp = s.pwr.bobUp else t.pwr.bobUp = true ∧ t.pwr.chmUp = s.pwr.chmUp))) ∧
    (∀ (v : BitVec 3) (w : BitVec 5) (flit : Bool),
      (phyUp s = true → pllLocked s 5 = true → s.pwr.perstHigh = true → w = 4 ∨ w = 8 ∨ w = 16 → v = 4 ∨ v = 5 ∨ v = 6 ∧ flit = true →
        exec (.pcieLinkUp v w flit) s = .next { s with
          link := { st := .l0, speed := v, width := w, flit := flit, degraded := decide (w ≠ 16 ∨ v ≠ 6) }
          pwr := { s.pwr with wake := false } }) ∧
      (pllLocked s 5 = false ∨ s.pwr.perstHigh = false → exec (.pcieLinkUp v w flit) s = .next s)) ∧
    (∀ sub : BitVec 2,
      (linkUp s = true → s.flt.fatal = false → exec (.aspmL1Entry sub) s = .next { s with link := { s.link with
        st := .l1 (if s.pwr.clkreq = true ∨ sub = 3 then 0 else sub) } }) ∧
      (linkUp s = false → exec (.aspmL1Entry sub) s = .next s)) ∧
    (∀ (fn : FnId) (op : CfgOp),
      let u := leaveL1 s
      (s.link.st = .down ∨ phyUp s = false → exec (.configRequest fn op) s = .next s) ∧
      (s.link.st ≠ .down → phyUp s = true → hostOn s = false →
        exec (.configRequest fn op) s = .next { s with out := .cfgAnswer fn true 0 :: s.out }) ∧
      (s.link.st ≠ .down → phyUp s = true → hostOn s = true → inG s = true →
        exec (.configRequest fn op) s = .next { s with out := .cfgAnswer fn true 0 :: s.out, pwr := { s.pwr with thenB := true } }) ∧
      (s.link.st ≠ .down → phyUp s = true → hostOn s = true → inG s = false → fnPresent s fn.toNat = false →
        exec (.configRequest fn op) s = .next s) ∧
      (s.link.st ≠ .down → phyUp s = true → hostOn s = true → inG s = false → fnPresent s fn.toNat = true → Canon {} s.fns →
        let gives (op : CfgOp) (g : Fn → Fn) : Prop := ∃ t, exec (.configRequest fn op) s = .next t ∧
          t = { u with out := .cfgAnswer fn false 0 :: s.out, fns := t.fns } ∧
          ∀ f, getFn t f = if f = fn.toNat then g (getFn s f) else getFn s f
        (∀ r, exec (.configRequest fn (.read r)) s =
          .next { u with out := .cfgAnswer fn false (BitVec.ofNat 32 (cfgRead s fn.toNat r)) :: s.out }) ∧
        cfgRead s fn.toNat .id = Config.vendorId.toNat + (if fn = 0 then 0x1640 else 0x1641) * 2 ^ 16 ∧
        (∀ d, d = 0 ∨ d = 3 → gives (.powerState d) (fun x => { x with dstate := d })) ∧
        (∀ e, gives (.busMaster e) (fun x => { x with bme := e })) ∧
        (∀ e, gives (.pmeEn e) (fun x => { x with pmeEn := e })) ∧
        gives .pmeStatusClear (fun x => { x with pmeStatus := false }) ∧
        gives (.msixEnable false) (fun x => { x with msixEn := false }) ∧
        gives (.functionMask true) (fun x => { x with fmask := true }) ∧
        (∀ r w, r = .linkCtl ∨ r = .devCtl2 ∨ r = .devCtl3 ∨ r = .aerUncMask ∨ r = .aerUncSeverity ∨ r = .aerCorrMask →
          let m := BitVec.ofNat 32 (cfgMask fn.toNat r)
          let v (x : Fn) : U32 := (smGet (cfgInit r) x.cfg (cfgKey r) &&& ~~~m) ||| (w &&& m)
          gives (.write r w) (fun x => { x with cfg := smSet (cfgInit r) x.cfg (cfgKey r) (v x) })) ∧
        (fn = 0 → s.vfEnable = false → exec (.configRequest 0 (.vfEnable true)) s = .next
          { u with out := .cfgAnswer 0 false 0 :: s.out, vfEnable := true }) ∧
        (fn = 0 → s.vfEnable = true → ∃ t, exec (.configRequest 0 (.vfEnable false)) s = .next t ∧ t.vfEnable = false)))

/-- O44. EN = 1 on a port that is off and not retired starts its training and PLL 6; EN = 0 takes it down with nothing held. An enabled port that trains with the clock locked passes steps 1 to 3 one at a time and step 4 with an IDENT of another chip, and is then UP with sequence numbers 0 and the credits of R372, its unacknowledged flits numbered anew (log 120, the model's choice); without the IDENT it stays. A timeout of steps 2 to 4 starts training again, unless the peer has this chip's identity. LINK_IDENT is noted at step 4, an identity like this chip's for good. RETRAIN, and a peer's retrain, of an UP port keep it UP and train it again, counted; REVIVE clears the retirements and trains an enabled port on 4 lanes, unless it holds an identity conflict, which keeps it at step 4 (log 176, the model's choice). LEAVING and a peer timeout take an UP port down, discard what it holds, make the chips behind it lost, and train it again if it is enabled and in service, but for an identity conflict. -/
def Obligations.PortsTrain : Prop :=
  (∀ (s : State), Reached s 0 → Canon {} s.ports →
    let i := selPort s
    let p := getPort s i
    (∀ b, p.en = b → exec (.portEnWrite b) s = .next s) ∧
    (p.en = false → p.retired = false →
      ∃ t, exec (.portEnWrite true) s = .next t ∧ getPort t i = startTraining { p with en := true } ∧ t = { s with ports := t.ports, plls := t.plls }) ∧
    (p.en = true →
      ∃ t, exec (.portEnWrite false) s = .next t ∧ (getPort t i).en = false ∧ (getPort t i).up = false ∧ (getPort t i).retry = [] ∧
        (getPort t i).queue = [] ∧ (getPort t i).train = none) ∧
    (p.up = true → p.retrain = false → (if p.trainWin.1 = 0 then 1 else p.trainWin.2 + 1) ≠ 4 →
      ∃ t, exec .portRetrain s = .next t ∧ (getPort t i).up = true ∧ (getPort t i).retrain = true ∧ (getPort t i).train = (startTraining p).train ∧
        (getPort t i).retrains = satAdd 32 p.retrains 1 ∧ (getPort t i).retry = p.retry) ∧
    (∃ t, exec .portRevive s = .next t ∧ (getPort t i).retired = false ∧ (getPort t i).laneRet = 0 ∧ (getPort t i).portWin = (0, 0) ∧
      (p.idConflict = false → p.up = true ∨ p.retrain = true ∨ p.en = true → (getPort t i).train = some 0 ∧ (getPort t i).twoLanes = false) ∧
      (p.idConflict = true → (getPort t i).train = p.train ∧ (getPort t i).idConflict = true))) ∧
  (∀ (s : State) (q : BitVec 2), Runs s → Canon {} s.ports →
    let i := q.toNat
    let p := getPort s i
    (p.train = none → exec (.portTrainStep q) s = .next s ∧ exec (.portTrainTimeout q) s = .next s) ∧
    (p.en = true → p.retired = false → pllLocked s 6 = true →
      (∀ k, p.train = some k → k ≠ 3 →
        ∃ t, exec (.portTrainStep q) s = .next t ∧ (getPort t i).train = some (k + 1) ∧ (getPort t i).up = p.up) ∧
      (p.train = some 3 → p.ident = false ∨ p.idConflict = true → exec (.portTrainStep q) s = .next s) ∧
      (p.train = some 3 → p.ident = true → p.idConflict = false → p.queue = [] →
        (p.retry = [] → ∃ t, exec (.portTrainStep q) s = .next t ∧ getPort t i = { p with
          train := none, up := true, retrain := false, txSeq := 0, rxSeq := 0, credits := [64, 32, 16, 8], owed := [0, 0, 0, 0]
          nakSent := false, acked := false, nakRun := 0, bulkWait := 0 }) ∧
        (∃ t, exec (.portTrainStep q) s = .next t ∧ (getPort t i).up = true ∧ (getPort t i).retrain = false ∧
          (getPort t i).train = none ∧ (getPort t i).rxSeq = 0 ∧ (getPort t i).txSeq = BitVec.ofNat 12 p.retry.length ∧
          (getPort t i).retry.map (·.2) = p.retry.map (·.2) ∧ (getPort t i).retry.map (·.1) = (List.range p.retry.length).map (BitVec.ofNat 12)))) ∧
    (∀ k, p.train = some k → k ≠ 0 → p.idConflict = false → exec (.portTrainTimeout q) s = .next (modPort s i startTraining)) ∧
    (∀ hdr cr chip port lanes rev,
      let y := takeCredits (takeAck (tickPort p) hdr) cr
      (p.train = some 3 → exec (.linkIdent ⟨q, hdr, cr⟩ chip port lanes rev) s = .next (modPort s i (fun _ => { y with
        ident := true, peerChip := chip, peerPort := port, twoLanes := p.twoLanes || lanes == 2
        idConflict := p.idConflict || decide (chip.toNat = chipId s) }))) ∧
      (p.train ≠ some 3 → exec (.linkIdent ⟨q, hdr, cr⟩ chip port lanes rev) s = .next s) ∧
      (p.up = true → p.retrain = false → (if y.trainWin.1 = 0 then 1 else y.trainWin.2 + 1) ≠ 4 →
        ∃ t, exec (.linkRetrain ⟨q, hdr, cr⟩) s = .next t ∧ t = { s with ports := t.ports } ∧ (getPort t i).retrain = true ∧
          (getPort t i).train = (startTraining y).train ∧ (getPort t i).up = true ∧ (getPort t i).retry = y.retry ∧ (getPort t i).credits = y.credits) ∧
      (p.up = false → exec (.linkRetrain ⟨q, hdr, cr⟩) s = .next s)) ∧
    (p.up = false → exec (.linkLeaving q) s = .next s ∧ exec (.peerTimeout q) s = .next s) ∧
    (p.up = true →
      let down (t : State) : Prop := (getPort t i).up = false ∧ (getPort t i).retry = [] ∧ (getPort t i).queue = [] ∧
        (getPort t i).train = (if p.idConflict && p.en then some 3 else if p.en && !p.retired then some 0 else none) ∧ ∀ c ∈ chipsVia s i, smGet false t.lostChips c = true
      (∃ t, exec (.linkLeaving q) s = .next t ∧ down t) ∧ (∃ t, exec (.peerTimeout q) s = .next t ∧ down t)))

/-- O45. On a port that is UP and does not retrain: a data flit whose codewords decode and whose CRC holds, with the expected SEQ and a free buffer of its class, advances the SEQ, and its message, if it is for this chip and of a known type, is delivered last; any other leaves the SEQ and the delivered messages and makes a NAK due, one that finds no free buffer too (log 122, the model's choice). A link flit returns its credits and acknowledges data flits; a NAK makes the port send its unacknowledged flits from that SEQ on again; an IDLE flit takes the credits owed with it, at most 255 of each class. On a port that is not UP nothing changes. A flit with LINK 1 or another length than 248 bytes is no data flit, and ends in the fault of the model's log 23 (DESIGN CHOICE). -/
def Obligations.FlitsFlow : Prop :=
  ∀ (s : State) (q : BitVec 2), Runs s → Canon {} s.ports →
    let i := q.toNat
    let p := getPort s i
    (∀ fec corr lanes hdr pay crc, hdr.getLsbD 26 = true ∨ pay.length ≠ 248 → ∃ f, exec (.dataFlit q ⟨fec, corr, crc⟩ lanes hdr pay) s = .fault f) ∧
    (∀ corr lanes hdr pay crc, hdr.getLsbD 26 = false → pay.length = 248 →
      (p.up = false ∨ p.retrain = true → ∀ fec, exec (.dataFlit q ⟨fec, corr, crc⟩ lanes hdr pay) s = .next s) ∧
      (p.up = true → p.retrain = false →
        let m := parseMsg (hdr.extractLsb' 24 2) pay
        let next := hdr.extractLsb' 0 12 = p.rxSeq ∧ bufferFree s i hdr = true
        (crc = flitCrc hdr pay → next →
          ∃ t, exec (.dataFlit q ⟨true, corr, crc⟩ lanes hdr pay) s = .next t ∧ (getPort t i).rxSeq = p.rxSeq + 1 ∧ (getPort t i).acked = true ∧
            (getPort t i).nakSent = false ∧ (getPort t i).rxFlits = satAdd 64 p.rxFlits 1 ∧
            t.delivered = (if m.dest.toNat = chipId s ∧ mtypeOk m = true then s.delivered ++ [{ m with via := some q }] else s.delivered)) ∧
        (∀ fec, fec = false ∨ crc ≠ flitCrc hdr pay ∨ ¬ next →
          ∃ t, exec (.dataFlit q ⟨fec, corr, crc⟩ lanes hdr pay) s = .next t ∧ (getPort t i).rxSeq = p.rxSeq ∧ (getPort t i).nakSent = true ∧
            t.delivered = s.delivered))) ∧
    (∀ hdr cr, (p.up = false ∨ p.retrain = true → exec (.linkIdle q hdr cr) s = .next s ∧ ∀ n, exec (.linkNak q hdr cr n) s = .next s) ∧
      (p.up = true → p.retrain = false → p.queue = [] →
        let y := takeCredits (takeAck (tickPort p) hdr) cr
        exec (.linkIdle q hdr cr) s = .next (modPort s i (fun _ => y)) ∧
        (∀ n, ¬ (p.lastNak = n ∧ 15 ≤ p.nakRun) →
          ∃ t, exec (.linkNak q hdr cr n) s = .next t ∧ (getPort t i).naks = satAdd 32 p.naks 1 ∧ (getPort t i).retry = y.retry ∧
            t.out.length = s.out.length + (y.retry.dropWhile (fun e => e.1 != n)).length))) ∧
    (p.up = true → p.retrain = false →
      ∃ t m, exec (.creditFlitDue q) s = .next t ∧ t.out = m :: s.out ∧
        (getPort t i).owed = (List.range 4).map (fun c => p.owed[c]?.getD 0 - min 255 (p.owed[c]?.getD 0)) ∧
        t = { s with out := t.out, ports := t.ports }) ∧
    (p.up = false ∨ p.retrain = true → exec (.creditFlitDue q) s = .next s)

/-- O46. For the next bulk message of its source: an XSTART that agrees with its complements and whose rights hold opens a transfer in place of one with its XID; one that does not hold opens none, and is counted. An XDATA of an open transfer writes its bytes right behind those received, no byte elsewhere, and adds them to the transfer; once a right is gone it ends the transfer, writes nothing and is counted. An XEND of a transfer that still has its Passage right, whose bytes are complete and agree with the CRC, does the unpack of a codec, and ends the transfer with the unpack's status or without, or sends the ADD of its knot and ends it with the answer; one without the right and one whose bytes or CRC fail end the transfer, counted. XABORT ends the transfer. An XDATA and an XEND of no open transfer are counted. What counts an XSTART with a CODEC of 3 and what follows a refused one (log 124), and when a range is checked and what a length that does not fit ends with (log 125), are the model's choices. -/
def Obligations.TransfersArrive : Prop :=
  ∀ (s : State) (k : Nat) (m : PMsg),
    let u := taken s k m
    let others := s.xfers.filter (fun t => !(t.chip == m.src && t.xid == xidOf m && !t.ending))
    let counted (t : State) (off : Nat) : Prop := ctr t off = ctr (c32 s off 1) off
    (Takes s k 0 0 m →
      (xstartOk m.body = true → (parseXstart m).codec ≠ 3 → (xstartRight s (parseXstart m)).1 = true →
        exec (.rxXstart k) s = .next { u with xfers := others ++ [parseXstart m] }) ∧
      (Known s m.src → xstartOk m.body = false ∨ (parseXstart m).codec = 3 ∨ (xstartRight s (parseXstart m)).1 = false →
        ∃ t, exec (.rxXstart k) s = .next t ∧ t.xfers = others ∧ t.delivered = u.delivered ∧ t.mem = s.mem ∧
          (xstartOk m.body = false → counted t 0x60070 ∧ counted t 0x9006C ∧ counted t 0x90048) ∧
          (xstartOk m.body = true → (parseXstart m).codec = 3 → counted t 0x60070) ∧
          (xstartOk m.body = true → (parseXstart m).codec ≠ 3 → counted t 0x6006C))) ∧
    (Takes s k 0 1 m →
      (findXfer s m = none → exec (.rxXdata k) s = .next (c32 u 0x60070 1)) ∧
      (∀ x, findXfer s m = some x →
        let bs := m.body.take (x.bytes - x.data.length)
        let a := (if x.codec = 1 then x.rstg else x.dst) + BitVec.ofNat 64 x.data.length
        let right : Prop := passageRight s x.rfn.toNat 0 m.src.toNat = true ∧ (bs = [] ∨ (mayWrite s x.rfn.toNat a bs.length).1 = true)
        let grown := s.xfers.map (fun y => if y = x then { x with data := x.data ++ m.body } else y)
        (∀ sp off, bs ≠ [] → right → addrOf a.toNat = some (sp, off) → Clean s → Memory.wf s = true →
          ∃ t, exec (.rxXdata k) s = .next t ∧ peek t (mkey sp off) bs.length = bs ∧ KeepsOutside s t (mkey sp off) bs.length ∧
            t.xfers = grown) ∧
        (bs = [] → right → Clean s → ∃ t, exec (.rxXdata k) s = .next t ∧ t.mem = s.mem ∧ t.xfers = grown) ∧
        (¬ right → Known s m.src →
          ∃ t, exec (.rxXdata k) s = .next t ∧ t.xfers = others ∧ t.mem = s.mem ∧ counted t 0x6006C))) ∧
    (Takes s k 0 2 m →
      (findXfer s m = none → exec (.rxXend k) s = .next (c32 u 0x60070 1)) ∧
      (∀ x, findXfer s m = some x →
        let whole : Prop := x.data.length = x.bytes ∧ (crc32 x.data).toNat = leAt m.body 0 4
        let ended (t : State) : Prop := t.xfers = others ∧ t.knotOps = s.knotOps
        (Known s m.src → passageRight s x.rfn.toNat 0 m.src.toNat = false →
          ∃ t, exec (.rxXend k) s = .next t ∧ ended t ∧ t.mem = s.mem ∧ counted t 0x6006C) ∧
        (passageRight s x.rfn.toNat 0 m.src.toNat = true →
          (Known s m.src → ¬ whole → ∃ t, exec (.rxXend k) s = .next t ∧ ended t ∧ t.mem = s.mem ∧ counted t 0x60070) ∧
          (whole →
            let r := if x.codec = 1 then xferUnpack u x else (0, u)
            (r.1 ≠ 0 → Known r.2 m.src → ∃ t, exec (.rxXend k) s = .next t ∧ ended t ∧ t.mem = r.2.mem) ∧
            (r.1 = 0 → x.dknot = none → Known r.2 m.src → ∃ t, exec (.rxXend k) s = .next t ∧ ended t ∧ t.mem = r.2.mem) ∧
            (∀ kn ep, r.1 = 0 → x.dknot = some (kn, ep) →
              exec (.rxXend k) s = .next { r.2 with
                xfers := s.xfers.map (fun y => if y = x then { x with ending := true } else y)
                knotOps := s.knotOps ++ [{ op := 0, knot := kn, epoch := ep, amount := 1, fn := x.rfn
                                           origin := .conduitDone (x.chip.toNat * 4096 + x.xid.toNat) }] }))))) ∧
    (Takes s k 0 3 m → exec (.rxXabort k) s = .next { u with xfers := others })

/-- O47. A write of PSG_CND_CTRL with EN 1 to a conduit that was disabled and sends nothing makes it wait with its first value and COUNT 0, and sends its WAIT; with EN 0 it is disabled. CONDUIT_TRIGGER of a conduit whose WAIT has been released: with its rights and its chip reachable, without a codec and without poison, it sends with the next XID and its next value; without its rights it stops with PROTECTION, and with a lost chip with PEER_LOST. An XACK of the transfer with OK, or with STALE_DROPPED of its knot, counts it, saturating, and waits again; another status stops the conduit with it. A conduit that is not ready stays as it is. -/
def Obligations.ConduitsRun : Prop :=
  ∀ (s : State), Canon {} s.conduits →
    (∀ w : BitVec 32, Reached s 0 →
      let n := reg s 0x60100 % 256
      let c := getConduit s n
      (w.getLsbD 0 = true → c.ctrl.getLsbD 0 = false → c.state ≠ 2 →
        ∃ t, exec (.conduitEnable w) s = .next t ∧ getConduit t n = { c with
            ctrl := w &&& 0x07FFFFFF, next := cndTinc c, count := 0, state := 1, armed := true, ready := false } ∧
          (∃ o, t.knotOps.getLast? = some o ∧ o.op = 2 ∧ o.origin = .conduitTrig (BitVec.ofNat 8 n) ∧ o.amount = cndTinc c ∧
            o.knot = BitVec.ofNat 12 c.trig.toNat)) ∧
      (w.getLsbD 0 = false →
        ∃ t, exec (.conduitEnable w) s = .next t ∧ (getConduit t n).state = 0 ∧ (getConduit t n).ctrl.getLsbD 0 = false ∧
          (getConduit t n).armed = false)) ∧
    (∀ n : BitVec 8, Runs s →
      let i := n.toNat
      let c := getConduit s i
      (c.state ≠ 1 ∨ c.ready = false → exec (.conduitTrigger n) s = .next s) ∧
      (c.state = 1 → c.ready = true →
        ((cndRights s c).1 = false →
          ∃ t, exec (.conduitTrigger n) s = .next t ∧ (getConduit t i).state = 3 ∧ (getConduit t i).status = 6) ∧
        ((cndRights s c).1 = true → chipLost s (cndChip c) = true →
          ∃ t, exec (.conduitTrigger n) s = .next t ∧ (getConduit t i).state = 3 ∧ (getConduit t i).status = 0x0B) ∧
        (∀ src, (cndRights s c).1 = true → chipLost s (cndChip c) = false → fld c.ctrl.toNat 7 2 = 0 ∨ fld c.ctrl.toNat 7 2 = 2 → c.len ≠ 0 →
          addrOf c.src.toNat = some src → Clean s →
          ∃ t, exec (.conduitTrigger n) s = .next t ∧ t.nextXid = s.nextXid + 1 ∧ t.mem = s.mem ∧
            getConduit t i = { c with next := c.next + cndTinc c, state := 2, ready := false, xid := s.nextXid }))) ∧
    (∀ k m n c, Takes s k 0 4 m →
      s.conduits.find? (fun e => e.2.state == 2 && e.2.xid == xidOf m && cndChip e.2 == m.src.toNat) = some (n, c) →
      (leAt m.body 0 1 = 0 ∨ leAt m.body 0 1 = 2 →
        ∃ t, exec (.rxXack k) s = .next t ∧ getConduit t n = { c with
          state := 1, count := if c.count = 0xFFFFFFFF then c.count else c.count + 1, armed := true, ready := false }) ∧
      (leAt m.body 0 1 ≠ 0 → leAt m.body 0 1 ≠ 2 →
        ∃ t, exec (.rxXack k) s = .next t ∧ (getConduit t n).state = 3 ∧ (getConduit t n).status = BitVec.ofNat 8 (leAt m.body 0 1)))

/-- O48. For the next event message of its source: an EVENTS of 1 to 26 events, each for a stream fed from other chips whose owner holds the Passage right, puts as many remote events in flight; any other count is counted as bad. A STEP_END of a fed stream of its generation, with the right: if the open step's input is complete it is kept for the next step, else if as many events of its chip have been accepted as it says the input is complete, else it waits. One that is stale or has no right changes no instance; that without a right is counted. A STEP_ACK of the step that waits for it opens the next step, and the step's decision is taken or waits; one for a stream without an instance or without such a step, of another generation or of another step is counted as bad. For the next control message, agreeing with its complements: a KOP sends its ADD to the knot store on behalf of the chip; a KOP_REPLY answers the forwarded ADD of its token and chip, and a descriptor that asked ends with the reply's status; a SUBSCRIBE of a chip with the right, with fewer than 256 others, is held once; a SUB_REPLY with OK to a pending bind makes the knot a mirror with the home's VALUE and EPOCH, any other status ends the bind with BIND_ERR; an UPDATE gives a mirror its home's VALUE and EPOCH; an UNSUBSCRIBE removes the subscription. One that does not agree is counted and changes no knot, no subscription and no knot operation. The model's choices: an ADD on a mirror travels unchecked (log 91), the tokens (log 92), the refusal beyond 256 and its count (log 94). -/
def Obligations.StepsAndKnotsCrossChips : Prop :=
  (∀ (s : State) (k : Nat) (m : PMsg),
    let u := taken s k m
    (Takes s k 1 0 m →
      let n := m.tagw.toNat % 32
      (n = 0 ∨ 26 < n → exec (.rxEvents k) s = .next (c32 u 0x60070 1)) ∧
      (1 ≤ n → n ≤ 26 →
        (∀ e, e < n → let st := fld (leAt m.body (8 * e) 8) 50 14
          isRemoteFed s st = true ∧ passageRight s (getStream s st).ctx.owner.toNat 1 m.src.toNat = true) →
        ∃ t es, exec (.rxEvents k) s = .next t ∧ t.events = s.events ++ es ∧ es.length = n ∧ (∀ e ∈ es, e.src = some m.src) ∧
          t = { u with events := t.events, insts := t.insts })) ∧
    (Takes s k 1 1 m →
      let a := leAt m.body 0 4
      let b := leAt m.body 4 4
      let st := fld b 0 14
      let x := getStream s st
      (Known s m.src → isRemoteFed s st = false ∨ x.ctx.gen.toNat ≠ fld b 14 4 ∨ passageRight s x.ctx.owner.toNat 1 m.src.toNat = false →
        ∃ t, exec (.rxStepEnd k) s = .next t ∧ t.insts = s.insts ∧ t.streams = s.streams ∧
          (isRemoteFed s st = true → x.ctx.gen.toNat = fld b 14 4 → ctr t 0x6006C = ctr (c32 s 0x6006C 1) 0x6006C)) ∧
      (∀ i, getInst s st = some i → isRemoteFed s st = true → x.ctx.gen.toNat = fld b 14 4 →
        passageRight s x.ctx.owner.toNat 1 m.src.toNat = true →
        let e : Option (ChipId × StreamId × Gen × Stamp × Nat) :=
          some (m.src, BitVec.ofNat 14 a, BitVec.ofNat 4 (fld a 14 4), BitVec.ofNat 20 (leAt m.body 8 4), leAt m.body 12 4)
        (x.inputDone = true ∨ x.waiting ≠ none →
          exec (.rxStepEnd k) s = .next (setInst u st (some { i with nextEnd := e, srcChip := some m.src }))) ∧
        (x.inputDone = false → x.waiting = none →
          (smGet 0 i.remoteIn m.src.toNat < leAt m.body 12 4 →
            exec (.rxStepEnd k) s = .next (setInst u st (some { i with remoteEnd := e, srcChip := some m.src }))) ∧
          (leAt m.body 12 4 ≤ smGet 0 i.remoteIn m.src.toNat → Known s m.src →
            ∃ t, exec (.rxStepEnd k) s = .next t ∧ getStream t st = { x with inputDone := true } ∧ OneStream s t st ∧
              getInst t st = some { i with remoteEnd := none, srcChip := some m.src })))) ∧
    (Takes s k 1 2 m →
      let a := leAt m.body 0 4
      let st := fld a 0 14
      let stamp := fld (leAt m.body 8 4) 0 20
      let gen := fld a 14 4
      ((getInst s st = none ∨ ∃ i, getInst s st = some i ∧ (i.waitAck = none ∨ (getStream s st).ctx.gen.toNat ≠ gen ∨
          ∃ w n, i.waitAck = some (w, n) ∧ w.toNat ≠ stamp)) → exec (.rxStepAck k) s = .next (c32 u 0x60070 1)) ∧
      (∀ i n, getInst s st = some i → i.waitAck = some (i.openStep, n) → (getStream s st).ctx.gen.toNat = gen →
        i.openStep.toNat = stamp → (getStream s st).ctx.state ≠ 0 →
        let r := readout s (instPlace s i) i.openStep.toNat
        ∃ t j, exec (.rxStepAck k) s = .next t ∧ getInst t st = some j ∧ j.openStep = i.openStep + 1 ∧ j.waitAck = none ∧
          ClosedOrWaits s t st { stamp := i.openStep, conf := r.1, cls := r.2 }))) ∧
  (∀ (s : State) (k : Nat) (m : PMsg), Canon {} s.knots →
    let u := taken s k m
    let b := m.body
    let v := BitVec.ofNat 32 (kopAmount b)
    let e := BitVec.ofNat 16 (kopEpoch b)
    let counted (t : State) (off : Nat) : Prop := ctr t off = ctr (c32 s off 1) off
    let same (t : State) : Prop := t.knots = s.knots ∧ t.subs = s.subs ∧ t.knotOps = s.knotOps
    let refused (t : State) : Prop := same t ∧ counted t 0x60070 ∧ counted t 0x9006C ∧ counted t 0x90048
    let adopted (t : State) (n : Nat) : Prop := (getKnot t n).value = v ∧ (getKnot t n).nvalue = ~~~v ∧ (getKnot t n).epoch = e ∧
      (getKnot t n).nepoch = ~~~e ∧ ∀ q, q ≠ n → (getKnot t q).value = (getKnot s q).value ∧ (getKnot t q).epoch = (getKnot s q).epoch
    (Takes s k 2 0 m →
      (kopOk b = true → exec (.rxKop k) s = .next { u with knotOps := s.knotOps ++ [{
        op := 0, knot := BitVec.ofNat 12 (kopKnot b), epoch := e, amount := v, malformed := fld (leAt b 0 2) 12 4 != 0
        fn := 0, chip := some m.src
        origin := .remote m.src (BitVec.ofNat 32 (kopToken b)) }] }) ∧
      (kopOk b = false → Known s m.src → ∃ t, exec (.rxKop k) s = .next t ∧ refused t)) ∧
    (Takes s k 2 1 m →
      (kopOk b = false → exec (.rxKopReply k) s = .next (c32 (c32 (c32 u 0x60070 1) 0x9006C 1) 0x90048 1)) ∧
      (∀ f q d, kopOk b = true →
        s.kfwd.find? (fun f => f.token == BitVec.ofNat 32 (kopToken b) && f.chip == m.src) = some f →
        f.op.origin = .ring q → findDesc s q = some d →
        ∃ t, exec (.rxKopReply k) s = .next t ∧ t.kfwd = s.kfwd.filter (fun g => g.token != BitVec.ofNat 32 (kopToken b)) ∧
          Ends s t q.pair d { status := BitVec.ofNat 8 (kopStatus b) })) ∧
    (Takes s k 2 2 m →
      let n : Sub := { knot := BitVec.ofNat 12 (kopKnot b), chip := m.src, rknot := BitVec.ofNat 12 (kopToken b) }
      let rest := s.subs.filter (fun x => x != n)
      (Known s m.src → kopOk b = true → chipMayUse s (kopKnot b) m.src.toNat = true → rest.length < 256 →
        ∃ t, exec (.rxSubscribe k) s = .next t ∧ t.subs = rest ++ [n] ∧ t.knots = s.knots) ∧
      (Known s m.src → kopOk b = false → ∃ t, exec (.rxSubscribe k) s = .next t ∧ refused t) ∧
      (Known s m.src → kopOk b = true → chipMayUse s (kopKnot b) m.src.toNat = false →
        ∃ t, exec (.rxSubscribe k) s = .next t ∧ same t ∧ counted t 0x3012C) ∧
      (Known s m.src → kopOk b = true → chipMayUse s (kopKnot b) m.src.toNat = true → 256 ≤ rest.length →
        ∃ t, exec (.rxSubscribe k) s = .next t ∧ same t)) ∧
    (Takes s k 2 3 m →
      (kopOk b = false → exec (.rxSubReply k) s = .next (c32 (c32 (c32 u 0x60070 1) 0x9006C 1) 0x90048 1)) ∧
      (∀ n, kopOk b = true → kopMirror s m true = some n →
        (kopStatus b = 0 → ∃ t, exec (.rxSubReply k) s = .next t ∧ adopted t n ∧ (getKnot t n).bindPend = false ∧
          (getKnot t n).mirror = true) ∧
        (kopStatus b ≠ 0 → exec (.rxSubReply k) s = .next (modKnot u n (fun x =>
          { x with bindPend := false, mirror := false, bindErr := true }))))) ∧
    (Takes s k 2 4 m →
      (kopOk b = false → exec (.rxUpdate k) s = .next (c32 (c32 (c32 u 0x60070 1) 0x9006C 1) 0x90048 1)) ∧
      (∀ n, kopOk b = true → kopMirror s m false = some n →
        ∃ t, exec (.rxUpdate k) s = .next t ∧ adopted t n ∧ (getKnot t n).mirror = true)) ∧
    (Takes s k 2 5 m →
      (kopOk b = false → exec (.rxUnsubscribe k) s = .next (c32 (c32 (c32 u 0x60070 1) 0x9006C 1) 0x90048 1)) ∧
      (kopOk b = true → exec (.rxUnsubscribe k) s = .next { u with subs := s.subs.filter (fun x =>
        !(x.knot.toNat == kopKnot b && x.chip == m.src && x.rknot.toNat == kopToken b % 4096)) })))

/-- O49. For the next management message of its source: a LOSS makes the chip that it names lost; an RREAD answers with the register's word, with PROTECTION without the right, counted in PSG_PROT, and with ones where there is no register, counted in FLT_CORR (both counts are log 129, the model's choice), and leaves the streams, the rings, the knots, the memory and the plain registers as they are; an RREAD_REPLY from the chip that is being read ends the read with its word and status, and any other is counted as bad. GO, with no read in progress, starts a read of the chip, or ends it at once with PEER_LOST if the chip is lost; while one is in progress it is ignored. CHIP_RETURN makes the chip that PSG_CHIP_RETURN names no longer lost, once the path to it is up, its loss having been settled first. -/
def Obligations.ManagementMessages : Prop :=
  ∀ (s : State) (k : Nat) (m : PMsg),
    let u := taken s k m
    (Takes s k 3 0 m → ∃ t, exec (.rxLoss k) s = .next t ∧ smGet false t.lostChips (leAt m.body 0 2 % 4096) = true ∧
      t.delivered = u.delivered) ∧
    (Takes s k 3 1 m → Known s m.src →
      let off := leAt m.body 0 4 % 2 ^ 20
      let right := remoteBlock off && passageRight s 0 3 m.src.toNat
      let answer (v : State) (w st : Nat) : State := psgSend v 3 2 m.src.toNat 0 (natLE 4 w ++ natLE 1 st)
      (∃ t, exec (.rxRread k) s = .next t ∧ t.delivered = u.delivered ∧ t.streams = s.streams ∧ t.rings = s.rings ∧
        t.knots = s.knots ∧ t.mem = s.mem ∧ t.regs = s.regs) ∧
      (right = false → exec (.rxRread k) s = .next (answer (c32 u 0x6006C 1) 0 6)) ∧
      (right = true → reaches u 0 off = none → exec (.rxRread k) s = .next (answer (c32 u 0x90040 1) 0xFFFFFFFF 0)) ∧
      (right = true → reaches u 0 off ≠ none → exec (.rxRread k) s = .next (answer (readBar0 u 0 off).2 (readBar0 u 0 off).1.toNat 0))) ∧
    (Takes s k 3 2 m →
      (s.rreg.busy = true → s.rreg.chip = m.src → ∃ t, exec (.rxRreadReply k) s = .next t ∧
        t.rreg = { s.rreg with busy := false, status := BitVec.ofNat 8 (leAt m.body 4 1), data := BitVec.ofNat 32 (leAt m.body 0 4) }) ∧
      (s.rreg.busy = false ∨ s.rreg.chip ≠ m.src → exec (.rxRreadReply k) s = .next (c32 u 0x60070 1))) ∧
    (Reached s 0 →
      let chip := reg s 0x60080 % 4096
      (s.rreg.busy = true → exec .rregGo s = .next s) ∧
      (s.rreg.busy = false → chipLost s chip = true → ∃ t, exec .rregGo s = .next t ∧
        t.rreg = { s.rreg with chip := BitVec.ofNat 12 chip, busy := false, status := 0x0B }) ∧
      (s.rreg.busy = false → chipLost s chip = false → ∃ t, exec .rregGo s = .next t ∧
        t.rreg = { s.rreg with chip := BitVec.ofNat 12 chip, busy := true } ∧
        t = { s with rreg := t.rreg, ports := t.ports, out := t.out, ctrs := t.ctrs }) ∧
      (let back := reg s 0x60050 % 4096
       let v := settleLoss s
       (s.lossDue = [] → v = s) ∧
       (pathUp v back = true → exec .chipReturn s = .next { v with lostChips := smSet false v.lostChips back false }) ∧
       (pathUp v back = false → exec .chipReturn s = .next v)))

/-- O50. A write of 1 to a clear register that reaches the block sets each counter of its table to 0 and leaves every other counter, register and part of the state as it is: CSC, PIC, BOB, BOB_MSG, CHM, EDG, the codec, and FLT. GAL_CLEAR also clears the peak of the snapshot units and the scrub passes; PSG_CLEAR also the counters of the four ports and of every conduit. HIF_FN_CLEAR clears the five counters of the function that writes it. CLR_STREAMS marks every OPEN or CLOSING stream to be cleared at its next step boundary. CLR of the selected saturation counter and CLR_ALL clear DRIFT, DRIFTS, EVT, OUT and the window counts, not the configuration. That the peak of the snapshot units and the scrub passes go with GAL_CLEAR is the model's choice (log 117). -/
def Obligations.Clears : Prop :=
  ∀ (s : State) (fn : FnId), Canon 0 s.ctrs → Canon {} s.satCtrs → Canon {} s.ports → Canon {} s.fns → Canon {} s.conduits →
    let zeroes (c : Instr) (offs : List Nat) : Prop := ∃ t, exec c s = .next t ∧ Zeroed s t offs
    let zeroSat (c : SatCtr) : SatCtr :=
      { c with winSat := 0, winOut := 0, winDrift := false, evt := 0, outs := 0, drift := false, drifts := 0 }
    (Reached s 0 →
      zeroes .cscClear [0x08010, 0x08018, 0x08020, 0x08028, 0x08030, 0x08038, 0x08040, 0x08048, 0x0804C, 0x08050] ∧
      zeroes .picClear [0x20040, 0x20048, 0x20050, 0x20058, 0x2005C, 0x20060, 0x20064, 0x20068, 0x2006C, 0x20070, 0x20074, 0x20078, 0x2007C] ∧
      zeroes .bobClear [0x30040, 0x30048, 0x30050, 0x30058, 0x30060, 0x30068, 0x3006C, 0x30070, 0x30074] ∧
      zeroes .bobMsgClear [0x30120, 0x30128, 0x3012C, 0x30130, 0x30134, 0x30138, 0x30140, 0x30144, 0x30148, 0x3014C] ∧
      zeroes .chmClear [0x40040, 0x40048, 0x40050, 0x40058, 0x40060, 0x40068, 0x40070, 0x40074, 0x40078] ∧
      zeroes .edgClear [0x48040, 0x48048, 0x48050, 0x48054, 0x48058] ∧
      zeroes .galCodecClear [0x58010, 0x58018, 0x58020, 0x58028, 0x58030, 0x58034, 0x58038] ∧
      (∃ u t, exec .galClear s = .next t ∧
        Zeroed s u [0x50040, 0x50044, 0x50048, 0x5004C, 0x50050, 0x50054, 0x50058, 0x50060, 0x50068, 0x50070, 0x50078] ∧
        t = { u with memLogs := { s.memLogs with snapPeak := 0, sramPass := 0, dramPass := 0 } }) ∧
      (∃ u t, exec .psgClear s = .next t ∧ Zeroed s u [0x60060, 0x60064, 0x60068, 0x6006C, 0x60070, 0x60074] ∧
        t = { u with ports := t.ports, conduits := t.conduits } ∧ (∀ n, getConduit t n = { getConduit s n with count := 0 }) ∧
        ∀ i, getPort t i = if i < 4 then
          { getPort s i with txFlits := 0, rxFlits := 0, fecUncorr := 0, naks := 0, retrains := 0, laneCorr := 0 }
          else getPort s i) ∧
      (∃ t, exec .clrStreams s = .next t ∧ t = { s with streams := t.streams } ∧
        ∀ st, getStream t st = if (getStream s st).ctx.state = 1 ∨ (getStream s st).ctx.state = 2
          then { getStream s st with clrPending := true } else getStream s st)) ∧
    (Reached s fn.toNat → ∃ t, exec (.fnClear fn) s = .next t ∧ t = { s with fns := t.fns } ∧
      ∀ f, getFn t f = if f = fn.toNat then { getFn s f with dbErr := 0, descErr := 0, stale := 0, prot := 0, irqLost := 0 } else getFn s f) ∧
    (ReachedFlt s →
      zeroes .fltClear [0x90040, 0x90044, 0x90048, 0x9004C, 0x90050, 0x90054, 0x90058, 0x9005C, 0x90060, 0x90068, 0x9006C] ∧
      (∃ t, exec .satClr s = .next t ∧ t = { s with satCtrs := t.satCtrs } ∧
        ∀ n, getSat t n = if n = reg s 0x94000 % 4096 then zeroSat (getSat s n) else getSat s n) ∧
      (∃ t, exec .satClrAll s = .next t ∧ t = { s with satCtrs := t.satCtrs } ∧ ∀ n, getSat t n = zeroSat (getSat s n)))

/-- O51. A write that reaches the block of a register that only holds what is written puts the writable bits of the word into it, a read of it then returns them, and nothing else changes. A write of a 64-bit counter or of a CAP_ register changes nothing, and after a fatal event neither does one of a register outside FLT_. FLT_SAT_CFG and FLT_SAT_THRESH set their field of the selected counter and restart its window. PIC_BRIDGE holds its word for the selected stream's next step boundary. A range or placement of the selected slot that does not fit, or that clashes with another, sets RANGE_ERR and changes nothing else, and so does a range in force that cannot move; one for a Bobbin placement that holds a version is ignored, and for a Chamber placement it sets RANGE_ERR; any other takes effect. A write of a vector's words in the MSI-X table replaces its address, its data or its mask, and a read of BAR4 answers its word. A read of a register answers it; that of the low half of a 64-bit register latches the high half for the function, whose next read of the high half answers what was latched and uses it up. The model's choices here: the layout of the MSI-X table (PRESUMED, log 17), that a read uses the latch up (log 24), and what a write of a range in force does (log 63). -/
def Obligations.RegisterWrites : Prop :=
  ∀ (s : State) (w : U32),
    (Reached s 0 →
      (∀ e, e ∈ plainMask → smWf regReset s.regs = true →
        ∃ t, exec (.registerWrite 0 false (BitVec.ofNat 20 e.1) w) s = .next t ∧ t = { s with regs := t.regs } ∧
          readReg t 0 e.1 = w.toNat &&& e.2 ∧ ∀ o, o ≠ e.1 → reg t o = reg s o) ∧
      (∀ off : BitVec 20, off.toNat ∈ ctr64 ∨ off = 0xA0000 ∨ off = 0xA0004 ∨ off = 0xA0008 ∨ off = 0xA000C →
        exec (.registerWrite 0 false off w) s = .next s) ∧
      (∀ i, getInst s (reg s 0x20038 % 16384) = some i →
        ∃ t, exec (.picBridgeWrite w) s = .next t ∧ t = { s with insts := t.insts } ∧
          getInst t (reg s 0x20038 % 16384) = some { i with bridgePend := some (w &&& 0x7FFFFFFF) } ∧
          ∀ q, q ≠ reg s 0x20038 % 16384 → getInst t q = getInst s q) ∧
      (∀ b, let n := reg s 0x20020 % 64
        let v := w.toNat % 2 ^ 19
        (512 < rangeBase v + rangeCount v ∨ rangeClash s n v = true →
          exec (.picRangeWrite b w) s = .next (modSlot s n (fun x => { x with rangeErr := true }))) ∧
        (rangeBase v + rangeCount v ≤ 512 → rangeClash s n v = false →
          let x := getSlot s n
          let put (x : Slot) : Slot := if b then { x with placeB := BitVec.ofNat 32 v } else { x with placeA := BitVec.ofNat 32 v }
          (activeVersion s n = none ∨ b ≠ x.activeB → exec (.picRangeWrite b w) s = .next (modSlot s n put)) ∧
          (∀ ver, activeVersion s n = some ver → b = x.activeB →
            let copies := slotInsts s n = 0 ∧ t0Span ver.image ≤ rangeCount v ∧ rangesMeet v (rangeOf0 x x.activeB) = false
            (copies → ∃ t, exec (.picRangeWrite b w) s = .next t ∧ getSlot t n = put x ∧ ∀ q, q ≠ n → getSlot t q = getSlot s q) ∧
            (¬ copies → exec (.picRangeWrite b w) s = .next (modSlot s n (fun x => { x with rangeErr := true })))))) ∧
      (∀ b, let n := reg s 0x30020 % 256
        let v := w.toNat % 2 ^ 18
        let fits := placeOk v = true ∧ placeMeets s v (fun _ _ => false) = false
        tierOf n = 1 →
        (¬ fits → exec (.bobPlaceWrite b w) s = .next (modSlot s n (fun x => { x with rangeErr := true }))) ∧
        (fits → (versionOf (getSlot s n) b).isSome = true → exec (.bobPlaceWrite b w) s = .next s) ∧
        (fits → versionOf (getSlot s n) b = none → exec (.bobPlaceWrite b w) s = .next (modSlot s n (fun x =>
          if b then { x with placeB := BitVec.ofNat 32 v } else { x with placeA := BitVec.ofNat 32 v })))) ∧
      (∀ b, let n := reg s 0x40020 % 256
        let v := w.toNat % 2 ^ 16
        tierOf n = 2 →
        ((versionOf (getSlot s n) b).isSome = true →
          exec (.chmPlaceWrite b w) s = .next (modSlot s n (fun x => { x with rangeErr := true }))) ∧
        (versionOf (getSlot s n) b = none → exec (.chmPlaceWrite b w) s = .next (modSlot s n (fun x =>
          if b then { x with placeB := BitVec.ofNat 32 v } else { x with placeA := BitVec.ofNat 32 v }))))) ∧
    (ReachedFlt s →
      (∀ off : BitVec 20, s.flt.fatal = true → assigned off.toNat = true → off.toNat / 0x10000 ≠ 9 →
        exec (.registerWrite 0 false off w) s = .next s) ∧
      (∀ thresh, Canon {} s.satCtrs →
        ∃ t, exec (.satCfgWrite thresh w) s = .next t ∧ t = { s with satCtrs := t.satCtrs } ∧
          ∀ n, getSat t n = if n ≠ reg s 0x94000 % 4096 then getSat s n
            else if thresh then { getSat s n with winSat := 0, winOut := 0, winDrift := false, thresh := w }
            else { getSat s n with winSat := 0, winOut := 0, winDrift := false, winLog2 := BitVec.ofNat 5 w.toNat })) ∧
    (∀ (fn : FnId) (off : BitVec 20), Reached s fn.toNat → Canon {} s.fns → Canon {} (getFn s fn.toNat).vecs →
      off.toNat / 16 < tableSize s fn.toNat →
      let v := off.toNat / 16
      let e := smGet {} (getFn s fn.toNat).vecs v
      let gives (x : MsixVec) : Prop := ∃ t, exec (.registerWrite fn true off w) s = .next t ∧ t = { s with fns := t.fns } ∧
        smGet {} (getFn t fn.toNat).vecs v = x ∧ ∀ q, q ≠ v → smGet {} (getFn t fn.toNat).vecs q = smGet {} (getFn s fn.toNat).vecs q
      (off.toNat % 16 = 0 → gives { e with addr := putHalf e.addr false w.toNat }) ∧
      (off.toNat % 16 = 4 → gives { e with addr := putHalf e.addr true w.toNat }) ∧
      (off.toNat % 16 = 8 → gives { e with data := w }) ∧
      (off.toNat % 16 = 12 → (getFn s fn.toNat).msixEn = false → gives { e with masked := bitOf w.toNat 0 })) ∧
    (∀ (fn : FnId) (off : BitVec 20) (o : Nat), regsRun s = true → fnPresent s fn.toNat = true → off.toNat % 4 = 0 → Canon {} s.fns →
      (exec (.lowHalfRead fn ⟨true, off⟩) s =
        .next { s with out := .msixData fn off (BitVec.ofNat 32 (readMsix s fn.toNat off.toNat)) :: s.out }) ∧
      (reaches s fn.toNat off.toNat = some o →
        let l := (getFn s fn.toNat).latch
        (∀ h, smFind l o = some h → exec (.lowHalfRead fn ⟨false, off⟩) s = .next { modFn s fn.toNat (fun f =>
          { f with latch := l.filter (fun e => e.1 != o) }) with out := .readData fn off h :: s.out }) ∧
        (smFind l o = none → lowHalf o = true →
          exec (.lowHalfRead fn ⟨false, off⟩) s = .next { modFn s fn.toNat (fun f =>
            { f with latch := smPut l (o + 4) (BitVec.ofNat 32 (readReg s fn.toNat (o + 4))) }) with
              out := .readData fn off (BitVec.ofNat 32 (readReg s fn.toNat o)) :: s.out }) ∧
        (smFind l o = none → lowHalf o = false →
          ∃ t, exec (.lowHalfRead fn ⟨false, off⟩) s = .next t ∧ t.out = .readData fn off (BitVec.ofNat 32 (readReg s fn.toNat o)) :: s.out ∧
            t = { s with out := t.out, lnt := t.lnt })))

/-- O52. If an access of a function to BAR0 is not a naturally aligned 32-bit access, or addresses an unassigned offset, a write is discarded and a read returns 0xFFFF_FFFF; the access is counted as a corrected-class event (FLT_CORR, which saturates), and nothing else changes. -/
def Obligations.UnassignedAccess : Prop :=
  ∀ (s : State) (fn : FnId) (off : BitVec 20) (size : Nat) (w : U32),
    regsRun s = true → fnPresent s fn.toNat = true → s.lnt.recovery = false →
    ∃ u, ctr u 0x90040 = satAdd 32 (ctr s 0x90040) 1 ∧ (∀ o, o ≠ 0x90040 → ctr u o = ctr s o) ∧ u = { s with ctrs := u.ctrs } ∧
      (size ≠ 4 ∨ off.toNat % 4 ≠ 0 ∨ pfOffset fn.toNat off.toNat = none →
        exec (.badBar0Access fn off size true) s = .next u ∧
        exec (.badBar0Access fn off size false) s = .next { u with out := .readData fn off 0xFFFFFFFF :: s.out }) ∧
      (off.toNat % 4 ≠ 0 ∨ pfOffset fn.toNat off.toNat = none → exec (.registerWrite fn false off w) s = .next u)

/-- O53. While the device works: a logic check on an engine or core with no job, or on a retired Edging engine, codec unit or Picot core, changes nothing; on the last Edging engine in service it is fatal; on another Edging engine whose repeat passes, below the threshold of its window, it leaves one record; at the threshold, or if the repeat fails, the engine is retired and counted if thresholds retire, else not. On a unit in service of a Bobbin or Chamber job that runs and may be replayed, on its first or second attempt, with no check before it, below the threshold of its window, the job is queued again for its next attempt. Each read of a scrubber that is enabled and whose memory is awake (in Watch, SRAM below the shared area) and holds no error advances its position, the last line or unit closing a pass; with no finding no byte and no poison changes; a corrected finding is counted, also in the corrected class; an uncorrectable one is counted and poisons its word or sector (with no window open). A stack above 85 degrees becomes HOT, and stays so until it is below 83. FLT_LOG_TAIL takes an index from TAIL up to HEAD, and no other. A unit without logic checks, or a finding outside the read, is ill-formed (the model's fault). The model's choices here: what a check on an idle unit does (log 143), when a retirement counts (log 139), a repeat's own record (log 141). -/
def Obligations.ChecksAndScrubs : Prop :=
  ∀ (s : State) (u : BitVec 12) (chk : U64) (rr : Bool),
    (Runs s →
      (∀ ut : BitVec 4, (ut = 3 ∧ u.toNat < 256) ∨ (ut = 4 ∧ u.toNat < 16) → unitJob s ut.toNat u.toNat = none →
        exec (.logicCheckFail ut u chk rr) s = .next s) ∧
      (∀ ut : BitVec 4, ut = 5 ∨ ut = 8 → u.toNat < 4 → smGet false s.flt.retired (ut.toNat * 4096 + u.toNat) = true →
        exec (.logicCheckFail ut u chk rr) s = .next s) ∧
      (u.toNat < 512 → smGet false s.flt.outOf (2 * 4096 + u.toNat) = true → exec (.logicCheckFail 2 u chk rr) s = .next s) ∧
      (u.toNat < 4 → smGet false s.flt.retired (5 * 4096 + u.toNat) = false →
        (unitsLeft s 5 = 1 → ∃ t, exec (.logicCheckFail 5 u chk rr) s = .next t ∧ t.flt.fatal = true) ∧
        (unitsLeft s 5 ≠ 1 → let p := physOf s 5 u.toNat
          let n := (winCount s (winKey 5 p) (2 ^ 32)).1
          n < 4 → exec (.logicCheckFail 5 u chk false) s = .next (logRec (winCount s (winKey 5 p) (2 ^ 32)).2 0x0A 0
            { utype := 5, unit := p, aux := 1, count := n, detail := chk.toNat, detail2 := (Config.tagPair 0 0x3FF).toNat })) ∧
        (unitsLeft s 5 ≠ 1 → rr = true ∨ 4 ≤ (winCount s (winKey 5 (physOf s 5 u.toNat)) (2 ^ 32)).1 →
          ∃ t, exec (.logicCheckFail 5 u chk rr) s = .next t ∧
            (bitOf (reg s 0x90004) 6 = true → smGet false t.flt.retired (5 * 4096 + u.toNat) = true ∧
              ctr t 0x90058 = satAdd 32 (ctr s 0x90058) 1) ∧
            (bitOf (reg s 0x90004) 6 = false → t.flt.retired = s.flt.retired ∧ ctr t 0x90058 = ctr s 0x90058))) ∧
      (∀ (ut : BitVec 4) jn j, (ut = 3 ∧ u.toNat < 256) ∨ (ut = 4 ∧ u.toNat < 16) → unitJob s ut.toNat u.toNat = some jn → getJob s jn = some j →
        j.st = .running → bitOf (reg s 0x90004) 5 = true → j.replayable = true → j.attempt < 3 → j.checks = [] →
        smGet false s.flt.outOf (ut.toNat * 4096 + u.toNat) = false →
        (winCount s (winKey ut.toNat (physOf s ut.toNat u.toNat)) (2 ^ 32)).1 < 4 →
        ∃ t, exec (.logicCheckFail ut u chk rr) s = .next t ∧
          ∃ j', getJob t jn = some j' ∧ j'.st = .queued ∧ j'.attempt = j.attempt + 1 ∧ j'.slot = j.slot ∧ j'.fn = j.fn ∧
            j'.checks = [(j.attempt, ut.toNat * 4096 + physOf s ut.toNat u.toNat, chk)]) ∧
      (bitOf (reg s 0x50030) 0 = false → exec (.sramScrub []) s = .next s) ∧
      (bitOf (reg s 0x50030) 1 = false → exec (.dramScrub []) s = .next s) ∧
      (memAwake s = false → galShared ≤ s.memLogs.sramPos * 128 → exec (.sramScrub []) s = .next s) ∧
      (bitOf (reg s 0x50030) 0 = true → memAwake s = true ∨ (s.pwr.state = .watch ∧ s.memLogs.sramPos * 128 < galShared) →
        s.flt.wins = [] → s.flaws = [] → s.flt.due = [] →
        let line := s.memLogs.sramPos
        let moved (t : State) : Prop := t.memLogs.sramPos = (if line + 1 < 1572864 then line + 1 else 0) ∧
          t.memLogs.sramPass = (if line + 1 < 1572864 then s.memLogs.sramPass else s.memLogs.sramPass + 1) ∧ t.mem = s.mem
        (∃ t, exec (.sramScrub []) s = .next t ∧ moved t ∧ t.poison = s.poison) ∧
        (∀ i, i < 16 →
          (∃ t, exec (.sramScrub [⟨i, false⟩]) s = .next t ∧ moved t ∧ t.poison = s.poison ∧
            ctr t 0x50040 = satAdd 32 (ctr s 0x50040) 1 ∧ ctr t 0x90040 = satAdd 32 (ctr s 0x90040) 1) ∧
          (∃ t, exec (.sramScrub [⟨i, true⟩]) s = .next t ∧ moved t ∧ isPoisoned t (mkey spGal (line * 128 + 8 * i)) = true ∧
            ctr t 0x50044 = satAdd 32 (ctr s 0x50044) 1))) ∧
      (bitOf (reg s 0x50030) 1 = true → memAwake s = true → dramOn s = true → s.flt.wins = [] → s.flt.dramRet = [] → s.flaws = [] → s.flt.due = [] →
        let pos := s.memLogs.dramPos
        let moved (t : State) : Prop := t.memLogs.dramPos = (if pos + 1 < 6291456 then pos + 1 else 0) ∧
          t.memLogs.dramPass = (if pos + 1 < 6291456 then s.memLogs.dramPass else s.memLogs.dramPass + 1) ∧ t.mem = s.mem
        (∃ t, exec (.dramScrub []) s = .next t ∧ moved t ∧ t.poison = s.poison) ∧
        (∀ i, i < 1024 →
          let off := pos / 4 * 2 ^ 17 + i / 16 * 2 ^ 11 + ((i / 2 % 8) ^^^ (pos / 4)) % 8 * 2 ^ 8 + pos % 4 * 64 + i % 2 * 32
          (∃ t, exec (.dramScrub [⟨i, false⟩]) s = .next t ∧ moved t ∧ t.poison = s.poison ∧
            ctr t 0x50048 = satAdd 32 (ctr s 0x50048) 1 ∧ ctr t 0x90040 = satAdd 32 (ctr s 0x90040) 1) ∧
          (∃ t, exec (.dramScrub [⟨i, true⟩]) s = .next t ∧ moved t ∧ isPoisoned t (mkey spDram off) = true ∧
            ctr t 0x5004C = satAdd 32 (ctr s 0x5004C) 1)))) ∧
    (hostOn s = true → Sound s → ∀ (k : BitVec 3) (c : U8), ∃ t, exec (.stackTemperature k c) s = .next t ∧
      t = { s with stackTemp := smSet 0 s.stackTemp k.toNat c, stackHot := t.stackHot } ∧
      (85 < c.toNat → smGet false t.stackHot k.toNat = true) ∧
      (Canon false s.stackHot → (c.toNat < 83 → smGet false t.stackHot k.toNat = false) ∧
        (83 ≤ c.toNat → c.toNat ≤ 85 → t.stackHot = s.stackHot) ∧ ∀ q, q ≠ k.toNat → smGet false t.stackHot q = smGet false s.stackHot q)) ∧
    (ReachedFlt s → ∀ w : U32, let i := w.setWidth 9
      exec (.fltLogTailWrite w) s = .next (if i - s.flt.tail ≤ s.flt.head - s.flt.tail then { s with flt := { s.flt with tail := i } } else s)) ∧
    (∀ ut : BitVec 4, checkUnit ut.toNat u.toNat = false → exec (.logicCheckFail ut u chk rr) s = .fault (.illFormed "LOGIC_CHECK_FAIL")) ∧
    (∀ fs : List Finding, (∃ f ∈ fs, 16 ≤ f.at_) → exec (.sramScrub fs) s = .fault (.illFormed "SRAM_SCRUB")) ∧
    (∀ fs : List Finding, (∃ f ∈ fs, 1024 ≤ f.at_) → exec (.dramScrub fs) s = .fault (.illFormed "DRAM_SCRUB"))

/-- O54. FLT_REPAIR_CMD with GO that reaches the block is refused with BAD_DESCRIPTOR, and starts nothing, while a command or a repair is in progress or for a unit that OP does not take. Otherwise RETIRE of a unit for which a spare is free marks the physical unit retired and begins the repair with a free spare; RESTORE of a Bobbin core or Chamber engine begins a repair without one. While the device works, the end of a copy or bring-up counts only for a repair of its kind: SPARE_BRINGUP_DONE for a core or engine of a tier that runs, which no attempt of a job uses, PICOT_CORE_MOVE for a Picot core on which no instance is within a closure and whose words hold no error, BANK_COPY_DONE for a Gallery bank. The unit's number then maps to the spare (a RESTORE leaves the map as it was), the repair is over, and a command that asked for it has ended with OK. -/
def Obligations.Repairs : Prop :=
  ∀ (s : State) (ut : BitVec 4) (u : BitVec 12),
    let put (op : Nat) : State := setReg s 0x900A0 (ut.toNat + u.toNat * 16 + op * 2 ^ 16)
    let refused (op : Nat) : Host.Outcome State Fault Refusal := .next { put op with flt := { s.flt with cmdStatus := 0x09 } }
    (ReachedFlt s →
      (s.flt.cmdBusy = true ∨ s.flt.repair.isSome = true ∨ repairable ut.toNat u.toNat = false → exec (.fltRetire ut u) s = refused 1) ∧
      (s.flt.cmdBusy = true ∨ s.flt.repair.isSome = true ∨ repairable ut.toNat u.toNat = false ∨ (ut ≠ 3 ∧ ut ≠ 4) →
        exec (.fltRestore ut u) s = refused 2) ∧
      (s.flt.cmdBusy = false → s.flt.repair = none → s.flt.repairQ = [] → repairable ut.toNat u.toNat = true →
        (∀ q, q ∈ freeSpares s ut.toNat → q ≠ physOf s ut.toNat u.toNat →
          ∃ t p, exec (.fltRetire ut u) s = .next t ∧ p ∈ freeSpares s ut.toNat ∧ p ≠ physOf s ut.toNat u.toNat ∧
            t.flt.repair = some { utype := ut, unit := u, restore := false, spare := p, cmd := true } ∧ t.flt.repairQ = [] ∧
            t.flt.cmdBusy = true ∧ smGet false t.flt.retired (ut.toNat * 4096 + physOf s ut.toNat u.toNat) = true) ∧
        (ut = 3 ∨ ut = 4 → exec (.fltRestore ut u) s = .next { put 2 with flt := { s.flt with
          cmdBusy := true, repair := some { utype := ut, unit := u, restore := true, spare := 0, cmd := true } } }))) ∧
    (Runs s →
      (s.flt.repair = none → exec .spareBringupDone s = .next s ∧ exec .picotCoreMove s = .next s ∧ exec .bankCopyDone s = .next s) ∧
      (∀ r, s.flt.repair = some r →
        (r.utype ≠ 3 ∧ r.utype ≠ 4 ∨ unitFree s r = false → exec .spareBringupDone s = .next s) ∧
        (r.utype ≠ 2 ∨ coreSettled s r.unit.toNat = false → exec .picotCoreMove s = .next s) ∧
        (r.utype ≠ 6 → exec .bankCopyDone s = .next s) ∧
        (s.flt.repairQ = [] → (∀ e ∈ s.jobs, ∀ j, e.2 = some j → j.attempt ≤ 1) →
          let ended (t : State) : Prop := t.flt.repair = none ∧ t.jobs = s.jobs ∧
            (∀ a b, physOf t a b = if r.restore = false ∧ a * 4096 + b = r.utype.toNat * 4096 + r.unit.toNat then r.spare else physOf s a b) ∧
            (r.cmd = true → t.flt.cmdBusy = false ∧ t.flt.cmdStatus = 0x00) ∧
            (r.cmd = false → t.flt.cmdBusy = s.flt.cmdBusy ∧ t.flt.cmdStatus = s.flt.cmdStatus)
          ((r.utype = 3 ∨ r.utype = 4) → unitFree s r = true → ∃ t, exec .spareBringupDone s = .next t ∧ ended t) ∧
          (r.utype = 2 → r.restore = false → coreSettled s r.unit.toNat = true → s.flaws = [] → ∃ t, exec .picotCoreMove s = .next t ∧ ended t) ∧
          (r.utype = 6 → r.restore = false → ∃ t, exec .bankCopyDone s = .next t ∧ ended t ∧ t.mem = s.mem))))

/-- O55. While LNT_CTRL.SMB_LOCK is 1, every SMBus write to a setting of the bank, to LNT_STAGE_ADDR, LNT_STAGE_DATA or LNT_STAGE_CTRL, or to LNT_FLASH_CMD changes nothing but LNT_SMB_ERR, which counts it (a WRITE32 is a command completed as well, and moves its pointer), but that its STOP brings a new target address into force. A BAR0 write of the PF sets LNT_CTRL; a WRITE32 to it leaves it as it is, and a READ32 of it answers its value. -/
def Obligations.SmbusLock : Prop :=
  ∀ (s : State) (w : U32), lntOn s true = true →
    let counted : State := { s with lnt := { s.lnt with smbErr := satAdd 32 s.lnt.smbErr 1, smbAddrNow := s.lnt.smbAddr } }
    let ended (t : State) (bytes : Bytes) (pec : Option U8) : State := { t with
      out := .smbus true bytes pec :: t.out
      lnt := { t.lnt with ptr := s.lnt.ptr + 4, smbCmds := satAdd 32 s.lnt.smbCmds 1, smbAddrNow := s.lnt.smbAddr } }
    let answer : Bytes := natLE 1 4 ++ natLE 4 (b2n s.lnt.pecReq + 2 * b2n s.lnt.smbLock)
    let word : Bytes := natLE 4 w.toNat
    (s.lnt.smbLock = true →
      exec (.stageAddrWrite true w) s = .next counted ∧
      exec (.stageDataAccess true true w) s = .next counted ∧
      exec (.stageRelease true) s = .next counted ∧
      exec (.commitRecord true) s = .next counted ∧
      exec (.commitMicrocode true) s = .next counted ∧
      (∀ off : U8, isBank off.toNat = true → exec (.bankWrite true off w) s = .next counted) ∧
      (s.lnt.ptr = 0x20 ∨ s.lnt.ptr = 0x24 ∨ s.lnt.ptr = 0x28 ∨ s.lnt.ptr = 0x2C ∨ s.lnt.ptr = 0x30 ∨ s.lnt.ptr = 0x34 ∨
        s.lnt.ptr = 0x40 ∨ s.lnt.ptr = 0x44 ∨ s.lnt.ptr = 0x48 ∨ s.lnt.ptr = 0x4C →
        exec (.smbWrite32 word .good) s = .next (ended counted [] none))) ∧
    (s.lnt.ptr = 0x10 →
      exec (.smbWrite32 word .good) s = .next (ended s [] none) ∧
      ∃ pec, exec .smbRead32 s = .next (ended { s with lnt := { s.lnt with na := false } } answer pec)) ∧
    (hostRuns s = true → s.flt.fatal = false → exec (.registerWrite 0 false 0x80010 w) s = .next { s with lnt := { s.lnt with
      pecReq := bitOf w.toNat 0, smbLock := bitOf w.toNat 1 } })

/-- O56. While Lantern has power: a write with a wrong PEC, or with none where PEC_REQ is 1, is discarded and counted; a WRITE32 of other than 4 bytes, an RDADDR of other than 2, and an unlisted command code are refused with NACK and counted. ADDR sets the pointer. READ32 answers the count 4 and the word at the pointer, least significant byte first, and moves the pointer by 4; RDADDR sets the pointer and does the same; WRITE32 stores and moves it (LNT_ALERT_MASK, for one; a mirror and an unmapped address keep their value). STATUS answers its byte; IDENT eight bytes. Each answer ends with its PEC. WAKE in Retain by request asserts CLKREQ#, and sequence B begins, at once if REFCLK is present; in Run, Idle and Watch it does nothing but complete. The Alert Response Address is answered with the target's address while SMB_ALERT# is asserted, which releases it; otherwise it is not acknowledged. Every completed command is counted in LNT_SMB_CMDS. LNT_CLEAR clears the two counters of the SMBus, and nothing else changes. The model's choices here: the form of the PEC and of the alert response's answer (PRESUMED from SMBus, logs 165 and 206), the count of a NACK (log 164), and that a WAKE acts at once (log 220). -/
def Obligations.SmbusCommands : Prop :=
  ∀ (s : State), lntOn s true = true →
    let stopped (t : State) : State := { t with lnt := { t.lnt with smbCmds := satAdd 32 t.lnt.smbCmds 1, smbAddrNow := t.lnt.smbAddr } }
    let ended (t : State) : State := { stopped t with out := .smbus true [] none :: t.out }
    let me := 2 * s.lnt.smbAddrNow.toNat
    let answered (t : State) (code : Nat) (sent bytes : Bytes) : State := { stopped t with
      out := .smbus true bytes (some (pecOf (natLE 1 me ++ natLE 1 code ++ sent ++ natLE 1 (me + 1) ++ bytes))) :: t.out }
    let dropped : State := { s with lnt := { s.lnt with smbErr := satAdd 32 s.lnt.smbErr 1, smbAddrNow := s.lnt.smbAddr } }
    let nacked : State := { dropped with out := .smbus false [] none :: s.out }
    let fails (p : Pec) : Prop := p = .bad ∨ p = .absent ∧ s.lnt.pecReq = true
    (∀ p, fails p →
      (∀ a, exec (.smbAddr a p) s = .next dropped) ∧ exec (.smbWake p) s = .next dropped ∧
      (∀ d : Bytes, d.length = 4 → exec (.smbWrite32 d p) s = .next dropped) ∧
      (∀ d : Bytes, d.length = 2 → exec (.smbRdaddr d p) s = .next dropped)) ∧
    (∀ p (d : Bytes), (d.length ≠ 4 → exec (.smbWrite32 d p) s = .next nacked) ∧ (d.length ≠ 2 → exec (.smbRdaddr d p) s = .next nacked)) ∧
    (∀ code : U8, code.toNat ∉ smbCodes → exec (.smbUnlisted code) s = .next nacked) ∧
    (∀ p, ¬ fails p →
      (∀ a, exec (.smbAddr a p) s = .next (ended { s with lnt := { s.lnt with ptr := a } })) ∧
      (∀ a : U16, smbMap a.toNat = none → exec (.smbRdaddr (natLE 2 a.toNat) p) s = .next (answered { s with lnt := { s.lnt with
        ptr := a + 4, na := false, smbErr := satAdd 32 s.lnt.smbErr 1 } } 0x13 (natLE 1 2 ++ natLE 2 a.toNat) [4, 0xFF, 0xFF, 0xFF, 0xFF])) ∧
      (∀ a : U16, a.toNat < 0x100 → a ≠ 0x44 → assigned (0x80000 + a.toNat) = true →
        exec (.smbRdaddr (natLE 2 a.toNat) p) s = .next (answered { s with lnt := { s.lnt with ptr := a + 4, na := false } } 0x13
          (natLE 1 2 ++ natLE 2 a.toNat) (4 :: natLE 4 (readLnt { s with lnt := { s.lnt with ptr := a } } (0x80000 + a.toNat))))) ∧
      (s.lnt.ptr = 0x18 → ∀ w : U32, exec (.smbWrite32 (natLE 4 w.toNat) p) s =
        .next (ended { s with lnt := { s.lnt with ptr := 0x1C, alertMask := w.setWidth 7 } })) ∧
      (∀ w : U32, 0x2000 ≤ s.lnt.ptr.toNat → s.lnt.ptr.toNat ≤ 0x2014 → s.lnt.ptr.toNat % 4 = 0 →
        exec (.smbWrite32 (natLE 4 w.toNat) p) s = .next (ended { s with lnt := { s.lnt with ptr := s.lnt.ptr + 4 } })) ∧
      (∀ w : U32, smbMap s.lnt.ptr.toNat = none →
        exec (.smbWrite32 (natLE 4 w.toNat) p) s =
          .next (ended { s with lnt := { s.lnt with ptr := s.lnt.ptr + 4, smbErr := satAdd 32 s.lnt.smbErr 1 } })) ∧
      (s.pwr.state = .retain → s.pwr.seq = [] → s.pwr.byRequest = true → s.pwr.thenH = false →
        (s.pwr.refclk = false → exec (.smbWake p) s = .next (ended { s with pwr := { s.pwr with clkreq := true, thenB := true } })) ∧
        (s.pwr.refclk = true → ∃ t, exec (.smbWake p) s = .next t ∧ t.pwr.clkreq = true ∧ t.pwr.thenB = false ∧ t.pwr.goal = .idle ∧
          t.pwr.seq.take 4 = [0x10, 0x11, 0x12, 0x13] ∧ t.lnt = (ended s).lnt ∧ t.out = (ended s).out)) ∧
      (hostOn s = true → inG s = false → exec (.smbWake p) s = .next (ended s))) ∧
    (smbMap s.lnt.ptr.toNat = none → exec .smbRead32 s = .next (answered { s with lnt := { s.lnt with
      ptr := s.lnt.ptr + 4, na := false, smbErr := satAdd 32 s.lnt.smbErr 1 } } 0x11 [] [4, 0xFF, 0xFF, 0xFF, 0xFF])) ∧
    (∀ a, a < 0x100 → a ≠ 0x44 → assigned (0x80000 + a) = true → s.lnt.ptr.toNat = a →
      exec .smbRead32 s = .next (answered { s with lnt := { s.lnt with ptr := s.lnt.ptr + 4, na := false } } 0x11 []
        (4 :: natLE 4 (readLnt s (0x80000 + a))))) ∧
    exec .smbStatus s = .next (answered s 0x20 [] [BitVec.ofNat 8 (smbStatusByte s)]) ∧
    (∃ b : Bytes, b.length = 9 ∧ b.head? = some 8 ∧ exec .smbIdent s = .next (answered s 0x30 [] b)) ∧
    (alertOn s = true → s.lnt.alertQuiet = false → exec .smbAlertResponse s = .next { s with
      out := .smbus true [BitVec.ofNat 8 me] (some (pecOf [0x19, BitVec.ofNat 8 me])) :: s.out
      lnt := { s.lnt with alertQuiet := true, smbAddrNow := s.lnt.smbAddr } }) ∧
    (alertOn s = false ∨ s.lnt.alertQuiet = true → exec .smbAlertResponse s = .next { s with
      out := .smbus false [] none :: s.out
      lnt := { s.lnt with smbAddrNow := s.lnt.smbAddr } }) ∧
    exec .lntClear s = .next { s with lnt := { s.lnt with smbErr := 0, smbCmds := 0 } }

/-- O57. On a path to Lantern that is open and not locked, where the other path does not own the staging buffer: LNT_STAGE_ADDR sets ADDR on a word and gives the path ownership; a write of LNT_STAGE_DATA stores four bytes there, no other byte changes, and ADDR moves by 4; a read answers the word and moves ADDR; the owner's RELEASE ends ownership, another path's does not. While the other path owns the buffer, a write to ADDR, DATA or the command is ignored and counted. A GO while BUSY, or of a path that owns nothing, is refused with BAD_DESCRIPTOR; one whose staged bytes are no valid copy of its kind ends with CHECK_FAIL; one of a valid copy whose SEQ does not exceed a valid one ends with BAD_DESCRIPTOR; any other begins to write the copy that is invalid or older. FLASH_COMMIT_DONE ends the commit: with OK the copy written is TARGET and is valid, else UNCORRECTABLE. A value that the bank does not accept, or the present one, changes nothing; an accepted one takes effect and spends one change: a lane configuration only while the port is disabled. An SMBus access ends with STOP, at which a new target address takes effect. An offset outside the bank is ill-formed (the model's fault). The model's choices here: what a refused GO leaves in STATUS (log 159), when the copy being written is valid (log 160). -/
def Obligations.FlashCommits : Prop :=
  ∀ (s : State) (smb : Bool) (w : U32),
    let me : BitVec 2 := if smb then 2 else 1
    let a := mkey spStage s.lnt.stageAddr.toNat
    let stop (l : Lantern) : Lantern := if smb then { l with smbAddrNow := l.smbAddr } else l
    let now (t : State) : State := { t with lnt := stop t.lnt }
    let ends (t : State) (st : BitVec 8) : Prop := t.lnt.flashBusy = false ∧ t.lnt.flashStatus = st ∧ t.lnt.flashDone = true ∧
      t.lnt.stageOwner = 0 ∧ t.mem = s.mem
    (lntOn s smb = true → (smb = true → s.lnt.smbLock = false) →
      (s.lnt.stageOwner = 0 ∨ s.lnt.stageOwner = me →
        exec (.stageAddrWrite smb w) s = .next (now { s with lnt := { s.lnt with stageAddr := w.setWidth 16 &&& 0xFFFC, stageOwner := me } }) ∧
        (∃ t, exec (.stageDataAccess smb true w) s = .next t ∧ t.lnt = stop { s.lnt with stageAddr := s.lnt.stageAddr + 4, stageOwner := me } ∧
          (Memory.wf s = true → KeepsOutside s t a 4 ∧ peek t a 4 = natLE 4 w.toNat)) ∧
        (s.lnt.stageOwner = me → s.lnt.flashBusy = false → s.pwr.state ≠ .retain ∨ s.pwr.seq ≠ [] →
          (copyValid s (mkey spStage 0) false = false → ∃ t, exec (.commitRecord smb) s = .next t ∧ ends t 0x03) ∧
          (copyValid s (mkey spStage 0) true = false → ∃ t, exec (.commitMicrocode smb) s = .next t ∧ ends t 0x03) ∧
          (copyValid s (mkey spStage 0) false = true → copyAt s (mkey spStage 0) 0x18 = s.lnt.flashLen.toNat → flashValid s 0 = true →
            copyAt s (mkey spStage 0) 0x10 ≤ flashSeq s 0 → ∃ t, exec (.commitRecord smb) s = .next t ∧ ends t 0x09) ∧
          (∀ n cmd, n = 0 ∧ cmd = .commitRecord smb ∨ n = 2 ∧ cmd = .commitMicrocode smb ∧
              s.lnt.epoch.toNat ≤ copyEpoch s (mkey spStage 0) →
            copyValid s (mkey spStage 0) (decide (n = 2)) = true → copyAt s (mkey spStage 0) 0x18 = s.lnt.flashLen.toNat →
            (flashValid s n = true → flashSeq s n < copyAt s (mkey spStage 0) 0x10) →
            (flashValid s (n + 1) = true → flashSeq s (n + 1) < copyAt s (mkey spStage 0) 0x10) →
            ∃ t, exec cmd s = .next t ∧ t.lnt.flashBusy = true ∧ t.lnt.stageOwner = me ∧ t.lnt.flashTgtNow =
              BitVec.ofNat 2 (if flashValid s n = false then n else if flashValid s (n + 1) = false then n + 1
                else if flashSeq s n ≤ flashSeq s (n + 1) then n else n + 1)))) ∧
      (s.lnt.stageOwner ≠ 0 → s.lnt.stageOwner ≠ me →
        let counted : State := now (if smb then { s with lnt := { s.lnt with smbErr := satAdd 32 s.lnt.smbErr 1 } } else c32 s 0x90040 1)
        exec (.stageAddrWrite smb w) s = .next counted ∧ exec (.stageDataAccess smb true w) s = .next counted ∧
        exec (.commitRecord smb) s = .next counted ∧ exec (.commitMicrocode smb) s = .next counted ∧
        exec (.stageRelease smb) s = .next (now s)) ∧
      (s.lnt.stageOwner = me → exec (.stageRelease smb) s = .next (now { s with lnt := { s.lnt with stageOwner := 0 } })) ∧
      (s.lnt.stageOwner = 0 ∨ s.lnt.stageOwner = me ∧ s.lnt.flashBusy = true →
        ∃ t, exec (.commitRecord smb) s = .next t ∧ t.lnt.flashStatus = 0x09 ∧ t.lnt.flashBusy = s.lnt.flashBusy ∧ t.mem = s.mem) ∧
      (let v : BitVec 7 := w.setWidth 7
        let ok := v ≠ s.lnt.smbAddr ∧ s.lnt.smbLeft ≠ 0 ∧ 8 ≤ v.toNat ∧ v.toNat ≤ 0x77 ∧ v ≠ 0x0C ∧ v ≠ 0x28 ∧ v ≠ 0x37 ∧ v ≠ 0x61
        (ok → exec (.bankWrite smb 0x20 w) s = .next (now { s with lnt := { s.lnt with smbAddr := v, smbLeft := s.lnt.smbLeft - 1 } })) ∧
        (¬ ok → exec (.bankWrite smb 0x20 w) s = .next (now s))) ∧
      (let v : BitVec 8 := w.setWidth 8
        let ok := s.lnt.epoch.toNat < v.toNat ∧ s.lnt.epochLeft ≠ 0 ∧ v.toNat ≤ s.lnt.ucEpoch.toNat
        (ok → exec (.bankWrite smb 0x24 w) s = .next (now { s with lnt := { s.lnt with epoch := v, epochLeft := s.lnt.epochLeft - 1 } })) ∧
        (¬ ok → exec (.bankWrite smb 0x24 w) s = .next (now s))) ∧
      (∀ p : BitVec 2, let old := (laneCfg s p.toNat).toNat
        let v := w.toNat % 4096
        let ok := v ≠ old % 4096 ∧ old / 4096 ≠ 0 ∧ laneMapOk (v % 256) = true ∧ (getPort s p.toNat).en = false
        (ok → ∃ t, exec (.bankWrite smb (BitVec.ofNat 8 (0x28 + 4 * p.toNat)) w) s = .next t ∧
          t = now { s with lnt := { s.lnt with laneCfg := t.lnt.laneCfg } } ∧
          (Canon 0x80E4 s.lnt.laneCfg → ∀ q, laneCfg t q = if q = p.toNat then BitVec.ofNat 16 (v + (old / 4096 - 1) * 4096) else laneCfg s q)) ∧
        (¬ ok → exec (.bankWrite smb (BitVec.ofNat 8 (0x28 + 4 * p.toNat)) w) s = .next (now s)))) ∧
    (lntOn s smb = true → ∃ t, exec (.stageDataAccess smb false w) s = .next t ∧ t.mem = s.mem ∧
      t.lnt = stop { s.lnt with stageAddr := s.lnt.stageAddr + 4 } ∧
      t.out = (if smb then let d := 4 :: peek s a 4
          .smbus true d (some (pecOf (natLE 1 (2 * s.lnt.smbAddrNow.toNat) ++ natLE 1 0x11 ++ natLE 1 (2 * s.lnt.smbAddrNow.toNat + 1) ++ d))) else .readData 0 0x80044 (BitVec.ofNat 32 (leNat (peek s a 4)))) :: s.out) ∧
    (∀ ok : Bool,
      (s.lnt.flashBusy = false → exec (.flashCommitDone ok) s = .next s) ∧
      (s.lnt.flashBusy = true → ∃ t, exec (.flashCommitDone ok) s = .next t ∧ ends t (if ok then 0x00 else 0x0C) ∧
        (ok = true → t.lnt.flashTarget = s.lnt.flashTgtNow.getLsbD 0 ∧
          (Canon false s.lnt.flashBad → smGet false t.lnt.flashBad s.lnt.flashTgtNow.toNat = false)) ∧
        (ok = false → t.lnt.flashTarget = s.lnt.flashTarget ∧ t.lnt.flashBad = s.lnt.flashBad))) ∧
    (∀ off : U8, isBank off.toNat = false → exec (.bankWrite smb off w) s = .fault (.illFormed "BANK_WRITE"))

/-- O58. For every state with a command at the front of its queue, the step is exec of that command on the state with the rest of the queue. With an empty queue the step is the model's own (log 1, log 171): while REFCLK runs, the residency counter of Run, Idle or Watch counts one REFCLK cycle, and PWR_GOV_CYCLES one while the governor stretches a domain; nothing else is counted. While the device works an upset from outside the commands, which nothing in the model fixes, may come, and then the losses and the retirements for which there is cause are taken up; with none of these, nothing but the counter of free values changes besides the cycle counters. -/
def Obligations.StepRunsFront : Prop :=
  ∀ (s : State),
    (∀ c rest, s.pending = c :: rest → step s = exec c { s with pending := rest }) ∧
    (s.pending = [] → ∃ u : State, u = { s with ctrs := u.ctrs } ∧
      (∀ o, o ≠ 0x70120 → residencyOff s.pwr.state ≠ some o → ctr u o = ctr s o) ∧
      (∀ o, residencyOff s.pwr.state = some o → ctr u o = if s.pwr.refclk = true then satAdd 64 (ctr s o) 1 else ctr s o) ∧
      ctr u 0x70120 = (if govActive s = true ∧ s.pwr.refclk = true then satAdd 64 (ctr s 0x70120) 1 else ctr s 0x70120) ∧
      (¬ Runs s → step s = .next u) ∧
      (Runs s → Config.upset s.freeCtr = .none → s.flt.due = [] → s.lossDue = [] → step s = .next { u with freeCtr := s.freeCtr + 1 }) ∧
      (Runs s → step s = .next (settleVerdicts (settleLoss (applyUpset { u with freeCtr := s.freeCtr + 1 } (Config.upset s.freeCtr))))))

/-- O59. In the state after reset, the first cold boot having ended (log 11): the power state is Idle with no sequence in progress; the queue is empty; no ring pair is enabled, no stream is open, no slot holds a version, no job, message or knot operation exists, every knot has VALUE 0, no VF exists; no fatal event is held and the log is empty; the PF owns every stream and knot and ring pairs 0 to 63, the others no function, by the defaults of R460; and HIF, GAL, FLT, PWR and the selector registers read the Reset values of their tables. Every sparse map of the state is in its canonical form (the model's own invariant, see StepsKeepForm). -/
def Obligations.ResetState : Prop :=
  State.reset.pwr.state = .idle ∧ State.reset.pwr.seq = [] ∧ State.reset.pending = [] ∧
  (∀ p, getRing State.reset p = {}) ∧ (∀ st, (getStream State.reset st).ctx.state = 0) ∧
  (∀ n b, versionOf (getSlot State.reset n) b = none) ∧ (∀ j, getJob State.reset j = none) ∧
  State.reset.msgs = [] ∧ State.reset.knotOps = [] ∧ (∀ k, (getKnot State.reset k).value = 0) ∧
  (∀ f, f ≠ 0 → fnPresent State.reset f = false) ∧
  State.reset.flt.fatal = false ∧ State.reset.flt.head = State.reset.flt.tail ∧
  (∀ st, st < 16384 → ownsStream State.reset 0 st = true) ∧ (∀ k, k < 4096 → ownsKnot State.reset 0 k = true) ∧
  (∀ p, p < 1024 → ownsRing State.reset 0 p = decide (p < 64)) ∧
  readReg State.reset 0 0x08000 = 0x6 ∧ readReg State.reset 0 0x90004 = 0x6E ∧ readReg State.reset 0 0x50030 = 0xE0403 ∧
  readReg State.reset 0 0x30020 = 64 ∧ readReg State.reset 0 0x40020 = 192 ∧ readReg State.reset 0 0x70108 = 1250 ∧
  FormKept State.reset ∧ InForm State.reset

/-- O60. From every state in which memory and every sparse map of the state are in canonical form (keys rise strictly; no entry reads as an unlisted key does; no region of memory that is never lost is lost), every step, whatever the command at the front of the queue, and the REFCLK cycle of an empty queue, leaves a state in that form: functions, ring pairs, streams, slots, instances, snapshot units, jobs, cores, engines, knots, ports, conduits, lost chips, held events, registers, counters, poison and errors. So equal contents stay equal data: a write of what an unlisted byte reads as takes the byte out of the list, and a loss or a clear of a memory leaves none of its bytes listed. A step takes at most the command at the front out of the queue, and puts none in. The form is the model's own, not the spec's. -/
def Obligations.StepsKeepForm : Prop :=
  ∀ (s t : State), step s = .next t → InForm s → InForm t ∧ t.pending = s.pending.tail
end

