-- ==== Sys2Proof/Laws/Guards.lean ====
section
/-! SUPPORT. Laws/Guards.lean: when a guarded command acts, when it changes nothing, and when it meets damaged state. -/

namespace Sys2Proof.Machine

theorem runs_awake {s : State} (h : Runs s) : Awake s := by
  obtain ⟨h1, h2, h3, h4⟩ := h
  refine ⟨h1, ?_, h4⟩
  unfold hostRuns at h2
  simp_all

/-- Where the checked state is sound, a command does what it does. -/
theorem checked_sound {s : State} (h : s.flt.ctlBad = []) (g : State → State) : checked s g = g s := by simp [checked, h]
theorem useCtl_sound {s : State} (h : s.flt.ctlBad = []) (w : CtlWord → Bool) (g : State → State) : useCtl s w g = g s := by
  simp [useCtl, h]
/-- A use of damaged state is fatal, and does nothing else (R399, R402). -/
theorem useCtl_bad {s : State} {w : CtlWord → Bool} (h : s.flt.ctlBad.any w = true) (g : State → State) :
    useCtl s w g = ctlFatal s (s.flt.ctlBad.filter w) := by simp [useCtl, h]
/-- What holds of every state that `g` answers, and of every state a mismatch leaves, holds after the command. -/
theorem checked_keeps {P : State → Prop} {s : State} {g : State → State} (hg : P (g s)) (hf : ∀ m, P (ctlFatal s m)) :
    P (checked s g) := by
  unfold checked; split; · exact hg
  dsimp only; split; exacts [hg, hf _]
theorem useCtl_keeps {P : State → Prop} {s : State} {w : CtlWord → Bool} {g : State → State} (hg : P (g s))
    (hf : ∀ m, P (ctlFatal s m)) : P (useCtl s w g) := by
  unfold useCtl; split; exacts [hf _, hg]
theorem hostRuns_on {s : State} (h : hostRuns s = true) : hostOn s = true := by
  unfold hostRuns at h; simp_all
theorem hostRuns_regs {s : State} (h : hostRuns s = true) : regsRun s = true := by
  unfold hostRuns at h; unfold regsRun; simp_all
/-- A guarded command acts where the device works. -/
theorem live_runs {s : State} (h : Runs s) (g : State → State) : live s g = g s := by
  obtain ⟨hf, hh, hm, hb⟩ := h; simp [live, hf, hh, hm, checked_sound hb]
theorem hostLive_runs {s : State} (hf : s.flt.fatal = false) (hh : hostRuns s = true) (hb : s.flt.ctlBad = [])
    (g : State → State) : hostLive s g = g s := by simp [hostLive, hf, hh, checked_sound hb]
theorem awake_runs {s : State} (h : Awake s) (g : State → State) : awake s g = g s := by
  obtain ⟨hf, hh, hb⟩ := h; simp [awake, hf, hh, checked_sound hb]
theorem fltLive_runs {s : State} (h : hostOn s = true) (hb : s.flt.ctlBad = []) (g : State → State) : fltLive s g = g s := by
  simp [fltLive, h, checked_sound hb]
/-- A guarded command changes nothing where the device does not work. -/
theorem live_stopped {s : State} (h : s.flt.fatal = true ∨ hostRuns s = false ∨ clocked s 1 = false) (g : State → State) :
    live s g = s := by unfold live; rcases h with h | h | h <;> simp [h]
theorem hostLive_stopped {s : State} (h : s.flt.fatal = true ∨ hostRuns s = false) (g : State → State) : hostLive s g = s := by
  unfold hostLive; rcases h with h | h <;> simp [h]
theorem awake_stopped {s : State} (h : s.flt.fatal = true ∨ hostOn s = false) (g : State → State) : awake s g = s := by
  unfold awake; rcases h with h | h <;> simp [h]
/-- What holds of the state and of every state that `g` answers holds after the command. -/
theorem live_keeps {P : State → Prop} {s : State} {g : State → State} (h : P s) (hg : P (g s)) (hf : ∀ m, P (ctlFatal s m)) :
    P (live s g) := by
  unfold live; split; exacts [h, checked_keeps hg hf]
theorem hostLive_keeps {P : State → Prop} {s : State} {g : State → State} (h : P s) (hg : P (g s)) (hf : ∀ m, P (ctlFatal s m)) :
    P (hostLive s g) := by
  unfold hostLive; split; exacts [h, checked_keeps hg hf]
theorem awake_keeps {P : State → Prop} {s : State} {g : State → State} (h : P s) (hg : P (g s)) (hf : ∀ m, P (ctlFatal s m)) :
    P (awake s g) := by
  unfold awake; split; exacts [h, checked_keeps hg hf]
theorem fltLive_keeps {P : State → Prop} {s : State} {g : State → State} (h : P s) (hg : P (g s)) (hf : ∀ m, P (ctlFatal s m)) :
    P (fltLive s g) := by
  unfold fltLive; split; exacts [checked_keeps hg hf, h]
/-- A write of a register by a function that reaches it. -/
theorem bar0_runs {s : State} {fn : Nat} {flt : Bool} (h : regsRun s = true) (hp : fnPresent s fn = true)
    (hr : s.lnt.recovery = false) (hf : s.flt.fatal = false ∨ flt = true) (hb : s.flt.ctlBad = []) (g : State → State) :
    bar0 s fn flt g = g s := by
  unfold bar0; rcases hf with hf | hf <;> simp [h, hp, hr, hf, checked_sound hb]
/-- An absent function writes nothing, and after a fatal event only FLT_ takes writes (R402). -/
theorem bar0_stopped {s : State} {fn : Nat} {flt : Bool}
    (h : regsRun s = false ∨ fnPresent s fn = false ∨ (s.lnt.recovery = false ∧ s.flt.fatal = true ∧ flt = false))
    (g : State → State) : bar0 s fn flt g = s := by
  unfold bar0; rcases h with h | h | ⟨h1, h2, h3⟩ <;> simp_all
theorem bar0_keeps {P : State → Prop} {s : State} {fn : Nat} {flt : Bool} {g : State → State} (h : P s) (hc : P (countBad s))
    (hg : P (g s)) (hf : ∀ m, P (ctlFatal s m)) : P (bar0 s fn flt g) := by
  unfold bar0; split; · exact h
  split; · exact hc
  split; exacts [h, checked_keeps hg hf]

end Sys2Proof.Machine
end

