-- ==== Sys2Proof/Laws/Maps.lean ====
section
/-! SUPPORT. Laws/Maps.lean: sparse maps read back what is written to them and keep everything else; their canonical
form is kept. -/

namespace Sys2Proof

variable {α : Type}

@[simp] theorem smGet_nil (d : α) (k : Nat) : smGet d [] k = d := rfl

/-- A value that is not the default reads back, whatever the list. -/
theorem smGet_smSet_same [DecidableEq α] {d v : α} (m : SMap α) (k : Nat) (h : v ≠ d) :
    smGet d (smSet d m k v) k = v := by
  induction m with
  | nil => simp [smSet, smGet, h]
  | cons e r ih =>
    obtain ⟨k', v'⟩ := e
    by_cases h1 : k < k'
    · simp [smSet, smGet, h1, h]
    · by_cases h2 : k = k'
      · subst h2; simp [smSet, smGet, h]
      · simp only [smSet, smGet, if_neg h1, if_neg h2]; exact ih

/-- Writing a value that is not the default keeps every other key, whatever the list. -/
theorem smGet_smSet_ne [DecidableEq α] {d v : α} (m : SMap α) {k q : Nat} (h : v ≠ d) (hq : q ≠ k) :
    smGet d (smSet d m k v) q = smGet d m q := by
  induction m with
  | nil => simp [smSet, smGet, h, hq]
  | cons e r ih =>
    obtain ⟨k', v'⟩ := e
    by_cases h1 : k < k'
    · simp only [smSet, if_pos h1, if_neg h, smGet, if_neg hq]
      by_cases h3 : q < k
      · have : q < k' := by omega
        have h4 : q ≠ k' := by omega
        simp [h3, this, h4]
      · simp [h3]
    · by_cases h2 : k = k'
      · subst h2; simp [smSet, smGet, h, hq]
      · simp only [smSet, if_neg h1, if_neg h2, smGet, ih]

/-- In a rising list a key below all others reads as the default. -/
theorem smGet_rising [DecidableEq α] {d : α} {b k : Nat} (m : SMap α) (h : smRising b m = true) (hk : k ≤ b) :
    smGet d m k = d := by
  cases m with
  | nil => rfl
  | cons e r =>
    obtain ⟨k', v'⟩ := e
    simp only [smRising, Bool.and_eq_true, decide_eq_true_eq] at h
    have h1 : k ≠ k' := by omega
    have h2 : k < k' := by omega
    simp [smGet, h1, h2]

theorem smRising_mono {b c : Nat} (m : SMap α) (h : smRising c m = true) (hb : b ≤ c) : smRising b m = true := by
  cases m with
  | nil => rfl
  | cons e r =>
    obtain ⟨k', v'⟩ := e
    simp only [smRising, Bool.and_eq_true, decide_eq_true_eq] at h ⊢
    exact ⟨by omega, h.2⟩

/-- Every listed key of a rising list is above its bound. -/
theorem smRising_lt {b : Nat} {m : SMap α} (h : smRising b m = true) {e : Nat × α} (he : e ∈ m) : b < e.1 := by
  induction m generalizing b with
  | nil => cases he
  | cons x r ih =>
    obtain ⟨k', v'⟩ := x
    simp only [smRising, Bool.and_eq_true, decide_eq_true_eq] at h
    rcases List.mem_cons.mp he with rfl | h1
    · exact h.1
    · exact lt_trans h.1 (ih h.2 h1)

theorem smRising_filter {b : Nat} (p : Nat × α → Bool) (m : SMap α) (h : smRising b m = true) :
    smRising b (m.filter p) = true := by
  induction m generalizing b with
  | nil => rfl
  | cons x r ih =>
    obtain ⟨k', v'⟩ := x
    simp only [smRising, Bool.and_eq_true, decide_eq_true_eq] at h
    by_cases hp : p (k', v') = true
    · simp only [List.filter_cons_of_pos hp, smRising, Bool.and_eq_true, decide_eq_true_eq]
      exact ⟨h.1, ih h.2⟩
    · rw [List.filter_cons_of_neg hp]
      exact ih (smRising_mono r h.2 (by omega))

theorem smRising_smSet [DecidableEq α] {d : α} {b k : Nat} (m : SMap α) (v : α) (h : smRising b m = true) (hk : b < k) :
    smRising b (smSet d m k v) = true := by
  induction m generalizing b with
  | nil => by_cases hv : v = d <;> simp [smSet, hv, smRising, hk]
  | cons x r ih =>
    obtain ⟨k', v'⟩ := x
    have h0 := h
    simp only [smRising, Bool.and_eq_true, decide_eq_true_eq] at h
    by_cases h1 : k < k'
    · by_cases hv : v = d <;> simp [smSet, h1, hv, smRising, hk, h.1, h.2]
    · by_cases h2 : k = k'
      · subst h2
        by_cases hv : v = d
        · simp only [smSet, if_neg h1, hv]
          exact smRising_mono r h.2 (by omega)
        · simp [smSet, hv, smRising, hk, h.2]
      · simp only [smSet, if_neg h1, if_neg h2, smRising, Bool.and_eq_true, decide_eq_true_eq]
        exact ⟨h.1, ih h.2 (by omega)⟩

/-- A rising list reads back what is written, the default too. -/
theorem smGet_smSet_rising [DecidableEq α] {d : α} {b k q : Nat} (m : SMap α) (v : α) (h : smRising b m = true) :
    smGet d (smSet d m k v) q = if q = k then v else smGet d m q := by
  by_cases hv : v = d
  · subst hv
    induction m generalizing b with
    | nil => simp [smSet]
    | cons x r ih =>
      obtain ⟨k', v'⟩ := x
      have h0 := h
      simp only [smRising, Bool.and_eq_true, decide_eq_true_eq] at h
      by_cases h1 : k < k'
      · by_cases hq : q = k
        · subst hq
          have : q ≠ k' := by omega
          simp [smSet, h1, smGet, this]
        · simp [smSet, h1, hq]
      · by_cases h2 : k = k'
        · subst h2
          by_cases hq : q = k
          · subst hq
            simp [smSet, smGet_rising r h.2 (Nat.le_refl _)]
          · simp only [smSet, if_neg h1, if_true, if_neg hq, smGet]
            by_cases h3 : q < k
            · simp only [h3, if_true]; exact smGet_rising r h.2 (by omega)
            · simp [h3]
        · simp only [smSet, if_neg h1, if_neg h2, smGet, ih h.2]
          by_cases h3 : q = k' <;> by_cases h4 : q = k <;> by_cases h5 : q < k' <;> simp_all
  · by_cases hq : q = k
    · subst hq; simp [smGet_smSet_same m q hv]
    · simp [hq, smGet_smSet_ne m hv hq]

/-- Whether the keys of a map rise strictly. -/
def SmSorted (m : SMap α) : Prop :=
  match m with
  | [] => True
  | (k, _) :: r => smRising k r = true

theorem smSorted_smSet [DecidableEq α] {d : α} {k : Nat} {m : SMap α} (v : α) (h : SmSorted m) : SmSorted (smSet d m k v) := by
  cases m with
  | nil => by_cases hv : v = d <;> simp [smSet, hv, SmSorted, smRising]
  | cons x r =>
    obtain ⟨k', v'⟩ := x
    simp only [SmSorted] at h
    by_cases h1 : k < k'
    · by_cases hv : v = d <;> simp [smSet, h1, hv, SmSorted, smRising, h]
    · by_cases h2 : k = k'
      · subst h2
        by_cases hv : v = d
        · simp only [smSet, if_neg h1, hv, if_true]
          cases r with
          | nil => trivial
          | cons y r' =>
            obtain ⟨k2, v2⟩ := y
            simp only [smRising, Bool.and_eq_true, decide_eq_true_eq] at h
            exact h.2
        · simpa [smSet, hv, SmSorted] using h
      · simp only [smSet, if_neg h1, if_neg h2, SmSorted]
        exact smRising_smSet r v h (by omega)

theorem smSorted_filter {m : SMap α} (p : Nat × α → Bool) (h : SmSorted m) : SmSorted (m.filter p) := by
  cases m with
  | nil => trivial
  | cons x r =>
    obtain ⟨k', v'⟩ := x
    simp only [SmSorted] at h
    by_cases hp : p (k', v') = true
    · rw [List.filter_cons_of_pos hp]; exact smRising_filter p r h
    · rw [List.filter_cons_of_neg hp]
      have h2 := smRising_filter p r h
      revert h2
      cases r.filter p with
      | nil => intro _; trivial
      | cons y r' =>
        obtain ⟨k2, v2⟩ := y
        intro h2
        simp only [smRising, Bool.and_eq_true, decide_eq_true_eq] at h2
        exact h2.2

/-- A sorted list reads back what is written. -/
theorem smGet_smSet_sorted [DecidableEq α] {d : α} {k q : Nat} {m : SMap α} (v : α) (h : SmSorted m) :
    smGet d (smSet d m k v) q = if q = k then v else smGet d m q := by
  cases m with
  | nil =>
    by_cases hv : v = d
    · simp [smSet, hv]
    · by_cases hq : q = k
      · simp [smSet, hv, smGet, hq]
      · simp [smSet, hv, smGet, hq]
  | cons x r =>
    obtain ⟨k', v'⟩ := x
    simp only [SmSorted] at h
    by_cases h0 : k' = 0
    · by_cases hv : v = d
      · subst hv
        subst h0
        by_cases h2 : k = 0
        · subst h2
          by_cases hq : q = 0
          · subst hq; simp [smSet, smGet_rising r h (Nat.le_refl _)]
          · simp [smSet, smGet, hq]
        · simp only [smSet, Nat.not_lt_zero, if_false, if_neg h2, smGet]
          by_cases hq : q = 0
          · subst hq; simp [Ne.symm h2]
          · simp [hq, smGet_smSet_rising r v h]
      · by_cases hq : q = k
        · subst hq; simp [smGet_smSet_same _ q hv]
        · simp [hq, smGet_smSet_ne _ hv hq]
    · have : smRising 0 ((k', v') :: r) = true := by
        simp only [smRising, Bool.and_eq_true, decide_eq_true_eq]
        exact ⟨by omega, h⟩
      exact smGet_smSet_rising _ v this

theorem smSet_all [DecidableEq α] {d : α} (m : SMap α) (k : Nat) (v : α) (h : m.all (fun e => !decide (e.2 = d)) = true) :
    (smSet d m k v).all (fun e => !decide (e.2 = d)) = true := by
  induction m with
  | nil => by_cases hv : v = d <;> simp [smSet, hv]
  | cons x r ih =>
    obtain ⟨k', v'⟩ := x
    simp only [List.all_cons, Bool.and_eq_true] at h
    by_cases h1 : k < k'
    · by_cases hv : v = d <;> simp only [smSet, h1, if_true, hv, if_false, List.all_cons, Bool.and_eq_true]
      · exact h
      · exact ⟨by simp, h⟩
    · by_cases h2 : k = k'
      · by_cases hv : v = d
        · simp only [smSet, if_neg h1, if_pos h2, if_pos hv]; exact h.2
        · simp only [smSet, if_neg h1, if_pos h2, if_neg hv, List.all_cons, Bool.and_eq_true]
          exact ⟨by simp [hv], h.2⟩
      · simp only [smSet, if_neg h1, if_neg h2, List.all_cons, Bool.and_eq_true]
        exact ⟨h.1, ih h.2⟩

theorem smWf_sorted [DecidableEq α] {d : Nat → α} {m : SMap α} (h : smWf d m = true) : SmSorted m := by
  unfold smWf at h
  simp only [Bool.and_eq_true] at h
  cases m with
  | nil => trivial
  | cons x r => exact h.1

/-- A map with one default for all keys stays canonical. -/
theorem smWf_smSet [DecidableEq α] {d : α} {m : SMap α} (k : Nat) (v : α) (h : smWf (fun _ => d) m = true) :
    smWf (fun _ => d) (smSet d m k v) = true := by
  have h1 := smSorted_smSet (d := d) (k := k) v (smWf_sorted h)
  have h2 : (smSet d m k v).all (fun e => !decide (e.2 = d)) = true := by
    unfold smWf at h
    simp only [Bool.and_eq_true] at h
    exact smSet_all m k v h.2
  unfold smWf
  simp only [Bool.and_eq_true]
  refine ⟨?_, h2⟩
  revert h1
  cases smSet d m k v with
  | nil => intro _; rfl
  | cons x r => intro h1; exact h1

theorem smUpd_same [DecidableEq α] {d : α} (m : SMap α) (k : Nat) (f : α → α) (h : f (smGet d m k) ≠ d) :
    smGet d (smUpd d m k f) k = f (smGet d m k) := smGet_smSet_same m k h

theorem smUpd_ne [DecidableEq α] {d : α} (m : SMap α) {k q : Nat} (f : α → α) (h : f (smGet d m k) ≠ d) (hq : q ≠ k) :
    smGet d (smUpd d m k f) q = smGet d m q := smGet_smSet_ne m h hq

end Sys2Proof
end

