-- ==== Sys2Proof/Laws/Cores.lean ====
section
/-! SUPPORT. Laws/Cores.lean: a Bobbin core that is written reads back, and how a bundle of one slot issues. -/

namespace Sys2Proof.Machine

/-- A core that runs a job is not the core of the reset state. -/
theorem core_ne_default {k : Core} (h : k.job.isSome = true) : k ≠ ({} : Core) := by
  intro e; rw [e] at h; simp at h

theorem getCore_modCore {s : State} {c : Nat} {g : Core → Core} (h : (g (getCore s c)).job.isSome = true) :
    getCore (modCore s c g) c = g (getCore s c) :=
  smUpd_same s.cores c g (core_ne_default h)

theorem getCore_modCore_ne {s : State} {c q : Nat} {g : Core → Core} (h : (g (getCore s c)).job.isSome = true) (hq : q ≠ c) :
    getCore (modCore s c g) q = getCore s q :=
  smUpd_ne s.cores g (core_ne_default h) hq

@[simp] theorem modCore_flt (s : State) (c : Nat) (g : Core → Core) : (modCore s c g).flt = s.flt := rfl
@[simp] theorem modCore_mem (s : State) (c : Nat) (g : Core → Core) : (modCore s c g).mem = s.mem := rfl
@[simp] theorem c64_cores (s : State) (o n : Nat) : (c64 s o n).cores = s.cores := rfl
@[simp] theorem c32_cores (s : State) (o n : Nat) : (c32 s o n).cores = s.cores := rfl
@[simp] theorem winPass_cores (s : State) (k n : Nat) : (winPass s k n).cores = s.cores := by
  unfold winPass; cases smFind s.flt.wins k <;> rfl
theorem winPass_withCores (s : State) (k n : Nat) (x : SMap Core) :
    winPass { s with cores := x } k n = { winPass s k n with cores := x } := by
  unfold winPass
  cases h : smFind s.flt.wins k with
  | none => simp only
  | some e => simp only

theorem getCore_of_cores {s t : State} (h : t.cores = s.cores) (q : Nat) : getCore t q = getCore s q := by
  unfold getCore; rw [h]

/-- A core that goes on: its bundle has issued and control goes to `pc`. -/
theorem advance_goes {s u : State} {c : Nat} {fl : Flow} {k : Core} {pc : Nat} {ls : List LoopFrame}
    (hk : getCore u c = k) (hj : k.job.isSome = true) (he : k.ending = false) (hpc : k.pc = (getCore s c).pc)
    (hn : nextPc k.pc.toNat k.loops fl = some ((pc : Int), ls)) (hb : pc < 131072) (hq : ∀ q, q ≠ c → getCore u q = getCore s q) :
    getCore (advance u c fl) c = { k with pc := BitVec.ofNat 17 pc, lastPc := (getCore s c).pc, st := 2, loops := ls } ∧
    (∀ q, q ≠ c → getCore (advance u c fl) q = getCore s q) ∧
    advance u c fl = { c64 u 0x30048 1 with cores := (advance u c fl).cores } := by
  subst hk
  have e : advance u c fl = modCore (c64 (modCore u c (fun k => { k with lastPc := k.pc, st := if k.ending then 4 else 2 })) 0x30048 1) c
      (fun k => { k with pc := BitVec.ofInt 17 (pc : Int), loops := ls }) := by
    unfold advance
    have h1 : ¬ ((pc : Int) < 0 ∨ (131072 : Int) ≤ (pc : Int)) := by omega
    simp only [he, hn]
    simp only [Bool.false_eq_true, if_false]
    rw [if_neg h1]
  have g1 : getCore (modCore u c (fun k => { k with lastPc := k.pc, st := if k.ending then 4 else 2 })) c =
      { getCore u c with lastPc := (getCore u c).pc, st := if (getCore u c).ending then 4 else 2 } :=
    getCore_modCore (g := fun k => { k with lastPc := k.pc, st := if k.ending then 4 else 2 }) hj
  have g2 : getCore (c64 (modCore u c (fun k => { k with lastPc := k.pc, st := if k.ending then 4 else 2 })) 0x30048 1) c =
      { getCore u c with lastPc := (getCore u c).pc, st := if (getCore u c).ending then 4 else 2 } := g1
  refine ⟨?_, ?_, ?_⟩
  · rw [e, getCore_modCore (by rw [g2]; exact hj), g2]
    simp [he, hpc, BitVec.ofInt_natCast]
  · intro q hqc
    rw [e, getCore_modCore_ne (by rw [g2]; exact hj) hqc, getCore_of_cores (c64_cores _ _ _),
      getCore_modCore_ne (g := fun k => { k with lastPc := k.pc, st := if k.ending then 4 else 2 }) hj hqc]
    exact hq q hqc
  · rw [e]; rfl

/-- What a slot's effect leaves: core `c` is `k`, the other cores are as in `s`, all else is as in `u`. -/
def SlotRuns (s u : State) (c : Nat) (k : Core) (t : State) : Prop :=
  getCore t c = k ∧ (∀ q, q ≠ c → getCore t q = getCore s q) ∧ t = { u with cores := t.cores }

/-- A bundle whose slots are ready and do not fault, and read words that can be read, runs its slots and moves on. -/
theorem issue_goes {s w u : State} {c : Nat} {ops : List SlotOp} {k : Core} {pc : Nat} {ls : List LoopFrame}
    (hi : canIssue s c = true) (hr : ops.all (fun o => o.ready s c) = true) (hf : ops.findSome? (fun o => o.fault s c) = none)
    (hs : sramReads s c (ops.flatMap (fun o => o.sram s c)) = (true, w))
    (hrun : SlotRuns s u c k (ops.foldl (fun t o => o.run s t c) w))
    (hj : k.job.isSome = true) (he : k.ending = false) (hpc : k.pc = (getCore s c).pc)
    (hn : nextPc k.pc.toNat k.loops (flowOf (getCore s c) ops) = some ((pc : Int), ls)) (hb : pc < 131072) :
    CoreGoes s u (issue s c ops) c k pc ls := by
  obtain ⟨h1, h2, h3⟩ := hrun
  unfold issue
  simp only [hi, hr, hf, hs]
  simp only [Bool.not_true, Bool.false_eq_true, if_false, if_true]
  have hw : (winPass (ops.foldl (fun t o => o.run s t c) w) (winKey 3 (physCore s c)) 1).cores =
      (ops.foldl (fun t o => o.run s t c) w).cores := winPass_cores _ _ _
  have := advance_goes (s := s) (u := winPass (ops.foldl (fun t o => o.run s t c) w) (winKey 3 (physCore s c)) 1) (c := c)
    (fl := flowOf (getCore s c) ops) (k := k) (pc := pc) (ls := ls) (by rw [getCore_of_cores hw, h1]) hj he hpc hn hb
    (fun q hq => by rw [getCore_of_cores hw, h2 q hq])
  obtain ⟨a1, a2, a3⟩ := this
  refine ⟨a1, a2, ?_⟩
  rw [a3]
  generalize (advance _ c _).cores = x
  rw [h3, winPass_withCores]
  rfl

/-- A bundle that reads no SRAM. -/
theorem sramReads_nil (s : State) (c : Nat) : sramReads s c [] = (true, s) := rfl

/-- Without an error in any word, one read only passes in the window of the core's SRAM (R410). -/
theorem sramReads_one {s : State} {c a n : Nat} (h : s.flaws = []) :
    sramReads s c [(a, n)] = (true, winPass s (winKey 0x13 (physCore s c)) 1) := by
  have hf : (winPass s (winKey 0x13 (physCore s c)) 1).flaws = [] := by
    unfold winPass; cases smFind s.flt.wins (winKey 0x13 (physCore s c)) <;> exact h
  simp [sramReads, sramEcc, hf]

theorem canIssue_job {s : State} {c : Nat} (h : canIssue s c = true) :
    (getCore s c).job.isSome = true ∧ (getCore s c).ending = false := by
  unfold canIssue at h
  simp only [Bool.and_eq_true, Bool.not_eq_true'] at h
  exact ⟨h.1.1.1, h.1.1.2⟩

theorem nextPc_seq {pc : Nat} : nextPc pc [] .seq = some (((pc + 1 : Nat) : Int), []) := rfl

/-- A core that is written as a whole by one slot. -/
theorem slotRuns_mod {s : State} {c : Nat} {g : Core → Core} (h : (g (getCore s c)).job.isSome = true) :
    SlotRuns s s c (g (getCore s c)) (modCore s c g) :=
  ⟨getCore_modCore h, fun _ hq => getCore_modCore_ne h hq, rfl⟩

theorem slotRuns_id (s : State) (c : Nat) : SlotRuns s s c (getCore s c) s := ⟨rfl, fun _ _ => rfl, rfl⟩

theorem slotRuns_setS {s : State} {c : Nat} (d : BitVec 5) (v : U32) (h : (getCore s c).job.isSome = true) :
    SlotRuns s s c (putS (getCore s c) d v) (setS s c d v) := by
  unfold setS putS
  by_cases hd : d = 0
  · simp only [hd, if_true]; exact slotRuns_id s c
  · simp only [hd, if_false]
    exact slotRuns_mod (g := fun k => { k with s := smSet 0 k.s d.toNat v }) h

theorem slotRuns_setV {s : State} {c : Nat} (d : BitVec 4) (v : BitVec 512) (h : (getCore s c).job.isSome = true) :
    SlotRuns s s c (putV (getCore s c) d v) (setV s c d v) :=
  slotRuns_mod (g := fun k => { k with v := smSet 0 k.v d.toNat v }) h

@[simp] theorem putS_job (k : Core) (i : BitVec 5) (v : U32) : (putS k i v).job = k.job := by unfold putS; split <;> rfl
@[simp] theorem putS_ending (k : Core) (i : BitVec 5) (v : U32) : (putS k i v).ending = k.ending := by unfold putS; split <;> rfl
@[simp] theorem putS_pc (k : Core) (i : BitVec 5) (v : U32) : (putS k i v).pc = k.pc := by unfold putS; split <;> rfl
@[simp] theorem putS_loops (k : Core) (i : BitVec 5) (v : U32) : (putS k i v).loops = k.loops := by unfold putS; split <;> rfl

/-- A bundle with one slot, in sequence. -/
theorem issueOne_step {s w u : State} {c : BitVec 8} {o : SlotOp} {k : Core} (h : Straight s c.toNat)
    (hr : o.ready s c.toNat = true) (hf : o.fault s c.toNat = none) (hs : sramReads s c.toNat (o.sram s c.toNat) = (true, w)) (hrun : SlotRuns s u c.toNat k (o.run s w c.toNat))
    (hj : k.job = (getCore s c.toNat).job) (he : k.ending = false) (hp : k.pc = (getCore s c.toNat).pc) (hl : k.loops = [])
    (hfl : o.flow (getCore s c.toNat) = .seq) :
    ∃ t, issueOne c o s = .next t ∧ CoreGoes s u t c.toNat k ((getCore s c.toNat).pc.toNat + 1) [] := by
  obtain ⟨h1, h2, h3, h4⟩ := h
  have hj' := (canIssue_job h2).1
  refine ⟨_, rfl, ?_⟩
  rw [awake_runs h1]
  exact issue_goes h2 (by simp [hr]) (by simp [hf]) (by simpa using hs) (by simpa using hrun) (by rw [hj]; exact hj') he hp
    (by rw [hp, hl]; show nextPc _ [] (o.flow (getCore s c.toNat)) = _; rw [hfl]; rfl) h4

/-- A bundle with a NOP in the S slot and another slot, in sequence. -/
theorem issueMX_step {s w u : State} {c : BitVec 8} {o : SlotOp} {k : Core} (h : Straight s c.toNat)
    (hr : o.ready s c.toNat = true) (hf : o.fault s c.toNat = none) (hs : sramReads s c.toNat (o.sram s c.toNat) = (true, w)) (hrun : SlotRuns s u c.toNat k (o.run s w c.toNat))
    (hj : k.job = (getCore s c.toNat).job) (he : k.ending = false) (hp : k.pc = (getCore s c.toNat).pc) (hl : k.loops = []) :
    ∃ t, issueMX c o s = .next t ∧ CoreGoes s u t c.toNat k ((getCore s c.toNat).pc.toNat + 1) [] := by
  obtain ⟨h1, h2, h3, h4⟩ := h
  have hj' := (canIssue_job h2).1
  refine ⟨_, rfl, ?_⟩
  rw [awake_runs h1]
  exact issue_goes h2 (by simp [hr, nopSlot]) (by simp [hf, nopSlot]) (by simpa [nopSlot] using hs) (by simpa [nopSlot] using hrun) (by rw [hj]; exact hj') he hp
    (by rw [hp, hl]; rfl) h4

end Sys2Proof.Machine
end

