-- ==== Sys2Proof/Laws/Bundle.lean ====
section
/-! SUPPORT. Laws/Bundle.lean: the fields of the words of `bundleOf`, and a bundle with one slot in use. -/

namespace Sys2Proof.Machine

theorem issue_slot_s (s : State) (c : Nat) (o : SlotOp) : issue s c [o, nopSlot, nopSlot] = issue s c [o] := by
  unfold issue
  cases h : o.fault s c <;> simp [nopSlot, flowOf, List.findSome?, h]
theorem issue_slot_m (s : State) (c : Nat) (o : SlotOp) : issue s c [nopSlot, o, nopSlot] = issue s c [nopSlot, o] := by
  unfold issue
  cases h : o.fault s c <;> simp [nopSlot, flowOf, List.findSome?, h]
theorem issue_slot_x (s : State) (c : Nat) (o : SlotOp) : issue s c [nopSlot, nopSlot, o] = issue s c [nopSlot, o] := by
  unfold issue
  cases h : o.fault s c <;> simp [nopSlot, flowOf, List.findSome?, h]

theorem fld_eq_zero {x lo n : Nat} (h : x < 2 ^ lo) : fld x lo n = 0 := by
  unfold fld; rw [Nat.shiftRight_eq_div_pow, Nat.div_eq_of_lt h]; simp
theorem fld_zero_self {x n : Nat} (h : x < 2 ^ n) : fld x 0 n = x := by
  unfold fld; simp [Nat.mod_eq_of_lt h]
theorem decodeBundle_s {w : Nat} {o : SlotOp} (h : w < 2 ^ 22) (hd : decodeS w = some o) : decodeBundle w = some [o, nopSlot, nopSlot] := by
  unfold decodeBundle
  rw [fld_eq_zero (lt_of_lt_of_le h (by norm_num)), fld_zero_self h, fld_eq_zero h, fld_eq_zero (lt_of_lt_of_le h (by norm_num))]
  have hm : decodeM 0 = some nopSlot := rfl
  have hx : decodeX 0 = some nopSlot := rfl
  simp only [hd, hm, hx]
  try simp [nopSlot]
theorem decodeBundle_m {w : Nat} {o : SlotOp} (h : w < 2 ^ 22) (hd : decodeM w = some o) : decodeBundle (w * 2 ^ 22) = some [nopSlot, o, nopSlot] := by
  unfold decodeBundle
  have e1 : fld (w * 2 ^ 22) 62 2 = 0 := by unfold fld; rw [Nat.shiftRight_eq_div_pow]; omega
  have e2 : fld (w * 2 ^ 22) 0 22 = 0 := by unfold fld; rw [Nat.shiftRight_eq_div_pow]; omega
  have e3 : fld (w * 2 ^ 22) 22 22 = w := by unfold fld; rw [Nat.shiftRight_eq_div_pow]; omega
  have e4 : fld (w * 2 ^ 22) 44 18 = 0 := by unfold fld; rw [Nat.shiftRight_eq_div_pow]; omega
  rw [e1, e2, e3, e4]
  have hm : decodeS 0 = some nopSlot := rfl
  have hx : decodeX 0 = some nopSlot := rfl
  simp only [hd, hm, hx]
  try simp [nopSlot]
theorem decodeBundle_x {w : Nat} {o : SlotOp} (h : w < 2 ^ 18) (hd : decodeX w = some o) : decodeBundle (w * 2 ^ 44) = some [nopSlot, nopSlot, o] := by
  unfold decodeBundle
  have e1 : fld (w * 2 ^ 44) 62 2 = 0 := by unfold fld; rw [Nat.shiftRight_eq_div_pow]; omega
  have e2 : fld (w * 2 ^ 44) 0 22 = 0 := by unfold fld; rw [Nat.shiftRight_eq_div_pow]; omega
  have e3 : fld (w * 2 ^ 44) 22 22 = 0 := by unfold fld; rw [Nat.shiftRight_eq_div_pow]; omega
  have e4 : fld (w * 2 ^ 44) 44 18 = w := by unfold fld; rw [Nat.shiftRight_eq_div_pow]; omega
  rw [e1, e2, e3, e4]
  have hm : decodeS 0 = some nopSlot := rfl
  have hx : decodeM 0 = some nopSlot := rfl
  simp only [hd, hm, hx]
  try simp [nopSlot]

theorem bitOf_zero (w : Nat) : bitOf w 0 = decide (w % 2 = 1) := by unfold bitOf; simp [Nat.testBit_zero]

/-- A window only changes the fault manager's list of windows. -/
theorem winPass_eq (s : State) (q n : Nat) : ∃ x, winPass s q n = { s with flt := { s.flt with wins := x } } := by
  unfold winPass
  cases smFind s.flt.wins q with
  | none => exact ⟨s.flt.wins, rfl⟩
  | some e => exact ⟨_, rfl⟩

/-- A bundle that can be read is fetched, which passes in the window of the core's SRAM, and then issued. -/
theorem bundleIssue_ops {c : BitVec 8} {s : State} {ops : List SlotOp} (hr : Awake s) (hi : canIssue s c.toNat = true) (hf : s.flaws = [])
    (h : decodeBundle (fetchBundle s c.toNat) = some ops) :
    exec (.bundleIssue c) s = .next (issue (winPass s (winKey 0x13 (physCore s c.toNat)) 1) c.toNat ops) := by
  show Host.Outcome.next (awake s fun s => _) = _
  rw [awake_runs hr, sramReads_one hf]
  obtain ⟨x, hx⟩ := winPass_eq s (winKey 0x13 (physCore s c.toNat)) 1
  rw [hx]
  have hb : fetchBundle { s with flt := { s.flt with wins := x } } c.toNat = fetchBundle s c.toNat := rfl
  simp only [hi, hb, h]
  rfl

/-- The same, of a bundle with one slot in use. -/
theorem bundleIssue_s {c : BitVec 8} {s : State} {o : SlotOp} (hr : Awake s) (hi : canIssue s c.toNat = true) (hf : s.flaws = [])
    (h : decodeBundle (fetchBundle s c.toNat) = some [o, nopSlot, nopSlot]) :
    exec (.bundleIssue c) s = issueOne c o (winPass s (winKey 0x13 (physCore s c.toNat)) 1) := by
  rw [bundleIssue_ops hr hi hf h, issue_slot_s]
  obtain ⟨x, hx⟩ := winPass_eq s (winKey 0x13 (physCore s c.toNat)) 1
  rw [hx]
  show _ = Host.Outcome.next (awake _ _)
  rw [awake_runs (s := { s with flt := { s.flt with wins := x } }) hr]
theorem bundleIssue_m {c : BitVec 8} {s : State} {o : SlotOp} (hr : Awake s) (hi : canIssue s c.toNat = true) (hf : s.flaws = [])
    (h : decodeBundle (fetchBundle s c.toNat) = some [nopSlot, o, nopSlot]) :
    exec (.bundleIssue c) s = issueMX c o (winPass s (winKey 0x13 (physCore s c.toNat)) 1) := by
  rw [bundleIssue_ops hr hi hf h, issue_slot_m]
  obtain ⟨x, hx⟩ := winPass_eq s (winKey 0x13 (physCore s c.toNat)) 1
  rw [hx]
  show _ = Host.Outcome.next (awake _ _)
  rw [awake_runs (s := { s with flt := { s.flt with wins := x } }) hr]
theorem bundleIssue_x {c : BitVec 8} {s : State} {o : SlotOp} (hr : Awake s) (hi : canIssue s c.toNat = true) (hf : s.flaws = [])
    (h : decodeBundle (fetchBundle s c.toNat) = some [nopSlot, nopSlot, o]) :
    exec (.bundleIssue c) s = issueMX c o (winPass s (winKey 0x13 (physCore s c.toNat)) 1) := by
  rw [bundleIssue_ops hr hi hf h, issue_slot_x]
  obtain ⟨x, hx⟩ := winPass_eq s (winKey 0x13 (physCore s c.toNat)) 1
  rw [hx]
  show _ = Host.Outcome.next (awake _ _)
  rw [awake_runs (s := { s with flt := { s.flt with wins := x } }) hr]

/-- A core that may not issue is left alone by the bundle it holds and by every instruction. -/
theorem awake_issue_off {s : State} {c : Nat} {g : State → State} (hs : Sound s) (h : ¬ (Awake s ∧ canIssue s c = true))
    (hg : canIssue s c = false → g s = s) : awake s g = s := by
  by_cases hw : s.flt.fatal = true ∨ hostOn s = false
  · exact awake_stopped hw g
  · simp only [not_or, Bool.not_eq_true, Bool.not_eq_false] at hw
    have hr : Awake s := ⟨hw.1, hw.2, hs⟩
    rw [awake_runs hr]
    exact hg (by simpa [hr] using h)
theorem bundleIssue_off {c : BitVec 8} {s : State} (hs : Sound s) (h : ¬ (Awake s ∧ canIssue s c.toNat = true)) :
    exec (.bundleIssue c) s = .next s := by
  show Host.Outcome.next (awake s fun s => _) = _
  congr 1
  exact awake_issue_off hs h (fun hi => by simp [hi])
theorem issue_off {s : State} {c : Nat} {ops : List SlotOp} (hs : Sound s) (h : ¬ (Awake s ∧ canIssue s c = true)) :
    awake s (fun s => issue s c ops) = s := awake_issue_off hs h (fun hi => by simp [issue, hi])

theorem sRR_fields {op d a b : Nat} (h0 : op < 64) (h1 : d < 32) (h2 : a < 32) (h3 : b < 32) :
    fld (sRR op d a b) 16 6 = op ∧ fld (sRR op d a b) 11 5 = d ∧ fld (sRR op d a b) 6 5 = a ∧ fld (sRR op d a b) 1 5 = b ∧ bitOf (sRR op d a b) 0 = false ∧ sRR op d a b < 2 ^ 22 := by
  unfold fld sRR; rw [bitOf_zero]; simp only [Nat.shiftRight_eq_div_pow]; simp only [decide_eq_false_iff_not]
  refine ⟨?_, ?_, ?_, ?_, ?_, ?_⟩ <;> omega
theorem sRI_fields {op d a i : Nat} (h0 : op < 64) (h1 : d < 32) (h2 : a < 32) (h3 : i < 64) :
    fld (sRI op d a i) 16 6 = op ∧ fld (sRI op d a i) 11 5 = d ∧ fld (sRI op d a i) 6 5 = a ∧ sRI op d a i % 64 = i ∧ fld (sRI op d a i) 1 5 = i / 2 ∧ bitOf (sRI op d a i) 0 = decide (i % 2 = 1) ∧ sRI op d a i < 2 ^ 22 := by
  unfold fld sRI; rw [bitOf_zero]; simp only [Nat.shiftRight_eq_div_pow]
  refine ⟨?_, ?_, ?_, ?_, ?_, ?_, ?_⟩ <;> (try simp only [decide_eq_decide]) <;> omega
theorem sI_fields {op d i : Nat} (h0 : op < 64) (h1 : d < 32) (h3 : i < 2048) :
    fld (sI op d i) 16 6 = op ∧ fld (sI op d i) 11 5 = d ∧ sI op d i % 2048 = i ∧ fld (sI op d i) 0 16 = d * 2048 + i ∧ sI op d i < 2 ^ 22 := by
  unfold fld sI; simp only [Nat.shiftRight_eq_div_pow]
  refine ⟨?_, ?_, ?_, ?_, ?_⟩ <;> omega
theorem mWord_fields {op d a b m : Nat} (h0 : op < 64) (h1 : d < 16) (h2 : a < 16) (h3 : b < 16) (h4 : m < 16) :
    let w := op * 2 ^ 16 + d * 2 ^ 12 + a * 2 ^ 8 + b * 2 ^ 4 + m
    fld w 16 6 = op ∧ fld w 12 4 = d ∧ fld w 8 4 = a ∧ fld w 4 4 = b ∧ fld w 0 4 = m ∧ fld w 0 12 = a * 256 + b * 16 + m ∧ fld w 0 2 = m % 4 ∧ fld w 3 5 = b * 2 + m / 8 ∧ bitOf w 2 = decide (m / 4 % 2 = 1) ∧ bitOf w 12 = decide (d % 2 = 1) ∧ w < 2 ^ 22 := by
  dsimp only
  unfold fld bitOf; simp only [Nat.shiftRight_eq_div_pow, Nat.testBit_eq_decide_div_mod_eq, decide_eq_decide]
  refine ⟨?_, ?_, ?_, ?_, ?_, ?_, ?_, ?_, ?_, ?_, ?_⟩ <;> omega
theorem xWord_fields {op a b c : Nat} (h0 : op < 64) (h2 : a < 32) (h3 : b < 32) (h4 : c < 4) :
    let w := op * 2 ^ 12 + a * 2 ^ 7 + b * 2 ^ 2 + c
    fld w 12 6 = op ∧ fld w 7 5 = a ∧ fld w 2 5 = b ∧ w % 4 = c ∧ w < 2 ^ 18 := by
  dsimp only
  unfold fld; simp only [Nat.shiftRight_eq_div_pow]
  refine ⟨?_, ?_, ?_, ?_, ?_⟩ <;> omega

theorem ofNat_of_eq {n : Nat} (x : BitVec n) {w : Nat} (h : w = x.toNat) : BitVec.ofNat n w = x := by subst h; simp
theorem ofNat_of_mod {n : Nat} (x : BitVec n) {w : Nat} (h : w % 2 ^ n = x.toNat) : BitVec.ofNat n w = x := by
  apply BitVec.eq_of_toNat_eq; simp [h]


end Sys2Proof.Machine
end

