-- ==== Sys2Proof/Laws/Lanes.lean ====
section
/-! SUPPORT. Laws/Lanes.lean: the lanes of a vector register that is put together lane by lane. -/

namespace Sys2Proof.Machine

/-- The number whose `w`-bit digits are `ls`, lane 0 lowest. -/
def laneNum (w : Nat) (ls : List Nat) : Nat := ls.foldr (fun x t => x % 2 ^ w + 2 ^ w * t) 0

theorem laneNum_lt (w : Nat) (ls : List Nat) : laneNum w ls < 2 ^ (w * ls.length) := by
  induction ls with
  | nil => simp [laneNum]
  | cons x r ih =>
    have h1 : x % 2 ^ w < 2 ^ w := Nat.mod_lt _ (by positivity)
    have h2 : laneNum w (x :: r) = x % 2 ^ w + 2 ^ w * laneNum w r := rfl
    rw [h2, List.length_cons, Nat.mul_add, Nat.mul_one, Nat.pow_add]
    nlinarith [ih, h1]

theorem laneNum_digit (w : Nat) (ls : List Nat) (i : Nat) :
    fld (laneNum w ls) (w * i) w = (ls[i]?.getD 0) % 2 ^ w := by
  induction ls generalizing i with
  | nil => simp [laneNum, fld]
  | cons x r ih =>
    have h2 : laneNum w (x :: r) = x % 2 ^ w + 2 ^ w * laneNum w r := rfl
    have h1 : x % 2 ^ w < 2 ^ w := Nat.mod_lt _ (by positivity)
    cases i with
    | zero => simp [fld, h2]
    | succ i =>
      have h3 := ih i
      unfold fld at h3 ⊢
      rw [Nat.shiftRight_eq_div_pow] at h3 ⊢
      rw [h2, Nat.mul_add, Nat.mul_one, Nat.add_comm (w * i) w, Nat.pow_add, ← Nat.div_div_eq_div_mul]
      have h4 : (x % 2 ^ w + 2 ^ w * laneNum w r) / 2 ^ w = laneNum w r := by
        rw [Nat.add_mul_div_left _ _ (by positivity), Nat.div_eq_of_lt h1, Nat.zero_add]
      rw [h4, h3]
      simp

/-- Lane `i` of a register put together from `ls`; lanes past its end are 0. -/
theorem lane_ofLanes {w : Nat} {ls : List Nat} (h : w * ls.length ≤ 512) (i : Nat) :
    lane w (ofLanes w ls) i = (ls[i]?.getD 0) % 2 ^ w := by
  unfold lane ofLanes
  have h1 : laneNum w ls < 2 ^ 512 := lt_of_lt_of_le (laneNum_lt w ls) (Nat.pow_le_pow_right (by omega) h)
  show fld (BitVec.ofNat 512 (laneNum w ls)).toNat (w * i) w = _
  rw [BitVec.toNat_ofNat, Nat.mod_eq_of_lt h1]
  exact laneNum_digit w ls i

theorem lanesOf_getElem {w : Nat} {v : BitVec 512} {i : Nat} (h : i < 512 / w) : (lanesOf w v)[i]? = some (lane w v i) := by
  simp [lanesOf, lane, h]

@[simp] theorem lanesOf_length (w : Nat) (v : BitVec 512) : (lanesOf w v).length = 512 / w := by simp [lanesOf]

theorem lane_lt (w : Nat) (v : BitVec 512) (i : Nat) : lane w v i < 2 ^ w := Nat.mod_lt _ (by positivity)

end Sys2Proof.Machine
end

