-- ==== Sys2Proof/Laws/Memory.lean ====
section
/-! SUPPORT. Laws/Memory.lean: memory reads back what is written, keeps every other byte, and stays canonical. -/

namespace Sys2Proof.Machine

variable {α : Type}

theorem smFind_smPut (m : SMap α) (k q : Nat) (v : α) : smFind (smPut m k v) q = if q = k then some v else smFind m q := by
  induction m with
  | nil => by_cases h : q = k <;> simp [smPut, smFind, h]
  | cons x r ih =>
    obtain ⟨k', v'⟩ := x
    by_cases h1 : k < k'
    · simp only [smPut, if_pos h1, smFind]
      by_cases h : q = k
      · simp [h]
      · by_cases h3 : q < k
        · have h4 : q < k' := by omega
          have h5 : q ≠ k' := by omega
          simp [h, h3, h4, h5]
        · simp [h, h3]
    · by_cases h2 : k = k'
      · subst h2
        by_cases h : q = k
        · simp [smPut, smFind, h]
        · simp [smPut, smFind, h]
      · simp only [smPut, if_neg h1, if_neg h2, smFind, ih]
        by_cases h : q = k
        · subst h; simp [h1, h2]
        · simp [h]

theorem smFind_rising {b k : Nat} {m : SMap α} (h : smRising b m = true) (hk : k ≤ b) : smFind m k = none := by
  cases m with
  | nil => rfl
  | cons x r =>
    obtain ⟨k', v'⟩ := x
    simp only [smRising, Bool.and_eq_true, decide_eq_true_eq] at h
    have h1 : k ≠ k' := by omega
    have h2 : k < k' := by omega
    simp [smFind, h1, h2]

theorem smFind_filter {b : Nat} {m : SMap α} (p : Nat → Bool) (h : smRising b m = true) (q : Nat) :
    smFind (m.filter (fun e => p e.1)) q = if p q = true then smFind m q else none := by
  induction m generalizing b with
  | nil => simp [smFind]
  | cons x r ih =>
    obtain ⟨k', v'⟩ := x
    simp only [smRising, Bool.and_eq_true, decide_eq_true_eq] at h
    by_cases hp : p k' = true
    · rw [List.filter_cons_of_pos (by simpa using hp)]
      simp only [smFind, ih h.2]
      by_cases hq : q = k'
      · subst hq; simp [hp]
      · by_cases hl : q < k' <;> simp [hq, hl]
    · rw [List.filter_cons_of_neg (by simpa using hp), ih h.2]
      simp only [smFind]
      by_cases hq : q = k'
      · subst hq; simp [hp]
      · by_cases hl : q < k'
        · simp [hq, hl, smFind_rising h.2 (Nat.le_of_lt hl)]
        · simp [hq, hl]

theorem smSorted_cases {m : SMap α} (h : SmSorted m) : m = [] ∨ ∃ k v r, m = (k, v) :: r ∧ smRising k r = true := by
  cases m with
  | nil => exact .inl rfl
  | cons x r => exact .inr ⟨x.1, x.2, r, rfl, h⟩

theorem smFind_filter_sorted {m : SMap α} (p : Nat → Bool) (h : SmSorted m) (q : Nat) :
    smFind (m.filter (fun e => p e.1)) q = if p q = true then smFind m q else none := by
  rcases smSorted_cases h with rfl | ⟨k, v, r, rfl, hr⟩
  · simp [smFind]
  · by_cases hp : p k = true
    · rw [List.filter_cons_of_pos (by simpa using hp)]
      simp only [smFind, smFind_filter p hr]
      by_cases hq : q = k
      · subst hq; simp [hp]
      · by_cases hl : q < k <;> simp [hq, hl]
    · rw [List.filter_cons_of_neg (by simpa using hp), smFind_filter p hr]
      simp only [smFind]
      by_cases hq : q = k
      · subst hq; simp [hp]
      · by_cases hl : q < k
        · simp [hq, hl, smFind_rising hr (Nat.le_of_lt hl)]
        · simp [hq, hl]

theorem smFind_smSet [DecidableEq α] {d : α} {m : SMap α} (k q : Nat) (v : α) (h : SmSorted m) :
    smFind (smSet d m k v) q = if q = k then (if v = d then none else some v) else smFind m q := by
  by_cases hv : v = d
  · subst hv
    rcases smSorted_cases h with rfl | ⟨k0, v0, r, rfl, hr⟩
    · by_cases hq : q = k <;> simp [smSet, smFind]
    · clear h
      induction r generalizing k0 v0 with
      | nil =>
        by_cases h1 : k < k0
        · by_cases hq : q = k
          · subst hq
            have h2 : q ≠ k0 := by omega
            simp [smSet, h1, smFind, h2]
          · simp [smSet, h1, smFind, hq]
        · by_cases h2 : k = k0
          · subst h2
            by_cases hq : q = k <;> simp [smSet, smFind, hq]
          · by_cases hq : q = k
            · subst hq
              have h3 : k0 < q := by omega
              simp [smSet, h1, h2, smFind]
            · simp [smSet, h1, h2, smFind, hq]
      | cons x r ih =>
        obtain ⟨k1, v1⟩ := x
        simp only [smRising, Bool.and_eq_true, decide_eq_true_eq] at hr
        by_cases h1 : k < k0
        · by_cases hq : q = k
          · subst hq
            have h2 : q ≠ k0 := by omega
            simp [smSet, h1, smFind, h2]
          · simp [smSet, h1, smFind, hq]
        · by_cases h2 : k = k0
          · subst h2
            by_cases hq : q = k
            · subst hq
              have h3 : q ≠ k1 := by omega
              simp [smSet, smFind, h3, hr.1]
            · by_cases hl : q < k
              · have h3 : q ≠ k1 := by omega
                have h4 : q < k1 := by omega
                simp [smSet, smFind, hq, hl, h3, h4]
              · simp [smSet, smFind, hq, hl]
          · rw [show smSet v ((k0, v0) :: (k1, v1) :: r) k v = (k0, v0) :: smSet v ((k1, v1) :: r) k v by
              conv => lhs; unfold smSet
              rw [if_neg h1, if_neg h2]]
            simp only [smFind, ih k1 v1 hr.2]
            by_cases hq : q = k
            · subst hq
              simp [h1, h2]
            · simp [hq]
  · rw [if_neg hv]
    have e : smSet d m k v = smPut m k v := by
      clear h
      induction m with
      | nil => simp [smSet, smPut, hv]
      | cons x r ih =>
        obtain ⟨k', v'⟩ := x
        simp only [smSet, smPut, if_neg hv, ih]
    rw [e, smFind_smPut]

theorem smRising_smPut {b k : Nat} {m : SMap α} (v : α) (h : smRising b m = true) (hk : b < k) : smRising b (smPut m k v) = true := by
  induction m generalizing b with
  | nil => simp [smPut, smRising, hk]
  | cons x r ih =>
    obtain ⟨k', v'⟩ := x
    have h0 := h
    simp only [smRising, Bool.and_eq_true, decide_eq_true_eq] at h
    by_cases h1 : k < k'
    · simp [smPut, h1, smRising, hk, h.2]
    · by_cases h2 : k = k'
      · subst h2; simp [smPut, smRising, hk, h.2]
      · simp only [smPut, if_neg h1, if_neg h2, smRising, Bool.and_eq_true, decide_eq_true_eq]
        exact ⟨h.1, ih h.2 (by omega)⟩

theorem smSorted_smPut {k : Nat} {m : SMap α} (v : α) (h : SmSorted m) : SmSorted (smPut m k v) := by
  cases m with
  | nil => simp [smPut, SmSorted, smRising]
  | cons x r =>
    obtain ⟨k', v'⟩ := x
    simp only [SmSorted] at h
    by_cases h1 : k < k'
    · simp [smPut, h1, SmSorted, smRising, h]
    · by_cases h2 : k = k'
      · subst h2; simpa [smPut, SmSorted] using h
      · simp only [smPut, if_neg h1, if_neg h2, SmSorted]
        exact smRising_smPut v h (by omega)

/-! ## The canonical form -/

/-- Memory lists its keys in rising order, and no 0 where an unlisted byte reads 0. -/
theorem memory_wf_iff (s : State) :
    Memory.wf s = true ↔ SmSorted s.mem ∧ ∀ e ∈ s.mem, isZeroed s e.1 = true → e.2 ≠ 0 := by
  unfold Memory.wf
  simp only [Bool.and_eq_true, List.all_eq_true, Bool.or_eq_true, Bool.not_eq_true', decide_eq_false_iff_not]
  constructor
  · rintro ⟨h1, h2⟩
    refine ⟨?_, ?_⟩
    · cases hm : s.mem with
      | nil => trivial
      | cons x r => rw [hm] at h1; exact h1
    · intro e he hz
      rcases h2 e he with h | h
      · rw [hz] at h; cases h
      · exact h
  · rintro ⟨h1, h2⟩
    refine ⟨?_, ?_⟩
    · cases hm : s.mem with
      | nil => rfl
      | cons x r => rw [hm] at h1; exact h1
    · intro e he
      by_cases hz : isZeroed s e.1 = true
      · exact .inr (h2 e he hz)
      · exact .inl (by simpa using hz)

theorem isZeroed_of_lost {s t : State} (h : t.lost = s.lost) (k : Nat) : isZeroed t k = isZeroed s k := by
  unfold isZeroed lossOf; rw [h]

theorem unlisted_of_lost {s t : State} (h : t.lost = s.lost) (k : Nat) : unlisted t k = unlisted s k := by
  unfold unlisted isZeroed lossOf; rw [h]

/-- The memory of a state reads alike wherever the same bytes are listed and the same regions are lost. -/
theorem peek1_of_mem {s t : State} (hm : t.mem = s.mem) (hl : t.lost = s.lost) (k : Nat) : peek1 t k = peek1 s k := by
  unfold peek1; rw [hm, unlisted_of_lost hl]

theorem peek_of_mem {s t : State} (hm : t.mem = s.mem) (hl : t.lost = s.lost) (k n : Nat) : peek t k n = peek s k n := by
  induction n generalizing k with
  | zero => rfl
  | succ n ih => simp only [peek, peek1_of_mem hm hl, ih]

theorem wf_of_mem {s t : State} (hm : t.mem = s.mem) (hl : t.lost = s.lost) : Memory.wf t = Memory.wf s := by
  unfold Memory.wf
  rw [hm]
  have : ∀ k, isZeroed t k = isZeroed s k := isZeroed_of_lost hl
  simp only [this]

@[simp] theorem poke1_lost (s : State) (k : Nat) (v : U8) : (poke1 s k v).lost = s.lost := by
  unfold poke1; split <;> rfl

/-- A byte write changes nothing but memory's list of cells. -/
theorem poke1_eq (s : State) (k : Nat) (v : U8) : poke1 s k v = { s with mem := (poke1 s k v).mem } := by
  unfold poke1; split <;> rfl

theorem mem_smSet [DecidableEq α] {d : α} {m : SMap α} {k : Nat} {v : α} {e : Nat × α} (h : e ∈ smSet d m k v) :
    e ∈ m ∨ (e = (k, v) ∧ v ≠ d) := by
  induction m with
  | nil =>
    by_cases hv : v = d
    · simp [smSet, hv] at h
    · simp only [smSet, if_neg hv, List.mem_singleton] at h; exact .inr ⟨h, hv⟩
  | cons x r ih =>
    obtain ⟨k', v'⟩ := x
    by_cases h1 : k < k'
    · by_cases hv : v = d
      · simp only [smSet, if_pos h1, if_pos hv] at h; exact .inl h
      · simp only [smSet, if_pos h1, if_neg hv] at h
        rcases List.mem_cons.mp h with h | h
        · exact .inr ⟨h, hv⟩
        · exact .inl h
    · by_cases h2 : k = k'
      · by_cases hv : v = d
        · simp only [smSet, if_neg h1, if_pos h2, if_pos hv] at h
          exact .inl (List.mem_cons_of_mem _ h)
        · simp only [smSet, if_neg h1, if_pos h2, if_neg hv] at h
          rcases List.mem_cons.mp h with h | h
          · exact .inr ⟨h, hv⟩
          · exact .inl (List.mem_cons_of_mem _ h)
      · simp only [smSet, if_neg h1, if_neg h2] at h
        rcases List.mem_cons.mp h with h | h
        · exact .inl (h ▸ List.mem_cons_self ..)
        · rcases ih h with h | h
          · exact .inl (List.mem_cons_of_mem _ h)
          · exact .inr h

theorem mem_smPut {m : SMap α} {k : Nat} {v : α} {e : Nat × α} (h : e ∈ smPut m k v) : e ∈ m ∨ e = (k, v) := by
  induction m with
  | nil => simp only [smPut, List.mem_singleton] at h; exact .inr h
  | cons x r ih =>
    obtain ⟨k', v'⟩ := x
    by_cases h1 : k < k'
    · simp only [smPut, if_pos h1] at h
      rcases List.mem_cons.mp h with h | h
      · exact .inr h
      · exact .inl h
    · by_cases h2 : k = k'
      · simp only [smPut, if_neg h1, if_pos h2] at h
        rcases List.mem_cons.mp h with h | h
        · exact .inr h
        · exact .inl (List.mem_cons_of_mem _ h)
      · simp only [smPut, if_neg h1, if_neg h2] at h
        rcases List.mem_cons.mp h with h | h
        · exact .inl (h ▸ List.mem_cons_self ..)
        · rcases ih h with h | h
          · exact .inl (List.mem_cons_of_mem _ h)
          · exact .inr h

/-- A written byte reads back, and every other byte is kept. -/
theorem peek1_poke1 {s : State} (k q : Nat) (v : U8) (h : Memory.wf s = true) :
    peek1 (poke1 s k v) q = if q = k then v else peek1 s q := by
  have hw := (memory_wf_iff s).mp h
  unfold peek1
  rw [unlisted_of_lost (poke1_lost s k v)]
  unfold poke1
  by_cases hz : isZeroed s k = true
  · simp only [hz, if_true, smFind_smSet k q v hw.1]
    by_cases hq : q = k
    · subst hq
      by_cases hv : v = 0
      · simp only [hv, if_true, Option.getD_none, unlisted, hz]
      · rw [if_pos rfl, if_pos rfl, if_neg hv]; rfl
    · rw [if_neg hq, if_neg hq]
  · rw [if_neg hz]
    show (smFind (smPut s.mem k v) q).getD _ = _
    rw [smFind_smPut]
    by_cases hq : q = k
    · rw [if_pos hq, if_pos hq]; rfl
    · rw [if_neg hq, if_neg hq]

theorem wf_poke1 {s : State} (k : Nat) (v : U8) (h : Memory.wf s = true) : Memory.wf (poke1 s k v) = true := by
  have hw := (memory_wf_iff s).mp h
  rw [memory_wf_iff]
  unfold poke1
  by_cases hz : isZeroed s k = true
  · simp only [hz, if_true]
    refine ⟨smSorted_smSet v hw.1, ?_⟩
    intro e he hze
    rcases mem_smSet he with h1 | ⟨rfl, h1⟩
    · exact hw.2 e h1 hze
    · exact h1
  · simp only [hz]
    refine ⟨smSorted_smPut v hw.1, ?_⟩
    intro e he hze
    rcases mem_smPut he with h1 | rfl
    · exact hw.2 e h1 hze
    · exact absurd hze hz

theorem poke_eq (s : State) (k : Nat) (bs : Bytes) : poke s k bs = { s with mem := (poke s k bs).mem } := by
  induction bs generalizing s k with
  | nil => rfl
  | cons b r ih => simp only [poke]; rw [ih, poke1_eq]

@[simp] theorem poke_lost (s : State) (k : Nat) (bs : Bytes) : (poke s k bs).lost = s.lost := by rw [poke_eq]

theorem wf_poke {s : State} (k : Nat) (bs : Bytes) (h : Memory.wf s = true) : Memory.wf (poke s k bs) = true := by
  induction bs generalizing s k with
  | nil => exact h
  | cons b r ih => exact ih (k + 1) (wf_poke1 k b h)

/-- Bytes outside a written range are kept. -/
theorem peek1_poke_out {s : State} {k q : Nat} {bs : Bytes} (h : Memory.wf s = true) (hq : q < k ∨ k + bs.length ≤ q) :
    peek1 (poke s k bs) q = peek1 s q := by
  induction bs generalizing s k with
  | nil => rfl
  | cons b r ih =>
    simp only [List.length_cons] at hq
    simp only [poke]
    rw [ih (wf_poke1 k b h) (by omega), peek1_poke1 k q b h, if_neg (by omega)]

/-- Written bytes read back. -/
theorem peek_poke {s : State} (k : Nat) (bs : Bytes) (h : Memory.wf s = true) : peek (poke s k bs) k bs.length = bs := by
  induction bs generalizing s k with
  | nil => rfl
  | cons b r ih =>
    simp only [poke, List.length_cons, peek]
    rw [ih (k + 1) (wf_poke1 k b h), peek1_poke_out (wf_poke1 k b h) (.inl (by omega)), peek1_poke1 k k b h, if_pos rfl]

theorem peek_poke_out {s : State} {k q n : Nat} {bs : Bytes} (h : Memory.wf s = true) (hq : q + n ≤ k ∨ k + bs.length ≤ q) :
    peek (poke s k bs) q n = peek s q n := by
  induction n generalizing q with
  | zero => rfl
  | succ n ih =>
    simp only [peek]
    rw [peek1_poke_out h (by omega), ih (by omega)]

@[simp] theorem peek_length (s : State) (k n : Nat) : (peek s k n).length = n := by
  induction n generalizing k with
  | zero => rfl
  | succ n ih => simp [peek, ih]

/-! ## Zeroing and loss (R359) -/

theorem smSorted_clearRange {m : SMap α} (lo n : Nat) (h : SmSorted m) : SmSorted (smClearRange m lo n) := smSorted_filter _ h

@[simp] theorem listZeros_lost (s : State) (k n : Nat) : (listZeros s k n).lost = s.lost := by
  induction n generalizing s k with
  | zero => rfl
  | succ n ih => simp only [listZeros]; rw [ih]

theorem wf_filter {s : State} (p : Nat × U8 → Bool) (h : Memory.wf s = true) : Memory.wf { s with mem := s.mem.filter p } = true := by
  have hw := (memory_wf_iff s).mp h
  rw [memory_wf_iff]
  exact ⟨smSorted_filter p hw.1, fun e he hz => hw.2 e (List.mem_filter.mp he).1 hz⟩

theorem wf_listZeros {s : State} {k n : Nat} (h : Memory.wf s = true) (hr : ∀ i, k ≤ i → i < k + n → isZeroed s i = false) :
    Memory.wf (listZeros s k n) = true := by
  induction n generalizing s k with
  | zero => exact h
  | succ n ih =>
    simp only [listZeros]
    apply ih
    · have hw := (memory_wf_iff s).mp h
      rw [memory_wf_iff]
      refine ⟨smSorted_smPut 0 hw.1, ?_⟩
      intro e he hze
      rcases mem_smPut he with h1 | rfl
      · exact hw.2 e h1 hze
      · have := hr k (Nat.le_refl _) (by omega)
        have h2 : isZeroed s k = true := hze
        rw [this] at h2
        cases h2
    · intro i h1 h2
      exact hr i (by omega) (by omega)

/-- A region that is lost, and one that is zeroed, keep memory canonical. -/
theorem wf_loseRegion {s : State} (r : Nat) (h : Memory.wf s = true) : Memory.wf (loseRegion s r) = true := by
  have hw := (memory_wf_iff s).mp h
  rw [memory_wf_iff]
  refine ⟨smSorted_filter _ hw.1, ?_⟩
  intro e he hz
  have h1 := List.mem_filter.mp he
  have h2 : regionOf e.1 ≠ r := by simpa using h1.2
  refine hw.2 e h1.1 ?_
  have h3 : lossOf (loseRegion s r) e.1 = lossOf s e.1 := by
    unfold lossOf loseRegion
    exact smUpd_ne s.lost (fun n => n + 1 + n % 2) (by show _ + 1 + _ % 2 ≠ 0; omega) h2
  unfold isZeroed at hz ⊢
  rw [h3] at hz
  exact hz

theorem wf_zeroRegion {s : State} (r : Nat) (h : Memory.wf s = true) (hl : SmSorted s.lost) : Memory.wf (zeroRegion s r) = true := by
  have hw := (memory_wf_iff s).mp h
  rw [memory_wf_iff]
  refine ⟨smSorted_filter _ hw.1, ?_⟩
  intro e he hz
  have h1 := List.mem_filter.mp he
  have h2 : regionOf e.1 ≠ r := by simpa using h1.2
  refine hw.2 e h1.1 ?_
  have h3 : lossOf (zeroRegion s r) e.1 = lossOf s e.1 := by
    unfold lossOf zeroRegion
    show smGet 0 (smSet 0 s.lost r _) _ = _
    rw [smGet_smSet_sorted _ hl, if_neg h2]
  unfold isZeroed at hz ⊢
  rw [h3] at hz
  exact hz

/-- Every byte of a zeroed region reads 0. -/
theorem peek1_zeroRegion {s : State} {r k : Nat} (h : Memory.wf s = true) (hl : SmSorted s.lost) (hr : regionOf k = r) :
    peek1 (zeroRegion s r) k = 0 := by
  have hw := (memory_wf_iff s).mp h
  have h1 : smFind (zeroRegion s r).mem k = none := by
    show smFind (s.mem.filter (fun e => !decide (regionOf e.1 = r))) k = none
    rw [smFind_filter_sorted (fun k => !decide (regionOf k = r)) hw.1]
    simp [hr]
  have h2 : lossOf (zeroRegion s r) k = smGet 0 s.lost r + smGet 0 s.lost r % 2 := by
    unfold lossOf zeroRegion
    show smGet 0 (smSet 0 s.lost r _) _ = _
    rw [smGet_smSet_sorted _ hl, if_pos hr]
  unfold peek1
  rw [h1]
  simp only [Option.getD_none, unlisted, isZeroed, h2]
  have : (smGet 0 s.lost r + smGet 0 s.lost r % 2) % 2 = 0 := by omega
  simp [this]

end Sys2Proof.Machine
end

