-- ==== Sys2Proof/Laws/State.lean ====
section
/-! SUPPORT. Laws/State.lean: what each update of a State leaves alone, field by field (each theorem is split by simp
into one lemma per field), and what the updated field reads as afterwards. -/

namespace Sys2Proof.Machine

/-! ## What an update leaves alone -/

@[simp] theorem modFn_frame (s : State) (f : Nat) (g : Fn → Fn) :
    (modFn s f g).pending = s.pending ∧ (modFn s f g).mem = s.mem ∧ (modFn s f g).lost = s.lost ∧
    (modFn s f g).poison = s.poison ∧ (modFn s f g).flaws = s.flaws ∧ (modFn s f g).regs = s.regs ∧
    (modFn s f g).ctrs = s.ctrs ∧ (modFn s f g).freeCtr = s.freeCtr ∧ (modFn s f g).out = s.out ∧
    (modFn s f g).vfEnable = s.vfEnable ∧ (modFn s f g).subsys = s.subsys ∧ (modFn s f g).rings = s.rings ∧
    (modFn s f g).fetches = s.fetches ∧ (modFn s f g).lastServed = s.lastServed ∧ (modFn s f g).prot = s.prot ∧
    (modFn s f g).streams = s.streams ∧ (modFn s f g).slots = s.slots ∧ (modFn s f g).insts = s.insts ∧
    (modFn s f g).events = s.events ∧ (modFn s f g).results = s.results ∧ (modFn s f g).snaps = s.snaps ∧
    (modFn s f g).feLine = s.feLine ∧ (modFn s f g).snapWait = s.snapWait ∧ (modFn s f g).jobs = s.jobs ∧
    (modFn s f g).nextJob = s.nextJob ∧ (modFn s f g).cores = s.cores ∧ (modFn s f g).msgs = s.msgs ∧
    (modFn s f g).bounces = s.bounces ∧ (modFn s f g).knots = s.knots ∧ (modFn s f g).knotOps = s.knotOps ∧
    (modFn s f g).knotWaits = s.knotWaits ∧ (modFn s f g).kfwd = s.kfwd ∧ (modFn s f g).kToken = s.kToken ∧
    (modFn s f g).subs = s.subs ∧ (modFn s f g).satCtrs = s.satCtrs ∧ (modFn s f g).engines = s.engines ∧
    (modFn s f g).memLogs = s.memLogs ∧ (modFn s f g).stackTemp = s.stackTemp ∧ (modFn s f g).stackHot = s.stackHot ∧
    (modFn s f g).ports = s.ports ∧ (modFn s f g).delivered = s.delivered ∧ (modFn s f g).lostChips = s.lostChips ∧
    (modFn s f g).lossDue = s.lossDue ∧ (modFn s f g).evHold = s.evHold ∧ (modFn s f g).conduits = s.conduits ∧
    (modFn s f g).xfers = s.xfers ∧ (modFn s f g).nextXid = s.nextXid ∧ (modFn s f g).rreg = s.rreg ∧
    (modFn s f g).link = s.link ∧ (modFn s f g).pwr = s.pwr ∧ (modFn s f g).plls = s.plls ∧
    (modFn s f g).doms = s.doms ∧ (modFn s f g).flt = s.flt ∧ (modFn s f g).lnt = s.lnt :=
  ⟨rfl, rfl, rfl, rfl, rfl, rfl, rfl, rfl, rfl, rfl, rfl, rfl, rfl, rfl, rfl, rfl, rfl, rfl, rfl, rfl, rfl, rfl, rfl, rfl, rfl, rfl, rfl, rfl, rfl, rfl, rfl, rfl, rfl, rfl, rfl, rfl, rfl, rfl, rfl, rfl, rfl, rfl, rfl, rfl, rfl, rfl, rfl, rfl, rfl, rfl, rfl, rfl, rfl, rfl⟩

@[simp] theorem modRing_frame (s : State) (p : Nat) (g : Ring → Ring) :
    (modRing s p g).pending = s.pending ∧ (modRing s p g).mem = s.mem ∧ (modRing s p g).lost = s.lost ∧
    (modRing s p g).poison = s.poison ∧ (modRing s p g).flaws = s.flaws ∧ (modRing s p g).regs = s.regs ∧
    (modRing s p g).ctrs = s.ctrs ∧ (modRing s p g).freeCtr = s.freeCtr ∧ (modRing s p g).out = s.out ∧
    (modRing s p g).fns = s.fns ∧ (modRing s p g).vfEnable = s.vfEnable ∧ (modRing s p g).subsys = s.subsys ∧
    (modRing s p g).fetches = s.fetches ∧ (modRing s p g).lastServed = s.lastServed ∧ (modRing s p g).prot = s.prot ∧
    (modRing s p g).streams = s.streams ∧ (modRing s p g).slots = s.slots ∧ (modRing s p g).insts = s.insts ∧
    (modRing s p g).events = s.events ∧ (modRing s p g).results = s.results ∧ (modRing s p g).snaps = s.snaps ∧
    (modRing s p g).feLine = s.feLine ∧ (modRing s p g).snapWait = s.snapWait ∧ (modRing s p g).jobs = s.jobs ∧
    (modRing s p g).nextJob = s.nextJob ∧ (modRing s p g).cores = s.cores ∧ (modRing s p g).msgs = s.msgs ∧
    (modRing s p g).bounces = s.bounces ∧ (modRing s p g).knots = s.knots ∧ (modRing s p g).knotOps = s.knotOps ∧
    (modRing s p g).knotWaits = s.knotWaits ∧ (modRing s p g).kfwd = s.kfwd ∧ (modRing s p g).kToken = s.kToken ∧
    (modRing s p g).subs = s.subs ∧ (modRing s p g).satCtrs = s.satCtrs ∧ (modRing s p g).engines = s.engines ∧
    (modRing s p g).memLogs = s.memLogs ∧ (modRing s p g).stackTemp = s.stackTemp ∧
    (modRing s p g).stackHot = s.stackHot ∧ (modRing s p g).ports = s.ports ∧
    (modRing s p g).delivered = s.delivered ∧ (modRing s p g).lostChips = s.lostChips ∧
    (modRing s p g).lossDue = s.lossDue ∧ (modRing s p g).evHold = s.evHold ∧ (modRing s p g).conduits = s.conduits ∧
    (modRing s p g).xfers = s.xfers ∧ (modRing s p g).nextXid = s.nextXid ∧ (modRing s p g).rreg = s.rreg ∧
    (modRing s p g).link = s.link ∧ (modRing s p g).pwr = s.pwr ∧ (modRing s p g).plls = s.plls ∧
    (modRing s p g).doms = s.doms ∧ (modRing s p g).flt = s.flt ∧ (modRing s p g).lnt = s.lnt :=
  ⟨rfl, rfl, rfl, rfl, rfl, rfl, rfl, rfl, rfl, rfl, rfl, rfl, rfl, rfl, rfl, rfl, rfl, rfl, rfl, rfl, rfl, rfl, rfl, rfl, rfl, rfl, rfl, rfl, rfl, rfl, rfl, rfl, rfl, rfl, rfl, rfl, rfl, rfl, rfl, rfl, rfl, rfl, rfl, rfl, rfl, rfl, rfl, rfl, rfl, rfl, rfl, rfl, rfl, rfl⟩

@[simp] theorem modStream_frame (s : State) (i : Nat) (g : Stream → Stream) :
    (modStream s i g).pending = s.pending ∧ (modStream s i g).mem = s.mem ∧ (modStream s i g).lost = s.lost ∧
    (modStream s i g).poison = s.poison ∧ (modStream s i g).flaws = s.flaws ∧ (modStream s i g).regs = s.regs ∧
    (modStream s i g).ctrs = s.ctrs ∧ (modStream s i g).freeCtr = s.freeCtr ∧ (modStream s i g).out = s.out ∧
    (modStream s i g).fns = s.fns ∧ (modStream s i g).vfEnable = s.vfEnable ∧ (modStream s i g).subsys = s.subsys ∧
    (modStream s i g).rings = s.rings ∧ (modStream s i g).fetches = s.fetches ∧
    (modStream s i g).lastServed = s.lastServed ∧ (modStream s i g).prot = s.prot ∧
    (modStream s i g).slots = s.slots ∧ (modStream s i g).insts = s.insts ∧ (modStream s i g).events = s.events ∧
    (modStream s i g).results = s.results ∧ (modStream s i g).snaps = s.snaps ∧ (modStream s i g).feLine = s.feLine ∧
    (modStream s i g).snapWait = s.snapWait ∧ (modStream s i g).jobs = s.jobs ∧
    (modStream s i g).nextJob = s.nextJob ∧ (modStream s i g).cores = s.cores ∧ (modStream s i g).msgs = s.msgs ∧
    (modStream s i g).bounces = s.bounces ∧ (modStream s i g).knots = s.knots ∧
    (modStream s i g).knotOps = s.knotOps ∧ (modStream s i g).knotWaits = s.knotWaits ∧
    (modStream s i g).kfwd = s.kfwd ∧ (modStream s i g).kToken = s.kToken ∧ (modStream s i g).subs = s.subs ∧
    (modStream s i g).satCtrs = s.satCtrs ∧ (modStream s i g).engines = s.engines ∧
    (modStream s i g).memLogs = s.memLogs ∧ (modStream s i g).stackTemp = s.stackTemp ∧
    (modStream s i g).stackHot = s.stackHot ∧ (modStream s i g).ports = s.ports ∧
    (modStream s i g).delivered = s.delivered ∧ (modStream s i g).lostChips = s.lostChips ∧
    (modStream s i g).lossDue = s.lossDue ∧ (modStream s i g).evHold = s.evHold ∧
    (modStream s i g).conduits = s.conduits ∧ (modStream s i g).xfers = s.xfers ∧
    (modStream s i g).nextXid = s.nextXid ∧ (modStream s i g).rreg = s.rreg ∧ (modStream s i g).link = s.link ∧
    (modStream s i g).pwr = s.pwr ∧ (modStream s i g).plls = s.plls ∧ (modStream s i g).doms = s.doms ∧
    (modStream s i g).flt = s.flt ∧ (modStream s i g).lnt = s.lnt :=
  ⟨rfl, rfl, rfl, rfl, rfl, rfl, rfl, rfl, rfl, rfl, rfl, rfl, rfl, rfl, rfl, rfl, rfl, rfl, rfl, rfl, rfl, rfl, rfl, rfl, rfl, rfl, rfl, rfl, rfl, rfl, rfl, rfl, rfl, rfl, rfl, rfl, rfl, rfl, rfl, rfl, rfl, rfl, rfl, rfl, rfl, rfl, rfl, rfl, rfl, rfl, rfl, rfl, rfl, rfl⟩

@[simp] theorem modCtx_frame (s : State) (i : Nat) (g : StreamCtx → StreamCtx) :
    (modCtx s i g).pending = s.pending ∧ (modCtx s i g).mem = s.mem ∧ (modCtx s i g).lost = s.lost ∧
    (modCtx s i g).poison = s.poison ∧ (modCtx s i g).flaws = s.flaws ∧ (modCtx s i g).regs = s.regs ∧
    (modCtx s i g).ctrs = s.ctrs ∧ (modCtx s i g).freeCtr = s.freeCtr ∧ (modCtx s i g).out = s.out ∧
    (modCtx s i g).fns = s.fns ∧ (modCtx s i g).vfEnable = s.vfEnable ∧ (modCtx s i g).subsys = s.subsys ∧
    (modCtx s i g).rings = s.rings ∧ (modCtx s i g).fetches = s.fetches ∧ (modCtx s i g).lastServed = s.lastServed ∧
    (modCtx s i g).prot = s.prot ∧ (modCtx s i g).slots = s.slots ∧ (modCtx s i g).insts = s.insts ∧
    (modCtx s i g).events = s.events ∧ (modCtx s i g).results = s.results ∧ (modCtx s i g).snaps = s.snaps ∧
    (modCtx s i g).feLine = s.feLine ∧ (modCtx s i g).snapWait = s.snapWait ∧ (modCtx s i g).jobs = s.jobs ∧
    (modCtx s i g).nextJob = s.nextJob ∧ (modCtx s i g).cores = s.cores ∧ (modCtx s i g).msgs = s.msgs ∧
    (modCtx s i g).bounces = s.bounces ∧ (modCtx s i g).knots = s.knots ∧ (modCtx s i g).knotOps = s.knotOps ∧
    (modCtx s i g).knotWaits = s.knotWaits ∧ (modCtx s i g).kfwd = s.kfwd ∧ (modCtx s i g).kToken = s.kToken ∧
    (modCtx s i g).subs = s.subs ∧ (modCtx s i g).satCtrs = s.satCtrs ∧ (modCtx s i g).engines = s.engines ∧
    (modCtx s i g).memLogs = s.memLogs ∧ (modCtx s i g).stackTemp = s.stackTemp ∧
    (modCtx s i g).stackHot = s.stackHot ∧ (modCtx s i g).ports = s.ports ∧ (modCtx s i g).delivered = s.delivered ∧
    (modCtx s i g).lostChips = s.lostChips ∧ (modCtx s i g).lossDue = s.lossDue ∧ (modCtx s i g).evHold = s.evHold ∧
    (modCtx s i g).conduits = s.conduits ∧ (modCtx s i g).xfers = s.xfers ∧ (modCtx s i g).nextXid = s.nextXid ∧
    (modCtx s i g).rreg = s.rreg ∧ (modCtx s i g).link = s.link ∧ (modCtx s i g).pwr = s.pwr ∧
    (modCtx s i g).plls = s.plls ∧ (modCtx s i g).doms = s.doms ∧ (modCtx s i g).flt = s.flt ∧
    (modCtx s i g).lnt = s.lnt :=
  ⟨rfl, rfl, rfl, rfl, rfl, rfl, rfl, rfl, rfl, rfl, rfl, rfl, rfl, rfl, rfl, rfl, rfl, rfl, rfl, rfl, rfl, rfl, rfl, rfl, rfl, rfl, rfl, rfl, rfl, rfl, rfl, rfl, rfl, rfl, rfl, rfl, rfl, rfl, rfl, rfl, rfl, rfl, rfl, rfl, rfl, rfl, rfl, rfl, rfl, rfl, rfl, rfl, rfl, rfl⟩

@[simp] theorem modSlot_frame (s : State) (i : Nat) (g : Slot → Slot) :
    (modSlot s i g).pending = s.pending ∧ (modSlot s i g).mem = s.mem ∧ (modSlot s i g).lost = s.lost ∧
    (modSlot s i g).poison = s.poison ∧ (modSlot s i g).flaws = s.flaws ∧ (modSlot s i g).regs = s.regs ∧
    (modSlot s i g).ctrs = s.ctrs ∧ (modSlot s i g).freeCtr = s.freeCtr ∧ (modSlot s i g).out = s.out ∧
    (modSlot s i g).fns = s.fns ∧ (modSlot s i g).vfEnable = s.vfEnable ∧ (modSlot s i g).subsys = s.subsys ∧
    (modSlot s i g).rings = s.rings ∧ (modSlot s i g).fetches = s.fetches ∧
    (modSlot s i g).lastServed = s.lastServed ∧ (modSlot s i g).prot = s.prot ∧ (modSlot s i g).streams = s.streams ∧
    (modSlot s i g).insts = s.insts ∧ (modSlot s i g).events = s.events ∧ (modSlot s i g).results = s.results ∧
    (modSlot s i g).snaps = s.snaps ∧ (modSlot s i g).feLine = s.feLine ∧ (modSlot s i g).snapWait = s.snapWait ∧
    (modSlot s i g).jobs = s.jobs ∧ (modSlot s i g).nextJob = s.nextJob ∧ (modSlot s i g).cores = s.cores ∧
    (modSlot s i g).msgs = s.msgs ∧ (modSlot s i g).bounces = s.bounces ∧ (modSlot s i g).knots = s.knots ∧
    (modSlot s i g).knotOps = s.knotOps ∧ (modSlot s i g).knotWaits = s.knotWaits ∧ (modSlot s i g).kfwd = s.kfwd ∧
    (modSlot s i g).kToken = s.kToken ∧ (modSlot s i g).subs = s.subs ∧ (modSlot s i g).satCtrs = s.satCtrs ∧
    (modSlot s i g).engines = s.engines ∧ (modSlot s i g).memLogs = s.memLogs ∧
    (modSlot s i g).stackTemp = s.stackTemp ∧ (modSlot s i g).stackHot = s.stackHot ∧
    (modSlot s i g).ports = s.ports ∧ (modSlot s i g).delivered = s.delivered ∧
    (modSlot s i g).lostChips = s.lostChips ∧ (modSlot s i g).lossDue = s.lossDue ∧
    (modSlot s i g).evHold = s.evHold ∧ (modSlot s i g).conduits = s.conduits ∧ (modSlot s i g).xfers = s.xfers ∧
    (modSlot s i g).nextXid = s.nextXid ∧ (modSlot s i g).rreg = s.rreg ∧ (modSlot s i g).link = s.link ∧
    (modSlot s i g).pwr = s.pwr ∧ (modSlot s i g).plls = s.plls ∧ (modSlot s i g).doms = s.doms ∧
    (modSlot s i g).flt = s.flt ∧ (modSlot s i g).lnt = s.lnt :=
  ⟨rfl, rfl, rfl, rfl, rfl, rfl, rfl, rfl, rfl, rfl, rfl, rfl, rfl, rfl, rfl, rfl, rfl, rfl, rfl, rfl, rfl, rfl, rfl, rfl, rfl, rfl, rfl, rfl, rfl, rfl, rfl, rfl, rfl, rfl, rfl, rfl, rfl, rfl, rfl, rfl, rfl, rfl, rfl, rfl, rfl, rfl, rfl, rfl, rfl, rfl, rfl, rfl, rfl, rfl⟩

@[simp] theorem setInst_frame (s : State) (i : Nat) (v : Option Inst) :
    (setInst s i v).pending = s.pending ∧ (setInst s i v).mem = s.mem ∧ (setInst s i v).lost = s.lost ∧
    (setInst s i v).poison = s.poison ∧ (setInst s i v).flaws = s.flaws ∧ (setInst s i v).regs = s.regs ∧
    (setInst s i v).ctrs = s.ctrs ∧ (setInst s i v).freeCtr = s.freeCtr ∧ (setInst s i v).out = s.out ∧
    (setInst s i v).fns = s.fns ∧ (setInst s i v).vfEnable = s.vfEnable ∧ (setInst s i v).subsys = s.subsys ∧
    (setInst s i v).rings = s.rings ∧ (setInst s i v).fetches = s.fetches ∧
    (setInst s i v).lastServed = s.lastServed ∧ (setInst s i v).prot = s.prot ∧ (setInst s i v).streams = s.streams ∧
    (setInst s i v).slots = s.slots ∧ (setInst s i v).events = s.events ∧ (setInst s i v).results = s.results ∧
    (setInst s i v).snaps = s.snaps ∧ (setInst s i v).feLine = s.feLine ∧ (setInst s i v).snapWait = s.snapWait ∧
    (setInst s i v).jobs = s.jobs ∧ (setInst s i v).nextJob = s.nextJob ∧ (setInst s i v).cores = s.cores ∧
    (setInst s i v).msgs = s.msgs ∧ (setInst s i v).bounces = s.bounces ∧ (setInst s i v).knots = s.knots ∧
    (setInst s i v).knotOps = s.knotOps ∧ (setInst s i v).knotWaits = s.knotWaits ∧ (setInst s i v).kfwd = s.kfwd ∧
    (setInst s i v).kToken = s.kToken ∧ (setInst s i v).subs = s.subs ∧ (setInst s i v).satCtrs = s.satCtrs ∧
    (setInst s i v).engines = s.engines ∧ (setInst s i v).memLogs = s.memLogs ∧
    (setInst s i v).stackTemp = s.stackTemp ∧ (setInst s i v).stackHot = s.stackHot ∧
    (setInst s i v).ports = s.ports ∧ (setInst s i v).delivered = s.delivered ∧
    (setInst s i v).lostChips = s.lostChips ∧ (setInst s i v).lossDue = s.lossDue ∧
    (setInst s i v).evHold = s.evHold ∧ (setInst s i v).conduits = s.conduits ∧ (setInst s i v).xfers = s.xfers ∧
    (setInst s i v).nextXid = s.nextXid ∧ (setInst s i v).rreg = s.rreg ∧ (setInst s i v).link = s.link ∧
    (setInst s i v).pwr = s.pwr ∧ (setInst s i v).plls = s.plls ∧ (setInst s i v).doms = s.doms ∧
    (setInst s i v).flt = s.flt ∧ (setInst s i v).lnt = s.lnt :=
  ⟨rfl, rfl, rfl, rfl, rfl, rfl, rfl, rfl, rfl, rfl, rfl, rfl, rfl, rfl, rfl, rfl, rfl, rfl, rfl, rfl, rfl, rfl, rfl, rfl, rfl, rfl, rfl, rfl, rfl, rfl, rfl, rfl, rfl, rfl, rfl, rfl, rfl, rfl, rfl, rfl, rfl, rfl, rfl, rfl, rfl, rfl, rfl, rfl, rfl, rfl, rfl, rfl, rfl, rfl⟩

@[simp] theorem modInst_frame (s : State) (i : Nat) (g : Inst → Inst) :
    (modInst s i g).pending = s.pending ∧ (modInst s i g).mem = s.mem ∧ (modInst s i g).lost = s.lost ∧
    (modInst s i g).poison = s.poison ∧ (modInst s i g).flaws = s.flaws ∧ (modInst s i g).regs = s.regs ∧
    (modInst s i g).ctrs = s.ctrs ∧ (modInst s i g).freeCtr = s.freeCtr ∧ (modInst s i g).out = s.out ∧
    (modInst s i g).fns = s.fns ∧ (modInst s i g).vfEnable = s.vfEnable ∧ (modInst s i g).subsys = s.subsys ∧
    (modInst s i g).rings = s.rings ∧ (modInst s i g).fetches = s.fetches ∧
    (modInst s i g).lastServed = s.lastServed ∧ (modInst s i g).prot = s.prot ∧ (modInst s i g).streams = s.streams ∧
    (modInst s i g).slots = s.slots ∧ (modInst s i g).events = s.events ∧ (modInst s i g).results = s.results ∧
    (modInst s i g).snaps = s.snaps ∧ (modInst s i g).feLine = s.feLine ∧ (modInst s i g).snapWait = s.snapWait ∧
    (modInst s i g).jobs = s.jobs ∧ (modInst s i g).nextJob = s.nextJob ∧ (modInst s i g).cores = s.cores ∧
    (modInst s i g).msgs = s.msgs ∧ (modInst s i g).bounces = s.bounces ∧ (modInst s i g).knots = s.knots ∧
    (modInst s i g).knotOps = s.knotOps ∧ (modInst s i g).knotWaits = s.knotWaits ∧ (modInst s i g).kfwd = s.kfwd ∧
    (modInst s i g).kToken = s.kToken ∧ (modInst s i g).subs = s.subs ∧ (modInst s i g).satCtrs = s.satCtrs ∧
    (modInst s i g).engines = s.engines ∧ (modInst s i g).memLogs = s.memLogs ∧
    (modInst s i g).stackTemp = s.stackTemp ∧ (modInst s i g).stackHot = s.stackHot ∧
    (modInst s i g).ports = s.ports ∧ (modInst s i g).delivered = s.delivered ∧
    (modInst s i g).lostChips = s.lostChips ∧ (modInst s i g).lossDue = s.lossDue ∧
    (modInst s i g).evHold = s.evHold ∧ (modInst s i g).conduits = s.conduits ∧ (modInst s i g).xfers = s.xfers ∧
    (modInst s i g).nextXid = s.nextXid ∧ (modInst s i g).rreg = s.rreg ∧ (modInst s i g).link = s.link ∧
    (modInst s i g).pwr = s.pwr ∧ (modInst s i g).plls = s.plls ∧ (modInst s i g).doms = s.doms ∧
    (modInst s i g).flt = s.flt ∧ (modInst s i g).lnt = s.lnt :=
  ⟨rfl, rfl, rfl, rfl, rfl, rfl, rfl, rfl, rfl, rfl, rfl, rfl, rfl, rfl, rfl, rfl, rfl, rfl, rfl, rfl, rfl, rfl, rfl, rfl, rfl, rfl, rfl, rfl, rfl, rfl, rfl, rfl, rfl, rfl, rfl, rfl, rfl, rfl, rfl, rfl, rfl, rfl, rfl, rfl, rfl, rfl, rfl, rfl, rfl, rfl, rfl, rfl, rfl, rfl⟩

@[simp] theorem setJob_frame (s : State) (j : Nat) (v : Option Job) :
    (setJob s j v).pending = s.pending ∧ (setJob s j v).mem = s.mem ∧ (setJob s j v).lost = s.lost ∧
    (setJob s j v).poison = s.poison ∧ (setJob s j v).flaws = s.flaws ∧ (setJob s j v).regs = s.regs ∧
    (setJob s j v).ctrs = s.ctrs ∧ (setJob s j v).freeCtr = s.freeCtr ∧ (setJob s j v).out = s.out ∧
    (setJob s j v).fns = s.fns ∧ (setJob s j v).vfEnable = s.vfEnable ∧ (setJob s j v).subsys = s.subsys ∧
    (setJob s j v).rings = s.rings ∧ (setJob s j v).fetches = s.fetches ∧ (setJob s j v).lastServed = s.lastServed ∧
    (setJob s j v).prot = s.prot ∧ (setJob s j v).streams = s.streams ∧ (setJob s j v).slots = s.slots ∧
    (setJob s j v).insts = s.insts ∧ (setJob s j v).events = s.events ∧ (setJob s j v).results = s.results ∧
    (setJob s j v).snaps = s.snaps ∧ (setJob s j v).feLine = s.feLine ∧ (setJob s j v).snapWait = s.snapWait ∧
    (setJob s j v).nextJob = s.nextJob ∧ (setJob s j v).cores = s.cores ∧ (setJob s j v).msgs = s.msgs ∧
    (setJob s j v).bounces = s.bounces ∧ (setJob s j v).knots = s.knots ∧ (setJob s j v).knotOps = s.knotOps ∧
    (setJob s j v).knotWaits = s.knotWaits ∧ (setJob s j v).kfwd = s.kfwd ∧ (setJob s j v).kToken = s.kToken ∧
    (setJob s j v).subs = s.subs ∧ (setJob s j v).satCtrs = s.satCtrs ∧ (setJob s j v).engines = s.engines ∧
    (setJob s j v).memLogs = s.memLogs ∧ (setJob s j v).stackTemp = s.stackTemp ∧
    (setJob s j v).stackHot = s.stackHot ∧ (setJob s j v).ports = s.ports ∧ (setJob s j v).delivered = s.delivered ∧
    (setJob s j v).lostChips = s.lostChips ∧ (setJob s j v).lossDue = s.lossDue ∧ (setJob s j v).evHold = s.evHold ∧
    (setJob s j v).conduits = s.conduits ∧ (setJob s j v).xfers = s.xfers ∧ (setJob s j v).nextXid = s.nextXid ∧
    (setJob s j v).rreg = s.rreg ∧ (setJob s j v).link = s.link ∧ (setJob s j v).pwr = s.pwr ∧
    (setJob s j v).plls = s.plls ∧ (setJob s j v).doms = s.doms ∧ (setJob s j v).flt = s.flt ∧
    (setJob s j v).lnt = s.lnt :=
  ⟨rfl, rfl, rfl, rfl, rfl, rfl, rfl, rfl, rfl, rfl, rfl, rfl, rfl, rfl, rfl, rfl, rfl, rfl, rfl, rfl, rfl, rfl, rfl, rfl, rfl, rfl, rfl, rfl, rfl, rfl, rfl, rfl, rfl, rfl, rfl, rfl, rfl, rfl, rfl, rfl, rfl, rfl, rfl, rfl, rfl, rfl, rfl, rfl, rfl, rfl, rfl, rfl, rfl, rfl⟩

@[simp] theorem modJob_frame (s : State) (j : Nat) (g : Job → Job) :
    (modJob s j g).pending = s.pending ∧ (modJob s j g).mem = s.mem ∧ (modJob s j g).lost = s.lost ∧
    (modJob s j g).poison = s.poison ∧ (modJob s j g).flaws = s.flaws ∧ (modJob s j g).regs = s.regs ∧
    (modJob s j g).ctrs = s.ctrs ∧ (modJob s j g).freeCtr = s.freeCtr ∧ (modJob s j g).out = s.out ∧
    (modJob s j g).fns = s.fns ∧ (modJob s j g).vfEnable = s.vfEnable ∧ (modJob s j g).subsys = s.subsys ∧
    (modJob s j g).rings = s.rings ∧ (modJob s j g).fetches = s.fetches ∧ (modJob s j g).lastServed = s.lastServed ∧
    (modJob s j g).prot = s.prot ∧ (modJob s j g).streams = s.streams ∧ (modJob s j g).slots = s.slots ∧
    (modJob s j g).insts = s.insts ∧ (modJob s j g).events = s.events ∧ (modJob s j g).results = s.results ∧
    (modJob s j g).snaps = s.snaps ∧ (modJob s j g).feLine = s.feLine ∧ (modJob s j g).snapWait = s.snapWait ∧
    (modJob s j g).nextJob = s.nextJob ∧ (modJob s j g).cores = s.cores ∧ (modJob s j g).msgs = s.msgs ∧
    (modJob s j g).bounces = s.bounces ∧ (modJob s j g).knots = s.knots ∧ (modJob s j g).knotOps = s.knotOps ∧
    (modJob s j g).knotWaits = s.knotWaits ∧ (modJob s j g).kfwd = s.kfwd ∧ (modJob s j g).kToken = s.kToken ∧
    (modJob s j g).subs = s.subs ∧ (modJob s j g).satCtrs = s.satCtrs ∧ (modJob s j g).engines = s.engines ∧
    (modJob s j g).memLogs = s.memLogs ∧ (modJob s j g).stackTemp = s.stackTemp ∧
    (modJob s j g).stackHot = s.stackHot ∧ (modJob s j g).ports = s.ports ∧ (modJob s j g).delivered = s.delivered ∧
    (modJob s j g).lostChips = s.lostChips ∧ (modJob s j g).lossDue = s.lossDue ∧ (modJob s j g).evHold = s.evHold ∧
    (modJob s j g).conduits = s.conduits ∧ (modJob s j g).xfers = s.xfers ∧ (modJob s j g).nextXid = s.nextXid ∧
    (modJob s j g).rreg = s.rreg ∧ (modJob s j g).link = s.link ∧ (modJob s j g).pwr = s.pwr ∧
    (modJob s j g).plls = s.plls ∧ (modJob s j g).doms = s.doms ∧ (modJob s j g).flt = s.flt ∧
    (modJob s j g).lnt = s.lnt :=
  ⟨rfl, rfl, rfl, rfl, rfl, rfl, rfl, rfl, rfl, rfl, rfl, rfl, rfl, rfl, rfl, rfl, rfl, rfl, rfl, rfl, rfl, rfl, rfl, rfl, rfl, rfl, rfl, rfl, rfl, rfl, rfl, rfl, rfl, rfl, rfl, rfl, rfl, rfl, rfl, rfl, rfl, rfl, rfl, rfl, rfl, rfl, rfl, rfl, rfl, rfl, rfl, rfl, rfl, rfl⟩

@[simp] theorem modCore_frame (s : State) (n : Nat) (g : Core → Core) :
    (modCore s n g).pending = s.pending ∧ (modCore s n g).mem = s.mem ∧ (modCore s n g).lost = s.lost ∧
    (modCore s n g).poison = s.poison ∧ (modCore s n g).flaws = s.flaws ∧ (modCore s n g).regs = s.regs ∧
    (modCore s n g).ctrs = s.ctrs ∧ (modCore s n g).freeCtr = s.freeCtr ∧ (modCore s n g).out = s.out ∧
    (modCore s n g).fns = s.fns ∧ (modCore s n g).vfEnable = s.vfEnable ∧ (modCore s n g).subsys = s.subsys ∧
    (modCore s n g).rings = s.rings ∧ (modCore s n g).fetches = s.fetches ∧
    (modCore s n g).lastServed = s.lastServed ∧ (modCore s n g).prot = s.prot ∧ (modCore s n g).streams = s.streams ∧
    (modCore s n g).slots = s.slots ∧ (modCore s n g).insts = s.insts ∧ (modCore s n g).events = s.events ∧
    (modCore s n g).results = s.results ∧ (modCore s n g).snaps = s.snaps ∧ (modCore s n g).feLine = s.feLine ∧
    (modCore s n g).snapWait = s.snapWait ∧ (modCore s n g).jobs = s.jobs ∧ (modCore s n g).nextJob = s.nextJob ∧
    (modCore s n g).msgs = s.msgs ∧ (modCore s n g).bounces = s.bounces ∧ (modCore s n g).knots = s.knots ∧
    (modCore s n g).knotOps = s.knotOps ∧ (modCore s n g).knotWaits = s.knotWaits ∧ (modCore s n g).kfwd = s.kfwd ∧
    (modCore s n g).kToken = s.kToken ∧ (modCore s n g).subs = s.subs ∧ (modCore s n g).satCtrs = s.satCtrs ∧
    (modCore s n g).engines = s.engines ∧ (modCore s n g).memLogs = s.memLogs ∧
    (modCore s n g).stackTemp = s.stackTemp ∧ (modCore s n g).stackHot = s.stackHot ∧
    (modCore s n g).ports = s.ports ∧ (modCore s n g).delivered = s.delivered ∧
    (modCore s n g).lostChips = s.lostChips ∧ (modCore s n g).lossDue = s.lossDue ∧
    (modCore s n g).evHold = s.evHold ∧ (modCore s n g).conduits = s.conduits ∧ (modCore s n g).xfers = s.xfers ∧
    (modCore s n g).nextXid = s.nextXid ∧ (modCore s n g).rreg = s.rreg ∧ (modCore s n g).link = s.link ∧
    (modCore s n g).pwr = s.pwr ∧ (modCore s n g).plls = s.plls ∧ (modCore s n g).doms = s.doms ∧
    (modCore s n g).flt = s.flt ∧ (modCore s n g).lnt = s.lnt :=
  ⟨rfl, rfl, rfl, rfl, rfl, rfl, rfl, rfl, rfl, rfl, rfl, rfl, rfl, rfl, rfl, rfl, rfl, rfl, rfl, rfl, rfl, rfl, rfl, rfl, rfl, rfl, rfl, rfl, rfl, rfl, rfl, rfl, rfl, rfl, rfl, rfl, rfl, rfl, rfl, rfl, rfl, rfl, rfl, rfl, rfl, rfl, rfl, rfl, rfl, rfl, rfl, rfl, rfl, rfl⟩

@[simp] theorem modKnot_frame (s : State) (k : Nat) (g : Knot → Knot) :
    (modKnot s k g).pending = s.pending ∧ (modKnot s k g).mem = s.mem ∧ (modKnot s k g).lost = s.lost ∧
    (modKnot s k g).poison = s.poison ∧ (modKnot s k g).flaws = s.flaws ∧ (modKnot s k g).regs = s.regs ∧
    (modKnot s k g).ctrs = s.ctrs ∧ (modKnot s k g).freeCtr = s.freeCtr ∧ (modKnot s k g).out = s.out ∧
    (modKnot s k g).fns = s.fns ∧ (modKnot s k g).vfEnable = s.vfEnable ∧ (modKnot s k g).subsys = s.subsys ∧
    (modKnot s k g).rings = s.rings ∧ (modKnot s k g).fetches = s.fetches ∧
    (modKnot s k g).lastServed = s.lastServed ∧ (modKnot s k g).prot = s.prot ∧ (modKnot s k g).streams = s.streams ∧
    (modKnot s k g).slots = s.slots ∧ (modKnot s k g).insts = s.insts ∧ (modKnot s k g).events = s.events ∧
    (modKnot s k g).results = s.results ∧ (modKnot s k g).snaps = s.snaps ∧ (modKnot s k g).feLine = s.feLine ∧
    (modKnot s k g).snapWait = s.snapWait ∧ (modKnot s k g).jobs = s.jobs ∧ (modKnot s k g).nextJob = s.nextJob ∧
    (modKnot s k g).cores = s.cores ∧ (modKnot s k g).msgs = s.msgs ∧ (modKnot s k g).bounces = s.bounces ∧
    (modKnot s k g).knotOps = s.knotOps ∧ (modKnot s k g).knotWaits = s.knotWaits ∧ (modKnot s k g).kfwd = s.kfwd ∧
    (modKnot s k g).kToken = s.kToken ∧ (modKnot s k g).subs = s.subs ∧ (modKnot s k g).satCtrs = s.satCtrs ∧
    (modKnot s k g).engines = s.engines ∧ (modKnot s k g).memLogs = s.memLogs ∧
    (modKnot s k g).stackTemp = s.stackTemp ∧ (modKnot s k g).stackHot = s.stackHot ∧
    (modKnot s k g).ports = s.ports ∧ (modKnot s k g).delivered = s.delivered ∧
    (modKnot s k g).lostChips = s.lostChips ∧ (modKnot s k g).lossDue = s.lossDue ∧
    (modKnot s k g).evHold = s.evHold ∧ (modKnot s k g).conduits = s.conduits ∧ (modKnot s k g).xfers = s.xfers ∧
    (modKnot s k g).nextXid = s.nextXid ∧ (modKnot s k g).rreg = s.rreg ∧ (modKnot s k g).link = s.link ∧
    (modKnot s k g).pwr = s.pwr ∧ (modKnot s k g).plls = s.plls ∧ (modKnot s k g).doms = s.doms ∧
    (modKnot s k g).flt = s.flt ∧ (modKnot s k g).lnt = s.lnt :=
  ⟨rfl, rfl, rfl, rfl, rfl, rfl, rfl, rfl, rfl, rfl, rfl, rfl, rfl, rfl, rfl, rfl, rfl, rfl, rfl, rfl, rfl, rfl, rfl, rfl, rfl, rfl, rfl, rfl, rfl, rfl, rfl, rfl, rfl, rfl, rfl, rfl, rfl, rfl, rfl, rfl, rfl, rfl, rfl, rfl, rfl, rfl, rfl, rfl, rfl, rfl, rfl, rfl, rfl, rfl⟩

@[simp] theorem modPort_frame (s : State) (p : Nat) (g : Port → Port) :
    (modPort s p g).pending = s.pending ∧ (modPort s p g).mem = s.mem ∧ (modPort s p g).lost = s.lost ∧
    (modPort s p g).poison = s.poison ∧ (modPort s p g).flaws = s.flaws ∧ (modPort s p g).regs = s.regs ∧
    (modPort s p g).ctrs = s.ctrs ∧ (modPort s p g).freeCtr = s.freeCtr ∧ (modPort s p g).out = s.out ∧
    (modPort s p g).fns = s.fns ∧ (modPort s p g).vfEnable = s.vfEnable ∧ (modPort s p g).subsys = s.subsys ∧
    (modPort s p g).rings = s.rings ∧ (modPort s p g).fetches = s.fetches ∧
    (modPort s p g).lastServed = s.lastServed ∧ (modPort s p g).prot = s.prot ∧ (modPort s p g).streams = s.streams ∧
    (modPort s p g).slots = s.slots ∧ (modPort s p g).insts = s.insts ∧ (modPort s p g).events = s.events ∧
    (modPort s p g).results = s.results ∧ (modPort s p g).snaps = s.snaps ∧ (modPort s p g).feLine = s.feLine ∧
    (modPort s p g).snapWait = s.snapWait ∧ (modPort s p g).jobs = s.jobs ∧ (modPort s p g).nextJob = s.nextJob ∧
    (modPort s p g).cores = s.cores ∧ (modPort s p g).msgs = s.msgs ∧ (modPort s p g).bounces = s.bounces ∧
    (modPort s p g).knots = s.knots ∧ (modPort s p g).knotOps = s.knotOps ∧ (modPort s p g).knotWaits = s.knotWaits ∧
    (modPort s p g).kfwd = s.kfwd ∧ (modPort s p g).kToken = s.kToken ∧ (modPort s p g).subs = s.subs ∧
    (modPort s p g).satCtrs = s.satCtrs ∧ (modPort s p g).engines = s.engines ∧ (modPort s p g).memLogs = s.memLogs ∧
    (modPort s p g).stackTemp = s.stackTemp ∧ (modPort s p g).stackHot = s.stackHot ∧
    (modPort s p g).delivered = s.delivered ∧ (modPort s p g).lostChips = s.lostChips ∧
    (modPort s p g).lossDue = s.lossDue ∧ (modPort s p g).evHold = s.evHold ∧ (modPort s p g).conduits = s.conduits ∧
    (modPort s p g).xfers = s.xfers ∧ (modPort s p g).nextXid = s.nextXid ∧ (modPort s p g).rreg = s.rreg ∧
    (modPort s p g).link = s.link ∧ (modPort s p g).pwr = s.pwr ∧ (modPort s p g).plls = s.plls ∧
    (modPort s p g).doms = s.doms ∧ (modPort s p g).flt = s.flt ∧ (modPort s p g).lnt = s.lnt :=
  ⟨rfl, rfl, rfl, rfl, rfl, rfl, rfl, rfl, rfl, rfl, rfl, rfl, rfl, rfl, rfl, rfl, rfl, rfl, rfl, rfl, rfl, rfl, rfl, rfl, rfl, rfl, rfl, rfl, rfl, rfl, rfl, rfl, rfl, rfl, rfl, rfl, rfl, rfl, rfl, rfl, rfl, rfl, rfl, rfl, rfl, rfl, rfl, rfl, rfl, rfl, rfl, rfl, rfl, rfl⟩

@[simp] theorem modConduit_frame (s : State) (n : Nat) (g : Conduit → Conduit) :
    (modConduit s n g).pending = s.pending ∧ (modConduit s n g).mem = s.mem ∧ (modConduit s n g).lost = s.lost ∧
    (modConduit s n g).poison = s.poison ∧ (modConduit s n g).flaws = s.flaws ∧ (modConduit s n g).regs = s.regs ∧
    (modConduit s n g).ctrs = s.ctrs ∧ (modConduit s n g).freeCtr = s.freeCtr ∧ (modConduit s n g).out = s.out ∧
    (modConduit s n g).fns = s.fns ∧ (modConduit s n g).vfEnable = s.vfEnable ∧
    (modConduit s n g).subsys = s.subsys ∧ (modConduit s n g).rings = s.rings ∧
    (modConduit s n g).fetches = s.fetches ∧ (modConduit s n g).lastServed = s.lastServed ∧
    (modConduit s n g).prot = s.prot ∧ (modConduit s n g).streams = s.streams ∧ (modConduit s n g).slots = s.slots ∧
    (modConduit s n g).insts = s.insts ∧ (modConduit s n g).events = s.events ∧
    (modConduit s n g).results = s.results ∧ (modConduit s n g).snaps = s.snaps ∧
    (modConduit s n g).feLine = s.feLine ∧ (modConduit s n g).snapWait = s.snapWait ∧
    (modConduit s n g).jobs = s.jobs ∧ (modConduit s n g).nextJob = s.nextJob ∧ (modConduit s n g).cores = s.cores ∧
    (modConduit s n g).msgs = s.msgs ∧ (modConduit s n g).bounces = s.bounces ∧ (modConduit s n g).knots = s.knots ∧
    (modConduit s n g).knotOps = s.knotOps ∧ (modConduit s n g).knotWaits = s.knotWaits ∧
    (modConduit s n g).kfwd = s.kfwd ∧ (modConduit s n g).kToken = s.kToken ∧ (modConduit s n g).subs = s.subs ∧
    (modConduit s n g).satCtrs = s.satCtrs ∧ (modConduit s n g).engines = s.engines ∧
    (modConduit s n g).memLogs = s.memLogs ∧ (modConduit s n g).stackTemp = s.stackTemp ∧
    (modConduit s n g).stackHot = s.stackHot ∧ (modConduit s n g).ports = s.ports ∧
    (modConduit s n g).delivered = s.delivered ∧ (modConduit s n g).lostChips = s.lostChips ∧
    (modConduit s n g).lossDue = s.lossDue ∧ (modConduit s n g).evHold = s.evHold ∧
    (modConduit s n g).xfers = s.xfers ∧ (modConduit s n g).nextXid = s.nextXid ∧ (modConduit s n g).rreg = s.rreg ∧
    (modConduit s n g).link = s.link ∧ (modConduit s n g).pwr = s.pwr ∧ (modConduit s n g).plls = s.plls ∧
    (modConduit s n g).doms = s.doms ∧ (modConduit s n g).flt = s.flt ∧ (modConduit s n g).lnt = s.lnt :=
  ⟨rfl, rfl, rfl, rfl, rfl, rfl, rfl, rfl, rfl, rfl, rfl, rfl, rfl, rfl, rfl, rfl, rfl, rfl, rfl, rfl, rfl, rfl, rfl, rfl, rfl, rfl, rfl, rfl, rfl, rfl, rfl, rfl, rfl, rfl, rfl, rfl, rfl, rfl, rfl, rfl, rfl, rfl, rfl, rfl, rfl, rfl, rfl, rfl, rfl, rfl, rfl, rfl, rfl, rfl⟩

@[simp] theorem modSat_frame (s : State) (n : Nat) (g : SatCtr → SatCtr) :
    (modSat s n g).pending = s.pending ∧ (modSat s n g).mem = s.mem ∧ (modSat s n g).lost = s.lost ∧
    (modSat s n g).poison = s.poison ∧ (modSat s n g).flaws = s.flaws ∧ (modSat s n g).regs = s.regs ∧
    (modSat s n g).ctrs = s.ctrs ∧ (modSat s n g).freeCtr = s.freeCtr ∧ (modSat s n g).out = s.out ∧
    (modSat s n g).fns = s.fns ∧ (modSat s n g).vfEnable = s.vfEnable ∧ (modSat s n g).subsys = s.subsys ∧
    (modSat s n g).rings = s.rings ∧ (modSat s n g).fetches = s.fetches ∧ (modSat s n g).lastServed = s.lastServed ∧
    (modSat s n g).prot = s.prot ∧ (modSat s n g).streams = s.streams ∧ (modSat s n g).slots = s.slots ∧
    (modSat s n g).insts = s.insts ∧ (modSat s n g).events = s.events ∧ (modSat s n g).results = s.results ∧
    (modSat s n g).snaps = s.snaps ∧ (modSat s n g).feLine = s.feLine ∧ (modSat s n g).snapWait = s.snapWait ∧
    (modSat s n g).jobs = s.jobs ∧ (modSat s n g).nextJob = s.nextJob ∧ (modSat s n g).cores = s.cores ∧
    (modSat s n g).msgs = s.msgs ∧ (modSat s n g).bounces = s.bounces ∧ (modSat s n g).knots = s.knots ∧
    (modSat s n g).knotOps = s.knotOps ∧ (modSat s n g).knotWaits = s.knotWaits ∧ (modSat s n g).kfwd = s.kfwd ∧
    (modSat s n g).kToken = s.kToken ∧ (modSat s n g).subs = s.subs ∧ (modSat s n g).engines = s.engines ∧
    (modSat s n g).memLogs = s.memLogs ∧ (modSat s n g).stackTemp = s.stackTemp ∧
    (modSat s n g).stackHot = s.stackHot ∧ (modSat s n g).ports = s.ports ∧ (modSat s n g).delivered = s.delivered ∧
    (modSat s n g).lostChips = s.lostChips ∧ (modSat s n g).lossDue = s.lossDue ∧ (modSat s n g).evHold = s.evHold ∧
    (modSat s n g).conduits = s.conduits ∧ (modSat s n g).xfers = s.xfers ∧ (modSat s n g).nextXid = s.nextXid ∧
    (modSat s n g).rreg = s.rreg ∧ (modSat s n g).link = s.link ∧ (modSat s n g).pwr = s.pwr ∧
    (modSat s n g).plls = s.plls ∧ (modSat s n g).doms = s.doms ∧ (modSat s n g).flt = s.flt ∧
    (modSat s n g).lnt = s.lnt :=
  ⟨rfl, rfl, rfl, rfl, rfl, rfl, rfl, rfl, rfl, rfl, rfl, rfl, rfl, rfl, rfl, rfl, rfl, rfl, rfl, rfl, rfl, rfl, rfl, rfl, rfl, rfl, rfl, rfl, rfl, rfl, rfl, rfl, rfl, rfl, rfl, rfl, rfl, rfl, rfl, rfl, rfl, rfl, rfl, rfl, rfl, rfl, rfl, rfl, rfl, rfl, rfl, rfl, rfl, rfl⟩

@[simp] theorem modPll_frame (s : State) (p : Nat) (g : Pll → Pll) :
    (modPll s p g).pending = s.pending ∧ (modPll s p g).mem = s.mem ∧ (modPll s p g).lost = s.lost ∧
    (modPll s p g).poison = s.poison ∧ (modPll s p g).flaws = s.flaws ∧ (modPll s p g).regs = s.regs ∧
    (modPll s p g).ctrs = s.ctrs ∧ (modPll s p g).freeCtr = s.freeCtr ∧ (modPll s p g).out = s.out ∧
    (modPll s p g).fns = s.fns ∧ (modPll s p g).vfEnable = s.vfEnable ∧ (modPll s p g).subsys = s.subsys ∧
    (modPll s p g).rings = s.rings ∧ (modPll s p g).fetches = s.fetches ∧ (modPll s p g).lastServed = s.lastServed ∧
    (modPll s p g).prot = s.prot ∧ (modPll s p g).streams = s.streams ∧ (modPll s p g).slots = s.slots ∧
    (modPll s p g).insts = s.insts ∧ (modPll s p g).events = s.events ∧ (modPll s p g).results = s.results ∧
    (modPll s p g).snaps = s.snaps ∧ (modPll s p g).feLine = s.feLine ∧ (modPll s p g).snapWait = s.snapWait ∧
    (modPll s p g).jobs = s.jobs ∧ (modPll s p g).nextJob = s.nextJob ∧ (modPll s p g).cores = s.cores ∧
    (modPll s p g).msgs = s.msgs ∧ (modPll s p g).bounces = s.bounces ∧ (modPll s p g).knots = s.knots ∧
    (modPll s p g).knotOps = s.knotOps ∧ (modPll s p g).knotWaits = s.knotWaits ∧ (modPll s p g).kfwd = s.kfwd ∧
    (modPll s p g).kToken = s.kToken ∧ (modPll s p g).subs = s.subs ∧ (modPll s p g).satCtrs = s.satCtrs ∧
    (modPll s p g).engines = s.engines ∧ (modPll s p g).memLogs = s.memLogs ∧
    (modPll s p g).stackTemp = s.stackTemp ∧ (modPll s p g).stackHot = s.stackHot ∧ (modPll s p g).ports = s.ports ∧
    (modPll s p g).delivered = s.delivered ∧ (modPll s p g).lostChips = s.lostChips ∧
    (modPll s p g).lossDue = s.lossDue ∧ (modPll s p g).evHold = s.evHold ∧ (modPll s p g).conduits = s.conduits ∧
    (modPll s p g).xfers = s.xfers ∧ (modPll s p g).nextXid = s.nextXid ∧ (modPll s p g).rreg = s.rreg ∧
    (modPll s p g).link = s.link ∧ (modPll s p g).pwr = s.pwr ∧ (modPll s p g).doms = s.doms ∧
    (modPll s p g).flt = s.flt ∧ (modPll s p g).lnt = s.lnt :=
  ⟨rfl, rfl, rfl, rfl, rfl, rfl, rfl, rfl, rfl, rfl, rfl, rfl, rfl, rfl, rfl, rfl, rfl, rfl, rfl, rfl, rfl, rfl, rfl, rfl, rfl, rfl, rfl, rfl, rfl, rfl, rfl, rfl, rfl, rfl, rfl, rfl, rfl, rfl, rfl, rfl, rfl, rfl, rfl, rfl, rfl, rfl, rfl, rfl, rfl, rfl, rfl, rfl, rfl, rfl⟩

@[simp] theorem modDom_frame (s : State) (d : Nat) (g : Dom → Dom) :
    (modDom s d g).pending = s.pending ∧ (modDom s d g).mem = s.mem ∧ (modDom s d g).lost = s.lost ∧
    (modDom s d g).poison = s.poison ∧ (modDom s d g).flaws = s.flaws ∧ (modDom s d g).regs = s.regs ∧
    (modDom s d g).ctrs = s.ctrs ∧ (modDom s d g).freeCtr = s.freeCtr ∧ (modDom s d g).out = s.out ∧
    (modDom s d g).fns = s.fns ∧ (modDom s d g).vfEnable = s.vfEnable ∧ (modDom s d g).subsys = s.subsys ∧
    (modDom s d g).rings = s.rings ∧ (modDom s d g).fetches = s.fetches ∧ (modDom s d g).lastServed = s.lastServed ∧
    (modDom s d g).prot = s.prot ∧ (modDom s d g).streams = s.streams ∧ (modDom s d g).slots = s.slots ∧
    (modDom s d g).insts = s.insts ∧ (modDom s d g).events = s.events ∧ (modDom s d g).results = s.results ∧
    (modDom s d g).snaps = s.snaps ∧ (modDom s d g).feLine = s.feLine ∧ (modDom s d g).snapWait = s.snapWait ∧
    (modDom s d g).jobs = s.jobs ∧ (modDom s d g).nextJob = s.nextJob ∧ (modDom s d g).cores = s.cores ∧
    (modDom s d g).msgs = s.msgs ∧ (modDom s d g).bounces = s.bounces ∧ (modDom s d g).knots = s.knots ∧
    (modDom s d g).knotOps = s.knotOps ∧ (modDom s d g).knotWaits = s.knotWaits ∧ (modDom s d g).kfwd = s.kfwd ∧
    (modDom s d g).kToken = s.kToken ∧ (modDom s d g).subs = s.subs ∧ (modDom s d g).satCtrs = s.satCtrs ∧
    (modDom s d g).engines = s.engines ∧ (modDom s d g).memLogs = s.memLogs ∧
    (modDom s d g).stackTemp = s.stackTemp ∧ (modDom s d g).stackHot = s.stackHot ∧ (modDom s d g).ports = s.ports ∧
    (modDom s d g).delivered = s.delivered ∧ (modDom s d g).lostChips = s.lostChips ∧
    (modDom s d g).lossDue = s.lossDue ∧ (modDom s d g).evHold = s.evHold ∧ (modDom s d g).conduits = s.conduits ∧
    (modDom s d g).xfers = s.xfers ∧ (modDom s d g).nextXid = s.nextXid ∧ (modDom s d g).rreg = s.rreg ∧
    (modDom s d g).link = s.link ∧ (modDom s d g).pwr = s.pwr ∧ (modDom s d g).plls = s.plls ∧
    (modDom s d g).flt = s.flt ∧ (modDom s d g).lnt = s.lnt :=
  ⟨rfl, rfl, rfl, rfl, rfl, rfl, rfl, rfl, rfl, rfl, rfl, rfl, rfl, rfl, rfl, rfl, rfl, rfl, rfl, rfl, rfl, rfl, rfl, rfl, rfl, rfl, rfl, rfl, rfl, rfl, rfl, rfl, rfl, rfl, rfl, rfl, rfl, rfl, rfl, rfl, rfl, rfl, rfl, rfl, rfl, rfl, rfl, rfl, rfl, rfl, rfl, rfl, rfl, rfl⟩

@[simp] theorem modPwr_frame (s : State) (g : Power → Power) :
    (modPwr s g).pending = s.pending ∧ (modPwr s g).mem = s.mem ∧ (modPwr s g).lost = s.lost ∧
    (modPwr s g).poison = s.poison ∧ (modPwr s g).flaws = s.flaws ∧ (modPwr s g).regs = s.regs ∧
    (modPwr s g).ctrs = s.ctrs ∧ (modPwr s g).freeCtr = s.freeCtr ∧ (modPwr s g).out = s.out ∧
    (modPwr s g).fns = s.fns ∧ (modPwr s g).vfEnable = s.vfEnable ∧ (modPwr s g).subsys = s.subsys ∧
    (modPwr s g).rings = s.rings ∧ (modPwr s g).fetches = s.fetches ∧ (modPwr s g).lastServed = s.lastServed ∧
    (modPwr s g).prot = s.prot ∧ (modPwr s g).streams = s.streams ∧ (modPwr s g).slots = s.slots ∧
    (modPwr s g).insts = s.insts ∧ (modPwr s g).events = s.events ∧ (modPwr s g).results = s.results ∧
    (modPwr s g).snaps = s.snaps ∧ (modPwr s g).feLine = s.feLine ∧ (modPwr s g).snapWait = s.snapWait ∧
    (modPwr s g).jobs = s.jobs ∧ (modPwr s g).nextJob = s.nextJob ∧ (modPwr s g).cores = s.cores ∧
    (modPwr s g).msgs = s.msgs ∧ (modPwr s g).bounces = s.bounces ∧ (modPwr s g).knots = s.knots ∧
    (modPwr s g).knotOps = s.knotOps ∧ (modPwr s g).knotWaits = s.knotWaits ∧ (modPwr s g).kfwd = s.kfwd ∧
    (modPwr s g).kToken = s.kToken ∧ (modPwr s g).subs = s.subs ∧ (modPwr s g).satCtrs = s.satCtrs ∧
    (modPwr s g).engines = s.engines ∧ (modPwr s g).memLogs = s.memLogs ∧ (modPwr s g).stackTemp = s.stackTemp ∧
    (modPwr s g).stackHot = s.stackHot ∧ (modPwr s g).ports = s.ports ∧ (modPwr s g).delivered = s.delivered ∧
    (modPwr s g).lostChips = s.lostChips ∧ (modPwr s g).lossDue = s.lossDue ∧ (modPwr s g).evHold = s.evHold ∧
    (modPwr s g).conduits = s.conduits ∧ (modPwr s g).xfers = s.xfers ∧ (modPwr s g).nextXid = s.nextXid ∧
    (modPwr s g).rreg = s.rreg ∧ (modPwr s g).link = s.link ∧ (modPwr s g).plls = s.plls ∧
    (modPwr s g).doms = s.doms ∧ (modPwr s g).flt = s.flt ∧ (modPwr s g).lnt = s.lnt :=
  ⟨rfl, rfl, rfl, rfl, rfl, rfl, rfl, rfl, rfl, rfl, rfl, rfl, rfl, rfl, rfl, rfl, rfl, rfl, rfl, rfl, rfl, rfl, rfl, rfl, rfl, rfl, rfl, rfl, rfl, rfl, rfl, rfl, rfl, rfl, rfl, rfl, rfl, rfl, rfl, rfl, rfl, rfl, rfl, rfl, rfl, rfl, rfl, rfl, rfl, rfl, rfl, rfl, rfl, rfl⟩

@[simp] theorem emit_frame (s : State) (m : OutMsg) :
    (emit s m).pending = s.pending ∧ (emit s m).mem = s.mem ∧ (emit s m).lost = s.lost ∧
    (emit s m).poison = s.poison ∧ (emit s m).flaws = s.flaws ∧ (emit s m).regs = s.regs ∧ (emit s m).ctrs = s.ctrs ∧
    (emit s m).freeCtr = s.freeCtr ∧ (emit s m).fns = s.fns ∧ (emit s m).vfEnable = s.vfEnable ∧
    (emit s m).subsys = s.subsys ∧ (emit s m).rings = s.rings ∧ (emit s m).fetches = s.fetches ∧
    (emit s m).lastServed = s.lastServed ∧ (emit s m).prot = s.prot ∧ (emit s m).streams = s.streams ∧
    (emit s m).slots = s.slots ∧ (emit s m).insts = s.insts ∧ (emit s m).events = s.events ∧
    (emit s m).results = s.results ∧ (emit s m).snaps = s.snaps ∧ (emit s m).feLine = s.feLine ∧
    (emit s m).snapWait = s.snapWait ∧ (emit s m).jobs = s.jobs ∧ (emit s m).nextJob = s.nextJob ∧
    (emit s m).cores = s.cores ∧ (emit s m).msgs = s.msgs ∧ (emit s m).bounces = s.bounces ∧
    (emit s m).knots = s.knots ∧ (emit s m).knotOps = s.knotOps ∧ (emit s m).knotWaits = s.knotWaits ∧
    (emit s m).kfwd = s.kfwd ∧ (emit s m).kToken = s.kToken ∧ (emit s m).subs = s.subs ∧
    (emit s m).satCtrs = s.satCtrs ∧ (emit s m).engines = s.engines ∧ (emit s m).memLogs = s.memLogs ∧
    (emit s m).stackTemp = s.stackTemp ∧ (emit s m).stackHot = s.stackHot ∧ (emit s m).ports = s.ports ∧
    (emit s m).delivered = s.delivered ∧ (emit s m).lostChips = s.lostChips ∧ (emit s m).lossDue = s.lossDue ∧
    (emit s m).evHold = s.evHold ∧ (emit s m).conduits = s.conduits ∧ (emit s m).xfers = s.xfers ∧
    (emit s m).nextXid = s.nextXid ∧ (emit s m).rreg = s.rreg ∧ (emit s m).link = s.link ∧ (emit s m).pwr = s.pwr ∧
    (emit s m).plls = s.plls ∧ (emit s m).doms = s.doms ∧ (emit s m).flt = s.flt ∧ (emit s m).lnt = s.lnt :=
  ⟨rfl, rfl, rfl, rfl, rfl, rfl, rfl, rfl, rfl, rfl, rfl, rfl, rfl, rfl, rfl, rfl, rfl, rfl, rfl, rfl, rfl, rfl, rfl, rfl, rfl, rfl, rfl, rfl, rfl, rfl, rfl, rfl, rfl, rfl, rfl, rfl, rfl, rfl, rfl, rfl, rfl, rfl, rfl, rfl, rfl, rfl, rfl, rfl, rfl, rfl, rfl, rfl, rfl, rfl⟩

@[simp] theorem setReg_frame (s : State) (o v : Nat) :
    (setReg s o v).pending = s.pending ∧ (setReg s o v).mem = s.mem ∧ (setReg s o v).lost = s.lost ∧
    (setReg s o v).poison = s.poison ∧ (setReg s o v).flaws = s.flaws ∧ (setReg s o v).ctrs = s.ctrs ∧
    (setReg s o v).freeCtr = s.freeCtr ∧ (setReg s o v).out = s.out ∧ (setReg s o v).fns = s.fns ∧
    (setReg s o v).vfEnable = s.vfEnable ∧ (setReg s o v).subsys = s.subsys ∧ (setReg s o v).rings = s.rings ∧
    (setReg s o v).fetches = s.fetches ∧ (setReg s o v).lastServed = s.lastServed ∧ (setReg s o v).prot = s.prot ∧
    (setReg s o v).streams = s.streams ∧ (setReg s o v).slots = s.slots ∧ (setReg s o v).insts = s.insts ∧
    (setReg s o v).events = s.events ∧ (setReg s o v).results = s.results ∧ (setReg s o v).snaps = s.snaps ∧
    (setReg s o v).feLine = s.feLine ∧ (setReg s o v).snapWait = s.snapWait ∧ (setReg s o v).jobs = s.jobs ∧
    (setReg s o v).nextJob = s.nextJob ∧ (setReg s o v).cores = s.cores ∧ (setReg s o v).msgs = s.msgs ∧
    (setReg s o v).bounces = s.bounces ∧ (setReg s o v).knots = s.knots ∧ (setReg s o v).knotOps = s.knotOps ∧
    (setReg s o v).knotWaits = s.knotWaits ∧ (setReg s o v).kfwd = s.kfwd ∧ (setReg s o v).kToken = s.kToken ∧
    (setReg s o v).subs = s.subs ∧ (setReg s o v).satCtrs = s.satCtrs ∧ (setReg s o v).engines = s.engines ∧
    (setReg s o v).memLogs = s.memLogs ∧ (setReg s o v).stackTemp = s.stackTemp ∧
    (setReg s o v).stackHot = s.stackHot ∧ (setReg s o v).ports = s.ports ∧ (setReg s o v).delivered = s.delivered ∧
    (setReg s o v).lostChips = s.lostChips ∧ (setReg s o v).lossDue = s.lossDue ∧ (setReg s o v).evHold = s.evHold ∧
    (setReg s o v).conduits = s.conduits ∧ (setReg s o v).xfers = s.xfers ∧ (setReg s o v).nextXid = s.nextXid ∧
    (setReg s o v).rreg = s.rreg ∧ (setReg s o v).link = s.link ∧ (setReg s o v).pwr = s.pwr ∧
    (setReg s o v).plls = s.plls ∧ (setReg s o v).doms = s.doms ∧ (setReg s o v).flt = s.flt ∧
    (setReg s o v).lnt = s.lnt :=
  ⟨rfl, rfl, rfl, rfl, rfl, rfl, rfl, rfl, rfl, rfl, rfl, rfl, rfl, rfl, rfl, rfl, rfl, rfl, rfl, rfl, rfl, rfl, rfl, rfl, rfl, rfl, rfl, rfl, rfl, rfl, rfl, rfl, rfl, rfl, rfl, rfl, rfl, rfl, rfl, rfl, rfl, rfl, rfl, rfl, rfl, rfl, rfl, rfl, rfl, rfl, rfl, rfl, rfl, rfl⟩

@[simp] theorem c32_frame (s : State) (o n : Nat) :
    (c32 s o n).pending = s.pending ∧ (c32 s o n).mem = s.mem ∧ (c32 s o n).lost = s.lost ∧
    (c32 s o n).poison = s.poison ∧ (c32 s o n).flaws = s.flaws ∧ (c32 s o n).regs = s.regs ∧
    (c32 s o n).freeCtr = s.freeCtr ∧ (c32 s o n).out = s.out ∧ (c32 s o n).fns = s.fns ∧
    (c32 s o n).vfEnable = s.vfEnable ∧ (c32 s o n).subsys = s.subsys ∧ (c32 s o n).rings = s.rings ∧
    (c32 s o n).fetches = s.fetches ∧ (c32 s o n).lastServed = s.lastServed ∧ (c32 s o n).prot = s.prot ∧
    (c32 s o n).streams = s.streams ∧ (c32 s o n).slots = s.slots ∧ (c32 s o n).insts = s.insts ∧
    (c32 s o n).events = s.events ∧ (c32 s o n).results = s.results ∧ (c32 s o n).snaps = s.snaps ∧
    (c32 s o n).feLine = s.feLine ∧ (c32 s o n).snapWait = s.snapWait ∧ (c32 s o n).jobs = s.jobs ∧
    (c32 s o n).nextJob = s.nextJob ∧ (c32 s o n).cores = s.cores ∧ (c32 s o n).msgs = s.msgs ∧
    (c32 s o n).bounces = s.bounces ∧ (c32 s o n).knots = s.knots ∧ (c32 s o n).knotOps = s.knotOps ∧
    (c32 s o n).knotWaits = s.knotWaits ∧ (c32 s o n).kfwd = s.kfwd ∧ (c32 s o n).kToken = s.kToken ∧
    (c32 s o n).subs = s.subs ∧ (c32 s o n).satCtrs = s.satCtrs ∧ (c32 s o n).engines = s.engines ∧
    (c32 s o n).memLogs = s.memLogs ∧ (c32 s o n).stackTemp = s.stackTemp ∧ (c32 s o n).stackHot = s.stackHot ∧
    (c32 s o n).ports = s.ports ∧ (c32 s o n).delivered = s.delivered ∧ (c32 s o n).lostChips = s.lostChips ∧
    (c32 s o n).lossDue = s.lossDue ∧ (c32 s o n).evHold = s.evHold ∧ (c32 s o n).conduits = s.conduits ∧
    (c32 s o n).xfers = s.xfers ∧ (c32 s o n).nextXid = s.nextXid ∧ (c32 s o n).rreg = s.rreg ∧
    (c32 s o n).link = s.link ∧ (c32 s o n).pwr = s.pwr ∧ (c32 s o n).plls = s.plls ∧ (c32 s o n).doms = s.doms ∧
    (c32 s o n).flt = s.flt ∧ (c32 s o n).lnt = s.lnt :=
  ⟨rfl, rfl, rfl, rfl, rfl, rfl, rfl, rfl, rfl, rfl, rfl, rfl, rfl, rfl, rfl, rfl, rfl, rfl, rfl, rfl, rfl, rfl, rfl, rfl, rfl, rfl, rfl, rfl, rfl, rfl, rfl, rfl, rfl, rfl, rfl, rfl, rfl, rfl, rfl, rfl, rfl, rfl, rfl, rfl, rfl, rfl, rfl, rfl, rfl, rfl, rfl, rfl, rfl, rfl⟩

@[simp] theorem c64_frame (s : State) (o n : Nat) :
    (c64 s o n).pending = s.pending ∧ (c64 s o n).mem = s.mem ∧ (c64 s o n).lost = s.lost ∧
    (c64 s o n).poison = s.poison ∧ (c64 s o n).flaws = s.flaws ∧ (c64 s o n).regs = s.regs ∧
    (c64 s o n).freeCtr = s.freeCtr ∧ (c64 s o n).out = s.out ∧ (c64 s o n).fns = s.fns ∧
    (c64 s o n).vfEnable = s.vfEnable ∧ (c64 s o n).subsys = s.subsys ∧ (c64 s o n).rings = s.rings ∧
    (c64 s o n).fetches = s.fetches ∧ (c64 s o n).lastServed = s.lastServed ∧ (c64 s o n).prot = s.prot ∧
    (c64 s o n).streams = s.streams ∧ (c64 s o n).slots = s.slots ∧ (c64 s o n).insts = s.insts ∧
    (c64 s o n).events = s.events ∧ (c64 s o n).results = s.results ∧ (c64 s o n).snaps = s.snaps ∧
    (c64 s o n).feLine = s.feLine ∧ (c64 s o n).snapWait = s.snapWait ∧ (c64 s o n).jobs = s.jobs ∧
    (c64 s o n).nextJob = s.nextJob ∧ (c64 s o n).cores = s.cores ∧ (c64 s o n).msgs = s.msgs ∧
    (c64 s o n).bounces = s.bounces ∧ (c64 s o n).knots = s.knots ∧ (c64 s o n).knotOps = s.knotOps ∧
    (c64 s o n).knotWaits = s.knotWaits ∧ (c64 s o n).kfwd = s.kfwd ∧ (c64 s o n).kToken = s.kToken ∧
    (c64 s o n).subs = s.subs ∧ (c64 s o n).satCtrs = s.satCtrs ∧ (c64 s o n).engines = s.engines ∧
    (c64 s o n).memLogs = s.memLogs ∧ (c64 s o n).stackTemp = s.stackTemp ∧ (c64 s o n).stackHot = s.stackHot ∧
    (c64 s o n).ports = s.ports ∧ (c64 s o n).delivered = s.delivered ∧ (c64 s o n).lostChips = s.lostChips ∧
    (c64 s o n).lossDue = s.lossDue ∧ (c64 s o n).evHold = s.evHold ∧ (c64 s o n).conduits = s.conduits ∧
    (c64 s o n).xfers = s.xfers ∧ (c64 s o n).nextXid = s.nextXid ∧ (c64 s o n).rreg = s.rreg ∧
    (c64 s o n).link = s.link ∧ (c64 s o n).pwr = s.pwr ∧ (c64 s o n).plls = s.plls ∧ (c64 s o n).doms = s.doms ∧
    (c64 s o n).flt = s.flt ∧ (c64 s o n).lnt = s.lnt :=
  ⟨rfl, rfl, rfl, rfl, rfl, rfl, rfl, rfl, rfl, rfl, rfl, rfl, rfl, rfl, rfl, rfl, rfl, rfl, rfl, rfl, rfl, rfl, rfl, rfl, rfl, rfl, rfl, rfl, rfl, rfl, rfl, rfl, rfl, rfl, rfl, rfl, rfl, rfl, rfl, rfl, rfl, rfl, rfl, rfl, rfl, rfl, rfl, rfl, rfl, rfl, rfl, rfl, rfl, rfl⟩

@[simp] theorem clearCtrs_frame (s : State) (l : List Nat) :
    (clearCtrs s l).pending = s.pending ∧ (clearCtrs s l).mem = s.mem ∧ (clearCtrs s l).lost = s.lost ∧
    (clearCtrs s l).poison = s.poison ∧ (clearCtrs s l).flaws = s.flaws ∧ (clearCtrs s l).regs = s.regs ∧
    (clearCtrs s l).freeCtr = s.freeCtr ∧ (clearCtrs s l).out = s.out ∧ (clearCtrs s l).fns = s.fns ∧
    (clearCtrs s l).vfEnable = s.vfEnable ∧ (clearCtrs s l).subsys = s.subsys ∧ (clearCtrs s l).rings = s.rings ∧
    (clearCtrs s l).fetches = s.fetches ∧ (clearCtrs s l).lastServed = s.lastServed ∧ (clearCtrs s l).prot = s.prot ∧
    (clearCtrs s l).streams = s.streams ∧ (clearCtrs s l).slots = s.slots ∧ (clearCtrs s l).insts = s.insts ∧
    (clearCtrs s l).events = s.events ∧ (clearCtrs s l).results = s.results ∧ (clearCtrs s l).snaps = s.snaps ∧
    (clearCtrs s l).feLine = s.feLine ∧ (clearCtrs s l).snapWait = s.snapWait ∧ (clearCtrs s l).jobs = s.jobs ∧
    (clearCtrs s l).nextJob = s.nextJob ∧ (clearCtrs s l).cores = s.cores ∧ (clearCtrs s l).msgs = s.msgs ∧
    (clearCtrs s l).bounces = s.bounces ∧ (clearCtrs s l).knots = s.knots ∧ (clearCtrs s l).knotOps = s.knotOps ∧
    (clearCtrs s l).knotWaits = s.knotWaits ∧ (clearCtrs s l).kfwd = s.kfwd ∧ (clearCtrs s l).kToken = s.kToken ∧
    (clearCtrs s l).subs = s.subs ∧ (clearCtrs s l).satCtrs = s.satCtrs ∧ (clearCtrs s l).engines = s.engines ∧
    (clearCtrs s l).memLogs = s.memLogs ∧ (clearCtrs s l).stackTemp = s.stackTemp ∧
    (clearCtrs s l).stackHot = s.stackHot ∧ (clearCtrs s l).ports = s.ports ∧
    (clearCtrs s l).delivered = s.delivered ∧ (clearCtrs s l).lostChips = s.lostChips ∧
    (clearCtrs s l).lossDue = s.lossDue ∧ (clearCtrs s l).evHold = s.evHold ∧ (clearCtrs s l).conduits = s.conduits ∧
    (clearCtrs s l).xfers = s.xfers ∧ (clearCtrs s l).nextXid = s.nextXid ∧ (clearCtrs s l).rreg = s.rreg ∧
    (clearCtrs s l).link = s.link ∧ (clearCtrs s l).pwr = s.pwr ∧ (clearCtrs s l).plls = s.plls ∧
    (clearCtrs s l).doms = s.doms ∧ (clearCtrs s l).flt = s.flt ∧ (clearCtrs s l).lnt = s.lnt :=
  ⟨rfl, rfl, rfl, rfl, rfl, rfl, rfl, rfl, rfl, rfl, rfl, rfl, rfl, rfl, rfl, rfl, rfl, rfl, rfl, rfl, rfl, rfl, rfl, rfl, rfl, rfl, rfl, rfl, rfl, rfl, rfl, rfl, rfl, rfl, rfl, rfl, rfl, rfl, rfl, rfl, rfl, rfl, rfl, rfl, rfl, rfl, rfl, rfl, rfl, rfl, rfl, rfl, rfl, rfl⟩

@[simp] theorem setAlert_frame (s : State) (b : Nat) :
    (setAlert s b).pending = s.pending ∧ (setAlert s b).mem = s.mem ∧ (setAlert s b).lost = s.lost ∧
    (setAlert s b).poison = s.poison ∧ (setAlert s b).flaws = s.flaws ∧ (setAlert s b).regs = s.regs ∧
    (setAlert s b).ctrs = s.ctrs ∧ (setAlert s b).freeCtr = s.freeCtr ∧ (setAlert s b).out = s.out ∧
    (setAlert s b).fns = s.fns ∧ (setAlert s b).vfEnable = s.vfEnable ∧ (setAlert s b).subsys = s.subsys ∧
    (setAlert s b).rings = s.rings ∧ (setAlert s b).fetches = s.fetches ∧ (setAlert s b).lastServed = s.lastServed ∧
    (setAlert s b).prot = s.prot ∧ (setAlert s b).streams = s.streams ∧ (setAlert s b).slots = s.slots ∧
    (setAlert s b).insts = s.insts ∧ (setAlert s b).events = s.events ∧ (setAlert s b).results = s.results ∧
    (setAlert s b).snaps = s.snaps ∧ (setAlert s b).feLine = s.feLine ∧ (setAlert s b).snapWait = s.snapWait ∧
    (setAlert s b).jobs = s.jobs ∧ (setAlert s b).nextJob = s.nextJob ∧ (setAlert s b).cores = s.cores ∧
    (setAlert s b).msgs = s.msgs ∧ (setAlert s b).bounces = s.bounces ∧ (setAlert s b).knots = s.knots ∧
    (setAlert s b).knotOps = s.knotOps ∧ (setAlert s b).knotWaits = s.knotWaits ∧ (setAlert s b).kfwd = s.kfwd ∧
    (setAlert s b).kToken = s.kToken ∧ (setAlert s b).subs = s.subs ∧ (setAlert s b).satCtrs = s.satCtrs ∧
    (setAlert s b).engines = s.engines ∧ (setAlert s b).memLogs = s.memLogs ∧
    (setAlert s b).stackTemp = s.stackTemp ∧ (setAlert s b).stackHot = s.stackHot ∧ (setAlert s b).ports = s.ports ∧
    (setAlert s b).delivered = s.delivered ∧ (setAlert s b).lostChips = s.lostChips ∧
    (setAlert s b).lossDue = s.lossDue ∧ (setAlert s b).evHold = s.evHold ∧ (setAlert s b).conduits = s.conduits ∧
    (setAlert s b).xfers = s.xfers ∧ (setAlert s b).nextXid = s.nextXid ∧ (setAlert s b).rreg = s.rreg ∧
    (setAlert s b).link = s.link ∧ (setAlert s b).pwr = s.pwr ∧ (setAlert s b).plls = s.plls ∧
    (setAlert s b).doms = s.doms ∧ (setAlert s b).flt = s.flt :=
  ⟨rfl, rfl, rfl, rfl, rfl, rfl, rfl, rfl, rfl, rfl, rfl, rfl, rfl, rfl, rfl, rfl, rfl, rfl, rfl, rfl, rfl, rfl, rfl, rfl, rfl, rfl, rfl, rfl, rfl, rfl, rfl, rfl, rfl, rfl, rfl, rfl, rfl, rfl, rfl, rfl, rfl, rfl, rfl, rfl, rfl, rfl, rfl, rfl, rfl, rfl, rfl, rfl, rfl, rfl⟩

@[simp] theorem modDesc_frame (s : State) (q : DescRef) (g : Desc → Desc) :
    (modDesc s q g).pending = s.pending ∧ (modDesc s q g).mem = s.mem ∧ (modDesc s q g).lost = s.lost ∧
    (modDesc s q g).poison = s.poison ∧ (modDesc s q g).flaws = s.flaws ∧ (modDesc s q g).regs = s.regs ∧
    (modDesc s q g).ctrs = s.ctrs ∧ (modDesc s q g).freeCtr = s.freeCtr ∧ (modDesc s q g).out = s.out ∧
    (modDesc s q g).fns = s.fns ∧ (modDesc s q g).vfEnable = s.vfEnable ∧ (modDesc s q g).subsys = s.subsys ∧
    (modDesc s q g).fetches = s.fetches ∧ (modDesc s q g).lastServed = s.lastServed ∧ (modDesc s q g).prot = s.prot ∧
    (modDesc s q g).streams = s.streams ∧ (modDesc s q g).slots = s.slots ∧ (modDesc s q g).insts = s.insts ∧
    (modDesc s q g).events = s.events ∧ (modDesc s q g).results = s.results ∧ (modDesc s q g).snaps = s.snaps ∧
    (modDesc s q g).feLine = s.feLine ∧ (modDesc s q g).snapWait = s.snapWait ∧ (modDesc s q g).jobs = s.jobs ∧
    (modDesc s q g).nextJob = s.nextJob ∧ (modDesc s q g).cores = s.cores ∧ (modDesc s q g).msgs = s.msgs ∧
    (modDesc s q g).bounces = s.bounces ∧ (modDesc s q g).knots = s.knots ∧ (modDesc s q g).knotOps = s.knotOps ∧
    (modDesc s q g).knotWaits = s.knotWaits ∧ (modDesc s q g).kfwd = s.kfwd ∧ (modDesc s q g).kToken = s.kToken ∧
    (modDesc s q g).subs = s.subs ∧ (modDesc s q g).satCtrs = s.satCtrs ∧ (modDesc s q g).engines = s.engines ∧
    (modDesc s q g).memLogs = s.memLogs ∧ (modDesc s q g).stackTemp = s.stackTemp ∧
    (modDesc s q g).stackHot = s.stackHot ∧ (modDesc s q g).ports = s.ports ∧
    (modDesc s q g).delivered = s.delivered ∧ (modDesc s q g).lostChips = s.lostChips ∧
    (modDesc s q g).lossDue = s.lossDue ∧ (modDesc s q g).evHold = s.evHold ∧ (modDesc s q g).conduits = s.conduits ∧
    (modDesc s q g).xfers = s.xfers ∧ (modDesc s q g).nextXid = s.nextXid ∧ (modDesc s q g).rreg = s.rreg ∧
    (modDesc s q g).link = s.link ∧ (modDesc s q g).pwr = s.pwr ∧ (modDesc s q g).plls = s.plls ∧
    (modDesc s q g).doms = s.doms ∧ (modDesc s q g).flt = s.flt ∧ (modDesc s q g).lnt = s.lnt :=
  ⟨rfl, rfl, rfl, rfl, rfl, rfl, rfl, rfl, rfl, rfl, rfl, rfl, rfl, rfl, rfl, rfl, rfl, rfl, rfl, rfl, rfl, rfl, rfl, rfl, rfl, rfl, rfl, rfl, rfl, rfl, rfl, rfl, rfl, rfl, rfl, rfl, rfl, rfl, rfl, rfl, rfl, rfl, rfl, rfl, rfl, rfl, rfl, rfl, rfl, rfl, rfl, rfl, rfl, rfl⟩

@[simp] theorem dropSnap_frame (s : State) (n : Nat) :
    (dropSnap s n).pending = s.pending ∧ (dropSnap s n).mem = s.mem ∧ (dropSnap s n).lost = s.lost ∧
    (dropSnap s n).poison = s.poison ∧ (dropSnap s n).flaws = s.flaws ∧ (dropSnap s n).regs = s.regs ∧
    (dropSnap s n).ctrs = s.ctrs ∧ (dropSnap s n).freeCtr = s.freeCtr ∧ (dropSnap s n).out = s.out ∧
    (dropSnap s n).fns = s.fns ∧ (dropSnap s n).vfEnable = s.vfEnable ∧ (dropSnap s n).subsys = s.subsys ∧
    (dropSnap s n).rings = s.rings ∧ (dropSnap s n).fetches = s.fetches ∧ (dropSnap s n).lastServed = s.lastServed ∧
    (dropSnap s n).prot = s.prot ∧ (dropSnap s n).streams = s.streams ∧ (dropSnap s n).slots = s.slots ∧
    (dropSnap s n).insts = s.insts ∧ (dropSnap s n).events = s.events ∧ (dropSnap s n).results = s.results ∧
    (dropSnap s n).feLine = s.feLine ∧ (dropSnap s n).snapWait = s.snapWait ∧ (dropSnap s n).jobs = s.jobs ∧
    (dropSnap s n).nextJob = s.nextJob ∧ (dropSnap s n).cores = s.cores ∧ (dropSnap s n).msgs = s.msgs ∧
    (dropSnap s n).bounces = s.bounces ∧ (dropSnap s n).knots = s.knots ∧ (dropSnap s n).knotOps = s.knotOps ∧
    (dropSnap s n).knotWaits = s.knotWaits ∧ (dropSnap s n).kfwd = s.kfwd ∧ (dropSnap s n).kToken = s.kToken ∧
    (dropSnap s n).subs = s.subs ∧ (dropSnap s n).satCtrs = s.satCtrs ∧ (dropSnap s n).engines = s.engines ∧
    (dropSnap s n).memLogs = s.memLogs ∧ (dropSnap s n).stackTemp = s.stackTemp ∧
    (dropSnap s n).stackHot = s.stackHot ∧ (dropSnap s n).ports = s.ports ∧ (dropSnap s n).delivered = s.delivered ∧
    (dropSnap s n).lostChips = s.lostChips ∧ (dropSnap s n).lossDue = s.lossDue ∧ (dropSnap s n).evHold = s.evHold ∧
    (dropSnap s n).conduits = s.conduits ∧ (dropSnap s n).xfers = s.xfers ∧ (dropSnap s n).nextXid = s.nextXid ∧
    (dropSnap s n).rreg = s.rreg ∧ (dropSnap s n).link = s.link ∧ (dropSnap s n).pwr = s.pwr ∧
    (dropSnap s n).plls = s.plls ∧ (dropSnap s n).doms = s.doms ∧ (dropSnap s n).flt = s.flt ∧
    (dropSnap s n).lnt = s.lnt :=
  ⟨rfl, rfl, rfl, rfl, rfl, rfl, rfl, rfl, rfl, rfl, rfl, rfl, rfl, rfl, rfl, rfl, rfl, rfl, rfl, rfl, rfl, rfl, rfl, rfl, rfl, rfl, rfl, rfl, rfl, rfl, rfl, rfl, rfl, rfl, rfl, rfl, rfl, rfl, rfl, rfl, rfl, rfl, rfl, rfl, rfl, rfl, rfl, rfl, rfl, rfl, rfl, rfl, rfl, rfl⟩

@[simp] theorem sendKnotOp_frame (s : State) (o : KnotOp) :
    (sendKnotOp s o).pending = s.pending ∧ (sendKnotOp s o).mem = s.mem ∧ (sendKnotOp s o).lost = s.lost ∧
    (sendKnotOp s o).poison = s.poison ∧ (sendKnotOp s o).flaws = s.flaws ∧ (sendKnotOp s o).regs = s.regs ∧
    (sendKnotOp s o).ctrs = s.ctrs ∧ (sendKnotOp s o).freeCtr = s.freeCtr ∧ (sendKnotOp s o).out = s.out ∧
    (sendKnotOp s o).fns = s.fns ∧ (sendKnotOp s o).vfEnable = s.vfEnable ∧ (sendKnotOp s o).subsys = s.subsys ∧
    (sendKnotOp s o).rings = s.rings ∧ (sendKnotOp s o).fetches = s.fetches ∧
    (sendKnotOp s o).lastServed = s.lastServed ∧ (sendKnotOp s o).prot = s.prot ∧
    (sendKnotOp s o).streams = s.streams ∧ (sendKnotOp s o).slots = s.slots ∧ (sendKnotOp s o).insts = s.insts ∧
    (sendKnotOp s o).events = s.events ∧ (sendKnotOp s o).results = s.results ∧ (sendKnotOp s o).snaps = s.snaps ∧
    (sendKnotOp s o).feLine = s.feLine ∧ (sendKnotOp s o).snapWait = s.snapWait ∧ (sendKnotOp s o).jobs = s.jobs ∧
    (sendKnotOp s o).nextJob = s.nextJob ∧ (sendKnotOp s o).cores = s.cores ∧ (sendKnotOp s o).msgs = s.msgs ∧
    (sendKnotOp s o).bounces = s.bounces ∧ (sendKnotOp s o).knots = s.knots ∧
    (sendKnotOp s o).knotWaits = s.knotWaits ∧ (sendKnotOp s o).kfwd = s.kfwd ∧ (sendKnotOp s o).kToken = s.kToken ∧
    (sendKnotOp s o).subs = s.subs ∧ (sendKnotOp s o).satCtrs = s.satCtrs ∧ (sendKnotOp s o).engines = s.engines ∧
    (sendKnotOp s o).memLogs = s.memLogs ∧ (sendKnotOp s o).stackTemp = s.stackTemp ∧
    (sendKnotOp s o).stackHot = s.stackHot ∧ (sendKnotOp s o).ports = s.ports ∧
    (sendKnotOp s o).delivered = s.delivered ∧ (sendKnotOp s o).lostChips = s.lostChips ∧
    (sendKnotOp s o).lossDue = s.lossDue ∧ (sendKnotOp s o).evHold = s.evHold ∧
    (sendKnotOp s o).conduits = s.conduits ∧ (sendKnotOp s o).xfers = s.xfers ∧
    (sendKnotOp s o).nextXid = s.nextXid ∧ (sendKnotOp s o).rreg = s.rreg ∧ (sendKnotOp s o).link = s.link ∧
    (sendKnotOp s o).pwr = s.pwr ∧ (sendKnotOp s o).plls = s.plls ∧ (sendKnotOp s o).doms = s.doms ∧
    (sendKnotOp s o).flt = s.flt ∧ (sendKnotOp s o).lnt = s.lnt :=
  ⟨rfl, rfl, rfl, rfl, rfl, rfl, rfl, rfl, rfl, rfl, rfl, rfl, rfl, rfl, rfl, rfl, rfl, rfl, rfl, rfl, rfl, rfl, rfl, rfl, rfl, rfl, rfl, rfl, rfl, rfl, rfl, rfl, rfl, rfl, rfl, rfl, rfl, rfl, rfl, rfl, rfl, rfl, rfl, rfl, rfl, rfl, rfl, rfl, rfl, rfl, rfl, rfl, rfl, rfl⟩

@[simp] theorem takeFree_frame (s : State) :
    ((takeFree s).2).pending = s.pending ∧ ((takeFree s).2).mem = s.mem ∧ ((takeFree s).2).lost = s.lost ∧
    ((takeFree s).2).poison = s.poison ∧ ((takeFree s).2).flaws = s.flaws ∧ ((takeFree s).2).regs = s.regs ∧
    ((takeFree s).2).ctrs = s.ctrs ∧ ((takeFree s).2).out = s.out ∧ ((takeFree s).2).fns = s.fns ∧
    ((takeFree s).2).vfEnable = s.vfEnable ∧ ((takeFree s).2).subsys = s.subsys ∧ ((takeFree s).2).rings = s.rings ∧
    ((takeFree s).2).fetches = s.fetches ∧ ((takeFree s).2).lastServed = s.lastServed ∧
    ((takeFree s).2).prot = s.prot ∧ ((takeFree s).2).streams = s.streams ∧ ((takeFree s).2).slots = s.slots ∧
    ((takeFree s).2).insts = s.insts ∧ ((takeFree s).2).events = s.events ∧ ((takeFree s).2).results = s.results ∧
    ((takeFree s).2).snaps = s.snaps ∧ ((takeFree s).2).feLine = s.feLine ∧ ((takeFree s).2).snapWait = s.snapWait ∧
    ((takeFree s).2).jobs = s.jobs ∧ ((takeFree s).2).nextJob = s.nextJob ∧ ((takeFree s).2).cores = s.cores ∧
    ((takeFree s).2).msgs = s.msgs ∧ ((takeFree s).2).bounces = s.bounces ∧ ((takeFree s).2).knots = s.knots ∧
    ((takeFree s).2).knotOps = s.knotOps ∧ ((takeFree s).2).knotWaits = s.knotWaits ∧
    ((takeFree s).2).kfwd = s.kfwd ∧ ((takeFree s).2).kToken = s.kToken ∧ ((takeFree s).2).subs = s.subs ∧
    ((takeFree s).2).satCtrs = s.satCtrs ∧ ((takeFree s).2).engines = s.engines ∧
    ((takeFree s).2).memLogs = s.memLogs ∧ ((takeFree s).2).stackTemp = s.stackTemp ∧
    ((takeFree s).2).stackHot = s.stackHot ∧ ((takeFree s).2).ports = s.ports ∧
    ((takeFree s).2).delivered = s.delivered ∧ ((takeFree s).2).lostChips = s.lostChips ∧
    ((takeFree s).2).lossDue = s.lossDue ∧ ((takeFree s).2).evHold = s.evHold ∧
    ((takeFree s).2).conduits = s.conduits ∧ ((takeFree s).2).xfers = s.xfers ∧
    ((takeFree s).2).nextXid = s.nextXid ∧ ((takeFree s).2).rreg = s.rreg ∧ ((takeFree s).2).link = s.link ∧
    ((takeFree s).2).pwr = s.pwr ∧ ((takeFree s).2).plls = s.plls ∧ ((takeFree s).2).doms = s.doms ∧
    ((takeFree s).2).flt = s.flt ∧ ((takeFree s).2).lnt = s.lnt :=
  ⟨rfl, rfl, rfl, rfl, rfl, rfl, rfl, rfl, rfl, rfl, rfl, rfl, rfl, rfl, rfl, rfl, rfl, rfl, rfl, rfl, rfl, rfl, rfl, rfl, rfl, rfl, rfl, rfl, rfl, rfl, rfl, rfl, rfl, rfl, rfl, rfl, rfl, rfl, rfl, rfl, rfl, rfl, rfl, rfl, rfl, rfl, rfl, rfl, rfl, rfl, rfl, rfl, rfl, rfl⟩

/-! ## What the updated field holds -/

@[simp] theorem takeFree_fst (s : State) : (takeFree s).1 = s.freeCtr := rfl
@[simp] theorem takeFree_freeCtr (s : State) : (takeFree s).2.freeCtr = s.freeCtr + 1 := rfl
@[simp] theorem emit_out (s : State) (m : OutMsg) : (emit s m).out = m :: s.out := rfl
@[simp] theorem modPwr_pwr (s : State) (g : Power → Power) : (modPwr s g).pwr = g s.pwr := rfl
@[simp] theorem sendKnotOp_knotOps (s : State) (o : KnotOp) : (sendKnotOp s o).knotOps = s.knotOps ++ [o] := rfl

/-- A `Fn` that is updated to something other than the default reads back. -/
theorem getFn_modFn (s : State) (f : Nat) (g : Fn → Fn) (h : g (getFn s f) ≠ {}) :
    getFn (modFn s f g) f = g (getFn s f) := smUpd_same s.fns f g h
theorem getFn_modFn_ne (s : State) {f q : Nat} (g : Fn → Fn) (h : g (getFn s f) ≠ {}) (hq : q ≠ f) :
    getFn (modFn s f g) q = getFn s q := smUpd_ne s.fns g h hq
/-- In a sorted map the default reads back too. -/
theorem getFn_modFn_sorted (s : State) (f q : Nat) (g : Fn → Fn) (h : SmSorted s.fns) :
    getFn (modFn s f g) q = if q = f then g (getFn s f) else getFn s q := smGet_smSet_sorted _ h

/-- A `Ring` that is updated to something other than the default reads back. -/
theorem getRing_modRing (s : State) (p : Nat) (g : Ring → Ring) (h : g (getRing s p) ≠ {}) :
    getRing (modRing s p g) p = g (getRing s p) := smUpd_same s.rings p g h
theorem getRing_modRing_ne (s : State) {p q : Nat} (g : Ring → Ring) (h : g (getRing s p) ≠ {}) (hq : q ≠ p) :
    getRing (modRing s p g) q = getRing s q := smUpd_ne s.rings g h hq
/-- In a sorted map the default reads back too. -/
theorem getRing_modRing_sorted (s : State) (p q : Nat) (g : Ring → Ring) (h : SmSorted s.rings) :
    getRing (modRing s p g) q = if q = p then g (getRing s p) else getRing s q := smGet_smSet_sorted _ h

/-- A `Stream` that is updated to something other than the default reads back. -/
theorem getStream_modStream (s : State) (i : Nat) (g : Stream → Stream) (h : g (getStream s i) ≠ {}) :
    getStream (modStream s i g) i = g (getStream s i) := smUpd_same s.streams i g h
theorem getStream_modStream_ne (s : State) {i q : Nat} (g : Stream → Stream) (h : g (getStream s i) ≠ {}) (hq : q ≠ i) :
    getStream (modStream s i g) q = getStream s q := smUpd_ne s.streams g h hq
/-- In a sorted map the default reads back too. -/
theorem getStream_modStream_sorted (s : State) (i q : Nat) (g : Stream → Stream) (h : SmSorted s.streams) :
    getStream (modStream s i g) q = if q = i then g (getStream s i) else getStream s q := smGet_smSet_sorted _ h

/-- A `Slot` that is updated to something other than the default reads back. -/
theorem getSlot_modSlot (s : State) (i : Nat) (g : Slot → Slot) (h : g (getSlot s i) ≠ {}) :
    getSlot (modSlot s i g) i = g (getSlot s i) := smUpd_same s.slots i g h
theorem getSlot_modSlot_ne (s : State) {i q : Nat} (g : Slot → Slot) (h : g (getSlot s i) ≠ {}) (hq : q ≠ i) :
    getSlot (modSlot s i g) q = getSlot s q := smUpd_ne s.slots g h hq
/-- In a sorted map the default reads back too. -/
theorem getSlot_modSlot_sorted (s : State) (i q : Nat) (g : Slot → Slot) (h : SmSorted s.slots) :
    getSlot (modSlot s i g) q = if q = i then g (getSlot s i) else getSlot s q := smGet_smSet_sorted _ h

/-- A `Knot` that is updated to something other than the default reads back. -/
theorem getKnot_modKnot (s : State) (k : Nat) (g : Knot → Knot) (h : g (getKnot s k) ≠ {}) :
    getKnot (modKnot s k g) k = g (getKnot s k) := smUpd_same s.knots k g h
theorem getKnot_modKnot_ne (s : State) {k q : Nat} (g : Knot → Knot) (h : g (getKnot s k) ≠ {}) (hq : q ≠ k) :
    getKnot (modKnot s k g) q = getKnot s q := smUpd_ne s.knots g h hq
/-- In a sorted map the default reads back too. -/
theorem getKnot_modKnot_sorted (s : State) (k q : Nat) (g : Knot → Knot) (h : SmSorted s.knots) :
    getKnot (modKnot s k g) q = if q = k then g (getKnot s k) else getKnot s q := smGet_smSet_sorted _ h

/-- A `Port` that is updated to something other than the default reads back. -/
theorem getPort_modPort (s : State) (p : Nat) (g : Port → Port) (h : g (getPort s p) ≠ {}) :
    getPort (modPort s p g) p = g (getPort s p) := smUpd_same s.ports p g h
theorem getPort_modPort_ne (s : State) {p q : Nat} (g : Port → Port) (h : g (getPort s p) ≠ {}) (hq : q ≠ p) :
    getPort (modPort s p g) q = getPort s q := smUpd_ne s.ports g h hq
/-- In a sorted map the default reads back too. -/
theorem getPort_modPort_sorted (s : State) (p q : Nat) (g : Port → Port) (h : SmSorted s.ports) :
    getPort (modPort s p g) q = if q = p then g (getPort s p) else getPort s q := smGet_smSet_sorted _ h

/-- A `Conduit` that is updated to something other than the default reads back. -/
theorem getConduit_modConduit (s : State) (n : Nat) (g : Conduit → Conduit) (h : g (getConduit s n) ≠ {}) :
    getConduit (modConduit s n g) n = g (getConduit s n) := smUpd_same s.conduits n g h
theorem getConduit_modConduit_ne (s : State) {n q : Nat} (g : Conduit → Conduit) (h : g (getConduit s n) ≠ {}) (hq : q ≠ n) :
    getConduit (modConduit s n g) q = getConduit s q := smUpd_ne s.conduits g h hq
/-- In a sorted map the default reads back too. -/
theorem getConduit_modConduit_sorted (s : State) (n q : Nat) (g : Conduit → Conduit) (h : SmSorted s.conduits) :
    getConduit (modConduit s n g) q = if q = n then g (getConduit s n) else getConduit s q := smGet_smSet_sorted _ h

/-- A `SatCtr` that is updated to something other than the default reads back. -/
theorem getSat_modSat (s : State) (n : Nat) (g : SatCtr → SatCtr) (h : g (getSat s n) ≠ {}) :
    getSat (modSat s n g) n = g (getSat s n) := smUpd_same s.satCtrs n g h
theorem getSat_modSat_ne (s : State) {n q : Nat} (g : SatCtr → SatCtr) (h : g (getSat s n) ≠ {}) (hq : q ≠ n) :
    getSat (modSat s n g) q = getSat s q := smUpd_ne s.satCtrs g h hq
/-- In a sorted map the default reads back too. -/
theorem getSat_modSat_sorted (s : State) (n q : Nat) (g : SatCtr → SatCtr) (h : SmSorted s.satCtrs) :
    getSat (modSat s n g) q = if q = n then g (getSat s n) else getSat s q := smGet_smSet_sorted _ h

theorem getInst_setInst (s : State) (i : Nat) (v : Inst) : getInst (setInst s i (some v)) i = some v :=
  smGet_smSet_same s.insts i (by simp)
theorem getInst_setInst_ne (s : State) {i q : Nat} (v : Inst) (hq : q ≠ i) : getInst (setInst s i (some v)) q = getInst s q :=
  smGet_smSet_ne s.insts (by simp) hq
theorem getInst_setInst_sorted (s : State) (i q : Nat) (v : Option Inst) (h : SmSorted s.insts) :
    getInst (setInst s i v) q = if q = i then v else getInst s q := smGet_smSet_sorted _ h

theorem getJob_setJob (s : State) (i : Nat) (v : Job) : getJob (setJob s i (some v)) i = some v :=
  smGet_smSet_same s.jobs i (by simp)
theorem getJob_setJob_ne (s : State) {i q : Nat} (v : Job) (hq : q ≠ i) : getJob (setJob s i (some v)) q = getJob s q :=
  smGet_smSet_ne s.jobs (by simp) hq
theorem getJob_setJob_sorted (s : State) (i q : Nat) (v : Option Job) (h : SmSorted s.jobs) :
    getJob (setJob s i v) q = if q = i then v else getJob s q := smGet_smSet_sorted _ h

/-- A register that only holds reads back what is written, in a sorted map. -/
theorem reg_setReg_sorted (s : State) (o q v : Nat) (h : SmSorted s.regs) (hd : regReset q = regReset o) :
    smGet (regReset q) (setReg s o v).regs q = if q = o then BitVec.ofNat 32 v else smGet (regReset q) s.regs q := by
  rw [hd]; exact smGet_smSet_sorted _ h

/-- A counter counts, and saturates. -/
theorem ctr_c32_sorted (s : State) (o q n : Nat) (h : SmSorted s.ctrs) :
    ctr (c32 s o n) q = if q = o then satAdd 32 (ctr s o) n else ctr s q := smGet_smSet_sorted _ h
theorem ctr_c64_sorted (s : State) (o q n : Nat) (h : SmSorted s.ctrs) :
    ctr (c64 s o n) q = if q = o then satAdd 64 (ctr s o) n else ctr s q := smGet_smSet_sorted _ h

/-! ## The updates that keep a map sorted -/

theorem modFn_sorted (s : State) (f : Nat) (g : Fn → Fn) (h : SmSorted s.fns) : SmSorted (modFn s f g).fns := smSorted_smSet _ h
theorem modRing_sorted (s : State) (p : Nat) (g : Ring → Ring) (h : SmSorted s.rings) : SmSorted (modRing s p g).rings :=
  smSorted_smSet _ h
theorem modStream_sorted (s : State) (i : Nat) (g : Stream → Stream) (h : SmSorted s.streams) :
    SmSorted (modStream s i g).streams := smSorted_smSet _ h
theorem modSlot_sorted (s : State) (i : Nat) (g : Slot → Slot) (h : SmSorted s.slots) : SmSorted (modSlot s i g).slots :=
  smSorted_smSet _ h
theorem modKnot_sorted (s : State) (k : Nat) (g : Knot → Knot) (h : SmSorted s.knots) : SmSorted (modKnot s k g).knots :=
  smSorted_smSet _ h
theorem c32_sorted (s : State) (o n : Nat) (h : SmSorted s.ctrs) : SmSorted (c32 s o n).ctrs := smSorted_smSet _ h
theorem c64_sorted (s : State) (o n : Nat) (h : SmSorted s.ctrs) : SmSorted (c64 s o n).ctrs := smSorted_smSet _ h

end Sys2Proof.Machine
end

