-- ==== Sys2Proof/Laws/Ops.lean ====
section
/-! SUPPORT. Laws/Ops.lean: what each shared operation can change, said once, and when a guarded command acts. The
theorems named after an operation are split by simp into one lemma per field that the operation leaves alone. -/

namespace Sys2Proof.Machine

/-! ## What an operation leaves alone -/

/-- A vector is sent or pends. -/
@[simp] theorem sendVec_frame (s : State) (f v : Nat) :
    (sendVec s f v).pending = s.pending ∧ (sendVec s f v).mem = s.mem ∧ (sendVec s f v).lost = s.lost ∧
    (sendVec s f v).poison = s.poison ∧ (sendVec s f v).flaws = s.flaws ∧ (sendVec s f v).regs = s.regs ∧
    (sendVec s f v).ctrs = s.ctrs ∧ (sendVec s f v).freeCtr = s.freeCtr ∧ (sendVec s f v).vfEnable = s.vfEnable ∧
    (sendVec s f v).subsys = s.subsys ∧ (sendVec s f v).rings = s.rings ∧ (sendVec s f v).fetches = s.fetches ∧
    (sendVec s f v).lastServed = s.lastServed ∧ (sendVec s f v).prot = s.prot ∧ (sendVec s f v).streams = s.streams ∧
    (sendVec s f v).slots = s.slots ∧ (sendVec s f v).insts = s.insts ∧ (sendVec s f v).events = s.events ∧
    (sendVec s f v).results = s.results ∧ (sendVec s f v).snaps = s.snaps ∧ (sendVec s f v).feLine = s.feLine ∧
    (sendVec s f v).snapWait = s.snapWait ∧ (sendVec s f v).jobs = s.jobs ∧ (sendVec s f v).nextJob = s.nextJob ∧
    (sendVec s f v).cores = s.cores ∧ (sendVec s f v).msgs = s.msgs ∧ (sendVec s f v).bounces = s.bounces ∧
    (sendVec s f v).knots = s.knots ∧ (sendVec s f v).knotOps = s.knotOps ∧ (sendVec s f v).knotWaits = s.knotWaits ∧
    (sendVec s f v).kfwd = s.kfwd ∧ (sendVec s f v).kToken = s.kToken ∧ (sendVec s f v).subs = s.subs ∧
    (sendVec s f v).satCtrs = s.satCtrs ∧ (sendVec s f v).engines = s.engines ∧ (sendVec s f v).memLogs = s.memLogs ∧
    (sendVec s f v).stackTemp = s.stackTemp ∧ (sendVec s f v).stackHot = s.stackHot ∧
    (sendVec s f v).ports = s.ports ∧ (sendVec s f v).delivered = s.delivered ∧
    (sendVec s f v).lostChips = s.lostChips ∧ (sendVec s f v).lossDue = s.lossDue ∧
    (sendVec s f v).evHold = s.evHold ∧ (sendVec s f v).conduits = s.conduits ∧ (sendVec s f v).xfers = s.xfers ∧
    (sendVec s f v).nextXid = s.nextXid ∧ (sendVec s f v).rreg = s.rreg ∧ (sendVec s f v).link = s.link ∧
    (sendVec s f v).pwr = s.pwr ∧ (sendVec s f v).plls = s.plls ∧ (sendVec s f v).doms = s.doms ∧
    (sendVec s f v).flt = s.flt ∧ (sendVec s f v).lnt = s.lnt := by
  unfold sendVec; dsimp only; split <;> [skip; split] <;> simp

/-- The error vector of a function. -/
@[simp] theorem errVec_frame (s : State) (f : Nat) :
    (errVec s f).pending = s.pending ∧ (errVec s f).mem = s.mem ∧ (errVec s f).lost = s.lost ∧
    (errVec s f).poison = s.poison ∧ (errVec s f).flaws = s.flaws ∧ (errVec s f).regs = s.regs ∧
    (errVec s f).ctrs = s.ctrs ∧ (errVec s f).freeCtr = s.freeCtr ∧ (errVec s f).vfEnable = s.vfEnable ∧
    (errVec s f).subsys = s.subsys ∧ (errVec s f).rings = s.rings ∧ (errVec s f).fetches = s.fetches ∧
    (errVec s f).lastServed = s.lastServed ∧ (errVec s f).prot = s.prot ∧ (errVec s f).streams = s.streams ∧
    (errVec s f).slots = s.slots ∧ (errVec s f).insts = s.insts ∧ (errVec s f).events = s.events ∧
    (errVec s f).results = s.results ∧ (errVec s f).snaps = s.snaps ∧ (errVec s f).feLine = s.feLine ∧
    (errVec s f).snapWait = s.snapWait ∧ (errVec s f).jobs = s.jobs ∧ (errVec s f).nextJob = s.nextJob ∧
    (errVec s f).cores = s.cores ∧ (errVec s f).msgs = s.msgs ∧ (errVec s f).bounces = s.bounces ∧
    (errVec s f).knots = s.knots ∧ (errVec s f).knotOps = s.knotOps ∧ (errVec s f).knotWaits = s.knotWaits ∧
    (errVec s f).kfwd = s.kfwd ∧ (errVec s f).kToken = s.kToken ∧ (errVec s f).subs = s.subs ∧
    (errVec s f).satCtrs = s.satCtrs ∧ (errVec s f).engines = s.engines ∧ (errVec s f).memLogs = s.memLogs ∧
    (errVec s f).stackTemp = s.stackTemp ∧ (errVec s f).stackHot = s.stackHot ∧ (errVec s f).ports = s.ports ∧
    (errVec s f).delivered = s.delivered ∧ (errVec s f).lostChips = s.lostChips ∧ (errVec s f).lossDue = s.lossDue ∧
    (errVec s f).evHold = s.evHold ∧ (errVec s f).conduits = s.conduits ∧ (errVec s f).xfers = s.xfers ∧
    (errVec s f).nextXid = s.nextXid ∧ (errVec s f).rreg = s.rreg ∧ (errVec s f).link = s.link ∧
    (errVec s f).pwr = s.pwr ∧ (errVec s f).plls = s.plls ∧ (errVec s f).doms = s.doms ∧ (errVec s f).flt = s.flt ∧
    (errVec s f).lnt = s.lnt := by
  unfold errVec; split <;> simp

/-- An AER report. -/
@[simp] theorem reportAer_frame (s : State) (b : Bool) :
    (reportAer s b).pending = s.pending ∧ (reportAer s b).mem = s.mem ∧ (reportAer s b).lost = s.lost ∧
    (reportAer s b).poison = s.poison ∧ (reportAer s b).flaws = s.flaws ∧ (reportAer s b).regs = s.regs ∧
    (reportAer s b).ctrs = s.ctrs ∧ (reportAer s b).freeCtr = s.freeCtr ∧ (reportAer s b).vfEnable = s.vfEnable ∧
    (reportAer s b).subsys = s.subsys ∧ (reportAer s b).rings = s.rings ∧ (reportAer s b).fetches = s.fetches ∧
    (reportAer s b).lastServed = s.lastServed ∧ (reportAer s b).prot = s.prot ∧ (reportAer s b).streams = s.streams ∧
    (reportAer s b).slots = s.slots ∧ (reportAer s b).insts = s.insts ∧ (reportAer s b).events = s.events ∧
    (reportAer s b).results = s.results ∧ (reportAer s b).snaps = s.snaps ∧ (reportAer s b).feLine = s.feLine ∧
    (reportAer s b).snapWait = s.snapWait ∧ (reportAer s b).jobs = s.jobs ∧ (reportAer s b).nextJob = s.nextJob ∧
    (reportAer s b).cores = s.cores ∧ (reportAer s b).msgs = s.msgs ∧ (reportAer s b).bounces = s.bounces ∧
    (reportAer s b).knots = s.knots ∧ (reportAer s b).knotOps = s.knotOps ∧ (reportAer s b).knotWaits = s.knotWaits ∧
    (reportAer s b).kfwd = s.kfwd ∧ (reportAer s b).kToken = s.kToken ∧ (reportAer s b).subs = s.subs ∧
    (reportAer s b).satCtrs = s.satCtrs ∧ (reportAer s b).engines = s.engines ∧ (reportAer s b).memLogs = s.memLogs ∧
    (reportAer s b).stackTemp = s.stackTemp ∧ (reportAer s b).stackHot = s.stackHot ∧
    (reportAer s b).ports = s.ports ∧ (reportAer s b).delivered = s.delivered ∧
    (reportAer s b).lostChips = s.lostChips ∧ (reportAer s b).lossDue = s.lossDue ∧
    (reportAer s b).evHold = s.evHold ∧ (reportAer s b).conduits = s.conduits ∧ (reportAer s b).xfers = s.xfers ∧
    (reportAer s b).nextXid = s.nextXid ∧ (reportAer s b).rreg = s.rreg ∧ (reportAer s b).link = s.link ∧
    (reportAer s b).pwr = s.pwr ∧ (reportAer s b).plls = s.plls ∧ (reportAer s b).doms = s.doms ∧
    (reportAer s b).flt = s.flt ∧ (reportAer s b).lnt = s.lnt := by
  simp [reportAer]

/-- The counter of a class. -/
@[simp] theorem classCtr_frame (s : State) (k : Nat) :
    (classCtr s k).pending = s.pending ∧ (classCtr s k).mem = s.mem ∧ (classCtr s k).lost = s.lost ∧
    (classCtr s k).poison = s.poison ∧ (classCtr s k).flaws = s.flaws ∧ (classCtr s k).regs = s.regs ∧
    (classCtr s k).freeCtr = s.freeCtr ∧ (classCtr s k).out = s.out ∧ (classCtr s k).fns = s.fns ∧
    (classCtr s k).vfEnable = s.vfEnable ∧ (classCtr s k).subsys = s.subsys ∧ (classCtr s k).rings = s.rings ∧
    (classCtr s k).fetches = s.fetches ∧ (classCtr s k).lastServed = s.lastServed ∧ (classCtr s k).prot = s.prot ∧
    (classCtr s k).streams = s.streams ∧ (classCtr s k).slots = s.slots ∧ (classCtr s k).insts = s.insts ∧
    (classCtr s k).events = s.events ∧ (classCtr s k).results = s.results ∧ (classCtr s k).snaps = s.snaps ∧
    (classCtr s k).feLine = s.feLine ∧ (classCtr s k).snapWait = s.snapWait ∧ (classCtr s k).jobs = s.jobs ∧
    (classCtr s k).nextJob = s.nextJob ∧ (classCtr s k).cores = s.cores ∧ (classCtr s k).msgs = s.msgs ∧
    (classCtr s k).bounces = s.bounces ∧ (classCtr s k).knots = s.knots ∧ (classCtr s k).knotOps = s.knotOps ∧
    (classCtr s k).knotWaits = s.knotWaits ∧ (classCtr s k).kfwd = s.kfwd ∧ (classCtr s k).kToken = s.kToken ∧
    (classCtr s k).subs = s.subs ∧ (classCtr s k).satCtrs = s.satCtrs ∧ (classCtr s k).engines = s.engines ∧
    (classCtr s k).memLogs = s.memLogs ∧ (classCtr s k).stackTemp = s.stackTemp ∧
    (classCtr s k).stackHot = s.stackHot ∧ (classCtr s k).ports = s.ports ∧ (classCtr s k).delivered = s.delivered ∧
    (classCtr s k).lostChips = s.lostChips ∧ (classCtr s k).lossDue = s.lossDue ∧ (classCtr s k).evHold = s.evHold ∧
    (classCtr s k).conduits = s.conduits ∧ (classCtr s k).xfers = s.xfers ∧ (classCtr s k).nextXid = s.nextXid ∧
    (classCtr s k).rreg = s.rreg ∧ (classCtr s k).link = s.link ∧ (classCtr s k).pwr = s.pwr ∧
    (classCtr s k).plls = s.plls ∧ (classCtr s k).doms = s.doms ∧ (classCtr s k).flt = s.flt ∧
    (classCtr s k).lnt = s.lnt := by
  unfold classCtr; split <;> [skip; split <;> [skip; split]] <;> simp

/-- The signals of a record. -/
@[simp] theorem logSignals_frame (s : State) (code k : Nat) (f : Option Nat) :
    (logSignals s code k f).pending = s.pending ∧ (logSignals s code k f).mem = s.mem ∧
    (logSignals s code k f).lost = s.lost ∧ (logSignals s code k f).poison = s.poison ∧
    (logSignals s code k f).flaws = s.flaws ∧ (logSignals s code k f).regs = s.regs ∧
    (logSignals s code k f).ctrs = s.ctrs ∧ (logSignals s code k f).freeCtr = s.freeCtr ∧
    (logSignals s code k f).vfEnable = s.vfEnable ∧ (logSignals s code k f).subsys = s.subsys ∧
    (logSignals s code k f).rings = s.rings ∧ (logSignals s code k f).fetches = s.fetches ∧
    (logSignals s code k f).lastServed = s.lastServed ∧ (logSignals s code k f).prot = s.prot ∧
    (logSignals s code k f).streams = s.streams ∧ (logSignals s code k f).slots = s.slots ∧
    (logSignals s code k f).insts = s.insts ∧ (logSignals s code k f).events = s.events ∧
    (logSignals s code k f).results = s.results ∧ (logSignals s code k f).snaps = s.snaps ∧
    (logSignals s code k f).feLine = s.feLine ∧ (logSignals s code k f).snapWait = s.snapWait ∧
    (logSignals s code k f).jobs = s.jobs ∧ (logSignals s code k f).nextJob = s.nextJob ∧
    (logSignals s code k f).cores = s.cores ∧ (logSignals s code k f).msgs = s.msgs ∧
    (logSignals s code k f).bounces = s.bounces ∧ (logSignals s code k f).knots = s.knots ∧
    (logSignals s code k f).knotOps = s.knotOps ∧ (logSignals s code k f).knotWaits = s.knotWaits ∧
    (logSignals s code k f).kfwd = s.kfwd ∧ (logSignals s code k f).kToken = s.kToken ∧
    (logSignals s code k f).subs = s.subs ∧ (logSignals s code k f).satCtrs = s.satCtrs ∧
    (logSignals s code k f).engines = s.engines ∧ (logSignals s code k f).memLogs = s.memLogs ∧
    (logSignals s code k f).stackTemp = s.stackTemp ∧ (logSignals s code k f).stackHot = s.stackHot ∧
    (logSignals s code k f).ports = s.ports ∧ (logSignals s code k f).delivered = s.delivered ∧
    (logSignals s code k f).lostChips = s.lostChips ∧ (logSignals s code k f).lossDue = s.lossDue ∧
    (logSignals s code k f).evHold = s.evHold ∧ (logSignals s code k f).conduits = s.conduits ∧
    (logSignals s code k f).xfers = s.xfers ∧ (logSignals s code k f).nextXid = s.nextXid ∧
    (logSignals s code k f).rreg = s.rreg ∧ (logSignals s code k f).link = s.link ∧
    (logSignals s code k f).pwr = s.pwr ∧ (logSignals s code k f).plls = s.plls ∧
    (logSignals s code k f).doms = s.doms ∧ (logSignals s code k f).flt = s.flt ∧
    (logSignals s code k f).lnt = s.lnt := by
  unfold logSignals; dsimp only; repeat' split
  all_goals simp

/-- The ring of the log. -/
@[simp] theorem logPut_frame (s : State) (w : BitVec 256) :
    (logPut s w).pending = s.pending ∧ (logPut s w).mem = s.mem ∧ (logPut s w).lost = s.lost ∧
    (logPut s w).poison = s.poison ∧ (logPut s w).flaws = s.flaws ∧ (logPut s w).regs = s.regs ∧
    (logPut s w).freeCtr = s.freeCtr ∧ (logPut s w).out = s.out ∧ (logPut s w).fns = s.fns ∧
    (logPut s w).vfEnable = s.vfEnable ∧ (logPut s w).subsys = s.subsys ∧ (logPut s w).rings = s.rings ∧
    (logPut s w).fetches = s.fetches ∧ (logPut s w).lastServed = s.lastServed ∧ (logPut s w).prot = s.prot ∧
    (logPut s w).streams = s.streams ∧ (logPut s w).slots = s.slots ∧ (logPut s w).insts = s.insts ∧
    (logPut s w).events = s.events ∧ (logPut s w).results = s.results ∧ (logPut s w).snaps = s.snaps ∧
    (logPut s w).feLine = s.feLine ∧ (logPut s w).snapWait = s.snapWait ∧ (logPut s w).jobs = s.jobs ∧
    (logPut s w).nextJob = s.nextJob ∧ (logPut s w).cores = s.cores ∧ (logPut s w).msgs = s.msgs ∧
    (logPut s w).bounces = s.bounces ∧ (logPut s w).knots = s.knots ∧ (logPut s w).knotOps = s.knotOps ∧
    (logPut s w).knotWaits = s.knotWaits ∧ (logPut s w).kfwd = s.kfwd ∧ (logPut s w).kToken = s.kToken ∧
    (logPut s w).subs = s.subs ∧ (logPut s w).satCtrs = s.satCtrs ∧ (logPut s w).engines = s.engines ∧
    (logPut s w).memLogs = s.memLogs ∧ (logPut s w).stackTemp = s.stackTemp ∧ (logPut s w).stackHot = s.stackHot ∧
    (logPut s w).ports = s.ports ∧ (logPut s w).delivered = s.delivered ∧ (logPut s w).lostChips = s.lostChips ∧
    (logPut s w).lossDue = s.lossDue ∧ (logPut s w).evHold = s.evHold ∧ (logPut s w).conduits = s.conduits ∧
    (logPut s w).xfers = s.xfers ∧ (logPut s w).nextXid = s.nextXid ∧ (logPut s w).rreg = s.rreg ∧
    (logPut s w).link = s.link ∧ (logPut s w).pwr = s.pwr ∧ (logPut s w).plls = s.plls ∧ (logPut s w).doms = s.doms ∧
    (logPut s w).lnt = s.lnt := by
  unfold logPut; split <;> simp

/-- A record is produced. -/
@[simp] theorem logRec_frame (s : State) (code k : Nat) (i : LogInfo) :
    (logRec s code k i).pending = s.pending ∧ (logRec s code k i).mem = s.mem ∧ (logRec s code k i).lost = s.lost ∧
    (logRec s code k i).poison = s.poison ∧ (logRec s code k i).flaws = s.flaws ∧ (logRec s code k i).regs = s.regs ∧
    (logRec s code k i).freeCtr = s.freeCtr ∧ (logRec s code k i).vfEnable = s.vfEnable ∧
    (logRec s code k i).subsys = s.subsys ∧ (logRec s code k i).rings = s.rings ∧
    (logRec s code k i).fetches = s.fetches ∧ (logRec s code k i).lastServed = s.lastServed ∧
    (logRec s code k i).prot = s.prot ∧ (logRec s code k i).streams = s.streams ∧
    (logRec s code k i).slots = s.slots ∧ (logRec s code k i).insts = s.insts ∧
    (logRec s code k i).events = s.events ∧ (logRec s code k i).results = s.results ∧
    (logRec s code k i).snaps = s.snaps ∧ (logRec s code k i).feLine = s.feLine ∧
    (logRec s code k i).snapWait = s.snapWait ∧ (logRec s code k i).jobs = s.jobs ∧
    (logRec s code k i).nextJob = s.nextJob ∧ (logRec s code k i).cores = s.cores ∧
    (logRec s code k i).msgs = s.msgs ∧ (logRec s code k i).bounces = s.bounces ∧
    (logRec s code k i).knots = s.knots ∧ (logRec s code k i).knotOps = s.knotOps ∧
    (logRec s code k i).knotWaits = s.knotWaits ∧ (logRec s code k i).kfwd = s.kfwd ∧
    (logRec s code k i).kToken = s.kToken ∧ (logRec s code k i).subs = s.subs ∧
    (logRec s code k i).satCtrs = s.satCtrs ∧ (logRec s code k i).engines = s.engines ∧
    (logRec s code k i).memLogs = s.memLogs ∧ (logRec s code k i).stackTemp = s.stackTemp ∧
    (logRec s code k i).stackHot = s.stackHot ∧ (logRec s code k i).ports = s.ports ∧
    (logRec s code k i).delivered = s.delivered ∧ (logRec s code k i).lostChips = s.lostChips ∧
    (logRec s code k i).lossDue = s.lossDue ∧ (logRec s code k i).evHold = s.evHold ∧
    (logRec s code k i).conduits = s.conduits ∧ (logRec s code k i).xfers = s.xfers ∧
    (logRec s code k i).nextXid = s.nextXid ∧ (logRec s code k i).rreg = s.rreg ∧ (logRec s code k i).link = s.link ∧
    (logRec s code k i).pwr = s.pwr ∧ (logRec s code k i).plls = s.plls ∧ (logRec s code k i).doms = s.doms ∧
    (logRec s code k i).lnt = s.lnt := by
  simp [logRec]

/-- Operations pass in a window. -/
@[simp] theorem winPass_frame (s : State) (k n : Nat) :
    (winPass s k n).pending = s.pending ∧ (winPass s k n).mem = s.mem ∧ (winPass s k n).lost = s.lost ∧
    (winPass s k n).poison = s.poison ∧ (winPass s k n).flaws = s.flaws ∧ (winPass s k n).regs = s.regs ∧
    (winPass s k n).ctrs = s.ctrs ∧ (winPass s k n).freeCtr = s.freeCtr ∧ (winPass s k n).out = s.out ∧
    (winPass s k n).fns = s.fns ∧ (winPass s k n).vfEnable = s.vfEnable ∧ (winPass s k n).subsys = s.subsys ∧
    (winPass s k n).rings = s.rings ∧ (winPass s k n).fetches = s.fetches ∧
    (winPass s k n).lastServed = s.lastServed ∧ (winPass s k n).prot = s.prot ∧ (winPass s k n).streams = s.streams ∧
    (winPass s k n).slots = s.slots ∧ (winPass s k n).insts = s.insts ∧ (winPass s k n).events = s.events ∧
    (winPass s k n).results = s.results ∧ (winPass s k n).snaps = s.snaps ∧ (winPass s k n).feLine = s.feLine ∧
    (winPass s k n).snapWait = s.snapWait ∧ (winPass s k n).jobs = s.jobs ∧ (winPass s k n).nextJob = s.nextJob ∧
    (winPass s k n).cores = s.cores ∧ (winPass s k n).msgs = s.msgs ∧ (winPass s k n).bounces = s.bounces ∧
    (winPass s k n).knots = s.knots ∧ (winPass s k n).knotOps = s.knotOps ∧ (winPass s k n).knotWaits = s.knotWaits ∧
    (winPass s k n).kfwd = s.kfwd ∧ (winPass s k n).kToken = s.kToken ∧ (winPass s k n).subs = s.subs ∧
    (winPass s k n).satCtrs = s.satCtrs ∧ (winPass s k n).engines = s.engines ∧ (winPass s k n).memLogs = s.memLogs ∧
    (winPass s k n).stackTemp = s.stackTemp ∧ (winPass s k n).stackHot = s.stackHot ∧
    (winPass s k n).ports = s.ports ∧ (winPass s k n).delivered = s.delivered ∧
    (winPass s k n).lostChips = s.lostChips ∧ (winPass s k n).lossDue = s.lossDue ∧
    (winPass s k n).evHold = s.evHold ∧ (winPass s k n).conduits = s.conduits ∧ (winPass s k n).xfers = s.xfers ∧
    (winPass s k n).nextXid = s.nextXid ∧ (winPass s k n).rreg = s.rreg ∧ (winPass s k n).link = s.link ∧
    (winPass s k n).pwr = s.pwr ∧ (winPass s k n).plls = s.plls ∧ (winPass s k n).doms = s.doms ∧
    (winPass s k n).lnt = s.lnt := by
  unfold winPass; split <;> simp

/-- A failure is counted in a window. -/
@[simp] theorem winCount_frame (s : State) (k n : Nat) :
    ((winCount s k n).2).pending = s.pending ∧ ((winCount s k n).2).mem = s.mem ∧
    ((winCount s k n).2).lost = s.lost ∧ ((winCount s k n).2).poison = s.poison ∧
    ((winCount s k n).2).flaws = s.flaws ∧ ((winCount s k n).2).regs = s.regs ∧ ((winCount s k n).2).ctrs = s.ctrs ∧
    ((winCount s k n).2).freeCtr = s.freeCtr ∧ ((winCount s k n).2).out = s.out ∧ ((winCount s k n).2).fns = s.fns ∧
    ((winCount s k n).2).vfEnable = s.vfEnable ∧ ((winCount s k n).2).subsys = s.subsys ∧
    ((winCount s k n).2).rings = s.rings ∧ ((winCount s k n).2).fetches = s.fetches ∧
    ((winCount s k n).2).lastServed = s.lastServed ∧ ((winCount s k n).2).prot = s.prot ∧
    ((winCount s k n).2).streams = s.streams ∧ ((winCount s k n).2).slots = s.slots ∧
    ((winCount s k n).2).insts = s.insts ∧ ((winCount s k n).2).events = s.events ∧
    ((winCount s k n).2).results = s.results ∧ ((winCount s k n).2).snaps = s.snaps ∧
    ((winCount s k n).2).feLine = s.feLine ∧ ((winCount s k n).2).snapWait = s.snapWait ∧
    ((winCount s k n).2).jobs = s.jobs ∧ ((winCount s k n).2).nextJob = s.nextJob ∧
    ((winCount s k n).2).cores = s.cores ∧ ((winCount s k n).2).msgs = s.msgs ∧
    ((winCount s k n).2).bounces = s.bounces ∧ ((winCount s k n).2).knots = s.knots ∧
    ((winCount s k n).2).knotOps = s.knotOps ∧ ((winCount s k n).2).knotWaits = s.knotWaits ∧
    ((winCount s k n).2).kfwd = s.kfwd ∧ ((winCount s k n).2).kToken = s.kToken ∧
    ((winCount s k n).2).subs = s.subs ∧ ((winCount s k n).2).satCtrs = s.satCtrs ∧
    ((winCount s k n).2).engines = s.engines ∧ ((winCount s k n).2).memLogs = s.memLogs ∧
    ((winCount s k n).2).stackTemp = s.stackTemp ∧ ((winCount s k n).2).stackHot = s.stackHot ∧
    ((winCount s k n).2).ports = s.ports ∧ ((winCount s k n).2).delivered = s.delivered ∧
    ((winCount s k n).2).lostChips = s.lostChips ∧ ((winCount s k n).2).lossDue = s.lossDue ∧
    ((winCount s k n).2).evHold = s.evHold ∧ ((winCount s k n).2).conduits = s.conduits ∧
    ((winCount s k n).2).xfers = s.xfers ∧ ((winCount s k n).2).nextXid = s.nextXid ∧
    ((winCount s k n).2).rreg = s.rreg ∧ ((winCount s k n).2).link = s.link ∧ ((winCount s k n).2).pwr = s.pwr ∧
    ((winCount s k n).2).plls = s.plls ∧ ((winCount s k n).2).doms = s.doms ∧ ((winCount s k n).2).lnt = s.lnt := by
  simp [winCount]

/-- An access passes in the windows. -/
@[simp] theorem memOps_frame (s : State) (sp off n : Nat) :
    (memOps s sp off n).pending = s.pending ∧ (memOps s sp off n).mem = s.mem ∧ (memOps s sp off n).lost = s.lost ∧
    (memOps s sp off n).poison = s.poison ∧ (memOps s sp off n).flaws = s.flaws ∧ (memOps s sp off n).regs = s.regs ∧
    (memOps s sp off n).ctrs = s.ctrs ∧ (memOps s sp off n).freeCtr = s.freeCtr ∧ (memOps s sp off n).out = s.out ∧
    (memOps s sp off n).fns = s.fns ∧ (memOps s sp off n).vfEnable = s.vfEnable ∧
    (memOps s sp off n).subsys = s.subsys ∧ (memOps s sp off n).rings = s.rings ∧
    (memOps s sp off n).fetches = s.fetches ∧ (memOps s sp off n).lastServed = s.lastServed ∧
    (memOps s sp off n).prot = s.prot ∧ (memOps s sp off n).streams = s.streams ∧
    (memOps s sp off n).slots = s.slots ∧ (memOps s sp off n).insts = s.insts ∧
    (memOps s sp off n).events = s.events ∧ (memOps s sp off n).results = s.results ∧
    (memOps s sp off n).snaps = s.snaps ∧ (memOps s sp off n).feLine = s.feLine ∧
    (memOps s sp off n).snapWait = s.snapWait ∧ (memOps s sp off n).jobs = s.jobs ∧
    (memOps s sp off n).nextJob = s.nextJob ∧ (memOps s sp off n).cores = s.cores ∧
    (memOps s sp off n).msgs = s.msgs ∧ (memOps s sp off n).bounces = s.bounces ∧
    (memOps s sp off n).knots = s.knots ∧ (memOps s sp off n).knotOps = s.knotOps ∧
    (memOps s sp off n).knotWaits = s.knotWaits ∧ (memOps s sp off n).kfwd = s.kfwd ∧
    (memOps s sp off n).kToken = s.kToken ∧ (memOps s sp off n).subs = s.subs ∧
    (memOps s sp off n).satCtrs = s.satCtrs ∧ (memOps s sp off n).engines = s.engines ∧
    (memOps s sp off n).memLogs = s.memLogs ∧ (memOps s sp off n).stackTemp = s.stackTemp ∧
    (memOps s sp off n).stackHot = s.stackHot ∧ (memOps s sp off n).ports = s.ports ∧
    (memOps s sp off n).delivered = s.delivered ∧ (memOps s sp off n).lostChips = s.lostChips ∧
    (memOps s sp off n).lossDue = s.lossDue ∧ (memOps s sp off n).evHold = s.evHold ∧
    (memOps s sp off n).conduits = s.conduits ∧ (memOps s sp off n).xfers = s.xfers ∧
    (memOps s sp off n).nextXid = s.nextXid ∧ (memOps s sp off n).rreg = s.rreg ∧ (memOps s sp off n).link = s.link ∧
    (memOps s sp off n).pwr = s.pwr ∧ (memOps s sp off n).plls = s.plls ∧ (memOps s sp off n).doms = s.doms ∧
    (memOps s sp off n).lnt = s.lnt := by
  unfold memOps; split <;> simp

/-- Bytes read. -/
@[simp] theorem cntRd_frame (s : State) (sp n : Nat) :
    (cntRd s sp n).pending = s.pending ∧ (cntRd s sp n).mem = s.mem ∧ (cntRd s sp n).lost = s.lost ∧
    (cntRd s sp n).poison = s.poison ∧ (cntRd s sp n).flaws = s.flaws ∧ (cntRd s sp n).regs = s.regs ∧
    (cntRd s sp n).freeCtr = s.freeCtr ∧ (cntRd s sp n).out = s.out ∧ (cntRd s sp n).fns = s.fns ∧
    (cntRd s sp n).vfEnable = s.vfEnable ∧ (cntRd s sp n).subsys = s.subsys ∧ (cntRd s sp n).rings = s.rings ∧
    (cntRd s sp n).fetches = s.fetches ∧ (cntRd s sp n).lastServed = s.lastServed ∧ (cntRd s sp n).prot = s.prot ∧
    (cntRd s sp n).streams = s.streams ∧ (cntRd s sp n).slots = s.slots ∧ (cntRd s sp n).insts = s.insts ∧
    (cntRd s sp n).events = s.events ∧ (cntRd s sp n).results = s.results ∧ (cntRd s sp n).snaps = s.snaps ∧
    (cntRd s sp n).feLine = s.feLine ∧ (cntRd s sp n).snapWait = s.snapWait ∧ (cntRd s sp n).jobs = s.jobs ∧
    (cntRd s sp n).nextJob = s.nextJob ∧ (cntRd s sp n).cores = s.cores ∧ (cntRd s sp n).msgs = s.msgs ∧
    (cntRd s sp n).bounces = s.bounces ∧ (cntRd s sp n).knots = s.knots ∧ (cntRd s sp n).knotOps = s.knotOps ∧
    (cntRd s sp n).knotWaits = s.knotWaits ∧ (cntRd s sp n).kfwd = s.kfwd ∧ (cntRd s sp n).kToken = s.kToken ∧
    (cntRd s sp n).subs = s.subs ∧ (cntRd s sp n).satCtrs = s.satCtrs ∧ (cntRd s sp n).engines = s.engines ∧
    (cntRd s sp n).memLogs = s.memLogs ∧ (cntRd s sp n).stackTemp = s.stackTemp ∧
    (cntRd s sp n).stackHot = s.stackHot ∧ (cntRd s sp n).ports = s.ports ∧ (cntRd s sp n).delivered = s.delivered ∧
    (cntRd s sp n).lostChips = s.lostChips ∧ (cntRd s sp n).lossDue = s.lossDue ∧ (cntRd s sp n).evHold = s.evHold ∧
    (cntRd s sp n).conduits = s.conduits ∧ (cntRd s sp n).xfers = s.xfers ∧ (cntRd s sp n).nextXid = s.nextXid ∧
    (cntRd s sp n).rreg = s.rreg ∧ (cntRd s sp n).link = s.link ∧ (cntRd s sp n).pwr = s.pwr ∧
    (cntRd s sp n).plls = s.plls ∧ (cntRd s sp n).doms = s.doms ∧ (cntRd s sp n).flt = s.flt ∧
    (cntRd s sp n).lnt = s.lnt := by
  unfold cntRd; split <;> [skip; split] <;> simp

/-- Bytes written. -/
@[simp] theorem cntWr_frame (s : State) (sp n : Nat) :
    (cntWr s sp n).pending = s.pending ∧ (cntWr s sp n).mem = s.mem ∧ (cntWr s sp n).lost = s.lost ∧
    (cntWr s sp n).poison = s.poison ∧ (cntWr s sp n).flaws = s.flaws ∧ (cntWr s sp n).regs = s.regs ∧
    (cntWr s sp n).freeCtr = s.freeCtr ∧ (cntWr s sp n).out = s.out ∧ (cntWr s sp n).fns = s.fns ∧
    (cntWr s sp n).vfEnable = s.vfEnable ∧ (cntWr s sp n).subsys = s.subsys ∧ (cntWr s sp n).rings = s.rings ∧
    (cntWr s sp n).fetches = s.fetches ∧ (cntWr s sp n).lastServed = s.lastServed ∧ (cntWr s sp n).prot = s.prot ∧
    (cntWr s sp n).streams = s.streams ∧ (cntWr s sp n).slots = s.slots ∧ (cntWr s sp n).insts = s.insts ∧
    (cntWr s sp n).events = s.events ∧ (cntWr s sp n).results = s.results ∧ (cntWr s sp n).snaps = s.snaps ∧
    (cntWr s sp n).feLine = s.feLine ∧ (cntWr s sp n).snapWait = s.snapWait ∧ (cntWr s sp n).jobs = s.jobs ∧
    (cntWr s sp n).nextJob = s.nextJob ∧ (cntWr s sp n).cores = s.cores ∧ (cntWr s sp n).msgs = s.msgs ∧
    (cntWr s sp n).bounces = s.bounces ∧ (cntWr s sp n).knots = s.knots ∧ (cntWr s sp n).knotOps = s.knotOps ∧
    (cntWr s sp n).knotWaits = s.knotWaits ∧ (cntWr s sp n).kfwd = s.kfwd ∧ (cntWr s sp n).kToken = s.kToken ∧
    (cntWr s sp n).subs = s.subs ∧ (cntWr s sp n).satCtrs = s.satCtrs ∧ (cntWr s sp n).engines = s.engines ∧
    (cntWr s sp n).memLogs = s.memLogs ∧ (cntWr s sp n).stackTemp = s.stackTemp ∧
    (cntWr s sp n).stackHot = s.stackHot ∧ (cntWr s sp n).ports = s.ports ∧ (cntWr s sp n).delivered = s.delivered ∧
    (cntWr s sp n).lostChips = s.lostChips ∧ (cntWr s sp n).lossDue = s.lossDue ∧ (cntWr s sp n).evHold = s.evHold ∧
    (cntWr s sp n).conduits = s.conduits ∧ (cntWr s sp n).xfers = s.xfers ∧ (cntWr s sp n).nextXid = s.nextXid ∧
    (cntWr s sp n).rreg = s.rreg ∧ (cntWr s sp n).link = s.link ∧ (cntWr s sp n).pwr = s.pwr ∧
    (cntWr s sp n).plls = s.plls ∧ (cntWr s sp n).doms = s.doms ∧ (cntWr s sp n).flt = s.flt ∧
    (cntWr s sp n).lnt = s.lnt := by
  unfold cntWr; split <;> [skip; split] <;> simp

/-- A verdict falls due. -/
@[simp] theorem addVerdict_frame (s : State) (v : Verdict) :
    (addVerdict s v).pending = s.pending ∧ (addVerdict s v).mem = s.mem ∧ (addVerdict s v).lost = s.lost ∧
    (addVerdict s v).poison = s.poison ∧ (addVerdict s v).flaws = s.flaws ∧ (addVerdict s v).regs = s.regs ∧
    (addVerdict s v).ctrs = s.ctrs ∧ (addVerdict s v).freeCtr = s.freeCtr ∧ (addVerdict s v).out = s.out ∧
    (addVerdict s v).fns = s.fns ∧ (addVerdict s v).vfEnable = s.vfEnable ∧ (addVerdict s v).subsys = s.subsys ∧
    (addVerdict s v).rings = s.rings ∧ (addVerdict s v).fetches = s.fetches ∧
    (addVerdict s v).lastServed = s.lastServed ∧ (addVerdict s v).prot = s.prot ∧
    (addVerdict s v).streams = s.streams ∧ (addVerdict s v).slots = s.slots ∧ (addVerdict s v).insts = s.insts ∧
    (addVerdict s v).events = s.events ∧ (addVerdict s v).results = s.results ∧ (addVerdict s v).snaps = s.snaps ∧
    (addVerdict s v).feLine = s.feLine ∧ (addVerdict s v).snapWait = s.snapWait ∧ (addVerdict s v).jobs = s.jobs ∧
    (addVerdict s v).nextJob = s.nextJob ∧ (addVerdict s v).cores = s.cores ∧ (addVerdict s v).msgs = s.msgs ∧
    (addVerdict s v).bounces = s.bounces ∧ (addVerdict s v).knots = s.knots ∧ (addVerdict s v).knotOps = s.knotOps ∧
    (addVerdict s v).knotWaits = s.knotWaits ∧ (addVerdict s v).kfwd = s.kfwd ∧ (addVerdict s v).kToken = s.kToken ∧
    (addVerdict s v).subs = s.subs ∧ (addVerdict s v).satCtrs = s.satCtrs ∧ (addVerdict s v).engines = s.engines ∧
    (addVerdict s v).memLogs = s.memLogs ∧ (addVerdict s v).stackTemp = s.stackTemp ∧
    (addVerdict s v).stackHot = s.stackHot ∧ (addVerdict s v).ports = s.ports ∧
    (addVerdict s v).delivered = s.delivered ∧ (addVerdict s v).lostChips = s.lostChips ∧
    (addVerdict s v).lossDue = s.lossDue ∧ (addVerdict s v).evHold = s.evHold ∧
    (addVerdict s v).conduits = s.conduits ∧ (addVerdict s v).xfers = s.xfers ∧
    (addVerdict s v).nextXid = s.nextXid ∧ (addVerdict s v).rreg = s.rreg ∧ (addVerdict s v).link = s.link ∧
    (addVerdict s v).pwr = s.pwr ∧ (addVerdict s v).plls = s.plls ∧ (addVerdict s v).doms = s.doms ∧
    (addVerdict s v).lnt = s.lnt := by
  unfold addVerdict; split <;> simp

/-- The log of an uncorrectable word. -/
@[simp] theorem memErrLog_frame (s : State) (m k : Nat) (b : Bool) :
    (memErrLog s m k b).pending = s.pending ∧ (memErrLog s m k b).mem = s.mem ∧ (memErrLog s m k b).lost = s.lost ∧
    (memErrLog s m k b).poison = s.poison ∧ (memErrLog s m k b).flaws = s.flaws ∧ (memErrLog s m k b).regs = s.regs ∧
    (memErrLog s m k b).ctrs = s.ctrs ∧ (memErrLog s m k b).freeCtr = s.freeCtr ∧ (memErrLog s m k b).out = s.out ∧
    (memErrLog s m k b).fns = s.fns ∧ (memErrLog s m k b).vfEnable = s.vfEnable ∧
    (memErrLog s m k b).subsys = s.subsys ∧ (memErrLog s m k b).rings = s.rings ∧
    (memErrLog s m k b).fetches = s.fetches ∧ (memErrLog s m k b).lastServed = s.lastServed ∧
    (memErrLog s m k b).prot = s.prot ∧ (memErrLog s m k b).streams = s.streams ∧
    (memErrLog s m k b).slots = s.slots ∧ (memErrLog s m k b).insts = s.insts ∧
    (memErrLog s m k b).events = s.events ∧ (memErrLog s m k b).results = s.results ∧
    (memErrLog s m k b).snaps = s.snaps ∧ (memErrLog s m k b).feLine = s.feLine ∧
    (memErrLog s m k b).snapWait = s.snapWait ∧ (memErrLog s m k b).jobs = s.jobs ∧
    (memErrLog s m k b).nextJob = s.nextJob ∧ (memErrLog s m k b).cores = s.cores ∧
    (memErrLog s m k b).msgs = s.msgs ∧ (memErrLog s m k b).bounces = s.bounces ∧
    (memErrLog s m k b).knots = s.knots ∧ (memErrLog s m k b).knotOps = s.knotOps ∧
    (memErrLog s m k b).knotWaits = s.knotWaits ∧ (memErrLog s m k b).kfwd = s.kfwd ∧
    (memErrLog s m k b).kToken = s.kToken ∧ (memErrLog s m k b).subs = s.subs ∧
    (memErrLog s m k b).satCtrs = s.satCtrs ∧ (memErrLog s m k b).engines = s.engines ∧
    (memErrLog s m k b).stackTemp = s.stackTemp ∧ (memErrLog s m k b).stackHot = s.stackHot ∧
    (memErrLog s m k b).ports = s.ports ∧ (memErrLog s m k b).delivered = s.delivered ∧
    (memErrLog s m k b).lostChips = s.lostChips ∧ (memErrLog s m k b).lossDue = s.lossDue ∧
    (memErrLog s m k b).evHold = s.evHold ∧ (memErrLog s m k b).conduits = s.conduits ∧
    (memErrLog s m k b).xfers = s.xfers ∧ (memErrLog s m k b).nextXid = s.nextXid ∧
    (memErrLog s m k b).rreg = s.rreg ∧ (memErrLog s m k b).link = s.link ∧ (memErrLog s m k b).pwr = s.pwr ∧
    (memErrLog s m k b).plls = s.plls ∧ (memErrLog s m k b).doms = s.doms ∧ (memErrLog s m k b).flt = s.flt ∧
    (memErrLog s m k b).lnt = s.lnt := by
  unfold memErrLog; split <;> simp

/-- A word is poisoned. -/
@[simp] theorem poisonWord_frame (s : State) (m k n : Nat) (b : Bool) :
    (poisonWord s m k n b).pending = s.pending ∧ (poisonWord s m k n b).mem = s.mem ∧
    (poisonWord s m k n b).lost = s.lost ∧ (poisonWord s m k n b).flaws = s.flaws ∧
    (poisonWord s m k n b).regs = s.regs ∧ (poisonWord s m k n b).freeCtr = s.freeCtr ∧
    (poisonWord s m k n b).vfEnable = s.vfEnable ∧ (poisonWord s m k n b).subsys = s.subsys ∧
    (poisonWord s m k n b).rings = s.rings ∧ (poisonWord s m k n b).fetches = s.fetches ∧
    (poisonWord s m k n b).lastServed = s.lastServed ∧ (poisonWord s m k n b).prot = s.prot ∧
    (poisonWord s m k n b).streams = s.streams ∧ (poisonWord s m k n b).slots = s.slots ∧
    (poisonWord s m k n b).insts = s.insts ∧ (poisonWord s m k n b).events = s.events ∧
    (poisonWord s m k n b).results = s.results ∧ (poisonWord s m k n b).snaps = s.snaps ∧
    (poisonWord s m k n b).feLine = s.feLine ∧ (poisonWord s m k n b).snapWait = s.snapWait ∧
    (poisonWord s m k n b).jobs = s.jobs ∧ (poisonWord s m k n b).nextJob = s.nextJob ∧
    (poisonWord s m k n b).cores = s.cores ∧ (poisonWord s m k n b).msgs = s.msgs ∧
    (poisonWord s m k n b).bounces = s.bounces ∧ (poisonWord s m k n b).knots = s.knots ∧
    (poisonWord s m k n b).knotOps = s.knotOps ∧ (poisonWord s m k n b).knotWaits = s.knotWaits ∧
    (poisonWord s m k n b).kfwd = s.kfwd ∧ (poisonWord s m k n b).kToken = s.kToken ∧
    (poisonWord s m k n b).subs = s.subs ∧ (poisonWord s m k n b).satCtrs = s.satCtrs ∧
    (poisonWord s m k n b).engines = s.engines ∧ (poisonWord s m k n b).stackTemp = s.stackTemp ∧
    (poisonWord s m k n b).stackHot = s.stackHot ∧ (poisonWord s m k n b).ports = s.ports ∧
    (poisonWord s m k n b).delivered = s.delivered ∧ (poisonWord s m k n b).lostChips = s.lostChips ∧
    (poisonWord s m k n b).lossDue = s.lossDue ∧ (poisonWord s m k n b).evHold = s.evHold ∧
    (poisonWord s m k n b).conduits = s.conduits ∧ (poisonWord s m k n b).xfers = s.xfers ∧
    (poisonWord s m k n b).nextXid = s.nextXid ∧ (poisonWord s m k n b).rreg = s.rreg ∧
    (poisonWord s m k n b).link = s.link ∧ (poisonWord s m k n b).pwr = s.pwr ∧
    (poisonWord s m k n b).plls = s.plls ∧ (poisonWord s m k n b).doms = s.doms ∧
    (poisonWord s m k n b).lnt = s.lnt := by
  simp [poisonWord, setPoison]

/-- An error in a Gallery word. -/
@[simp] theorem galError_frame (s : State) (k : Nat) (two b : Bool) :
    (galError s k two b).pending = s.pending ∧ (galError s k two b).mem = s.mem ∧
    (galError s k two b).lost = s.lost ∧ (galError s k two b).flaws = s.flaws ∧ (galError s k two b).regs = s.regs ∧
    (galError s k two b).freeCtr = s.freeCtr ∧ (galError s k two b).vfEnable = s.vfEnable ∧
    (galError s k two b).subsys = s.subsys ∧ (galError s k two b).rings = s.rings ∧
    (galError s k two b).fetches = s.fetches ∧ (galError s k two b).lastServed = s.lastServed ∧
    (galError s k two b).prot = s.prot ∧ (galError s k two b).streams = s.streams ∧
    (galError s k two b).slots = s.slots ∧ (galError s k two b).insts = s.insts ∧
    (galError s k two b).events = s.events ∧ (galError s k two b).results = s.results ∧
    (galError s k two b).snaps = s.snaps ∧ (galError s k two b).feLine = s.feLine ∧
    (galError s k two b).snapWait = s.snapWait ∧ (galError s k two b).jobs = s.jobs ∧
    (galError s k two b).nextJob = s.nextJob ∧ (galError s k two b).cores = s.cores ∧
    (galError s k two b).msgs = s.msgs ∧ (galError s k two b).bounces = s.bounces ∧
    (galError s k two b).knots = s.knots ∧ (galError s k two b).knotOps = s.knotOps ∧
    (galError s k two b).knotWaits = s.knotWaits ∧ (galError s k two b).kfwd = s.kfwd ∧
    (galError s k two b).kToken = s.kToken ∧ (galError s k two b).subs = s.subs ∧
    (galError s k two b).satCtrs = s.satCtrs ∧ (galError s k two b).engines = s.engines ∧
    (galError s k two b).stackTemp = s.stackTemp ∧ (galError s k two b).stackHot = s.stackHot ∧
    (galError s k two b).ports = s.ports ∧ (galError s k two b).delivered = s.delivered ∧
    (galError s k two b).lostChips = s.lostChips ∧ (galError s k two b).lossDue = s.lossDue ∧
    (galError s k two b).evHold = s.evHold ∧ (galError s k two b).conduits = s.conduits ∧
    (galError s k two b).xfers = s.xfers ∧ (galError s k two b).nextXid = s.nextXid ∧
    (galError s k two b).rreg = s.rreg ∧ (galError s k two b).link = s.link ∧ (galError s k two b).pwr = s.pwr ∧
    (galError s k two b).plls = s.plls ∧ (galError s k two b).doms = s.doms ∧ (galError s k two b).lnt = s.lnt := by
  unfold galError; cases two <;> simp only [Bool.false_eq_true, if_false, if_true] <;> split <;> simp

/-- An error in a DRAM sector. -/
@[simp] theorem dramError_frame (s : State) (k : Nat) (two b : Bool) :
    (dramError s k two b).pending = s.pending ∧ (dramError s k two b).mem = s.mem ∧
    (dramError s k two b).lost = s.lost ∧ (dramError s k two b).flaws = s.flaws ∧
    (dramError s k two b).regs = s.regs ∧ (dramError s k two b).freeCtr = s.freeCtr ∧
    (dramError s k two b).vfEnable = s.vfEnable ∧ (dramError s k two b).subsys = s.subsys ∧
    (dramError s k two b).rings = s.rings ∧ (dramError s k two b).fetches = s.fetches ∧
    (dramError s k two b).lastServed = s.lastServed ∧ (dramError s k two b).prot = s.prot ∧
    (dramError s k two b).streams = s.streams ∧ (dramError s k two b).slots = s.slots ∧
    (dramError s k two b).insts = s.insts ∧ (dramError s k two b).events = s.events ∧
    (dramError s k two b).results = s.results ∧ (dramError s k two b).snaps = s.snaps ∧
    (dramError s k two b).feLine = s.feLine ∧ (dramError s k two b).snapWait = s.snapWait ∧
    (dramError s k two b).jobs = s.jobs ∧ (dramError s k two b).nextJob = s.nextJob ∧
    (dramError s k two b).cores = s.cores ∧ (dramError s k two b).msgs = s.msgs ∧
    (dramError s k two b).bounces = s.bounces ∧ (dramError s k two b).knots = s.knots ∧
    (dramError s k two b).knotOps = s.knotOps ∧ (dramError s k two b).knotWaits = s.knotWaits ∧
    (dramError s k two b).kfwd = s.kfwd ∧ (dramError s k two b).kToken = s.kToken ∧
    (dramError s k two b).subs = s.subs ∧ (dramError s k two b).satCtrs = s.satCtrs ∧
    (dramError s k two b).engines = s.engines ∧ (dramError s k two b).stackTemp = s.stackTemp ∧
    (dramError s k two b).stackHot = s.stackHot ∧ (dramError s k two b).ports = s.ports ∧
    (dramError s k two b).delivered = s.delivered ∧ (dramError s k two b).lostChips = s.lostChips ∧
    (dramError s k two b).lossDue = s.lossDue ∧ (dramError s k two b).evHold = s.evHold ∧
    (dramError s k two b).conduits = s.conduits ∧ (dramError s k two b).xfers = s.xfers ∧
    (dramError s k two b).nextXid = s.nextXid ∧ (dramError s k two b).rreg = s.rreg ∧
    (dramError s k two b).link = s.link ∧ (dramError s k two b).pwr = s.pwr ∧ (dramError s k two b).plls = s.plls ∧
    (dramError s k two b).doms = s.doms ∧ (dramError s k two b).lnt = s.lnt := by
  unfold dramError; cases two <;> simp only [Bool.false_eq_true, if_false, if_true] <;> repeat' split
  all_goals simp

/-- An error in a word of device memory. -/
@[simp] theorem memError_frame (s : State) (k : Nat) (two b : Bool) :
    (memError s k two b).pending = s.pending ∧ (memError s k two b).mem = s.mem ∧
    (memError s k two b).lost = s.lost ∧ (memError s k two b).flaws = s.flaws ∧ (memError s k two b).regs = s.regs ∧
    (memError s k two b).freeCtr = s.freeCtr ∧ (memError s k two b).vfEnable = s.vfEnable ∧
    (memError s k two b).subsys = s.subsys ∧ (memError s k two b).rings = s.rings ∧
    (memError s k two b).fetches = s.fetches ∧ (memError s k two b).lastServed = s.lastServed ∧
    (memError s k two b).prot = s.prot ∧ (memError s k two b).streams = s.streams ∧
    (memError s k two b).slots = s.slots ∧ (memError s k two b).insts = s.insts ∧
    (memError s k two b).events = s.events ∧ (memError s k two b).results = s.results ∧
    (memError s k two b).snaps = s.snaps ∧ (memError s k two b).feLine = s.feLine ∧
    (memError s k two b).snapWait = s.snapWait ∧ (memError s k two b).jobs = s.jobs ∧
    (memError s k two b).nextJob = s.nextJob ∧ (memError s k two b).cores = s.cores ∧
    (memError s k two b).msgs = s.msgs ∧ (memError s k two b).bounces = s.bounces ∧
    (memError s k two b).knots = s.knots ∧ (memError s k two b).knotOps = s.knotOps ∧
    (memError s k two b).knotWaits = s.knotWaits ∧ (memError s k two b).kfwd = s.kfwd ∧
    (memError s k two b).kToken = s.kToken ∧ (memError s k two b).subs = s.subs ∧
    (memError s k two b).satCtrs = s.satCtrs ∧ (memError s k two b).engines = s.engines ∧
    (memError s k two b).stackTemp = s.stackTemp ∧ (memError s k two b).stackHot = s.stackHot ∧
    (memError s k two b).ports = s.ports ∧ (memError s k two b).delivered = s.delivered ∧
    (memError s k two b).lostChips = s.lostChips ∧ (memError s k two b).lossDue = s.lossDue ∧
    (memError s k two b).evHold = s.evHold ∧ (memError s k two b).conduits = s.conduits ∧
    (memError s k two b).xfers = s.xfers ∧ (memError s k two b).nextXid = s.nextXid ∧
    (memError s k two b).rreg = s.rreg ∧ (memError s k two b).link = s.link ∧ (memError s k two b).pwr = s.pwr ∧
    (memError s k two b).plls = s.plls ∧ (memError s k two b).doms = s.doms ∧ (memError s k two b).lnt = s.lnt := by
  unfold memError; split <;> [skip; split] <;> simp

/-- A fold whose steps keep a property keeps it. -/
theorem foldl_keeps {α β : Type} {P : β → Prop} {f : β → α → β} (hf : ∀ b a, P b → P (f b a)) (l : List α) (b : β) (h : P b) :
    P (l.foldl f b) := by
  induction l generalizing b with
  | nil => exact h
  | cons a l ih => exact ih _ (hf _ _ h)

/-- A read meets the errors in its words. -/
@[simp] theorem eccRead_frame (s : State) (k n : Nat) (b : Bool) :
    (eccRead s k n b).pending = s.pending ∧ (eccRead s k n b).mem = s.mem ∧ (eccRead s k n b).lost = s.lost ∧
    (eccRead s k n b).regs = s.regs ∧ (eccRead s k n b).freeCtr = s.freeCtr ∧
    (eccRead s k n b).vfEnable = s.vfEnable ∧ (eccRead s k n b).subsys = s.subsys ∧
    (eccRead s k n b).rings = s.rings ∧ (eccRead s k n b).fetches = s.fetches ∧
    (eccRead s k n b).lastServed = s.lastServed ∧ (eccRead s k n b).prot = s.prot ∧
    (eccRead s k n b).streams = s.streams ∧ (eccRead s k n b).slots = s.slots ∧ (eccRead s k n b).insts = s.insts ∧
    (eccRead s k n b).events = s.events ∧ (eccRead s k n b).results = s.results ∧ (eccRead s k n b).snaps = s.snaps ∧
    (eccRead s k n b).feLine = s.feLine ∧ (eccRead s k n b).snapWait = s.snapWait ∧ (eccRead s k n b).jobs = s.jobs ∧
    (eccRead s k n b).nextJob = s.nextJob ∧ (eccRead s k n b).cores = s.cores ∧ (eccRead s k n b).msgs = s.msgs ∧
    (eccRead s k n b).bounces = s.bounces ∧ (eccRead s k n b).knots = s.knots ∧
    (eccRead s k n b).knotOps = s.knotOps ∧ (eccRead s k n b).knotWaits = s.knotWaits ∧
    (eccRead s k n b).kfwd = s.kfwd ∧ (eccRead s k n b).kToken = s.kToken ∧ (eccRead s k n b).subs = s.subs ∧
    (eccRead s k n b).satCtrs = s.satCtrs ∧ (eccRead s k n b).engines = s.engines ∧
    (eccRead s k n b).stackTemp = s.stackTemp ∧ (eccRead s k n b).stackHot = s.stackHot ∧
    (eccRead s k n b).ports = s.ports ∧ (eccRead s k n b).delivered = s.delivered ∧
    (eccRead s k n b).lostChips = s.lostChips ∧ (eccRead s k n b).lossDue = s.lossDue ∧
    (eccRead s k n b).evHold = s.evHold ∧ (eccRead s k n b).conduits = s.conduits ∧
    (eccRead s k n b).xfers = s.xfers ∧ (eccRead s k n b).nextXid = s.nextXid ∧ (eccRead s k n b).rreg = s.rreg ∧
    (eccRead s k n b).link = s.link ∧ (eccRead s k n b).pwr = s.pwr ∧ (eccRead s k n b).plls = s.plls ∧
    (eccRead s k n b).doms = s.doms ∧ (eccRead s k n b).lnt = s.lnt := by
  unfold eccRead; split
  · exact ⟨rfl, rfl, rfl, rfl, rfl, rfl, rfl, rfl, rfl, rfl, rfl, rfl, rfl, rfl, rfl, rfl, rfl, rfl, rfl, rfl, rfl, rfl, rfl, rfl, rfl, rfl, rfl, rfl, rfl, rfl, rfl, rfl, rfl, rfl, rfl, rfl, rfl, rfl, rfl, rfl, rfl, rfl, rfl, rfl, rfl, rfl, rfl, rfl⟩
  · dsimp only [takeFlaws]
    refine foldl_keeps (P := fun (t : State) => t.pending = s.pending ∧ t.mem = s.mem ∧ t.lost = s.lost ∧ t.regs = s.regs ∧ t.freeCtr = s.freeCtr ∧ t.vfEnable = s.vfEnable ∧ t.subsys = s.subsys ∧ t.rings = s.rings ∧ t.fetches = s.fetches ∧ t.lastServed = s.lastServed ∧ t.prot = s.prot ∧ t.streams = s.streams ∧ t.slots = s.slots ∧ t.insts = s.insts ∧ t.events = s.events ∧ t.results = s.results ∧ t.snaps = s.snaps ∧ t.feLine = s.feLine ∧ t.snapWait = s.snapWait ∧ t.jobs = s.jobs ∧ t.nextJob = s.nextJob ∧ t.cores = s.cores ∧ t.msgs = s.msgs ∧ t.bounces = s.bounces ∧ t.knots = s.knots ∧ t.knotOps = s.knotOps ∧ t.knotWaits = s.knotWaits ∧ t.kfwd = s.kfwd ∧ t.kToken = s.kToken ∧ t.subs = s.subs ∧ t.satCtrs = s.satCtrs ∧ t.engines = s.engines ∧ t.stackTemp = s.stackTemp ∧ t.stackHot = s.stackHot ∧ t.ports = s.ports ∧ t.delivered = s.delivered ∧ t.lostChips = s.lostChips ∧ t.lossDue = s.lossDue ∧ t.evHold = s.evHold ∧ t.conduits = s.conduits ∧ t.xfers = s.xfers ∧ t.nextXid = s.nextXid ∧ t.rreg = s.rreg ∧ t.link = s.link ∧ t.pwr = s.pwr ∧ t.plls = s.plls ∧ t.doms = s.doms ∧ t.lnt = s.lnt) ?_ _ _ ⟨rfl, rfl, rfl, rfl, rfl, rfl, rfl, rfl, rfl, rfl, rfl, rfl, rfl, rfl, rfl, rfl, rfl, rfl, rfl, rfl, rfl, rfl, rfl, rfl, rfl, rfl, rfl, rfl, rfl, rfl, rfl, rfl, rfl, rfl, rfl, rfl, rfl, rfl, rfl, rfl, rfl, rfl, rfl, rfl, rfl, rfl, rfl, rfl⟩
    intro t e h
    simpa using h

/-- A read of memory meets the errors in its words and counts; it changes no byte. -/
@[simp] theorem memRd_frame (s : State) (sp off n : Nat) :
    ((memRd s sp off n).2).pending = s.pending ∧ ((memRd s sp off n).2).mem = s.mem ∧
    ((memRd s sp off n).2).lost = s.lost ∧ ((memRd s sp off n).2).regs = s.regs ∧
    ((memRd s sp off n).2).freeCtr = s.freeCtr ∧ ((memRd s sp off n).2).vfEnable = s.vfEnable ∧
    ((memRd s sp off n).2).subsys = s.subsys ∧ ((memRd s sp off n).2).rings = s.rings ∧
    ((memRd s sp off n).2).fetches = s.fetches ∧ ((memRd s sp off n).2).lastServed = s.lastServed ∧
    ((memRd s sp off n).2).prot = s.prot ∧ ((memRd s sp off n).2).streams = s.streams ∧
    ((memRd s sp off n).2).slots = s.slots ∧ ((memRd s sp off n).2).insts = s.insts ∧
    ((memRd s sp off n).2).events = s.events ∧ ((memRd s sp off n).2).results = s.results ∧
    ((memRd s sp off n).2).snaps = s.snaps ∧ ((memRd s sp off n).2).feLine = s.feLine ∧
    ((memRd s sp off n).2).snapWait = s.snapWait ∧ ((memRd s sp off n).2).jobs = s.jobs ∧
    ((memRd s sp off n).2).nextJob = s.nextJob ∧ ((memRd s sp off n).2).cores = s.cores ∧
    ((memRd s sp off n).2).msgs = s.msgs ∧ ((memRd s sp off n).2).bounces = s.bounces ∧
    ((memRd s sp off n).2).knots = s.knots ∧ ((memRd s sp off n).2).knotOps = s.knotOps ∧
    ((memRd s sp off n).2).knotWaits = s.knotWaits ∧ ((memRd s sp off n).2).kfwd = s.kfwd ∧
    ((memRd s sp off n).2).kToken = s.kToken ∧ ((memRd s sp off n).2).subs = s.subs ∧
    ((memRd s sp off n).2).satCtrs = s.satCtrs ∧ ((memRd s sp off n).2).engines = s.engines ∧
    ((memRd s sp off n).2).stackTemp = s.stackTemp ∧ ((memRd s sp off n).2).stackHot = s.stackHot ∧
    ((memRd s sp off n).2).ports = s.ports ∧ ((memRd s sp off n).2).delivered = s.delivered ∧
    ((memRd s sp off n).2).lostChips = s.lostChips ∧ ((memRd s sp off n).2).lossDue = s.lossDue ∧
    ((memRd s sp off n).2).evHold = s.evHold ∧ ((memRd s sp off n).2).conduits = s.conduits ∧
    ((memRd s sp off n).2).xfers = s.xfers ∧ ((memRd s sp off n).2).nextXid = s.nextXid ∧
    ((memRd s sp off n).2).rreg = s.rreg ∧ ((memRd s sp off n).2).link = s.link ∧
    ((memRd s sp off n).2).pwr = s.pwr ∧ ((memRd s sp off n).2).plls = s.plls ∧
    ((memRd s sp off n).2).doms = s.doms ∧ ((memRd s sp off n).2).lnt = s.lnt := by
  simp [memRd]

/-- A use of a checked word is noted. -/
@[simp] theorem noteCtl_frame (s : State) (w : CtlWord → Bool) :
    (noteCtl s w).pending = s.pending ∧ (noteCtl s w).mem = s.mem ∧ (noteCtl s w).lost = s.lost ∧
    (noteCtl s w).poison = s.poison ∧ (noteCtl s w).flaws = s.flaws ∧ (noteCtl s w).regs = s.regs ∧
    (noteCtl s w).ctrs = s.ctrs ∧ (noteCtl s w).freeCtr = s.freeCtr ∧ (noteCtl s w).out = s.out ∧
    (noteCtl s w).fns = s.fns ∧ (noteCtl s w).vfEnable = s.vfEnable ∧ (noteCtl s w).subsys = s.subsys ∧
    (noteCtl s w).rings = s.rings ∧ (noteCtl s w).fetches = s.fetches ∧ (noteCtl s w).lastServed = s.lastServed ∧
    (noteCtl s w).prot = s.prot ∧ (noteCtl s w).streams = s.streams ∧ (noteCtl s w).slots = s.slots ∧
    (noteCtl s w).insts = s.insts ∧ (noteCtl s w).events = s.events ∧ (noteCtl s w).results = s.results ∧
    (noteCtl s w).snaps = s.snaps ∧ (noteCtl s w).feLine = s.feLine ∧ (noteCtl s w).snapWait = s.snapWait ∧
    (noteCtl s w).jobs = s.jobs ∧ (noteCtl s w).nextJob = s.nextJob ∧ (noteCtl s w).cores = s.cores ∧
    (noteCtl s w).msgs = s.msgs ∧ (noteCtl s w).bounces = s.bounces ∧ (noteCtl s w).knots = s.knots ∧
    (noteCtl s w).knotOps = s.knotOps ∧ (noteCtl s w).knotWaits = s.knotWaits ∧ (noteCtl s w).kfwd = s.kfwd ∧
    (noteCtl s w).kToken = s.kToken ∧ (noteCtl s w).subs = s.subs ∧ (noteCtl s w).satCtrs = s.satCtrs ∧
    (noteCtl s w).engines = s.engines ∧ (noteCtl s w).memLogs = s.memLogs ∧ (noteCtl s w).stackTemp = s.stackTemp ∧
    (noteCtl s w).stackHot = s.stackHot ∧ (noteCtl s w).ports = s.ports ∧ (noteCtl s w).delivered = s.delivered ∧
    (noteCtl s w).lostChips = s.lostChips ∧ (noteCtl s w).lossDue = s.lossDue ∧ (noteCtl s w).evHold = s.evHold ∧
    (noteCtl s w).conduits = s.conduits ∧ (noteCtl s w).xfers = s.xfers ∧ (noteCtl s w).nextXid = s.nextXid ∧
    (noteCtl s w).rreg = s.rreg ∧ (noteCtl s w).link = s.link ∧ (noteCtl s w).pwr = s.pwr ∧
    (noteCtl s w).plls = s.plls ∧ (noteCtl s w).doms = s.doms ∧ (noteCtl s w).lnt = s.lnt := by
  unfold noteCtl; split <;> simp

/-- The check of a device-space access. -/
@[simp] theorem devCheck_frame (s : State) (fn sp off n : Nat) (wr : Bool) (r : Option (Nat × Nat)) :
    ((devCheck s fn sp off n wr r).2).pending = s.pending ∧ ((devCheck s fn sp off n wr r).2).mem = s.mem ∧
    ((devCheck s fn sp off n wr r).2).lost = s.lost ∧ ((devCheck s fn sp off n wr r).2).poison = s.poison ∧
    ((devCheck s fn sp off n wr r).2).flaws = s.flaws ∧ ((devCheck s fn sp off n wr r).2).regs = s.regs ∧
    ((devCheck s fn sp off n wr r).2).freeCtr = s.freeCtr ∧ ((devCheck s fn sp off n wr r).2).out = s.out ∧
    ((devCheck s fn sp off n wr r).2).fns = s.fns ∧ ((devCheck s fn sp off n wr r).2).vfEnable = s.vfEnable ∧
    ((devCheck s fn sp off n wr r).2).subsys = s.subsys ∧ ((devCheck s fn sp off n wr r).2).rings = s.rings ∧
    ((devCheck s fn sp off n wr r).2).fetches = s.fetches ∧
    ((devCheck s fn sp off n wr r).2).lastServed = s.lastServed ∧ ((devCheck s fn sp off n wr r).2).prot = s.prot ∧
    ((devCheck s fn sp off n wr r).2).streams = s.streams ∧ ((devCheck s fn sp off n wr r).2).slots = s.slots ∧
    ((devCheck s fn sp off n wr r).2).insts = s.insts ∧ ((devCheck s fn sp off n wr r).2).events = s.events ∧
    ((devCheck s fn sp off n wr r).2).results = s.results ∧ ((devCheck s fn sp off n wr r).2).snaps = s.snaps ∧
    ((devCheck s fn sp off n wr r).2).feLine = s.feLine ∧ ((devCheck s fn sp off n wr r).2).snapWait = s.snapWait ∧
    ((devCheck s fn sp off n wr r).2).jobs = s.jobs ∧ ((devCheck s fn sp off n wr r).2).nextJob = s.nextJob ∧
    ((devCheck s fn sp off n wr r).2).cores = s.cores ∧ ((devCheck s fn sp off n wr r).2).msgs = s.msgs ∧
    ((devCheck s fn sp off n wr r).2).bounces = s.bounces ∧ ((devCheck s fn sp off n wr r).2).knots = s.knots ∧
    ((devCheck s fn sp off n wr r).2).knotOps = s.knotOps ∧
    ((devCheck s fn sp off n wr r).2).knotWaits = s.knotWaits ∧ ((devCheck s fn sp off n wr r).2).kfwd = s.kfwd ∧
    ((devCheck s fn sp off n wr r).2).kToken = s.kToken ∧ ((devCheck s fn sp off n wr r).2).subs = s.subs ∧
    ((devCheck s fn sp off n wr r).2).satCtrs = s.satCtrs ∧ ((devCheck s fn sp off n wr r).2).engines = s.engines ∧
    ((devCheck s fn sp off n wr r).2).memLogs = s.memLogs ∧
    ((devCheck s fn sp off n wr r).2).stackTemp = s.stackTemp ∧
    ((devCheck s fn sp off n wr r).2).stackHot = s.stackHot ∧ ((devCheck s fn sp off n wr r).2).ports = s.ports ∧
    ((devCheck s fn sp off n wr r).2).delivered = s.delivered ∧
    ((devCheck s fn sp off n wr r).2).lostChips = s.lostChips ∧
    ((devCheck s fn sp off n wr r).2).lossDue = s.lossDue ∧ ((devCheck s fn sp off n wr r).2).evHold = s.evHold ∧
    ((devCheck s fn sp off n wr r).2).conduits = s.conduits ∧ ((devCheck s fn sp off n wr r).2).xfers = s.xfers ∧
    ((devCheck s fn sp off n wr r).2).nextXid = s.nextXid ∧ ((devCheck s fn sp off n wr r).2).rreg = s.rreg ∧
    ((devCheck s fn sp off n wr r).2).link = s.link ∧ ((devCheck s fn sp off n wr r).2).pwr = s.pwr ∧
    ((devCheck s fn sp off n wr r).2).plls = s.plls ∧ ((devCheck s fn sp off n wr r).2).doms = s.doms ∧
    ((devCheck s fn sp off n wr r).2).lnt = s.lnt := by
  unfold devCheck; generalize (if wr = true then none else r) = q; repeat' split
  all_goals simp

/-- A read of poisoned data. -/
@[simp] theorem poisonRead_frame (s : State) (row k : Nat) (f : Option Nat) (st : Nat) :
    (poisonRead s row k f st).pending = s.pending ∧ (poisonRead s row k f st).mem = s.mem ∧
    (poisonRead s row k f st).lost = s.lost ∧ (poisonRead s row k f st).regs = s.regs ∧
    (poisonRead s row k f st).freeCtr = s.freeCtr ∧ (poisonRead s row k f st).vfEnable = s.vfEnable ∧
    (poisonRead s row k f st).subsys = s.subsys ∧ (poisonRead s row k f st).rings = s.rings ∧
    (poisonRead s row k f st).fetches = s.fetches ∧ (poisonRead s row k f st).lastServed = s.lastServed ∧
    (poisonRead s row k f st).prot = s.prot ∧ (poisonRead s row k f st).streams = s.streams ∧
    (poisonRead s row k f st).slots = s.slots ∧ (poisonRead s row k f st).insts = s.insts ∧
    (poisonRead s row k f st).events = s.events ∧ (poisonRead s row k f st).results = s.results ∧
    (poisonRead s row k f st).snaps = s.snaps ∧ (poisonRead s row k f st).feLine = s.feLine ∧
    (poisonRead s row k f st).snapWait = s.snapWait ∧ (poisonRead s row k f st).jobs = s.jobs ∧
    (poisonRead s row k f st).nextJob = s.nextJob ∧ (poisonRead s row k f st).cores = s.cores ∧
    (poisonRead s row k f st).msgs = s.msgs ∧ (poisonRead s row k f st).bounces = s.bounces ∧
    (poisonRead s row k f st).knots = s.knots ∧ (poisonRead s row k f st).knotOps = s.knotOps ∧
    (poisonRead s row k f st).knotWaits = s.knotWaits ∧ (poisonRead s row k f st).kfwd = s.kfwd ∧
    (poisonRead s row k f st).kToken = s.kToken ∧ (poisonRead s row k f st).subs = s.subs ∧
    (poisonRead s row k f st).satCtrs = s.satCtrs ∧ (poisonRead s row k f st).engines = s.engines ∧
    (poisonRead s row k f st).stackTemp = s.stackTemp ∧ (poisonRead s row k f st).stackHot = s.stackHot ∧
    (poisonRead s row k f st).ports = s.ports ∧ (poisonRead s row k f st).delivered = s.delivered ∧
    (poisonRead s row k f st).lostChips = s.lostChips ∧ (poisonRead s row k f st).lossDue = s.lossDue ∧
    (poisonRead s row k f st).evHold = s.evHold ∧ (poisonRead s row k f st).conduits = s.conduits ∧
    (poisonRead s row k f st).xfers = s.xfers ∧ (poisonRead s row k f st).nextXid = s.nextXid ∧
    (poisonRead s row k f st).rreg = s.rreg ∧ (poisonRead s row k f st).link = s.link ∧
    (poisonRead s row k f st).pwr = s.pwr ∧ (poisonRead s row k f st).plls = s.plls ∧
    (poisonRead s row k f st).doms = s.doms ∧ (poisonRead s row k f st).lnt = s.lnt := by
  simp [poisonRead]

/-- The counters that a status moves. -/
@[simp] theorem countStatus_frame (s : State) (fn st : Nat) :
    (countStatus s fn st).pending = s.pending ∧ (countStatus s fn st).mem = s.mem ∧
    (countStatus s fn st).lost = s.lost ∧ (countStatus s fn st).poison = s.poison ∧
    (countStatus s fn st).flaws = s.flaws ∧ (countStatus s fn st).regs = s.regs ∧
    (countStatus s fn st).freeCtr = s.freeCtr ∧ (countStatus s fn st).out = s.out ∧
    (countStatus s fn st).vfEnable = s.vfEnable ∧ (countStatus s fn st).subsys = s.subsys ∧
    (countStatus s fn st).rings = s.rings ∧ (countStatus s fn st).fetches = s.fetches ∧
    (countStatus s fn st).lastServed = s.lastServed ∧ (countStatus s fn st).prot = s.prot ∧
    (countStatus s fn st).streams = s.streams ∧ (countStatus s fn st).slots = s.slots ∧
    (countStatus s fn st).insts = s.insts ∧ (countStatus s fn st).events = s.events ∧
    (countStatus s fn st).results = s.results ∧ (countStatus s fn st).snaps = s.snaps ∧
    (countStatus s fn st).feLine = s.feLine ∧ (countStatus s fn st).snapWait = s.snapWait ∧
    (countStatus s fn st).jobs = s.jobs ∧ (countStatus s fn st).nextJob = s.nextJob ∧
    (countStatus s fn st).cores = s.cores ∧ (countStatus s fn st).msgs = s.msgs ∧
    (countStatus s fn st).bounces = s.bounces ∧ (countStatus s fn st).knots = s.knots ∧
    (countStatus s fn st).knotOps = s.knotOps ∧ (countStatus s fn st).knotWaits = s.knotWaits ∧
    (countStatus s fn st).kfwd = s.kfwd ∧ (countStatus s fn st).kToken = s.kToken ∧
    (countStatus s fn st).subs = s.subs ∧ (countStatus s fn st).satCtrs = s.satCtrs ∧
    (countStatus s fn st).engines = s.engines ∧ (countStatus s fn st).memLogs = s.memLogs ∧
    (countStatus s fn st).stackTemp = s.stackTemp ∧ (countStatus s fn st).stackHot = s.stackHot ∧
    (countStatus s fn st).ports = s.ports ∧ (countStatus s fn st).delivered = s.delivered ∧
    (countStatus s fn st).lostChips = s.lostChips ∧ (countStatus s fn st).lossDue = s.lossDue ∧
    (countStatus s fn st).evHold = s.evHold ∧ (countStatus s fn st).conduits = s.conduits ∧
    (countStatus s fn st).xfers = s.xfers ∧ (countStatus s fn st).nextXid = s.nextXid ∧
    (countStatus s fn st).rreg = s.rreg ∧ (countStatus s fn st).link = s.link ∧ (countStatus s fn st).pwr = s.pwr ∧
    (countStatus s fn st).plls = s.plls ∧ (countStatus s fn st).doms = s.doms ∧ (countStatus s fn st).flt = s.flt ∧
    (countStatus s fn st).lnt = s.lnt := by
  unfold countStatus fltStale; split <;> [skip; split <;> [skip; split]] <;> simp

/-- A message without a job is dropped. -/
@[simp] theorem dropStale_frame (s : State) (p : Nat) :
    (dropStale s p).pending = s.pending ∧ (dropStale s p).mem = s.mem ∧ (dropStale s p).lost = s.lost ∧
    (dropStale s p).poison = s.poison ∧ (dropStale s p).flaws = s.flaws ∧ (dropStale s p).regs = s.regs ∧
    (dropStale s p).freeCtr = s.freeCtr ∧ (dropStale s p).out = s.out ∧ (dropStale s p).vfEnable = s.vfEnable ∧
    (dropStale s p).subsys = s.subsys ∧ (dropStale s p).rings = s.rings ∧ (dropStale s p).fetches = s.fetches ∧
    (dropStale s p).lastServed = s.lastServed ∧ (dropStale s p).prot = s.prot ∧ (dropStale s p).streams = s.streams ∧
    (dropStale s p).slots = s.slots ∧ (dropStale s p).insts = s.insts ∧ (dropStale s p).events = s.events ∧
    (dropStale s p).results = s.results ∧ (dropStale s p).snaps = s.snaps ∧ (dropStale s p).feLine = s.feLine ∧
    (dropStale s p).snapWait = s.snapWait ∧ (dropStale s p).jobs = s.jobs ∧ (dropStale s p).nextJob = s.nextJob ∧
    (dropStale s p).cores = s.cores ∧ (dropStale s p).msgs = s.msgs ∧ (dropStale s p).bounces = s.bounces ∧
    (dropStale s p).knots = s.knots ∧ (dropStale s p).knotOps = s.knotOps ∧ (dropStale s p).knotWaits = s.knotWaits ∧
    (dropStale s p).kfwd = s.kfwd ∧ (dropStale s p).kToken = s.kToken ∧ (dropStale s p).subs = s.subs ∧
    (dropStale s p).satCtrs = s.satCtrs ∧ (dropStale s p).engines = s.engines ∧ (dropStale s p).memLogs = s.memLogs ∧
    (dropStale s p).stackTemp = s.stackTemp ∧ (dropStale s p).stackHot = s.stackHot ∧
    (dropStale s p).ports = s.ports ∧ (dropStale s p).delivered = s.delivered ∧
    (dropStale s p).lostChips = s.lostChips ∧ (dropStale s p).lossDue = s.lossDue ∧
    (dropStale s p).evHold = s.evHold ∧ (dropStale s p).conduits = s.conduits ∧ (dropStale s p).xfers = s.xfers ∧
    (dropStale s p).nextXid = s.nextXid ∧ (dropStale s p).rreg = s.rreg ∧ (dropStale s p).link = s.link ∧
    (dropStale s p).pwr = s.pwr ∧ (dropStale s p).plls = s.plls ∧ (dropStale s p).doms = s.doms ∧
    (dropStale s p).flt = s.flt ∧ (dropStale s p).lnt = s.lnt := by
  unfold dropStale fltStale; split <;> simp

/-- A descriptor ends. -/
@[simp] theorem finish_frame (s : State) (q : DescRef) (k : Compl) :
    (finish s q k).pending = s.pending ∧ (finish s q k).mem = s.mem ∧ (finish s q k).lost = s.lost ∧
    (finish s q k).poison = s.poison ∧ (finish s q k).flaws = s.flaws ∧ (finish s q k).regs = s.regs ∧
    (finish s q k).freeCtr = s.freeCtr ∧ (finish s q k).out = s.out ∧ (finish s q k).vfEnable = s.vfEnable ∧
    (finish s q k).subsys = s.subsys ∧ (finish s q k).fetches = s.fetches ∧
    (finish s q k).lastServed = s.lastServed ∧ (finish s q k).prot = s.prot ∧ (finish s q k).streams = s.streams ∧
    (finish s q k).slots = s.slots ∧ (finish s q k).insts = s.insts ∧ (finish s q k).events = s.events ∧
    (finish s q k).results = s.results ∧ (finish s q k).snaps = s.snaps ∧ (finish s q k).feLine = s.feLine ∧
    (finish s q k).snapWait = s.snapWait ∧ (finish s q k).jobs = s.jobs ∧ (finish s q k).nextJob = s.nextJob ∧
    (finish s q k).cores = s.cores ∧ (finish s q k).msgs = s.msgs ∧ (finish s q k).bounces = s.bounces ∧
    (finish s q k).knots = s.knots ∧ (finish s q k).knotOps = s.knotOps ∧ (finish s q k).knotWaits = s.knotWaits ∧
    (finish s q k).kfwd = s.kfwd ∧ (finish s q k).kToken = s.kToken ∧ (finish s q k).subs = s.subs ∧
    (finish s q k).satCtrs = s.satCtrs ∧ (finish s q k).engines = s.engines ∧ (finish s q k).memLogs = s.memLogs ∧
    (finish s q k).stackTemp = s.stackTemp ∧ (finish s q k).stackHot = s.stackHot ∧ (finish s q k).ports = s.ports ∧
    (finish s q k).delivered = s.delivered ∧ (finish s q k).lostChips = s.lostChips ∧
    (finish s q k).lossDue = s.lossDue ∧ (finish s q k).evHold = s.evHold ∧ (finish s q k).conduits = s.conduits ∧
    (finish s q k).xfers = s.xfers ∧ (finish s q k).nextXid = s.nextXid ∧ (finish s q k).rreg = s.rreg ∧
    (finish s q k).link = s.link ∧ (finish s q k).pwr = s.pwr ∧ (finish s q k).plls = s.plls ∧
    (finish s q k).doms = s.doms ∧ (finish s q k).flt = s.flt ∧ (finish s q k).lnt = s.lnt := by
  unfold finish; split <;> simp

/-- A snapshot buffer is taken. -/
@[simp] theorem takeSnap_frame (s : State) (n : Nat) (st : StreamId) :
    (takeSnap s n st).pending = s.pending ∧ (takeSnap s n st).mem = s.mem ∧ (takeSnap s n st).lost = s.lost ∧
    (takeSnap s n st).poison = s.poison ∧ (takeSnap s n st).flaws = s.flaws ∧ (takeSnap s n st).regs = s.regs ∧
    (takeSnap s n st).ctrs = s.ctrs ∧ (takeSnap s n st).freeCtr = s.freeCtr ∧ (takeSnap s n st).out = s.out ∧
    (takeSnap s n st).fns = s.fns ∧ (takeSnap s n st).vfEnable = s.vfEnable ∧ (takeSnap s n st).subsys = s.subsys ∧
    (takeSnap s n st).rings = s.rings ∧ (takeSnap s n st).fetches = s.fetches ∧
    (takeSnap s n st).lastServed = s.lastServed ∧ (takeSnap s n st).prot = s.prot ∧
    (takeSnap s n st).streams = s.streams ∧ (takeSnap s n st).slots = s.slots ∧ (takeSnap s n st).insts = s.insts ∧
    (takeSnap s n st).events = s.events ∧ (takeSnap s n st).results = s.results ∧
    (takeSnap s n st).feLine = s.feLine ∧ (takeSnap s n st).snapWait = s.snapWait ∧ (takeSnap s n st).jobs = s.jobs ∧
    (takeSnap s n st).nextJob = s.nextJob ∧ (takeSnap s n st).cores = s.cores ∧ (takeSnap s n st).msgs = s.msgs ∧
    (takeSnap s n st).bounces = s.bounces ∧ (takeSnap s n st).knots = s.knots ∧
    (takeSnap s n st).knotOps = s.knotOps ∧ (takeSnap s n st).knotWaits = s.knotWaits ∧
    (takeSnap s n st).kfwd = s.kfwd ∧ (takeSnap s n st).kToken = s.kToken ∧ (takeSnap s n st).subs = s.subs ∧
    (takeSnap s n st).satCtrs = s.satCtrs ∧ (takeSnap s n st).engines = s.engines ∧
    (takeSnap s n st).stackTemp = s.stackTemp ∧ (takeSnap s n st).stackHot = s.stackHot ∧
    (takeSnap s n st).ports = s.ports ∧ (takeSnap s n st).delivered = s.delivered ∧
    (takeSnap s n st).lostChips = s.lostChips ∧ (takeSnap s n st).lossDue = s.lossDue ∧
    (takeSnap s n st).evHold = s.evHold ∧ (takeSnap s n st).conduits = s.conduits ∧
    (takeSnap s n st).xfers = s.xfers ∧ (takeSnap s n st).nextXid = s.nextXid ∧ (takeSnap s n st).rreg = s.rreg ∧
    (takeSnap s n st).link = s.link ∧ (takeSnap s n st).pwr = s.pwr ∧ (takeSnap s n st).plls = s.plls ∧
    (takeSnap s n st).doms = s.doms ∧ (takeSnap s n st).flt = s.flt ∧ (takeSnap s n st).lnt = s.lnt := by
  simp [takeSnap]

/-- Work for the host wakes the link. -/
@[simp] theorem hostWake_frame (s : State) (f : Nat) :
    (hostWake s f).pending = s.pending ∧ (hostWake s f).mem = s.mem ∧ (hostWake s f).lost = s.lost ∧
    (hostWake s f).poison = s.poison ∧ (hostWake s f).flaws = s.flaws ∧ (hostWake s f).regs = s.regs ∧
    (hostWake s f).ctrs = s.ctrs ∧ (hostWake s f).freeCtr = s.freeCtr ∧ (hostWake s f).vfEnable = s.vfEnable ∧
    (hostWake s f).subsys = s.subsys ∧ (hostWake s f).rings = s.rings ∧ (hostWake s f).fetches = s.fetches ∧
    (hostWake s f).lastServed = s.lastServed ∧ (hostWake s f).prot = s.prot ∧ (hostWake s f).streams = s.streams ∧
    (hostWake s f).slots = s.slots ∧ (hostWake s f).insts = s.insts ∧ (hostWake s f).events = s.events ∧
    (hostWake s f).results = s.results ∧ (hostWake s f).snaps = s.snaps ∧ (hostWake s f).feLine = s.feLine ∧
    (hostWake s f).snapWait = s.snapWait ∧ (hostWake s f).jobs = s.jobs ∧ (hostWake s f).nextJob = s.nextJob ∧
    (hostWake s f).cores = s.cores ∧ (hostWake s f).msgs = s.msgs ∧ (hostWake s f).bounces = s.bounces ∧
    (hostWake s f).knots = s.knots ∧ (hostWake s f).knotOps = s.knotOps ∧ (hostWake s f).knotWaits = s.knotWaits ∧
    (hostWake s f).kfwd = s.kfwd ∧ (hostWake s f).kToken = s.kToken ∧ (hostWake s f).subs = s.subs ∧
    (hostWake s f).satCtrs = s.satCtrs ∧ (hostWake s f).engines = s.engines ∧ (hostWake s f).memLogs = s.memLogs ∧
    (hostWake s f).stackTemp = s.stackTemp ∧ (hostWake s f).stackHot = s.stackHot ∧ (hostWake s f).ports = s.ports ∧
    (hostWake s f).delivered = s.delivered ∧ (hostWake s f).lostChips = s.lostChips ∧
    (hostWake s f).lossDue = s.lossDue ∧ (hostWake s f).evHold = s.evHold ∧ (hostWake s f).conduits = s.conduits ∧
    (hostWake s f).xfers = s.xfers ∧ (hostWake s f).nextXid = s.nextXid ∧ (hostWake s f).rreg = s.rreg ∧
    (hostWake s f).plls = s.plls ∧ (hostWake s f).doms = s.doms ∧ (hostWake s f).flt = s.flt ∧
    (hostWake s f).lnt = s.lnt := by
  unfold hostWake; dsimp only; repeat' split
  all_goals simp

/-- A refused access. -/
@[simp] theorem countBad_frame (s : State) :
    (countBad s).pending = s.pending ∧ (countBad s).mem = s.mem ∧ (countBad s).lost = s.lost ∧
    (countBad s).poison = s.poison ∧ (countBad s).flaws = s.flaws ∧ (countBad s).regs = s.regs ∧
    (countBad s).freeCtr = s.freeCtr ∧ (countBad s).out = s.out ∧ (countBad s).fns = s.fns ∧
    (countBad s).vfEnable = s.vfEnable ∧ (countBad s).subsys = s.subsys ∧ (countBad s).rings = s.rings ∧
    (countBad s).fetches = s.fetches ∧ (countBad s).lastServed = s.lastServed ∧ (countBad s).prot = s.prot ∧
    (countBad s).streams = s.streams ∧ (countBad s).slots = s.slots ∧ (countBad s).insts = s.insts ∧
    (countBad s).events = s.events ∧ (countBad s).results = s.results ∧ (countBad s).snaps = s.snaps ∧
    (countBad s).feLine = s.feLine ∧ (countBad s).snapWait = s.snapWait ∧ (countBad s).jobs = s.jobs ∧
    (countBad s).nextJob = s.nextJob ∧ (countBad s).cores = s.cores ∧ (countBad s).msgs = s.msgs ∧
    (countBad s).bounces = s.bounces ∧ (countBad s).knots = s.knots ∧ (countBad s).knotOps = s.knotOps ∧
    (countBad s).knotWaits = s.knotWaits ∧ (countBad s).kfwd = s.kfwd ∧ (countBad s).kToken = s.kToken ∧
    (countBad s).subs = s.subs ∧ (countBad s).satCtrs = s.satCtrs ∧ (countBad s).engines = s.engines ∧
    (countBad s).memLogs = s.memLogs ∧ (countBad s).stackTemp = s.stackTemp ∧ (countBad s).stackHot = s.stackHot ∧
    (countBad s).ports = s.ports ∧ (countBad s).delivered = s.delivered ∧ (countBad s).lostChips = s.lostChips ∧
    (countBad s).lossDue = s.lossDue ∧ (countBad s).evHold = s.evHold ∧ (countBad s).conduits = s.conduits ∧
    (countBad s).xfers = s.xfers ∧ (countBad s).nextXid = s.nextXid ∧ (countBad s).rreg = s.rreg ∧
    (countBad s).link = s.link ∧ (countBad s).pwr = s.pwr ∧ (countBad s).plls = s.plls ∧ (countBad s).doms = s.doms ∧
    (countBad s).flt = s.flt ∧ (countBad s).lnt = s.lnt := by
  simp [countBad]

/-! ## Memory -/

/-- What every write of one byte keeps, and the marks of poison have no part in, a write through the ECC keeps. -/
theorem pokeEcc_keeps {P : State → Prop} {s : State} (k : Nat) (bs : Bytes) (hp : ∀ t q v, P t → P (poke1 t q v))
    (h : P (clearPoison s k bs.length)) : P (pokeEcc s k bs) := by
  have hpoke : ∀ (bs : Bytes) (t : State) (q : Nat), P t → P (poke t q bs) := by
    intro bs
    induction bs with
    | nil => intro t q ht; exact ht
    | cons b bs ih => intro t q ht; exact ih _ _ (hp _ _ _ ht)
  unfold pokeEcc
  dsimp only
  split
  · exact hpoke _ _ _ h
  · refine foldl_keeps (fun t e ht => ?_) _ _ h
    split
    · exact ht
    · exact hp _ _ _ ht
/-- A write of memory changes memory, its marks of poison and the errors in its words. -/
theorem pokeEcc_eq (s : State) (k : Nat) (bs : Bytes) :
    pokeEcc s k bs = { s with mem := (pokeEcc s k bs).mem, poison := (pokeEcc s k bs).poison, flaws := (pokeEcc s k bs).flaws } := by
  refine pokeEcc_keeps (P := fun t => t = { s with mem := t.mem, poison := t.poison, flaws := t.flaws }) k bs ?_ rfl
  intro t q v ht
  rw [poke1_eq]
  generalize (poke1 t q v).mem = m
  rw [ht]
/-- Where no DRAM is retired, the bytes are written as they are. -/
theorem pokeEcc_plain {s : State} (h : s.flt.dramRet.isEmpty = true) (k : Nat) (bs : Bytes) :
    pokeEcc s k bs = poke (clearPoison s k bs.length) k bs := by
  unfold pokeEcc; rw [if_pos h]
theorem wf_clearPoison (s : State) (k n : Nat) : Memory.wf (clearPoison s k n) = Memory.wf s := wf_of_mem rfl rfl
theorem wf_pokeEcc {s : State} (k : Nat) (bs : Bytes) (h : Memory.wf s = true) : Memory.wf (pokeEcc s k bs) = true :=
  pokeEcc_keeps (P := fun t => Memory.wf t = true) k bs (fun _ q v ht => wf_poke1 q v ht) (by rw [wf_clearPoison]; exact h)
@[simp] theorem pokeEcc_frame (s : State) (k : Nat) (bs : Bytes) :
    (pokeEcc s k bs).pending = s.pending ∧ (pokeEcc s k bs).lost = s.lost ∧ (pokeEcc s k bs).regs = s.regs ∧
    (pokeEcc s k bs).ctrs = s.ctrs ∧ (pokeEcc s k bs).freeCtr = s.freeCtr ∧ (pokeEcc s k bs).out = s.out ∧
    (pokeEcc s k bs).fns = s.fns ∧ (pokeEcc s k bs).vfEnable = s.vfEnable ∧ (pokeEcc s k bs).subsys = s.subsys ∧
    (pokeEcc s k bs).rings = s.rings ∧ (pokeEcc s k bs).fetches = s.fetches ∧
    (pokeEcc s k bs).lastServed = s.lastServed ∧ (pokeEcc s k bs).prot = s.prot ∧
    (pokeEcc s k bs).streams = s.streams ∧ (pokeEcc s k bs).slots = s.slots ∧ (pokeEcc s k bs).insts = s.insts ∧
    (pokeEcc s k bs).events = s.events ∧ (pokeEcc s k bs).results = s.results ∧ (pokeEcc s k bs).snaps = s.snaps ∧
    (pokeEcc s k bs).feLine = s.feLine ∧ (pokeEcc s k bs).snapWait = s.snapWait ∧ (pokeEcc s k bs).jobs = s.jobs ∧
    (pokeEcc s k bs).nextJob = s.nextJob ∧ (pokeEcc s k bs).cores = s.cores ∧ (pokeEcc s k bs).msgs = s.msgs ∧
    (pokeEcc s k bs).bounces = s.bounces ∧ (pokeEcc s k bs).knots = s.knots ∧ (pokeEcc s k bs).knotOps = s.knotOps ∧
    (pokeEcc s k bs).knotWaits = s.knotWaits ∧ (pokeEcc s k bs).kfwd = s.kfwd ∧ (pokeEcc s k bs).kToken = s.kToken ∧
    (pokeEcc s k bs).subs = s.subs ∧ (pokeEcc s k bs).satCtrs = s.satCtrs ∧ (pokeEcc s k bs).engines = s.engines ∧
    (pokeEcc s k bs).memLogs = s.memLogs ∧ (pokeEcc s k bs).stackTemp = s.stackTemp ∧
    (pokeEcc s k bs).stackHot = s.stackHot ∧ (pokeEcc s k bs).ports = s.ports ∧
    (pokeEcc s k bs).delivered = s.delivered ∧ (pokeEcc s k bs).lostChips = s.lostChips ∧
    (pokeEcc s k bs).lossDue = s.lossDue ∧ (pokeEcc s k bs).evHold = s.evHold ∧
    (pokeEcc s k bs).conduits = s.conduits ∧ (pokeEcc s k bs).xfers = s.xfers ∧
    (pokeEcc s k bs).nextXid = s.nextXid ∧ (pokeEcc s k bs).rreg = s.rreg ∧ (pokeEcc s k bs).link = s.link ∧
    (pokeEcc s k bs).pwr = s.pwr ∧ (pokeEcc s k bs).plls = s.plls ∧ (pokeEcc s k bs).doms = s.doms ∧
    (pokeEcc s k bs).flt = s.flt ∧ (pokeEcc s k bs).lnt = s.lnt := by
  rw [pokeEcc_eq]; simp

@[simp] theorem memWr_frame (s : State) (sp off : Nat) (bs : Bytes) :
    (memWr s sp off bs).pending = s.pending ∧ (memWr s sp off bs).lost = s.lost ∧ (memWr s sp off bs).regs = s.regs ∧
    (memWr s sp off bs).freeCtr = s.freeCtr ∧ (memWr s sp off bs).out = s.out ∧ (memWr s sp off bs).fns = s.fns ∧
    (memWr s sp off bs).vfEnable = s.vfEnable ∧ (memWr s sp off bs).subsys = s.subsys ∧
    (memWr s sp off bs).rings = s.rings ∧ (memWr s sp off bs).fetches = s.fetches ∧
    (memWr s sp off bs).lastServed = s.lastServed ∧ (memWr s sp off bs).prot = s.prot ∧
    (memWr s sp off bs).streams = s.streams ∧ (memWr s sp off bs).slots = s.slots ∧
    (memWr s sp off bs).insts = s.insts ∧ (memWr s sp off bs).events = s.events ∧
    (memWr s sp off bs).results = s.results ∧ (memWr s sp off bs).snaps = s.snaps ∧
    (memWr s sp off bs).feLine = s.feLine ∧ (memWr s sp off bs).snapWait = s.snapWait ∧
    (memWr s sp off bs).jobs = s.jobs ∧ (memWr s sp off bs).nextJob = s.nextJob ∧
    (memWr s sp off bs).cores = s.cores ∧ (memWr s sp off bs).msgs = s.msgs ∧
    (memWr s sp off bs).bounces = s.bounces ∧ (memWr s sp off bs).knots = s.knots ∧
    (memWr s sp off bs).knotOps = s.knotOps ∧ (memWr s sp off bs).knotWaits = s.knotWaits ∧
    (memWr s sp off bs).kfwd = s.kfwd ∧ (memWr s sp off bs).kToken = s.kToken ∧ (memWr s sp off bs).subs = s.subs ∧
    (memWr s sp off bs).satCtrs = s.satCtrs ∧ (memWr s sp off bs).engines = s.engines ∧
    (memWr s sp off bs).memLogs = s.memLogs ∧ (memWr s sp off bs).stackTemp = s.stackTemp ∧
    (memWr s sp off bs).stackHot = s.stackHot ∧ (memWr s sp off bs).ports = s.ports ∧
    (memWr s sp off bs).delivered = s.delivered ∧ (memWr s sp off bs).lostChips = s.lostChips ∧
    (memWr s sp off bs).lossDue = s.lossDue ∧ (memWr s sp off bs).evHold = s.evHold ∧
    (memWr s sp off bs).conduits = s.conduits ∧ (memWr s sp off bs).xfers = s.xfers ∧
    (memWr s sp off bs).nextXid = s.nextXid ∧ (memWr s sp off bs).rreg = s.rreg ∧ (memWr s sp off bs).link = s.link ∧
    (memWr s sp off bs).pwr = s.pwr ∧ (memWr s sp off bs).plls = s.plls ∧ (memWr s sp off bs).doms = s.doms ∧
    (memWr s sp off bs).lnt = s.lnt := by
  simp [memWr]

@[simp] theorem memRd_fst (s : State) (sp off n : Nat) : (memRd s sp off n).1 = peek s (mkey sp off) n := rfl
@[simp] theorem memWr_mem (s : State) (sp off : Nat) (bs : Bytes) : (memWr s sp off bs).mem = (pokeEcc s (mkey sp off) bs).mem := by
  simp [memWr]
theorem memWr_lost (s : State) (sp off : Nat) (bs : Bytes) : (memWr s sp off bs).lost = (pokeEcc s (mkey sp off) bs).lost := by
  simp [memWr]
/-- What is written reads back, where no DRAM is retired. -/
theorem peek_memWr {s : State} (sp off : Nat) (bs : Bytes) (h : Memory.wf s = true) (hr : s.flt.dramRet.isEmpty = true) :
    peek (memWr s sp off bs) (mkey sp off) bs.length = bs := by
  have e : peek (memWr s sp off bs) (mkey sp off) bs.length =
      peek (poke (clearPoison s (mkey sp off) bs.length) (mkey sp off) bs) (mkey sp off) bs.length := by
    apply peek_of_mem
    · rw [memWr_mem, pokeEcc_plain hr]
    · rw [memWr_lost, pokeEcc_plain hr]
  rw [e]
  exact peek_poke _ _ (by rw [wf_clearPoison]; exact h)
theorem peek1_memWr_out {s : State} {sp off q : Nat} {bs : Bytes} (h : Memory.wf s = true) (hr : s.flt.dramRet.isEmpty = true)
    (hq : q < mkey sp off ∨ mkey sp off + bs.length ≤ q) : peek1 (memWr s sp off bs) q = peek1 s q := by
  have e : peek1 (memWr s sp off bs) q = peek1 (poke (clearPoison s (mkey sp off) bs.length) (mkey sp off) bs) q := by
    apply peek1_of_mem
    · rw [memWr_mem, pokeEcc_plain hr]
    · rw [memWr_lost, pokeEcc_plain hr]
  rw [e, peek1_poke_out (by rw [wf_clearPoison]; exact h) hq]
  exact peek1_of_mem rfl rfl q
theorem wf_memWr {s : State} (sp off : Nat) (bs : Bytes) (h : Memory.wf s = true) : Memory.wf (memWr s sp off bs) = true := by
  rw [wf_of_mem (s := pokeEcc s (mkey sp off) bs) (memWr_mem _ _ _ _) (memWr_lost _ _ _ _)]
  exact wf_pokeEcc _ _ h

/-! ## The log (R403, R404) -/

/-- A record that finds room is stored at the head, which advances. -/
theorem logPut_room {s : State} (w : BitVec 256) (h : (s.flt.head - s.flt.tail).toNat ≠ 511) :
    logPut s w = { s with flt := { s.flt with log := smSet 0 s.flt.log s.flt.head.toNat w, head := s.flt.head + 1, rseq := s.flt.rseq + 1 } } := by
  unfold logPut; rw [if_neg h]
/-- A record that finds 511 unread entries is discarded and counted. -/
theorem logPut_full {s : State} (w : BitVec 256) (h : (s.flt.head - s.flt.tail).toNat = 511) :
    logPut s w = c32 { s with flt := { s.flt with logOvf := true, rseq := s.flt.rseq + 1 } } 0x9004C 1 := by
  unfold logPut; rw [if_pos h]
/-- Whatever its class and signals, a record's entry is that of `logPut`. -/
theorem logRec_flt (s : State) (code k : Nat) (i : LogInfo) :
    (logRec s code k i).flt = (logPut s (logWords s.flt.rseq.toNat code k i)).flt := by
  simp only [logRec, logSignals_frame]
  unfold logPut
  simp only [classCtr_frame]
  split <;> simp

/-! ## Descriptors -/

/-- An answer that matches no descriptor in flight is dropped and counted (R78). -/
theorem finish_none {s : State} {q : DescRef} (k : Compl) (h : findDesc s q = none) : finish s q k = dropStale s q.pair.toNat := by
  unfold finish; rw [h]
/-- A descriptor in flight gets its completion, and its function counts the status. -/
theorem finish_eq {s : State} {q : DescRef} {d : Desc} (k : Compl) (h : findDesc s q = some d) :
    finish s q k = countStatus (modDesc s q (fun d => { d with started := true, done := some k })) d.fn.toNat k.status.toNat := by
  unfold finish; rw [h]
/-- A status of success counts nothing. -/
theorem countStatus_other {st : Nat} (s : State) (fn : Nat) (h1 : st ≠ stCheckFail) (h2 : st ≠ stBad) (h3 : st ≠ stProtection)
    (h4 : st ≠ stStale) : countStatus s fn st = s := by
  unfold countStatus; simp [h1, h2, h3, h4]

/-! ## Vectors (R102) -/

/-- A vector that is enabled and not masked is sent. -/
theorem sendVec_sent {s : State} {f v : Nat} (ht : v < tableSize s f) (he : (getFn s f).msixEn = true)
    (hm : (getFn s f).fmask = false) (hv : (smGet {} (getFn s f).vecs v).masked = false) :
    sendVec s f v = emit s (.msix (BitVec.ofNat 6 f) (BitVec.ofNat 11 v)) := by
  unfold sendVec; rw [if_neg (by omega)]; dsimp only; rw [he, hm, hv]; rfl
/-- A number outside the table sends nothing. -/
theorem sendVec_outside {s : State} {f v : Nat} (h : tableSize s f ≤ v) : sendVec s f v = s := by
  unfold sendVec; rw [if_pos h]

/-! ## Messages of the passage -/

/-- A message for a lost chip is discarded and counted (R390). -/
theorem psgSend_lost {s : State} {dest : Nat} (h : chipLost s dest = true) (k t w : Nat) (b : Bytes) :
    psgSend s k t dest w b = c32 (needRoute s dest) 0x60068 1 := by
  unfold psgSend; rw [if_pos h]
/-- A message whose port is down leaves its buffer, is discarded and counted. -/
theorem forward_down {s : State} {m : PMsg} (h : (getPort s (m.route.toNat % 4)).up = false) : forward s m = c32 (leaveBuffer s m) 0x60068 1 := by
  unfold forward; simp [h]

end Sys2Proof.Machine
end

