-- ==== Sys2Proof/Laws/PerInstr.lean ====
section
/-! SUPPORT. Laws/PerInstr.lean: what is said of every command's syntax, constructor by constructor: the bundle that holds
an instruction of the Bobbin set alone has FORM 0 or 1 and fits the 8 bytes of a bundle (R167). -/

/-- The bundle of an instruction, where it has one, is a 64-bit word whose FORM is 0 or 1. -/
def Sys2Proof.Laws.BundleFits.Statement (i : Sys2Proof.Instr) : Prop :=
  ∀ (c : BitVec 8) (w : Nat), Sys2Proof.Machine.bundleOf i = some (c, w) → w < 2 ^ 63

namespace Sys2Proof.Laws.BundleFits

open Sys2Proof Sys2Proof.Machine

theorem fits_of_some {a b : BitVec 8} {v w : Nat} (h : v < 2 ^ 63) (e : some (a, v) = some (b, w)) : w < 2 ^ 63 := by
  cases e; exact h
theorem b2n_le (b : Bool) : b2n b ≤ 1 := by cases b <;> decide

theorem doorbell (fn : FnId) (page : BitVec 10) (off : BitVec 12) (len : Nat) (w : U64) : Statement (.doorbell fn page off len w) := by intro _ _ h; cases h
theorem descriptorFetch (n : Nat) : Statement (.descriptorFetch n) := by intro _ _ h; cases h
theorem nop (pair : PairId) (idx : U16) : Statement (.nop pair idx) := by intro _ _ h; cases h
theorem knotSignal (pair : PairId) (idx : U16) : Statement (.knotSignal pair idx) := by intro _ _ h; cases h
theorem knotWait (pair : PairId) (idx : U16) : Statement (.knotWait pair idx) := by intro _ _ h; cases h
theorem streamOpen (pair : PairId) (idx : U16) : Statement (.streamOpen pair idx) := by intro _ _ h; cases h
theorem streamClose (pair : PairId) (idx : U16) : Statement (.streamClose pair idx) := by intro _ _ h; cases h
theorem streamStatus (pair : PairId) (idx : U16) : Statement (.streamStatus pair idx) := by intro _ _ h; cases h
theorem ingest (pair : PairId) (idx : U16) : Statement (.ingest pair idx) := by intro _ _ h; cases h
theorem ingestStepRead (st : StreamId) : Statement (.ingestStepRead st) := by intro _ _ h; cases h
theorem slotLoad (pair : PairId) (idx : U16) : Statement (.slotLoad pair idx) := by intro _ _ h; cases h
theorem slotLoadComplete (slot : SlotId) : Statement (.slotLoadComplete slot) := by intro _ _ h; cases h
theorem versionRetire (slot : SlotId) : Statement (.versionRetire slot) := by intro _ _ h; cases h
theorem jobRun (pair : PairId) (idx : U16) : Statement (.jobRun pair idx) := by intro _ _ h; cases h
theorem trainStep (pair : PairId) (idx : U16) : Statement (.trainStep pair idx) := by intro _ _ h; cases h
theorem dmaCopy (pair : PairId) (idx : U16) : Statement (.dmaCopy pair idx) := by intro _ _ h; cases h
theorem pack (pair : PairId) (idx : U16) : Statement (.pack pair idx) := by intro _ _ h; cases h
theorem unpack (pair : PairId) (idx : U16) : Statement (.unpack pair idx) := by intro _ _ h; cases h
theorem completionWrite (pair : PairId) : Statement (.completionWrite pair) := by intro _ _ h; cases h
theorem reportWrite (st : StreamId) : Statement (.reportWrite st) := by intro _ _ h; cases h
theorem notifyWrite (st : StreamId) : Statement (.notifyWrite st) := by intro _ _ h; cases h
theorem holdoffExpiry (pair : PairId) (nq : Bool) : Statement (.holdoffExpiry pair nq) := by intro _ _ h; cases h
theorem msixUnmask (fn : FnId) (vec : BitVec 11) : Statement (.msixUnmask fn vec) := by intro _ _ h; cases h
theorem ringEnable (fn : FnId) (prio : BitVec 2) : Statement (.ringEnable fn prio) := by intro _ _ h; cases h
theorem ringDisable (fn : FnId) (prio : BitVec 2) : Statement (.ringDisable fn prio) := by intro _ _ h; cases h
theorem ringAbort (fn : FnId) (prio : BitVec 2) (en : Bool) : Statement (.ringAbort fn prio en) := by intro _ _ h; cases h
theorem ringDrained (pair : PairId) : Statement (.ringDrained pair) := by intro _ _ h; cases h
theorem protStage : Statement (.protStage) := by intro _ _ h; cases h
theorem protCommit : Statement (.protCommit) := by intro _ _ h; cases h
theorem protDiscard : Statement (.protDiscard) := by intro _ _ h; cases h
theorem protCommitDone : Statement (.protCommitDone) := by intro _ _ h; cases h
theorem flr (fn : FnId) : Statement (.flr fn) := by intro _ _ h; cases h
theorem cscClear : Statement (.cscClear) := by intro _ _ h; cases h
theorem clrStreams : Statement (.clrStreams) := by intro _ _ h; cases h
theorem fnClear (fn : FnId) : Statement (.fnClear fn) := by intro _ _ h; cases h
theorem badBar0Access (fn : FnId) (off : BitVec 20) (size : Nat) (write : Bool) : Statement (.badBar0Access fn off size write) := by intro _ _ h; cases h
theorem registerWrite (fn : FnId) (msix : Bool) (off : BitVec 20) (w : U32) : Statement (.registerWrite fn msix off w) := by intro _ _ h; cases h
theorem frontendRun (st : StreamId) : Statement (.frontendRun st) := by intro _ _ h; cases h
theorem convert (st : StreamId) : Statement (.convert st) := by intro _ _ h; cases h
theorem eventArrive (k : Nat) : Statement (.eventArrive k) := by intro _ _ h; cases h
theorem stepClose (st : StreamId) : Statement (.stepClose st) := by intro _ _ h; cases h
theorem onResult (k : Nat) : Statement (.onResult k) := by intro _ _ h; cases h
theorem deferredResume (st : StreamId) : Statement (.deferredResume st) := by intro _ _ h; cases h
theorem snapshotResume : Statement (.snapshotResume) := by intro _ _ h; cases h
theorem closeComplete (st : StreamId) : Statement (.closeComplete st) := by intro _ _ h; cases h
theorem picRangeWrite (b : Bool) (w : U32) : Statement (.picRangeWrite b w) := by intro _ _ h; cases h
theorem picBridgeWrite (w : U32) : Statement (.picBridgeWrite w) := by intro _ _ h; cases h
theorem picClear : Statement (.picClear) := by intro _ _ h; cases h
theorem bundleIssue (c : BitVec 8) : Statement (.bundleIssue c) := by intro _ _ h; cases h
theorem iAdd (c : BitVec 8) (d : BitVec 5) (a : BitVec 5) (b : BitVec 5) : Statement (.iAdd c d a b) := by intro _ _ h; have := d.isLt; have := a.isLt; have := b.isLt; exact fits_of_some (by unfold sRR; omega) h
theorem iSub (c : BitVec 8) (d : BitVec 5) (a : BitVec 5) (b : BitVec 5) : Statement (.iSub c d a b) := by intro _ _ h; have := d.isLt; have := a.isLt; have := b.isLt; exact fits_of_some (by unfold sRR; omega) h
theorem iAnd (c : BitVec 8) (d : BitVec 5) (a : BitVec 5) (b : BitVec 5) : Statement (.iAnd c d a b) := by intro _ _ h; have := d.isLt; have := a.isLt; have := b.isLt; exact fits_of_some (by unfold sRR; omega) h
theorem iOr (c : BitVec 8) (d : BitVec 5) (a : BitVec 5) (b : BitVec 5) : Statement (.iOr c d a b) := by intro _ _ h; have := d.isLt; have := a.isLt; have := b.isLt; exact fits_of_some (by unfold sRR; omega) h
theorem iXor (c : BitVec 8) (d : BitVec 5) (a : BitVec 5) (b : BitVec 5) : Statement (.iXor c d a b) := by intro _ _ h; have := d.isLt; have := a.isLt; have := b.isLt; exact fits_of_some (by unfold sRR; omega) h
theorem iShl (c : BitVec 8) (d : BitVec 5) (a : BitVec 5) (b : BitVec 5) : Statement (.iShl c d a b) := by intro _ _ h; have := d.isLt; have := a.isLt; have := b.isLt; exact fits_of_some (by unfold sRR; omega) h
theorem iShr (c : BitVec 8) (d : BitVec 5) (a : BitVec 5) (b : BitVec 5) : Statement (.iShr c d a b) := by intro _ _ h; have := d.isLt; have := a.isLt; have := b.isLt; exact fits_of_some (by unfold sRR; omega) h
theorem iSra (c : BitVec 8) (d : BitVec 5) (a : BitVec 5) (b : BitVec 5) : Statement (.iSra c d a b) := by intro _ _ h; have := d.isLt; have := a.isLt; have := b.isLt; exact fits_of_some (by unfold sRR; omega) h
theorem iSlt (c : BitVec 8) (d : BitVec 5) (a : BitVec 5) (b : BitVec 5) : Statement (.iSlt c d a b) := by intro _ _ h; have := d.isLt; have := a.isLt; have := b.isLt; exact fits_of_some (by unfold sRR; omega) h
theorem iSltu (c : BitVec 8) (d : BitVec 5) (a : BitVec 5) (b : BitVec 5) : Statement (.iSltu c d a b) := by intro _ _ h; have := d.isLt; have := a.isLt; have := b.isLt; exact fits_of_some (by unfold sRR; omega) h
theorem iMin (c : BitVec 8) (d : BitVec 5) (a : BitVec 5) (b : BitVec 5) : Statement (.iMin c d a b) := by intro _ _ h; have := d.isLt; have := a.isLt; have := b.isLt; exact fits_of_some (by unfold sRR; omega) h
theorem iMax (c : BitVec 8) (d : BitVec 5) (a : BitVec 5) (b : BitVec 5) : Statement (.iMax c d a b) := by intro _ _ h; have := d.isLt; have := a.isLt; have := b.isLt; exact fits_of_some (by unfold sRR; omega) h
theorem iMul (c : BitVec 8) (d : BitVec 5) (a : BitVec 5) (b : BitVec 5) : Statement (.iMul c d a b) := by intro _ _ h; have := d.isLt; have := a.isLt; have := b.isLt; exact fits_of_some (by unfold sRR; omega) h
theorem iMulh (c : BitVec 8) (d : BitVec 5) (a : BitVec 5) (b : BitVec 5) : Statement (.iMulh c d a b) := by intro _ _ h; have := d.isLt; have := a.isLt; have := b.isLt; exact fits_of_some (by unfold sRR; omega) h
theorem iAddi (c : BitVec 8) (d : BitVec 5) (a : BitVec 5) (im : BitVec 6) : Statement (.iAddi c d a im) := by intro _ _ h; have := d.isLt; have := a.isLt; have := im.isLt; exact fits_of_some (by unfold sRI; omega) h
theorem iShli (c : BitVec 8) (d : BitVec 5) (a : BitVec 5) (im : BitVec 6) : Statement (.iShli c d a im) := by
  intro _ _ h; simp only [bundleOf] at h; split at h
  · have := d.isLt; have := a.isLt; have := im.isLt; exact fits_of_some (by unfold sRI; omega) h
  · cases h
theorem iShri (c : BitVec 8) (d : BitVec 5) (a : BitVec 5) (im : BitVec 6) : Statement (.iShri c d a im) := by
  intro _ _ h; simp only [bundleOf] at h; split at h
  · have := d.isLt; have := a.isLt; have := im.isLt; exact fits_of_some (by unfold sRI; omega) h
  · cases h
theorem iSrai (c : BitVec 8) (d : BitVec 5) (a : BitVec 5) (im : BitVec 6) : Statement (.iSrai c d a im) := by
  intro _ _ h; simp only [bundleOf] at h; split at h
  · have := d.isLt; have := a.isLt; have := im.isLt; exact fits_of_some (by unfold sRI; omega) h
  · cases h
theorem iMovi (c : BitVec 8) (d : BitVec 5) (im : BitVec 11) : Statement (.iMovi c d im) := by intro _ _ h; have := d.isLt; have := im.isLt; exact fits_of_some (by unfold sI; omega) h
theorem iLi (c : BitVec 8) (d : BitVec 5) (im : U32) : Statement (.iLi c d im) := by intro _ _ h; have := d.isLt; have := im.isLt; exact fits_of_some (by unfold sI; omega) h
theorem iLw (c : BitVec 8) (d : BitVec 5) (a : BitVec 5) (im : BitVec 6) : Statement (.iLw c d a im) := by intro _ _ h; have := d.isLt; have := a.isLt; have := im.isLt; exact fits_of_some (by unfold sRI; omega) h
theorem iSw (c : BitVec 8) (d : BitVec 5) (a : BitVec 5) (im : BitVec 6) : Statement (.iSw c d a im) := by intro _ _ h; have := d.isLt; have := a.isLt; have := im.isLt; exact fits_of_some (by unfold sRI; omega) h
theorem iLwp (c : BitVec 8) (d : BitVec 5) (a : BitVec 5) (im : BitVec 6) : Statement (.iLwp c d a im) := by intro _ _ h; have := d.isLt; have := a.isLt; have := im.isLt; exact fits_of_some (by unfold sRI; omega) h
theorem iSwp (c : BitVec 8) (d : BitVec 5) (a : BitVec 5) (im : BitVec 6) : Statement (.iSwp c d a im) := by intro _ _ h; have := d.isLt; have := a.isLt; have := im.isLt; exact fits_of_some (by unfold sRI; omega) h
theorem iVld (c : BitVec 8) (d : BitVec 4) (a : BitVec 5) (im : BitVec 6) : Statement (.iVld c d a im) := by intro _ _ h; have := d.isLt; have := a.isLt; have := im.isLt; exact fits_of_some (by unfold sRI; omega) h
theorem iVst (c : BitVec 8) (d : BitVec 4) (a : BitVec 5) (im : BitVec 6) : Statement (.iVst c d a im) := by intro _ _ h; have := d.isLt; have := a.isLt; have := im.isLt; exact fits_of_some (by unfold sRI; omega) h
theorem iVldp (c : BitVec 8) (d : BitVec 4) (a : BitVec 5) (im : BitVec 6) : Statement (.iVldp c d a im) := by intro _ _ h; have := d.isLt; have := a.isLt; have := im.isLt; exact fits_of_some (by unfold sRI; omega) h
theorem iVstp (c : BitVec 8) (d : BitVec 4) (a : BitVec 5) (im : BitVec 6) : Statement (.iVstp c d a im) := by intro _ _ h; have := d.isLt; have := a.isLt; have := im.isLt; exact fits_of_some (by unfold sRI; omega) h
theorem iVsplat (c : BitVec 8) (d : BitVec 4) (a : BitVec 5) (t : BitVec 2) : Statement (.iVsplat c d a t) := by intro _ _ h; have := d.isLt; have := a.isLt; have := t.isLt; exact fits_of_some (by unfold sRI; omega) h
theorem iVext (c : BitVec 8) (d : BitVec 5) (a : BitVec 4) (l : BitVec 4) : Statement (.iVext c d a l) := by intro _ _ h; have := d.isLt; have := a.isLt; have := l.isLt; exact fits_of_some (by unfold sRI; omega) h
theorem iBeqz (c : BitVec 8) (a : BitVec 5) (off : BitVec 11) : Statement (.iBeqz c a off) := by intro _ _ h; have := a.isLt; have := off.isLt; exact fits_of_some (by unfold sI; omega) h
theorem iBnez (c : BitVec 8) (a : BitVec 5) (off : BitVec 11) : Statement (.iBnez c a off) := by intro _ _ h; have := a.isLt; have := off.isLt; exact fits_of_some (by unfold sI; omega) h
theorem iBltz (c : BitVec 8) (a : BitVec 5) (off : BitVec 11) : Statement (.iBltz c a off) := by intro _ _ h; have := a.isLt; have := off.isLt; exact fits_of_some (by unfold sI; omega) h
theorem iBgez (c : BitVec 8) (a : BitVec 5) (off : BitVec 11) : Statement (.iBgez c a off) := by intro _ _ h; have := a.isLt; have := off.isLt; exact fits_of_some (by unfold sI; omega) h
theorem iJmp (c : BitVec 8) (off : BitVec 11) : Statement (.iJmp c off) := by intro _ _ h; have := off.isLt; exact fits_of_some (by unfold sI; omega) h
theorem iCall (c : BitVec 8) (off : BitVec 11) : Statement (.iCall c off) := by intro _ _ h; have := off.isLt; exact fits_of_some (by unfold sI; omega) h
theorem iJr (c : BitVec 8) (a : BitVec 5) : Statement (.iJr c a) := by intro _ _ h; have := a.isLt; exact fits_of_some (by unfold sRI; omega) h
theorem iLoop (c : BitVec 8) (a : BitVec 5) (im : BitVec 6) : Statement (.iLoop c a im) := by
  intro _ _ h; simp only [bundleOf] at h; split at h
  · cases h
  · have := a.isLt; have := im.isLt; exact fits_of_some (by unfold sRI; omega) h
theorem iCsrr (c : BitVec 8) (d : BitVec 5) (im : BitVec 11) : Statement (.iCsrr c d im) := by intro _ _ h; have := d.isLt; have := im.isLt; exact fits_of_some (by unfold sI; omega) h
theorem iCsrw (c : BitVec 8) (d : BitVec 5) (im : BitVec 11) : Statement (.iCsrw c d im) := by intro _ _ h; have := d.isLt; have := im.isLt; exact fits_of_some (by unfold sI; omega) h
theorem iSync (c : BitVec 8) : Statement (.iSync c) := by intro _ _ h; exact fits_of_some (by unfold sI; omega) h
theorem iEnd (c : BitVec 8) : Statement (.iEnd c) := by intro _ _ h; exact fits_of_some (by unfold sI; omega) h
theorem iMop (c : BitVec 8) (tile : BitVec 3) (a : BitVec 4) (b : BitVec 4) (m : BitVec 4) : Statement (.iMop c tile a b m) := by intro _ _ h; have := tile.isLt; have := a.isLt; have := b.isLt; have := m.isLt; exact fits_of_some (by unfold mWord; omega) h
theorem iMzero (c : BitVec 8) (tile : BitVec 3) : Statement (.iMzero c tile) := by intro _ _ h; have := tile.isLt; exact fits_of_some (by unfold mWord; omega) h
theorem iMrd (c : BitVec 8) (d : BitVec 4) (tile : BitVec 3) (row : BitVec 5) (half : Bool) : Statement (.iMrd c d tile row half) := by intro _ _ h; have := d.isLt; have := tile.isLt; have := row.isLt; have := b2n_le half; exact fits_of_some (by unfold mWord; omega) h
theorem iMwr (c : BitVec 8) (tile : BitVec 3) (a : BitVec 4) (row : BitVec 5) (half : Bool) : Statement (.iMwr c tile a row half) := by intro _ _ h; have := tile.isLt; have := a.isLt; have := row.isLt; have := b2n_le half; exact fits_of_some (by unfold mWord; omega) h
theorem iVadd (c : BitVec 8) (d : BitVec 4) (a : BitVec 4) (b : BitVec 4) (t : BitVec 2) : Statement (.iVadd c d a b t) := by intro _ _ h; have := d.isLt; have := a.isLt; have := b.isLt; have := t.isLt; exact fits_of_some (by unfold mWord; omega) h
theorem iVsub (c : BitVec 8) (d : BitVec 4) (a : BitVec 4) (b : BitVec 4) (t : BitVec 2) : Statement (.iVsub c d a b t) := by intro _ _ h; have := d.isLt; have := a.isLt; have := b.isLt; have := t.isLt; exact fits_of_some (by unfold mWord; omega) h
theorem iVmul (c : BitVec 8) (d : BitVec 4) (a : BitVec 4) (b : BitVec 4) (t : BitVec 2) : Statement (.iVmul c d a b t) := by intro _ _ h; have := d.isLt; have := a.isLt; have := b.isLt; have := t.isLt; exact fits_of_some (by unfold mWord; omega) h
theorem iVfma (c : BitVec 8) (d : BitVec 4) (a : BitVec 4) (b : BitVec 4) : Statement (.iVfma c d a b) := by intro _ _ h; have := d.isLt; have := a.isLt; have := b.isLt; exact fits_of_some (by unfold mWord; omega) h
theorem iVmin (c : BitVec 8) (d : BitVec 4) (a : BitVec 4) (b : BitVec 4) (t : BitVec 2) : Statement (.iVmin c d a b t) := by intro _ _ h; have := d.isLt; have := a.isLt; have := b.isLt; have := t.isLt; exact fits_of_some (by unfold mWord; omega) h
theorem iVmax (c : BitVec 8) (d : BitVec 4) (a : BitVec 4) (b : BitVec 4) (t : BitVec 2) : Statement (.iVmax c d a b t) := by intro _ _ h; have := d.isLt; have := a.isLt; have := b.isLt; have := t.isLt; exact fits_of_some (by unfold mWord; omega) h
theorem iVand (c : BitVec 8) (d : BitVec 4) (a : BitVec 4) (b : BitVec 4) : Statement (.iVand c d a b) := by intro _ _ h; have := d.isLt; have := a.isLt; have := b.isLt; exact fits_of_some (by unfold mWord; omega) h
theorem iVor (c : BitVec 8) (d : BitVec 4) (a : BitVec 4) (b : BitVec 4) : Statement (.iVor c d a b) := by intro _ _ h; have := d.isLt; have := a.isLt; have := b.isLt; exact fits_of_some (by unfold mWord; omega) h
theorem iVxor (c : BitVec 8) (d : BitVec 4) (a : BitVec 4) (b : BitVec 4) : Statement (.iVxor c d a b) := by intro _ _ h; have := d.isLt; have := a.isLt; have := b.isLt; exact fits_of_some (by unfold mWord; omega) h
theorem iVshr (c : BitVec 8) (d : BitVec 4) (a : BitVec 4) (b : BitVec 4) (t : BitVec 2) : Statement (.iVshr c d a b t) := by intro _ _ h; have := d.isLt; have := a.isLt; have := b.isLt; have := t.isLt; exact fits_of_some (by unfold mWord; omega) h
theorem iVcvt (c : BitVec 8) (d : BitVec 4) (a : BitVec 4) (dst : BitVec 4) (src : BitVec 4) : Statement (.iVcvt c d a dst src) := by
  intro _ _ h; simp only [bundleOf] at h; split at h
  · cases h
  · have := d.isLt; have := a.isLt; have := dst.isLt; have := src.isLt; exact fits_of_some (by unfold mWord; omega) h
theorem iVperm (c : BitVec 8) (d : BitVec 4) (a : BitVec 4) (b : BitVec 4) : Statement (.iVperm c d a b) := by intro _ _ h; have := d.isLt; have := a.isLt; have := b.isLt; exact fits_of_some (by unfold mWord; omega) h
theorem iVsum (c : BitVec 8) (d : BitVec 4) (a : BitVec 4) (fp : Bool) : Statement (.iVsum c d a fp) := by intro _ _ h; have := d.isLt; have := a.isLt; have := b2n_le fp; exact fits_of_some (by unfold mWord; omega) h
theorem iVfn (c : BitVec 8) (d : BitVec 4) (a : BitVec 4) (fn : BitVec 2) : Statement (.iVfn c d a fn) := by intro _ _ h; have := d.isLt; have := a.isLt; have := fn.isLt; exact fits_of_some (by unfold mWord; omega) h
theorem iVcmp (c : BitVec 8) (d : BitVec 4) (a : BitVec 4) (b : BitVec 4) (t : BitVec 2) (op : BitVec 2) : Statement (.iVcmp c d a b t op) := by
  intro _ _ h; simp only [bundleOf] at h; split at h
  · cases h
  · have := d.isLt; have := a.isLt; have := b.isLt; have := t.isLt; have := op.isLt; exact fits_of_some (by unfold mWord; omega) h
theorem iPtb (c : BitVec 8) (buf : Bool) (a : BitVec 4) (kind : BitVec 4) (m : BitVec 2) : Statement (.iPtb c buf a kind m) := by
  intro _ _ h; simp only [bundleOf] at h; split at h
  · cases h
  · have := b2n_le buf; have := a.isLt; have := kind.isLt; have := m.isLt; exact fits_of_some (by unfold mWord; omega) h
theorem iPta (c : BitVec 8) (tile : BitVec 3) (a : BitVec 4) (m : BitVec 2) : Statement (.iPta c tile a m) := by intro _ _ h; have := tile.isLt; have := a.isLt; have := m.isLt; exact fits_of_some (by unfold mWord; omega) h
theorem iCbld (c : BitVec 8) (cb : BitVec 2) (a : BitVec 4) : Statement (.iCbld c cb a) := by intro _ _ h; have := cb.isLt; have := a.isLt; exact fits_of_some (by unfold mWord; omega) h
theorem iDma (c : BitVec 8) (a : BitVec 5) (ch : BitVec 2) : Statement (.iDma c a ch) := by intro _ _ h; have := a.isLt; have := ch.isLt; exact fits_of_some (by unfold xWord; omega) h
theorem iDmaw (c : BitVec 8) (ch : BitVec 2) : Statement (.iDmaw c ch) := by intro _ _ h; have := ch.isLt; exact fits_of_some (by unfold xWord; omega) h
theorem iSend (c : BitVec 8) (a : BitVec 5) (b : BitVec 5) : Statement (.iSend c a b) := by intro _ _ h; have := a.isLt; have := b.isLt; exact fits_of_some (by unfold xWord; omega) h
theorem iRecv (c : BitVec 8) (a : BitVec 5) : Statement (.iRecv c a) := by intro _ _ h; have := a.isLt; exact fits_of_some (by unfold xWord; omega) h
theorem iRpop (c : BitVec 8) : Statement (.iRpop c) := by intro _ _ h; exact fits_of_some (by unfold xWord; omega) h
theorem iKsig (c : BitVec 8) (a : BitVec 5) (b : BitVec 5) : Statement (.iKsig c a b) := by intro _ _ h; have := a.isLt; have := b.isLt; exact fits_of_some (by unfold xWord; omega) h
theorem iKwait (c : BitVec 8) (a : BitVec 5) (b : BitVec 5) : Statement (.iKwait c a b) := by intro _ _ h; have := a.isLt; have := b.isLt; exact fits_of_some (by unfold xWord; omega) h
theorem iEpeek (c : BitVec 8) (a : BitVec 5) : Statement (.iEpeek c a) := by intro _ _ h; have := a.isLt; exact fits_of_some (by unfold xWord; omega) h
theorem iEpop (c : BitVec 8) : Statement (.iEpop c) := by intro _ _ h; exact fits_of_some (by unfold xWord; omega) h
theorem dmaRunCopy (c : BitVec 8) (ch : BitVec 2) : Statement (.dmaRunCopy c ch) := by intro _ _ h; cases h
theorem dmaRunExpand (c : BitVec 8) (ch : BitVec 2) : Statement (.dmaRunExpand c ch) := by intro _ _ h; cases h
theorem dmaRunTern (c : BitVec 8) (ch : BitVec 2) : Statement (.dmaRunTern c ch) := by intro _ _ h; cases h
theorem dmaDone (c : BitVec 8) (ch : BitVec 2) : Statement (.dmaDone c ch) := by intro _ _ h; cases h
theorem messageReceive (k : Nat) : Statement (.messageReceive k) := by intro _ _ h; cases h
theorem bounceReturn (k : Nat) : Statement (.bounceReturn k) := by intro _ _ h; cases h
theorem partitionTakeJob (slot : SlotId) (inB : Bool) : Statement (.partitionTakeJob slot inB) := by intro _ _ h; cases h
theorem jobEnd (slot : SlotId) (inB : Bool) : Statement (.jobEnd slot inB) := by intro _ _ h; cases h
theorem knotAdd (k : Nat) : Statement (.knotAdd k) := by intro _ _ h; cases h
theorem knotReset (k : Nat) : Statement (.knotReset k) := by intro _ _ h; cases h
theorem knotWaitArrive (k : Nat) : Statement (.knotWaitArrive k) := by intro _ _ h; cases h
theorem knotCmdReset : Statement (.knotCmdReset) := by intro _ _ h; cases h
theorem knotBind : Statement (.knotBind) := by intro _ _ h; cases h
theorem knotUnbind : Statement (.knotUnbind) := by intro _ _ h; cases h
theorem engineGrant (e : BitVec 4) : Statement (.engineGrant e) := by intro _ _ h; cases h
theorem layerConv (j : Nat) : Statement (.layerConv j) := by intro _ _ h; cases h
theorem layerGconv (j : Nat) : Statement (.layerGconv j) := by intro _ _ h; cases h
theorem layerMatmul (j : Nat) : Statement (.layerMatmul j) := by intro _ _ h; cases h
theorem layerAdd (j : Nat) : Statement (.layerAdd j) := by intro _ _ h; cases h
theorem layerPool (j : Nat) : Statement (.layerPool j) := by intro _ _ h; cases h
theorem layerResult (j : Nat) : Statement (.layerResult j) := by intro _ _ h; cases h
theorem edgLayerPiece (j : Nat) (e : BitVec 2) : Statement (.edgLayerPiece j e) := by intro _ _ h; cases h
theorem tier2JobEnd (j : Nat) : Statement (.tier2JobEnd j) := by intro _ _ h; cases h
theorem satCfgWrite (thresh : Bool) (w : U32) : Statement (.satCfgWrite thresh w) := by intro _ _ h; cases h
theorem satClr : Statement (.satClr) := by intro _ _ h; cases h
theorem satClrAll : Statement (.satClrAll) := by intro _ _ h; cases h
theorem bobClear : Statement (.bobClear) := by intro _ _ h; cases h
theorem bobMsgClear : Statement (.bobMsgClear) := by intro _ _ h; cases h
theorem chmClear : Statement (.chmClear) := by intro _ _ h; cases h
theorem edgClear : Statement (.edgClear) := by intro _ _ h; cases h
theorem bobPlaceWrite (b : Bool) (w : U32) : Statement (.bobPlaceWrite b w) := by intro _ _ h; cases h
theorem chmPlaceWrite (b : Bool) (w : U32) : Statement (.chmPlaceWrite b w) := by intro _ _ h; cases h
theorem galCodecClear : Statement (.galCodecClear) := by intro _ _ h; cases h
theorem galClear : Statement (.galClear) := by intro _ _ h; cases h
theorem sramScrub (finds : List Finding) : Statement (.sramScrub finds) := by intro _ _ h; cases h
theorem dramScrub (finds : List Finding) : Statement (.dramScrub finds) := by intro _ _ h; cases h
theorem stackTemperature (stack : BitVec 3) (temp : U8) : Statement (.stackTemperature stack temp) := by intro _ _ h; cases h
theorem portEnWrite (en : Bool) : Statement (.portEnWrite en) := by intro _ _ h; cases h
theorem portTrainStep (p : BitVec 2) : Statement (.portTrainStep p) := by intro _ _ h; cases h
theorem portTrainTimeout (p : BitVec 2) : Statement (.portTrainTimeout p) := by intro _ _ h; cases h
theorem dataFlit (p : BitVec 2) (rx : FlitRx) (lanes : BitVec 4) (hdr : U32) (payload : Bytes) : Statement (.dataFlit p rx lanes hdr payload) := by intro _ _ h; cases h
theorem linkIdle (p : BitVec 2) (hdr : U32) (credits : U32) : Statement (.linkIdle p hdr credits) := by intro _ _ h; cases h
theorem linkNak (p : BitVec 2) (hdr : U32) (credits : U32) (seq : BitVec 12) : Statement (.linkNak p hdr credits seq) := by intro _ _ h; cases h
theorem linkIdent (f : LinkFlit) (chip : ChipId) (port : BitVec 2) (lanes : BitVec 3) (rev : U8) : Statement (.linkIdent f chip port lanes rev) := by intro _ _ h; cases h
theorem linkLeaving (p : BitVec 2) : Statement (.linkLeaving p) := by intro _ _ h; cases h
theorem linkRetrain (f : LinkFlit) : Statement (.linkRetrain f) := by intro _ _ h; cases h
theorem creditFlitDue (p : BitVec 2) : Statement (.creditFlitDue p) := by intro _ _ h; cases h
theorem peerTimeout (p : BitVec 2) : Statement (.peerTimeout p) := by intro _ _ h; cases h
theorem portRetrain : Statement (.portRetrain) := by intro _ _ h; cases h
theorem portRevive : Statement (.portRevive) := by intro _ _ h; cases h
theorem rxXstart (k : Nat) : Statement (.rxXstart k) := by intro _ _ h; cases h
theorem rxXdata (k : Nat) : Statement (.rxXdata k) := by intro _ _ h; cases h
theorem rxXend (k : Nat) : Statement (.rxXend k) := by intro _ _ h; cases h
theorem rxXabort (k : Nat) : Statement (.rxXabort k) := by intro _ _ h; cases h
theorem rxXack (k : Nat) : Statement (.rxXack k) := by intro _ _ h; cases h
theorem rxEvents (k : Nat) : Statement (.rxEvents k) := by intro _ _ h; cases h
theorem rxStepEnd (k : Nat) : Statement (.rxStepEnd k) := by intro _ _ h; cases h
theorem rxStepAck (k : Nat) : Statement (.rxStepAck k) := by intro _ _ h; cases h
theorem rxKop (k : Nat) : Statement (.rxKop k) := by intro _ _ h; cases h
theorem rxKopReply (k : Nat) : Statement (.rxKopReply k) := by intro _ _ h; cases h
theorem rxSubscribe (k : Nat) : Statement (.rxSubscribe k) := by intro _ _ h; cases h
theorem rxSubReply (k : Nat) : Statement (.rxSubReply k) := by intro _ _ h; cases h
theorem rxUpdate (k : Nat) : Statement (.rxUpdate k) := by intro _ _ h; cases h
theorem rxUnsubscribe (k : Nat) : Statement (.rxUnsubscribe k) := by intro _ _ h; cases h
theorem rxLoss (k : Nat) : Statement (.rxLoss k) := by intro _ _ h; cases h
theorem rxRread (k : Nat) : Statement (.rxRread k) := by intro _ _ h; cases h
theorem rxRreadReply (k : Nat) : Statement (.rxRreadReply k) := by intro _ _ h; cases h
theorem rregGo : Statement (.rregGo) := by intro _ _ h; cases h
theorem conduitEnable (w : U32) : Statement (.conduitEnable w) := by intro _ _ h; cases h
theorem conduitTrigger (n : U8) : Statement (.conduitTrigger n) := by intro _ _ h; cases h
theorem chipReturn : Statement (.chipReturn) := by intro _ _ h; cases h
theorem psgClear : Statement (.psgClear) := by intro _ _ h; cases h
theorem logicCheckFail (utype : BitVec 4) (unit : BitVec 12) (check : U64) (rerunFails : Bool) : Statement (.logicCheckFail utype unit check rerunFails) := by intro _ _ h; cases h
theorem spareBringupDone : Statement (.spareBringupDone) := by intro _ _ h; cases h
theorem picotCoreMove : Statement (.picotCoreMove) := by intro _ _ h; cases h
theorem bankCopyDone : Statement (.bankCopyDone) := by intro _ _ h; cases h
theorem fltLogTailWrite (w : U32) : Statement (.fltLogTailWrite w) := by intro _ _ h; cases h
theorem fltRetire (utype : BitVec 4) (unit : BitVec 12) : Statement (.fltRetire utype unit) := by intro _ _ h; cases h
theorem fltRestore (utype : BitVec 4) (unit : BitVec 12) : Statement (.fltRestore utype unit) := by intro _ _ h; cases h
theorem fltClear : Statement (.fltClear) := by intro _ _ h; cases h
theorem pllWindow (p : BitVec 3) (count : BitVec 17) : Statement (.pllWindow p count) := by intro _ _ h; cases h
theorem pllEnWrite (w : U32) : Statement (.pllEnWrite w) := by intro _ _ h; cases h
theorem passagePllRetry : Statement (.passagePllRetry) := by intro _ _ h; cases h
theorem refclkLoss : Statement (.refclkLoss) := by intro _ _ h; cases h
theorem domSwitch (w : U32) : Statement (.domSwitch w) := by intro _ _ h; cases h
theorem clkObsWrite (w : U32) : Statement (.clkObsWrite w) := by intro _ _ h; cases h
theorem governorInterval (p : U16) (t : U8) (rails : List (BitVec 12)) : Statement (.governorInterval p t rails) := by intro _ _ h; cases h
theorem railWarning (rail : BitVec 4) (mv : BitVec 12) : Statement (.railWarning rail mv) := by intro _ _ h; cases h
theorem railRecovered : Statement (.railRecovered) := by intro _ _ h; cases h
theorem railReset (rail : BitVec 4) (mv : BitVec 12) : Statement (.railReset rail mv) := by intro _ _ h; cases h
theorem tierUp (chm : Bool) : Statement (.tierUp chm) := by intro _ _ h; cases h
theorem tierDown (chm : Bool) : Statement (.tierDown chm) := by intro _ _ h; cases h
theorem watchEntry : Statement (.watchEntry) := by intro _ _ h; cases h
theorem watchExit : Statement (.watchExit) := by intro _ _ h; cases h
theorem retainEntry : Statement (.retainEntry) := by intro _ _ h; cases h
theorem retainExit : Statement (.retainExit) := by intro _ _ h; cases h
theorem sequenceStepDone : Statement (.sequenceStepDone) := by intro _ _ h; cases h
theorem perstAssert : Statement (.perstAssert) := by intro _ _ h; cases h
theorem perstDeassert : Statement (.perstDeassert) := by intro _ _ h; cases h
theorem warmReset : Statement (.warmReset) := by intro _ _ h; cases h
theorem powerOn : Statement (.powerOn) := by intro _ _ h; cases h
theorem undervoltage : Statement (.undervoltage) := by intro _ _ h; cases h
theorem thermalTrip : Statement (.thermalTrip) := by intro _ _ h; cases h
theorem pwrClear : Statement (.pwrClear) := by intro _ _ h; cases h
theorem pwrResClear : Statement (.pwrResClear) := by intro _ _ h; cases h
theorem smbAddr (a : U16) (pec : Pec) : Statement (.smbAddr a pec) := by intro _ _ h; cases h
theorem smbRead32 : Statement (.smbRead32) := by intro _ _ h; cases h
theorem smbWrite32 (data : Bytes) (pec : Pec) : Statement (.smbWrite32 data pec) := by intro _ _ h; cases h
theorem smbRdaddr (data : Bytes) (pec : Pec) : Statement (.smbRdaddr data pec) := by intro _ _ h; cases h
theorem smbStatus : Statement (.smbStatus) := by intro _ _ h; cases h
theorem smbWake (pec : Pec) : Statement (.smbWake pec) := by intro _ _ h; cases h
theorem smbIdent : Statement (.smbIdent) := by intro _ _ h; cases h
theorem smbAlertResponse : Statement (.smbAlertResponse) := by intro _ _ h; cases h
theorem commitRecord (smb : Bool) : Statement (.commitRecord smb) := by intro _ _ h; cases h
theorem commitMicrocode (smb : Bool) : Statement (.commitMicrocode smb) := by intro _ _ h; cases h
theorem flashCommitDone (ok : Bool) : Statement (.flashCommitDone ok) := by intro _ _ h; cases h
theorem stageRelease (smb : Bool) : Statement (.stageRelease smb) := by intro _ _ h; cases h
theorem stageAddrWrite (smb : Bool) (w : U32) : Statement (.stageAddrWrite smb w) := by intro _ _ h; cases h
theorem stageDataAccess (smb : Bool) (write : Bool) (w : U32) : Statement (.stageDataAccess smb write w) := by intro _ _ h; cases h
theorem bankWrite (smb : Bool) (off : U8) (w : U32) : Statement (.bankWrite smb off w) := by intro _ _ h; cases h
theorem lntClear : Statement (.lntClear) := by intro _ _ h; cases h
theorem configRequest (fn : FnId) (op : CfgOp) : Statement (.configRequest fn op) := by intro _ _ h; cases h
theorem pcieLinkUp (speed : BitVec 3) (width : BitVec 5) (flit : Bool) : Statement (.pcieLinkUp speed width flit) := by intro _ _ h; cases h
theorem aspmL1Entry (sub : BitVec 2) : Statement (.aspmL1Entry sub) := by intro _ _ h; cases h
theorem lowHalfRead (fn : FnId) (r : BarAddr) : Statement (.lowHalfRead fn r) := by intro _ _ h; cases h
theorem smbUnlisted (code : U8) : Statement (.smbUnlisted code) := by intro _ _ h; cases h

end Sys2Proof.Laws.BundleFits
end

