-- ==== Sys2Proof/Tests/Slice0.lean ====
section
/-! SUPPORT. Tests/Slice0.lean: well-formedness, the meaning of single commands on small states, and for each statement
states and operands that meet the hypotheses of its clauses. -/

namespace Sys2Proof.Tests
open Sys2Proof Sys2Proof.Machine

set_option Elab.async false

/-! ## Helpers -/

/-- The command answers a next state of which `p` holds. -/
def nextIs (c : Instr) (s : State) (p : State → Bool) : Bool :=
  match exec c s with
  | .next t => p t
  | _ => false

/-- The command answers a next state. -/
def goes (c : Instr) (s : State) : Bool := nextIs c s (fun _ => true)

/-- Bytes listed from key `k`; those that are 0 are not listed. -/
def cells (k : Nat) (bs : Bytes) : List Host.Cell := bs.zipIdx.filterMap (fun e => if e.1 = 0 then none else some (k + e.2, e.1))

/-- A core with a job, at the start of its program. -/
def bk : Core := { slot := 64, job := some 0, st := 2 }
/-- Core 1 is `k`, and both tiers run. -/
def bs (k : Core) : State :=
  { State.reset with
    cores := [(1, k)], doms := [{ running := true }, { running := true }, { running := true }, { running := true }]
    pwr := { State.reset.pwr with state := .run, bobUp := true, chmUp := true } }

/-- The link is up and the PF masters the bus. -/
def up : State := { State.reset with link := { st := .l0 }, fns := [(0, { bme := true })] }
/-- A descriptor with its complement, and a body. -/
def desc (op : Nat) (body : Bytes) : Bytes := natLE 4 op ++ natLE 4 (2 ^ 32 - 1 - op) ++ bytesAt body 0 56
/-- Ring pair 0 is `r`. -/
def rs (r : Ring) : State := { up with rings := [(0, r)] }
/-- The first descriptor in flight. -/
def d0 (op : Nat) (body : Bytes) : Desc := { idx := 0, bytes := desc op body, fn := 0 }
/-- Ring pair 0 has one descriptor in flight. -/
def ds (op : Nat) (body : Bytes) : State := rs { enabled := true, inflight := [d0 op body] }

/-- What the messages of descriptor 0 of pair 0 carry. -/
def q0 : DescRef := ⟨0, 0, 0, 0⟩
/-- Protection tables in which nobody owns knot 0. -/
def noKnot : Prot := { active := [(protKey 4 0, 0)] }

/-! ## Well-formed commands -/

theorem test_wf_doorbell : wf (.doorbell 0 0 4092 4 0) = true ∧ wf (.doorbell 0 0 4092 5 0) = false ∧ wf (.doorbell 0 0 0 0 0) = false := by
  decide
theorem test_wf_descriptorFetch : wf (.descriptorFetch 64) = true ∧ wf (.descriptorFetch 0) = false ∧ wf (.descriptorFetch 65) = false := by
  decide
theorem test_wf_badBar0Access : wf (.badBar0Access 0 0 64 true) = true ∧ wf (.badBar0Access 0 0 0 true) = false := by
  decide
theorem test_wf_registerWrite : wf (.registerWrite 0 false 4 0) = true ∧ wf (.registerWrite 0 false 6 0) = false := by
  decide
theorem test_wf_sramScrub : wf (.sramScrub [⟨0, true⟩, ⟨15, false⟩]) = true ∧ wf (.sramScrub [⟨16, true⟩]) = false ∧
    wf (.sramScrub [⟨3, true⟩, ⟨3, false⟩]) = false := by
  decide
theorem test_wf_dramScrub : wf (.dramScrub [⟨1023, true⟩]) = true ∧ wf (.dramScrub [⟨1024, true⟩]) = false := by
  decide
theorem test_wf_dataFlit : wf (.dataFlit 0 ⟨false, 0, 0⟩ 0 0 (List.replicate 248 0)) = true ∧ wf (.dataFlit 0 ⟨false, 0, 0⟩ 0 0 []) = false ∧
    wf (.dataFlit 0 ⟨false, 0, 0⟩ 0 0x4000000 (List.replicate 248 0)) = false := by
  decide +kernel
theorem test_wf_logicCheckFail : wf (.logicCheckFail 2 511 0 false) = true ∧ wf (.logicCheckFail 2 512 0 false) = false ∧
    wf (.logicCheckFail 6 0 0 false) = false := by
  decide
theorem test_wf_governorInterval : wf (.governorInterval 0 0 (List.replicate 11 0)) = true ∧ wf (.governorInterval 0 0 []) = false := by
  decide
theorem test_wf_bankWrite : wf (.bankWrite true 0x34 0) = true ∧ wf (.bankWrite true 0x38 0) = false := by
  decide
theorem test_wf_smbWrite32 : wf (.smbWrite32 [] .good) = true ∧ wf (.smbWrite32 (List.replicate 256 0) .good) = false := by
  decide +kernel
theorem test_wf_smbRdaddr : wf (.smbRdaddr [0, 0] .good) = true ∧ wf (.smbRdaddr (List.replicate 256 0) .good) = false := by
  decide +kernel

/-! ## Encoding words (R167, R168) -/

theorem test_bundle_words :
    bundleOf (.iAdd 0x21 1 2 3) = some (0x21, 0b0000010000100010000110) ∧
    bundleOf (.iAddi 0x21 4 5 7) = some (0x21, 0b0100000010000101000111) ∧
    bundleOf (.iLi 0x21 6 0x89ABCDEF) = some (0x21, 2 ^ 62 + 0b10001001101010111100110111101111 * 2 ^ 22 + 0b0101010011000000000000) ∧
    bundleOf (.iBeqz 0x21 7 0x7FF) = some (0x21, 0b1010000011111111111111) ∧
    bundleOf (.iMop 0x21 2 1 3 5) = some (0x21, 0b0000010010000100110101 * 2 ^ 22) ∧
    bundleOf (.iVadd 0x21 9 8 7 2) = some (0x21, 0b0010001001100001110010 * 2 ^ 22) ∧
    bundleOf (.iSend 0x21 1 2) = some (0x21, 0b000011000010001000 * 2 ^ 44) ∧
    bundleOf (.iDma 0x21 9 3) = some (0x21, 0b000001010010000011 * 2 ^ 44) := by
  decide +kernel

/-! ## Statements about the instruction set -/

theorem wit_ScalarArithmetic : Straight (bs { bk with pc := 131070 }) 1 ∧ (31 : BitVec 6).toNat < 32 ∧
    smWf (fun _ => 0) (({ bk with s := [(1, 8), (31, 5)] } : Core)).s = true ∧ (31 : BitVec 5) ≠ 0 := by
  unfold Straight Awake Sound; decide +kernel

theorem wit_LoadsAndStores :
    let s := bs { bk with s := [(1, 0xFFFFC), (2, 0xFFFC0), (3, 0x100000)] }
    let k := getCore s 1
    Straight s 1 ∧ s.flaws = [] ∧ Memory.wf s = true ∧ (sReg k 1).toNat % 4 = 0 ∧ (sReg k 1).toNat < 0x100000 ∧
    (sReg k 2).toNat % 64 = 0 ∧ (sReg k 2).toNat < 0x100000 ∧
    (sReg k 3 + BitVec.ofInt 32 ((-1 : BitVec 6).toInt * 4)).toNat % 4 = 0 ∧
    (sReg k 3 + BitVec.ofInt 32 ((-1 : BitVec 6).toInt * 64)).toNat < 0x100000 := by
  unfold Straight Awake Sound; decide +kernel

theorem wit_ControlFlow :
    let s := bs { bk with pc := 131071, s := [(1, 131071), (2, 0x80000000)] }
    let k := getCore s 1
    let l := bs { bk with pc := 131069, s := [(1, 5)], loops := [⟨131060, 10, 2⟩] }
    let e := bs { bk with pc := 131069, loops := [⟨131060, 10, 1⟩] }
    (Runs s ∧ canIssue s 1 = true ∧ ((131071 : Nat) : Int) = (k.pc.toNat : Int) + (0 : BitVec 11).toInt ∧
      sReg k 0 = 0 ∧ sReg k 2 ≠ 0 ∧ (sReg k 2).toInt < 0 ∧ 0 ≤ (sReg k 1).toInt ∧ (sReg k 1).toNat < 131072) ∧
    (Runs l ∧ canIssue l 1 = true ∧ (getCore l 1).loops.length < 2 ∧ (getCore l 1).pc.toNat + 1 < 131072 ∧ sReg (getCore l 1) 1 ≠ 0 ∧
      (getCore l 1).pc.toNat + 1 = 131060 + 10) ∧
    (Runs e ∧ canIssue e 1 = true ∧ (getCore e 1).loops = [⟨131060, 10, 1⟩]) ∧
    (let z := bs { bk with pc := 131007 }
     Runs z ∧ canIssue z 1 = true ∧ (getCore z 1).loops = [] ∧ (getCore z 1).pc.toNat + 1 + (63 : BitVec 6).toNat < 131072 ∧ sReg (getCore z 1) 1 = 0) := by
  unfold Runs Sound; decide +kernel

/-- LI s1, 5 at the PC of core 1. -/
def liSt : State := { bs bk with mem := cells (mkey (spBobbin 1) 0) (natLE 8 (2 ^ 62 + 5 * 2 ^ 22 + 0b0101010000100000000000)) }

theorem wit_ControlFlow_issue : Runs liSt ∧ canIssue liSt 1 = true ∧ liSt.flaws = [] ∧ (getCore liSt 1).loops = [] ∧ (getCore liSt 1).pc.toNat + 1 < 131072 ∧
    bundleOf (.iLi 1 1 5) = some (1, fetchBundle liSt 1) := by
  unfold Runs Sound; decide +kernel

theorem wit_ControlRegisters :
    Straight (bs bk) 1 ∧ (getCore (bs bk) 1).dmas = [] ∧
    (let s := bs { bk with dmas := [⟨0, 0, 0, 1, 1, 0, true, false, false, 0, 0, false, 0, 0⟩] }
     Straight s 1 ∧ (getCore s 1).dmas ≠ []) := by
  unfold Straight Awake Sound; decide +kernel

theorem wit_RegisterMoves : Straight (bs { bk with acc := [(1023, 5)] }) 1 ∧
    smWf (fun _ => 0) (getCore (bs { bk with acc := [(1023, 5)] }) 1).acc = true := by
  unfold Straight Awake Sound; decide +kernel

theorem wit_IntegerLanes : Straight (bs bk) 1 ∧ (2 : BitVec 2) ≠ 3 ∧ (15 : Nat) < 512 / laneBits 2 := by
  unfold Straight Awake Sound; decide +kernel

theorem wit_FloatLanes : Straight (bs bk) 1 ∧ (2 : BitVec 2) ≠ 3 ∧ (0 : BitVec 4) ≠ 1 := by
  unfold Straight Awake Sound; decide +kernel

theorem wit_MicroArray :
    let s := bs { bk with acc := [(0, 1)], pt := [(0, 1)], ptpCol := 24 }
    let k := getCore s 1
    Straight s 1 ∧ smWf (fun _ => 0) k.acc = true ∧ smWf (fun _ => 0) k.pt = true ∧ (codebook k 15).isSome = true ∧
    k.ptpCol.toNat % 8 = 0 := by
  unfold Straight Awake Sound; decide +kernel

/-- A descriptor of 64 bytes from Gallery address 0 to local address 0. -/
def dma : Bytes := natLE 8 0x8000004000000000 ++ natLE 8 0x100 ++ natLE 4 64 ++ natLE 2 1 ++ [0, 2] ++ natLE 8 0
def dmaSt (n : Nat) : State :=
  let q : DmaDesc := ⟨0, 0, 0, 1, 1, 0, true, false, false, 0, 0, false, 0, 0⟩
  { bs { bk with s := [(1, 0x40)], dmas := List.replicate n q } with mem := cells (mkey (spBobbin 1) 0x40) dma }

theorem wit_CrossSlot :
    (∀ n ∈ [0, 7], Straight (dmaSt n) 1 ∧ (dmaSt n).flaws = [] ∧ (dmaAt (dmaSt n) 1 (sReg (getCore (dmaSt n) 1) 1) 0).isSome = true ∧
      ((getCore (dmaSt n) 1).dmas.filter (fun e => e.ch == 0 && !e.ran)).length < 8) ∧
    8 ≤ ((getCore (dmaSt 8) 1).dmas.filter (fun e => e.ch == 0 && !e.ran)).length ∧
    (∀ e ∈ (getCore (dmaSt 1) 1).dmas, e.ch ≠ 1) ∧ (∃ e ∈ (getCore (dmaSt 1) 1).dmas, e.ch = 0) ∧
    (let s := bs { bk with inbox := [[0]], eq := [[0]], waitOut := true, waitDone := true }
     Straight s 1 ∧ (getCore s 1).inbox ≠ [] ∧ (getCore s 1).eq ≠ [] ∧ (getCore s 1).waitDone = true) ∧
    (let s := bs { bk with waitOut := true }
     Straight s 1 ∧ (getCore s 1).inbox = [] ∧ (getCore s 1).eq = [] ∧ (getCore s 1).waitDone = false ∧ (getCore s 1).waitOut = true) := by
  unfold Straight Awake Sound; decide +kernel

/-- A Tier 1 job of the PF. -/
def j1 : Job := { origin := .host q0, slot := 64, inB := false, fn := 0, level := 1, st := .running, kind := 0 }

theorem wit_SendsAndSignals :
    (let s := bs { bk with s := [(2, 0xFFFF8)], outb := [(0, 1), (1, 1), (2, 1)] }
     let k := getCore s 1
     Straight s 1 ∧ fld (sReg k 0).toNat 11 5 = 0 ∧ (sReg k 2).toNat % 8 = 0 ∧ (sReg k 2).toNat + 8 * fld (sReg k 0).toNat 8 3 ≤ 0x100000 ∧
     k.outb.length < 4 ∧ s.flaws = [] ∧ fld (sReg k 0).toNat 0 8 < numRanks s 64 false ∧ rankCore s 64 false (fld (sReg k 0).toNat 0 8) = some 1) ∧
    (let s := bs { bk with outb := [(0, 1), (1, 1), (2, 1), (3, 1)] }
     Straight s 1 ∧ 4 ≤ (getCore s 1).outb.length) ∧
    (let s := { bs bk with jobs := [(0, some j1)] }
     let k := getCore s 1
     Straight s 1 ∧ k.job = some 0 ∧ getJob s 0 = some j1 ∧ j1.attempt ≤ 1 ∧ opsHeld k < 8 ∧ k.ksigs = [] ∧ k.dmas = [] ∧ k.outb = [] ∧
     k.waitDone = false ∧ k.waitOut = false) ∧
    (let s := { bs { bk with outb := [(0, 1)], order := 1, unacked := 7 } with jobs := [(0, some j1)] }
     let k := getCore s 1
     Straight s 1 ∧ getJob s 0 = some j1 ∧ opsHeld k < 8 ∧ k.ksigs = [] ∧ (∃ o ∈ k.outb, o.1 < k.order)) := by
  unfold Straight Awake Sound; decide +kernel

theorem wit_SendsAndSignals_behind :
    (let q : DmaDesc := ⟨0, 0, 0, 1, 1, 0, true, false, false, 0, 0, false, 0, 0⟩
     let s := { bs { bk with dmas := [q], order := 1 } with jobs := [(0, some j1)] }
     let k := getCore s 1
     Straight s 1 ∧ opsHeld k < 8 ∧ (k.ksigs ++ [(⟨0, 0, k.order⟩ : KsigPend)]).head? = some ⟨0, 0, 1⟩ ∧
     ∃ e ∈ k.dmas, e.order < 1) ∧
    (let f : KsigPend := { word := 5, amount := 6, order := 1 }
     let s := { bs { bk with ksigs := [f], outb := [(0, 1)], order := 2 } with jobs := [(0, some j1)] }
     let k := getCore s 1
     Straight s 1 ∧ opsHeld k < 8 ∧ (k.ksigs ++ [(⟨0, 0, k.order⟩ : KsigPend)]).head? = some f ∧ ∃ o ∈ k.outb, o.1 < f.order) := by
  unfold Straight Awake Sound; decide +kernel

theorem wit_IllegalAndFaulting :
    let s := { bs { bk with s := [(1, 0x103840), (2, 2), (3, 0x100000), (4, 131072)], ptpCol := 2, loops := [⟨0, 9, 1⟩, ⟨0, 9, 1⟩] } with
      mem := cells (mkey (spBobbin 1) 0) (natLE 8 (2 ^ 64 - 1)) }
    let k := getCore s 1
    Awake s ∧ canIssue s 1 = true ∧ s.flaws = [] ∧ (decodeBundle (fetchBundle s 1)).isNone = true ∧ 32 ≤ (32 : BitVec 6).toNat ∧ (codebook k 1).isNone = true ∧
    (sReg k 2).toNat % 4 ≠ 0 ∧ (sReg k 1).toNat % 64 = 0 ∧ 0x103840 ≤ (sReg k 1).toNat ∧
    (sReg k 3).toNat % 4 = 0 ∧ 0x100000 ≤ (sReg k 3).toNat ∧ (sReg k 3).toNat < 0x101400 ∧ 131072 ≤ (sReg k 4).toNat ∧
    2 ≤ k.loops.length ∧ k.ptpCol.toNat % 4 ≠ 0 ∧ (dmaAt s 1 (sReg k 2) 0).isNone = true ∧
    (k.dmas.filter (fun e => e.ch == 0 && !e.ran)).length < 8 ∧
    (∀ x ∈ [0x100000, 0x1013FC, 0x102000, 0x1027FC, 0x103800, 0x10383C], x % 4 = 0) ∧
    (let s := { bs bk with jobs := [(0, some j1)] }
     k.job = some 0 ∧ getJob s 0 = some j1 ∧ smWf regReset s.regs = true ∧ jobCores s 0 = [1]) := by
  unfold Awake Sound; decide +kernel

/-- ADD s1, s2, s3 at the PC of core 1. -/
def addSt : State := { bs bk with mem := cells (mkey (spBobbin 1) 0) (natLE 8 0x010886) }

theorem wit_BundleIsInstruction : bundleOf (.iAdd 1 1 2 3) = some (1, 0x010886) ∧ fetchBundle addSt 1 = 0x010886 ∧ addSt.flaws = [] ∧ Runs addSt ∧
    canIssue addSt 1 = true ∧ ¬ Runs { addSt with flt := { addSt.flt with fatal := true } } := by
  unfold Runs Sound; decide +kernel

theorem wit_ProgramsKeepForm :
    let s := { addSt with pending := [.iAdd 1 1 2 3] }
    bundleOf (.iAdd 1 1 2 3) = some (1, 0x010886) ∧ s.pending = [.iAdd 1 1 2 3] ∧ FormKept s ∧
    (match step s with | .next _ => true | _ => false) = true := by
  unfold FormKept Canon; decide +kernel

/-- ADD wraps modulo 2^32. -/
theorem test_add_wraps : nextIs (.iAdd 1 1 2 3) (bs { bk with s := [(2, 0xFFFFFFFF), (3, 2)] }) (fun t => sReg (getCore t 1) 1 == 1) = true := by
  decide +kernel

/-! ## Statements about ring pairs and interrupts -/

/-- A doorbell of pair 0 with KIND `k` and value `v`. -/
def db (k v : Nat) : U64 := BitVec.ofNat 64 (v + (0xFFFF - v) * 2 ^ 16 + 1024 * k * 2 ^ 32 + (0xFFFF - 1024 * k) * 2 ^ 48)

theorem wit_DoorbellAccepted :
    let r : Ring := { enabled := true, nqLog2 := 4, cqTail := 3, nqTail := 3, cqUnann := 3, nqUnann := 3 }
    let s := rs r
    (Runs s ∧ s.lnt.recovery = false ∧ fnPresent s 0 = true ∧ pagePair s 0 0 = some 0 ∧ ownsRing s 0 0 = true ∧ (getRing s 0).enabled = true) ∧
    (let w := db 0 15
     w.extractLsb' 16 16 = ~~~(w.extractLsb' 0 16) ∧ w.extractLsb' 48 16 = ~~~(w.extractLsb' 32 16) ∧
     (w.extractLsb' 32 16).toNat = 0 + 1024 * 0 ∧ (w.extractLsb' 0 16).toNat < sqSize r ∧
     ringDist (sqSize r) r.sqTail r.sqHead ≤ ringDist (sqSize r) (w.extractLsb' 0 16) r.sqHead) ∧
    (let w := db 1 3
     (w.extractLsb' 32 16).toNat = 0 + 1024 * 1 ∧ (w.extractLsb' 0 16).toNat < cqSize r ∧
     ringDist (cqSize r) r.cqTail (w.extractLsb' 0 16) ≤ ringDist (cqSize r) r.cqTail r.cqHead) ∧
    (let w := db 2 3
     (w.extractLsb' 32 16).toNat = 0 + 1024 * 2 ∧ r.nqLog2 ≠ 0 ∧ (w.extractLsb' 0 16).toNat < nqSize r ∧
     ringDist (nqSize r) r.nqTail (w.extractLsb' 0 16) ≤ ringDist (nqSize r) r.nqTail r.nqHead) := by
  unfold Runs Sound; decide +kernel

theorem test_doorbell_moves_tail :
    nextIs (.doorbell 0 0 0 8 (db 0 5)) (rs { enabled := true }) (fun t => (getRing t 0).sqTail == 5) = true := by
  decide +kernel

theorem wit_DoorbellRejected :
    let s := rs { enabled := true }
    let off := rs {}
    (Runs s ∧ s.lnt.recovery = false ∧ fnPresent s 0 = true) ∧
    ((db 0 5).extractLsb' 0 16 ^^^ (db 0 5).extractLsb' 16 16 = 0xFFFF ∧ (db 3 5).extractLsb' 32 16 = 3072) ∧
    ((1 : U64).extractLsb' 0 16 ^^^ (1 : U64).extractLsb' 16 16 ≠ 0xFFFF) ∧
    (pagePair s 0 1 ≠ some 0) ∧
    (pagePair off 0 0 = some 0 ∧ ownsRing off 0 0 = true ∧ (getRing off 0).enabled = false) ∧
    (sqSize (getRing s 0) ≤ ((db 0 16).extractLsb' 0 16).toNat) ∧
    (let s := rs { enabled := true, sqHead := 3, sqTail := 5, cqHead := 2, cqTail := 5 }
     let r := getRing s 0
     Runs s ∧ pagePair s 0 0 = some 0 ∧ ownsRing s 0 0 = true ∧ ringDist 16 ((db 0 4).extractLsb' 0 16) r.sqHead < ringDist 16 r.sqTail r.sqHead ∧
     ringDist 16 r.cqTail r.cqHead < ringDist 16 r.cqTail ((db 1 1).extractLsb' 0 16)) := by
  unfold Runs Sound; decide +kernel

theorem test_doorbell_range : nextIs (.doorbell 0 0 0 8 (db 0 16)) (rs { enabled := true })
    (fun t => (getRing t 0).dbErr && (getRing t 0).sqTail == 0 && (getFn t 0).dbErr == 1) = true := by
  decide +kernel

/-- Pair 0 has one descriptor in its SQ, at host address 0. -/
def fetchSt (b : Bytes) : State :=
  let s := rs { enabled := true, sqTail := 1 }
  { s with mem := cells (mkey spHost 0) b ++ s.mem }

theorem wit_DescriptorFetches :
    pickRing up = none ∧ Runs up ∧
    (∀ b ∈ [desc opNop [], desc 0x7F [], [1]],
      let s := fetchSt b
      Runs s ∧ pickRing s = some 0 ∧ ringOwner s 0 = some 0 ∧ fetchable s 0 1 = 1 ∧ fetchable s 0 64 = 1 ∧
      (getRing s 0).sqHead.toNat < sqSize (getRing s 0) ∧ (getRing s 0).inflight = []) ∧
    (checkDesc (fetchSt (desc opNop [])) 0 (d0 opNop [])).1 = none ∧
    (headerOk (desc 0x7F []) = true ∧ 0x7F ∉ hostOps) ∧ headerOk (bytesAt [1] 0 64) = false := by
  unfold Runs Sound; decide +kernel

theorem wit_KnotDescriptors :
    (∀ op ∈ [opNop, opKnotSignal, opKnotWait], let s := ds op []
      Runs s ∧ mayStart (getRing s 0) 0 = some (d0 op []) ∧ descOp (d0 op []).bytes = op ∧ descRights s 0 (d0 op []).bytes = (true, s)) ∧
    mayStart (getRing up 0) 0 = none ∧ Runs up := by
  unfold Runs Sound; decide +kernel

theorem wit_KnotDescriptors_lost : ∀ op ∈ [opKnotSignal, opKnotWait],
    let s := { ds op [] with prot := noKnot }
    Runs s ∧ mayStart (getRing s 0) 0 = some (d0 op []) ∧ ownsKnot s 0 (leAt (d0 op []).bytes 8 2 % 4096) = false ∧
    (∀ e ∈ (getRing s 0).inflight, sameTag (d0 op []) e = true → e = d0 op []) := by
  unfold Runs Sound; decide +kernel

/-- Pair 0 has a descriptor that has ended, and as many unannounced entries as `n`. -/
def endSt (op n : Nat) (c : Compl) (ien : Bool) : State :=
  rs { enabled := true, cqIen := ien, cqUnann := n, cqTail := 15, count := 4, inflight := [{ d0 op [] with started := true, done := some c }] }

theorem wit_CompletionWrites :
    let late (s : State) : State := { s with fns := [(0, { bme := true, msixEn := true, vecs := [(0, { masked := false })] })] }
    let s := endSt (opNop + 2 ^ 8) 0 { status := 0 } false
    (Runs s ∧ Memory.wf s = true ∧ (getRing s 0).enabled = true ∧ ringOwner s 0 = some 0 ∧ canMaster s 0 = true ∧
      descCqe ((getRing s 0).inflight.map (·.bytes)).head! = true ∧
      (getRing s 0).cqBase.toNat + 32 * (getRing s 0).cqTail.toNat + 32 ≤ 2 ^ 63) ∧
    (let s := ds opNop []
     Runs s ∧ (getRing s 0).inflight = [d0 opNop []]) ∧
    (headerOk (desc opNop []) = true ∧ descCqe (desc opNop []) = false) ∧
    (ringOwner (rs { draining := true }) 0 = some 0 ∧ canMaster { up with link := {} } 0 = false) ∧
    (ringOwner { endSt opNop 0 { status := 1 } false with prot := { active := [(protKey 1 0, 0)] } } 0 = none) ∧
    (let s := late (endSt (opNop + 2 ^ 9) 0 { status := 1 } true)
     Runs s ∧ Memory.wf s = true ∧ descIrq (desc (opNop + 2 ^ 9) []) = true ∧ headerOk (desc (opNop + 2 ^ 9) []) = true ∧ VecOpen s 0 0 ∧ canMaster s 0 = true) ∧
    (let s := late (endSt opNop 3 { status := 1 } true)
     (getRing s 0).count.toNat ≤ (getRing s 0).cqUnann + 1 ∧ VecOpen s 0 0) := by
  unfold Runs Sound VecOpen; decide +kernel

/-- Stream 0 is OPEN, holds a report and a record, and has ring pair 0 for both. -/
def holdSt (cqTail nqTail : U16) : State :=
  let s := rs { enabled := true, cqTail := cqTail, nqLog2 := 4, nqTail := nqTail }
  { s with streams := [(0, { ctx := { state := 1 }, hold := [⟨false, false, 0, 0, 1, 0, 0, 0, 0, 0, 0, 0, 0, 0, false⟩]
                             reports := [⟨0, 0, 1, 0, false, 0, 0, 0, 0, false⟩] })] }

/-- The hypotheses of HeldRecordsAreWritten on stream 0. -/
def heldOk (s : State) : Bool :=
  let x := getStream s 0
  let r := getRing s 0
  !s.flt.fatal && hostRuns s && clocked s 1 && s.flt.ctlBad.isEmpty && s.poison.isEmpty && s.flaws.isEmpty && s.flt.dramRet.isEmpty && Memory.wf s && canMaster s 0 && !x.reports.isEmpty &&
  ringOwner s 0 == some 0 && r.enabled && !r.cqIen && decide (r.inflight.length < cqFree r) && !x.hold.isEmpty &&
  x.slotRec.isNone && x.slotWait.isEmpty && !r.nqIen && r.nqLog2 != 0 && decide (0 < nqFree r) &&
  decide (r.cqBase.toNat + 32 * r.cqTail.toNat + 32 ≤ 2 ^ 63) && decide (r.nqBase.toNat + 32 * r.nqTail.toNat + 32 ≤ 2 ^ 63)

theorem wit_HeldRecordsAreWritten : heldOk (holdSt 0 0) = true ∧ heldOk (holdSt 14 14) = true := by
  decide +kernel

theorem wit_HeldRecordsAreWritten_rest :
    (let s := { holdSt 0 0 with prot := { active := [(protKey 1 0, 0)] } }
     Runs s ∧ Clean s ∧ Memory.wf s = true ∧ (getStream s 0).reports ≠ [] ∧ ringOwner s 0 ≠ some 0) ∧
    (let x : Stream := { slotRec := some ⟨false, false, 0, 0, 0, 0, 3, 0, 0, 0, 0, 0, 0, 0, false⟩ }
     (nextRecord x).map (·.2) = some true ∧ x.slotWait = []) := by
  unfold Runs Sound Clean; decide +kernel

theorem wit_HeldRecordsAreWritten_none :
    let s := { rs {} with streams := [(0, { ctx := { state := 1 } })] }
    Runs s ∧ Memory.wf s = true ∧ (getStream s 0).reports = [] ∧ (getStream s 0).hold = [] ∧ (getStream s 0).slotRec = none := by
  unfold Runs Sound; decide +kernel

theorem wit_RingControl :
    let no := { up with prot := { active := [(protKey 1 0, 0)] } }
    (Reached no 0 ∧ selPair no 0 = none) ∧
    (∀ r ∈ ([{ nqLog2 := 4 }, { sqLog2 := 3 }, { sqLog2 := 5 }, { draining := true }, { cqBase := 64 }, { enabled := true, inflight := [d0 0 []] }] : List Ring),
      Reached (rs r) 0 ∧ selPair (rs r) 0 = some 0) ∧
    (let r : Ring := { nqLog2 := 4, draining := true }
     Runs (rs r) ∧ r.draining = true ∧ r.inflight = []) ∧
    (let s := { rs { enabled := true, inflight := [{ d0 opJobRun [] with started := true }] } with
       jobs := [(0, some { origin := .host q0, slot := 64, inB := false, fn := 0, level := 1, kind := 0 })] }
     Reached s 0 ∧ Canon none s.jobs ∧ queuedOf s 0 = [(0, q0)]) ∧ Runs (rs {}) ∧ (getRing (rs {}) 0).draining = false := by
  unfold Runs Reached Sound Canon; decide +kernel

theorem wit_Interrupts :
    let r : Ring := { cqIen := true, nqIen := true, cqUnann := 1, nqUnann := 1, holdoff := 1, cqVec := 3, nqVec := 2047 }
    let open_ := { rs r with fns := [(0, { msixEn := true, vecs := [(3, { masked := false })] })] }
    let vf := { rs r with vfEnable := true, prot := { active := [(protKey 1 0, 1 + 2 ^ 12)] } }
    (Runs (rs {}) ∧ (getRing (rs {}) 0).cqIen = false) ∧
    (Runs open_ ∧ r.cqIen = true ∧ 0 < r.cqUnann ∧ r.holdoff ≠ 0 ∧ ringOwner open_ 0 = some 0 ∧ VecOpen open_ 0 3) ∧
    (Runs (rs r) ∧ (3 : BitVec 11).toNat < tableSize (rs r) 0 ∧ ¬ VecOpen (rs r) 0 3) ∧
    (Runs vf ∧ ringOwner vf 0 = some 1 ∧ tableSize vf 1 ≤ (2047 : BitVec 11).toNat) ∧
    (let s := { up with fns := [(0, { msixEn := true, vecs := [(5, { pend := true })] })] }
     fnPresent s 0 = true ∧ 5 < tableSize s 0 ∧ (getFn s 0).msixEn = true ∧ (getFn s 0).fmask = false ∧
     (smUpd {} (getFn s 0).vecs 5 (fun e => { e with masked := false })).filter (fun e => e.2.pend && !e.2.masked) = [(5, { masked := false, pend := true })]) ∧
    (getFn up 0).msixEn = false := by
  unfold Runs Sound VecOpen; decide +kernel

theorem test_unmask_sends : nextIs (.msixUnmask 0 5) { up with fns := [(0, { msixEn := true, vecs := [(5, { pend := true })] })] }
    (fun t => t.out == [.msix 0 5]) = true := by
  decide +kernel

/-! ## Statements about streams -/

/-- A section of a slot image. -/
def sec (ty n : Nat) (body : Bytes) : Bytes := natLE 2 ty ++ natLE 2 n ++ natLE 4 (8 + body.length) ++ body
/-- A Tier 0 image: a front-end of one stage a window of 8 samples into frames of 8 bytes, a converter of one channel, 16 neurons on 1 core. -/
def img0 : Bytes :=
  bytesAt (List.replicate 6 0 ++ natLE 2 3) 0 32 ++
  sec 1 1 ([1, 0] ++ natLE 6 8 ++ natLE 8 16 ++ [1, 5, 8, 0] ++ natLE 28 0) ++ sec 2 1 (bytesAt [5, 0, 1] 0 40) ++
  sec 3 1 (natLE 8 (1 + 16 * 2 ^ 16))
def slot0 : Slot := { placeA := 512, verA := some { number := 0, image := img0 } }
/-- One stage in slot 0, thresholds 2, 5, 5, steps of 16 samples. -/
def e0 : StageEntry := { wake := 5, prewake := 5, hold := 2, holdCount := 2, nwake := ~~~5, nprewake := ~~~5, nhold := ~~~2, nholdCount := ~~~2 }
def c0 : StreamCtx := { sfmt := 5, nstage := 1, stepLen := 16, histSteps := 4, frameUnits := 1, lagDepth := 1, stages := [e0] }

/-- A stream descriptor of stream `st` and generation `g`, with address or index `a`. -/
def sbody (st g a : Nat) : Bytes := natLE 2 st ++ natLE 6 g ++ natLE 8 a
/-- Stream 0 is `x`, slot 0 is loaded, and pair 0 has a descriptor with opcode `op` that names it; its image stands at 128. -/
def ss (op : Nat) (body : Bytes) (x : Stream) : State :=
  let s := rs { enabled := true, nqLog2 := 4, inflight := [d0 op body] }
  { s with slots := [(0, slot0)], streams := [(0, x)], mem := cells (mkey spHost 128) (ctxBytes c0) ++ s.mem }

/-- The hypotheses of Starts, as a Bool. -/
def starts (s : State) (op : Nat) (d : Desc) : Bool :=
  !s.flt.fatal && hostRuns s && clocked s 1 && s.flt.ctlBad.isEmpty && decide (mayStart (getRing s 0) 0 = some d) && descOp d.bytes == op && decide (descRights s d.fn.toNat d.bytes = (true, s))

/-- What every clause of StreamsOpen asks for. -/
def openOk (s : State) (op : Nat) (body : Bytes) : Bool :=
  let d := d0 op body
  starts s opStreamOpen d && addrOf (leAt d.bytes 16 8) == some (spHost, 128) && !memWaits s 128 && !dramFails s spHost && s.poison.isEmpty && s.flaws.isEmpty &&
  s.flt.dramRet.isEmpty && !opensLoading s 0 0

theorem wit_StreamsOpen_fresh :
    let b := sbody 0 0 128
    let s := ss opStreamOpen b {}
    let c := ctxFrom (peek s (mkey spHost 128) 128) 0
    openOk s opStreamOpen b = true ∧ descOptA (desc opStreamOpen b) = false ∧ imageOk s 0 (peek s (mkey spHost 128) 128) = true ∧
    (activeVersion s 0).isSome = true ∧ (match frontOf img0 with | some f => frontFits f c | none => false) = true ∧
    openInst s 0 = some 0 := by
  decide +kernel

theorem wit_StreamsOpen_refused :
    (let s := ss opStreamOpen (sbody 0 1 128) {}
     openOk s opStreamOpen (sbody 0 1 128) = true ∧ descSgen (desc opStreamOpen (sbody 0 1 128)) ≠ (getStream s 0).ctx.gen.toNat) ∧
    (let s := ss opStreamOpen (sbody 0 0 128) { ctx := { state := 4 } }
     openOk s opStreamOpen (sbody 0 0 128) = true ∧ (getStream s 0).ctx.state ≠ 0) ∧
    (let s := { ss opStreamOpen (sbody 0 0 128) {} with slots := [(0, { slot0 with load := some { ref := q0, image := some [] } })] }
     starts s opStreamOpen (d0 opStreamOpen (sbody 0 0 128)) = true ∧ Clean s ∧ opensLoading s 0 0 = true) := by
  unfold Clean; decide +kernel

theorem wit_StreamsOpen_resume :
    let op := opStreamOpen + 2 ^ 11
    let s := ss op (sbody 0 0 128) { ctx := { c0 with state := 3 } }
    let g := ctxFrom (peek s (mkey spHost 128) 128) 0
    let c : StreamCtx := { c0 with state := 3, ingestRing := g.ingestRing, notifyRing := g.notifyRing
                                   stages := (List.range 6).map (fun k => resumeStage (stageOf c0 k) (stageOf g k)) }
    openOk s op (sbody 0 0 128) = true ∧ descOptA (desc op []) = true ∧ resumeWaits s (d0 op (sbody 0 0 128)) = false ∧ (activeVersion s 0).isSome = true ∧
    (match frontOf img0 with | some f => frontFits f c0 && !frontFits f { c0 with frameUnits := 2 } | none => false) = true ∧ stagesOk 1 c.stages 4 = true ∧ programRights s 0 1 c = true ∧
    (getStream s 0).ctx.state = 3 ∧ leAt (ctxBytes c0) 16 2 < 1024 ∧ leAt (ctxBytes c0) 18 2 < 1024 := by
  decide +kernel

theorem wit_StreamsOpen_resume_waits :
    let op := opStreamOpen + 2 ^ 11
    let x : Stream := { ctx := { c0 with state := 3, nstage := 2, stages := [e0, { tier := 1, slot := 64, report := true }] }, specOwed := some ⟨0, 1, 0, 0, 0, 0, 0, 0, false, false, false, false, false⟩
                        reports := List.replicate 2 ⟨0, 0, 1, 0, false, 0, 0, 0, 0, false⟩ }
    (∀ y ∈ [x, { x with specOwed := none }], let s := ss op (sbody 0 0 128) y
      openOk s op (sbody 0 0 128) = true ∧ resumeWaits s (d0 op (sbody 0 0 128)) = y.specOwed.isSome) ∧
    (∀ st ∈ [0, 4], let s := ss op (sbody 0 0 128) { ctx := { c0 with state := st } }
      openOk s op (sbody 0 0 128) = true ∧ (getStream s 0).ctx.state ≠ 3) := by
  decide +kernel

theorem wit_StreamsClose :
    (∀ st ∈ [0, 1, 2, 3, 4], starts (ss opStreamClose (sbody 0 0 0) { ctx := { state := st } }) opStreamClose (d0 opStreamClose (sbody 0 0 0)) = true) ∧
    starts (ss opStreamClose (sbody 0 9 0) {}) opStreamClose (d0 opStreamClose (sbody 0 9 0)) = true ∧
    starts (ss (opStreamClose + 2 ^ 11) (sbody 0 0 0) { ctx := { state := 1, ep := 3 } }) opStreamClose (d0 (opStreamClose + 2 ^ 11) (sbody 0 0 0)) = true ∧
    (let s := { ss opStreamClose (sbody 0 0 0) { ctx := { state := 2, stepLen := 16 }, closeDesc := some q0, drain := true } with
                insts := [(0, some { slot := 0, inB := false, idx := 0 })] }
     closeReady s 0 = true ∧ (getStream s 0).ctx.stepLen ≠ 0 ∧ (findDesc s q0).isSome = true ∧ (getInst s 0).isSome = true) ∧
    (closeWaits {} (getStream (ss opStreamClose (sbody 0 0 0) { ctx := { state := 1 } }) 0) false = false ∧
     (let x : Stream := { ctx := { state := 1, ep := 1, actStage := 0, stages := [{ report := true }] }, job := some ⟨0, 0, 0, 0, 0⟩
                          reports := List.replicate 2 ⟨0, 0, 1, 0, false, 0, 0, 0, 0, false⟩ }
      starts (ss opStreamClose (sbody 0 0 0) x) opStreamClose (d0 opStreamClose (sbody 0 0 0)) = true ∧
      closeWaits { ss opStreamClose (sbody 0 0 0) x with jobs := [(0, some { origin := .cascade 0 0 0 0, slot := 64, inB := false, fn := 0, level := 1, kind := 2 })] } x false = true)) ∧
    closeReady (ss opStreamClose [] { ctx := { state := 2 }, job := some ⟨0, 0, 0, 0, 0⟩ }) 0 = false := by
  decide +kernel

theorem wit_StreamStatusStores :
    (∀ p ∈ [(0, 0, 1024), (0, 0, 1025), (0, 5, 1024)],
      let b := sbody p.1 p.2.1 p.2.2
      let s := { rs { enabled := true, inflight := [d0 opStreamStatus b] } with streams := [(0, {})] }
      starts s opStreamStatus (d0 opStreamStatus b) = true ∧ memWaits s p.2.2 = false ∧ Memory.wf s = true ∧ Clean s ∧ dramFails s spHost = false ∧
      addrOf (leAt (desc opStreamStatus b) 16 8) = some (spHost, p.2.2)) := by
  unfold Clean; decide +kernel

/-- An INGEST body: unit, index, buffer, count. -/
def ibody (unit index buf count g : Nat) : Bytes := natLE 2 0 ++ natLE 2 g ++ natLE 2 unit ++ natLE 2 0 ++ natLE 8 index ++ natLE 8 buf ++ natLE 4 count

theorem wit_IngestAccepts :
    (let b := ibody 1 0 0x1000 1048576 0
     let s := ss opIngest b { ctx := { c0 with state := 1 } }
     starts s opIngest (d0 opIngest b) = true ∧ unitBytes s (getStream s 0).ctx = 1 ∧ leAt (desc opIngest b) 12 2 = 1 ∧
     leAt (desc opIngest b) 32 4 = 1048576 ∧ leAt (desc opIngest b) 16 8 = (getStream s 0).ctx.nextSample.toNat ∧ getInst s 0 = none) ∧
    (starts (ss opIngest (ibody 1 0 0 0 0) { ctx := { c0 with state := 1 } }) opIngest (d0 opIngest (ibody 1 0 0 0 0)) = true) ∧
    (∀ st ∈ [0, 1, 2, 3, 4], starts (ss opIngest (ibody 1 7 0 1 0) { ctx := { c0 with state := st } }) opIngest (d0 opIngest (ibody 1 7 0 1 0)) = true) ∧
    (starts (ss opIngest (ibody 1 0 0 1 3) { ctx := { c0 with state := 1 } }) opIngest (d0 opIngest (ibody 1 0 0 1 3)) = true) := by
  decide +kernel

/-- Stream 0 is open, with an INGEST of `n` samples at host address 0x1000, and 15 samples of its step have been read. -/
def readSt (n : Nat) : State :=
  { ss opIngest (ibody 1 0 0x1000 n 0) { ctx := { c0 with state := 1, sampleInStep := 15 }, ingests := [⟨q0, 0x1000, 1, n, 0, 0⟩] } with
    insts := [(0, some { slot := 0, inB := false, idx := 0 })] }

theorem wit_IngestAccepts_read :
    (∀ n ∈ [1, 2], let s := readSt n
      let x := getStream s 0
      Runs s ∧ Clean s ∧ (getInst s 0).map (·.waitAck) = some none ∧ x.act = none ∧ x.ctx.state = 1 ∧ canMaster s 0 = true ∧ samplesWait s x = false ∧ samplesFail s x = false ∧
      samplesRefused s x = false ∧ x.ingests = [⟨q0, 0x1000, 1, n, 0, 0⟩] ∧ x.frameReady = false ∧ x.inputDone = false ∧ x.waiting = none ∧
      addrOf 0x1000 = some (spHost, 0x1000) ∧ 0 < x.ctx.stepLen.toNat - x.ctx.sampleInStep.toNat ∧ (findDesc s q0).isSome = true) := by
  unfold Runs Sound Clean; decide +kernel

/-- Stream 0 is open with an instance, and its step has been read. -/
def stepSt (x : Stream) : State := { ss 0 [] x with insts := [(0, some { slot := 0, inB := false, idx := 0, openStep := 3 })] }

theorem wit_StepsClose :
    (let s := stepSt { ctx := { c0 with state := 1, sampleInStep := 16 } }
     Runs s ∧ Clean s ∧ Memory.wf s = true ∧ (getInst s 0).map (·.waitAck) = some none ∧ (versionOf (getSlot s 0) false).isSome = true ∧ frontOk img0 = true ∧
     (match frontOf img0 with | some f => frontFits f (getStream s 0).ctx | none => false) = true ∧
     (getStream s 0).waiting = none ∧ (getStream s 0).inputDone = false ∧ (getStream s 0).ctx.state ≠ 0 ∧ stepRead (getStream s 0) = true ∧
     (getStream s 0).frameReady = false ∧ (convOf img0).isSome = true ∧ feNext s = none ∧
     feNext { s with feLine := [0] } = some 0) ∧
    (let s := stepSt { ctx := { c0 with state := 1, sampleInStep := 16 } }
     let s := { s with feLine := [7, 0], streams := s.streams ++ [(7, getStream s 0)], insts := s.insts ++ [(7, some { slot := 0, inB := false, idx := 0 })] }
     Runs s ∧ Clean s ∧ feNext s = some 7) ∧
    (let s := stepSt { ctx := { c0 with state := 1, sampleInStep := 15 } }
     Runs s ∧ stepRead (getStream s 0) = false) ∧
    (let s := stepSt { ctx := { c0 with state := 1, sampleInStep := 16 }, frameReady := true }
     Runs s ∧ (getStream s 0).frameReady = true ∧ feWaits s = false ∧ closable s 0 = false) ∧
    (let s := stepSt { ctx := { c0 with state := 1 }, inputDone := true }
     let i : Inst := { slot := 0, inB := false, idx := 0, openStep := 3 }
     Runs s ∧ closable s 0 = true ∧ s.flaws = [] ∧ bitOf (dirWord (evalRanks s 0 (instPlace s i) 0 8) (instPlace s i).core (instPlace s i).j 2) 30 = false) := by
  unfold Runs Sound Clean; decide +kernel

theorem wit_StepsClose_waiting :
    (let x : Stream := { ctx := { c0 with state := 1, ep := 1, actStage := 1, nstage := 2, stages := [e0, { tier := 1, slot := 64, report := true }] }
                         job := some ⟨1, 0, 0, 0, 0⟩, act := some .suspend, reports := List.replicate 2 ⟨0, 0, 1, 0, false, 0, 0, 0, 0, false⟩ }
     let s := { stepSt x with jobs := [(0, some { origin := .cascade 0 0 0 0, slot := 64, inB := false, fn := 0, level := 1, kind := 2 })] }
     Runs s ∧ (getStream s 0).act = some .suspend ∧ actWaits s 0 = true) ∧
    (let s := { stepSt { waiting := some ⟨3, 9, 1, false, false⟩ } with snapWait := [0] }
     Runs s ∧ (getStream s 0).waiting.isSome = true ∧ (getStream s 0).act = none ∧ toMove s 0 = false ∧ (getStream s 0).latched = none ∧ (getStream s 0).ctx.state ≠ 1 ∧ s.snapWait = [0]) := by
  unfold Runs Sound; decide +kernel

/-- Stream 0 is open and has a decision of confidence `q` to take. -/
def decSt (x : StreamCtx) (q : U8) : State := ss 0 [] { ctx := { x with state := 1 }, waiting := some ⟨3, q, 1, false, false⟩ }
/-- What every clause of StepDecisions asks for. -/
def decOk (s : State) : Bool :=
  let x := getStream s 0
  let e := stageOf x.ctx 0
  !s.flt.fatal && hostRuns s && clocked s 1 && s.flt.ctlBad.isEmpty && s.poison.isEmpty && s.flaws.isEmpty && s.flt.dramRet.isEmpty && x.waiting.isSome && x.act.isNone && x.latched.isNone && x.held.isNone && !x.clrPending &&
  !x.useRevoked && x.ctx.state == 1 && x.hold.isEmpty && x.reports.isEmpty && wakeOk e && prewakeOk e && holdOk e && holdCountOk e &&
  !toMove s 0 && s.snapWait.isEmpty

theorem wit_StepDecisions :
    let e1 : StageEntry := { e0 with prewake := 3, nprewake := ~~~3 }
    let c2 : StreamCtx := { c0 with nstage := 2, stages := [e1, { tier := 1, slot := 64 }] }
    decOk (decSt c0 1) = true ∧ decOk (decSt c0 2) = true ∧
    (decOk (decSt { c0 with armed := true } 5) = true ∧ e0.wake ≤ (5 : U8)) ∧
    (let s := decSt { c2 with armed := true } 3
     decOk s = true ∧ (3 : U8) < e1.wake ∧ e1.prewake ≤ (3 : U8) ∧ bitOf (reg s 0x08000) 2 = true ∧ s.snaps.length < 1024 ∧ freeSnap s = some 0) ∧
    (decOk (decSt { c2 with ep := 1 } 5) = true ∧ e1.notify = false) ∧
    (decOk (decSt { c2 with ep := 1, holdRun := 1 } 1) = true ∧ e1.holdCount ≤ (1 : U8) + 1) := by
  decide +kernel

/-- A result of stage 0 in flight for stream 0. -/
def r0 (q : U8) : CascResult := ⟨0, 0, 0, 3, 0, 1, q, 0, false, false, false, false, false⟩
def resSt (x : Stream) (q : U8) : State := { ss 0 [] x with results := [r0 q] }

/-- Stream 0 acts on the result of its job in episode state `ep`, with the records `h` held. -/
def act (h : List Record) (ep : BitVec 3) : Stream :=
  { ctx := { c0 with state := 1, ep := ep }, job := some { stage := 0, stamp := 3, gen := 0, job := 0, buf := 0 }, hold := h }
def n0 : Record := ⟨false, false, 0, 0, 1, 0, 0, 0, 0, 0, 0, 0, 0, 0, false⟩
/-- The device works, and the result of confidence `q` may be acted on. -/
def actOk (s : State) (q : U8) : Bool := !s.flt.fatal && hostRuns s && clocked s 1 && s.flt.ctlBad.isEmpty && s.results[0]? == some (r0 q) && acceptable (getStream s 0) (r0 q)

theorem wit_ResultsArrive :
    (actOk (resSt (act [] 1) 4) 4 = true ∧ actOk (resSt (act [] 3) 4) 4 = true ∧ actOk (resSt (act [n0] 3) 5) 5 = true) ∧
    (wakeOk e0 = true ∧ holdCountOk e0 = true ∧ e0.wake ≤ (5 : U8) ∧ (4 : U8) < e0.wake ∧ [n0].length < 2 ∧ b2n e0.report ≤ 2) ∧
    (actOk (resSt (act [n0, n0] 3) 5) 5 = true ∧ 2 ≤ [n0, n0].length) ∧
    (let s := resSt { ctx := { c0 with state := 1 } } 5
     Runs s ∧ acceptable (getStream s 0) (r0 5) = false ∧ (getStream s 0).job = none ∧ (stageOf (getStream s 0).ctx 0).report = false ∧
     (r0 5).reportOnly = false ∧ toMove s 0 = false) ∧
    (let s := resSt { ctx := { c0 with state := 1, stages := [{ e0 with report := true }] } } 5
     Runs s ∧ acceptable (getStream s 0) (r0 5) = false ∧ (getStream s 0).job = none ∧ (stageOf (getStream s 0).ctx 0).report = true ∧
     (getStream s 0).ctx.state ≠ 0 ∧ (getStream s 0).reports.length < 2) := by
  unfold Runs Sound; decide +kernel

theorem wit_EventsAndNeurons_dropped :
    let ev (g : Gen) : Ev := { word := eventWord 0 0 0 3 1 false 0, egen := g }
    let s (g : Gen) : State := { stepSt { ctx := { c0 with state := 1 } } with events := [ev g] }
    (Runs (s 0) ∧ (s 0).events[0]? = some (ev 0) ∧ (ev 0).src = none ∧ (s 0).events[1]? = none ∧ (eventHome (s 0) (ev 0).word.toNat).isSome = true) ∧
    ((ev 1).egen.toNat ≠ dirSgen (s 1) (fld (ev 1).word.toNat 41 9) 0) ∧
    (eventHome { s 0 with insts := [] } (ev 0).word.toNat).isNone = true := by
  unfold Runs Sound; decide +kernel

/-- Stream 0's instance on core 0 has a population of 4 neurons and two ports: port 0, dense, of 2 positions with 3 columns, and
port 1, a kernel of 2 by 2 over an input of 2 by 2; an event of value 1 is under way to position 1 of port 0. -/
def evSt : State :=
  let s := stepSt { ctx := { c0 with state := 1 } }
  let s := coreWr (coreWr s 0 (popOff 0) 4 (4 * 2 ^ 16)) 0 (portOff 0) 8 (2 + 2 * 2 ^ 32 + 3 * 2 ^ 48)
  let s := coreWr (coreWr s 0 (denseOff + 3) 3 (5 + 255 * 2 ^ 16)) 0 (portOff 1) 16 (1 + 2 * 2 ^ 32 + 2 * 2 ^ 40 + 2 ^ 48 + 2 ^ 64 + 2 ^ 72 + 2 ^ 80 + 18 * 2 ^ 88)
  let s := coreWr s 0 kernelOff 4 0x01010101
  { s with events := [{ word := eventWord 0 0 1 3 1 false 0, egen := 0 }] }

theorem wit_EventsAndNeurons_accepted :
    (Runs evSt ∧ evSt.flaws = [] ∧ Memory.wf evSt = true ∧ Canon 0 evSt.ctrs ∧ ctr evSt 0x20048 < 2 ^ 64) ∧
    coreRd evSt 0 (portOff 0) 1 % 4 ≠ 0 ∧ portTargets evSt 0 0 1 1 = some [(0, 5), (2, -1)] ∧ (popAt evSt 0 (coreRd evSt 0 (portOff 0 + 1) 1 % 64)).count = 4 ∧
    fld (controlWord evSt 0 0) 4 6 = 0 ∧ portTargets evSt 0 0 2 1 = none ∧ coreRd evSt 0 (portOff 2) 1 % 4 = 0 ∧
    coreRd evSt 0 (portOff 1) 1 % 4 = 1 ∧ (portTargets evSt 0 1 3 1).isSome = true := by
  unfold Runs Sound Canon; decide +kernel

/-- An event's contribution is added to its targets. -/
theorem test_event_adds : nextIs (.eventArrive 0) evSt
    (fun t => coreRd t 0 (accOff 0) 4 == 5 + 2 ^ 29 && coreRd t 0 (accOff 2) 4 == 0xFFFFFF + 2 ^ 29 && coreRd t 0 (accOff 1) 4 == 0) = true := by
  decide +kernel

/-- The program of model 0 adds ACC to MEM, fires against the parameter word 2 with subtraction, and ends. -/
def fireSt : State :=
  let s := coreWr (coreWr evSt 0 (opOff 0 0) 4 (0x2040 + 0x9182 * 2 ^ 16)) 0 (paramOff 0 2) 4 10
  coreWr (coreWr s 0 (neuronOff 0) 4 7) 0 (accOff 0) 4 (20 + 2 ^ 29)

theorem wit_EventsAndNeurons_neuron : Memory.wf fireSt = true ∧
    (runNeuron fireSt 0 0 0 0 true).2 = some (false, 2) ∧ coreRd (runNeuron fireSt 0 0 0 0 true).1 0 (neuronOff 0) 4 = 7 := by
  decide +kernel

/-! ## Statements about knots, slots and jobs -/

/-- An operation on knot 0, asked by descriptor 0 of pair 0. -/
def ko (op : BitVec 2) (epoch : U16) (amount : U32) : KnotOp := { op := op, knot := 0, epoch := epoch, amount := amount, fn := 0, origin := .ring q0 }
def kst (kn : Knot) (o : KnotOp) : State := { ds opKnotSignal [] with knots := smSet {} [] 0 kn, knotOps := [o] }

theorem wit_KnotOperations :
    let kn : Knot := { value := 5, nvalue := ~~~5 }
    (∀ o ∈ [ko 0 0 1, ko 0 0 0xFFFFFFFF, ko 1 0 7, ko 2 0 5, ko 2 0 6, ko 0 3 1, ko 2 3 1],
      let s := kst kn o
      Runs s ∧ s.knotOps[0]? = some o ∧ Canon {} s.knots ∧ knotRight s o = true ∧ kn.mirror = false ∧ kn.broken = false ∧
      kn.bindPend = false ∧ knotOk (getKnot s 0) = true ∧ getKnot s 0 = kn ∧ o.origin = .ring q0 ∧ (findDesc s q0).isSome = true) ∧
    (let s := { kst kn (ko 0 0 1) with prot := { active := [(protKey 4 0, 0)] } }
     Runs s ∧ knotRight s (ko 0 0 1) = false ∧ (findDesc s q0).isSome = true) ∧
    (let s := kst { kn with nvalue := 3 } (ko 0 0 1)
     Canon {} s.knots ∧ knotOk (getKnot s 0) = false ∧ knotRight s (ko 0 0 1) = true) := by
  unfold Runs Sound Canon; decide +kernel

theorem test_knot_add_saturates :
    nextIs (.knotAdd 0) (kst { value := 5, nvalue := ~~~5 } (ko 0 0 0xFFFFFFFF))
      (fun t => (getKnot t 0).value == 0xFFFFFFFF && (getKnot t 0).sat && (getKnot t 0).nvalue == 0) = true := by
  decide +kernel

theorem wit_KnotCommandsAndResets :
    let st (kn : Knot) (lost : Bool) : State := { up with knots := smSet {} [] 0 kn, lostChips := if lost then [(0, true)] else [], regs := [(0x53000, 1)] }
    (∀ kn ∈ ([{ value := 5, nvalue := ~~~5 }, { value := 5 }, { value := 5, broken := true }, { mirror := true }] : List Knot), let s := st kn true
      Reached s 0 ∧ Canon {} s.knots ∧ knotOwner s (selKnot s) = some 0 ∧ kn.bindPend = false ∧ chipLost s kn.rchip.toNat = true) ∧
    (knotOk { value := 5, nvalue := ~~~5 } = true ∧ knotOk { value := 5 } = false) ∧
    (let s := { st { rchip := 1 } false with regs := [(0x1000001, 1)] }
     Reached s 0 ∧ knotOwner s (selKnot s) = some 0 ∧ (getKnot s (selKnot s)).rchip = 1 ∧ chipLost s 1 = false) ∧
    (let s := { st {} false with prot := { active := [(protKey 4 0, 0)] } }
     Reached s 0 ∧ Canon {} s.knots ∧ knotOwner s (selKnot s) = none) ∧
    (let p := (coldReset up).pwr
     p.state = .off ∧ p.seq = [] ∧ p.tripped = false) ∧
    (up.pwr.state ≠ .off ∧ up.pwr.seq = [] ∧ hostOn up = true ∧ Runs up) := by
  unfold Runs Reached Sound Canon; decide +kernel

/-- The sections of a sound Tier 0 image: one front-end stage, one core of 16 neurons, a model that ends at once. -/
def t0secs : Bytes :=
  sec 1 1 ([1, 1] ++ natLE 2 8 ++ natLE 2 1 ++ bytesAt [] 0 10 ++ bytesAt ([8, 5, 1, 0] ++ natLE 8 0 ++ natLE 4 1025) 0 16) ++ sec 3 1 (natLE 8 (1 + 16 * 2 ^ 16)) ++
  sec 4 1 (bytesAt [] 0 136) ++ sec 5 1 (bytesAt [] 0 72) ++ sec 6 1 (bytesAt ([0, 0, 0, 0, 0, 0, 0, 0, 0, 0] ++ natLE 2 16) 0 40)
/-- The sections of a sound Tier 1 image: one core, whose code at 0 is one LI. -/
def t1secs : Bytes :=
  sec 0x21 1 (bytesAt [1, 0, 1, 1] 0 24) ++ sec 0x22 1 (natLE 8 0 ++ natLE 4 8 ++ natLE 4 1 ++ natLE 8 (2 ^ 62 + 5 * 2 ^ 22 + 0b0101010000100000000000))
/-- The sections of a sound Tier 2 image: one engine, one pool of one element. -/
def t2secs : Bytes :=
  sec 0x41 1 (bytesAt ([1, 0, 0, 0, 1, 0, 0, 0] ++ natLE 4 1 ++ natLE 4 1) 0 48) ++
  sec 0x42 1 (bytesAt ([5, 5, 5, 0] ++ natLE 2 1 ++ natLE 2 1 ++ natLE 4 1 ++ [1, 1, 1, 1] ++ natLE 2 1 ++ natLE 2 1 ++ natLE 8 0 ++ natLE 4 1 ++
    natLE 4 0x20000000 ++ natLE 4 0x40000000) 0 64)
/-- What follows the first 16 bytes of an image's header: the word `fix` brings the CRC register to 0, where zeros leave it. -/
def tailOf (secs : Bytes) (fix zeros : Nat) : Bytes := (List.replicate 16 0 ++ secs ++ natLE 4 fix) ++ List.replicate zeros 0
def t0tail : Bytes := tailOf t0secs 0x717E4CC3 3732
def t1tail : Bytes := tailOf t1secs 0x3FFD929D 3996
def t2tail : Bytes := tailOf t2secs 0x6C2BF207 3932
/-- An image of 4,096 bytes for a tier with `n` sections, and `crc` in its header. -/
def imgOf (tier : U8) (n crc : Nat) (tail : Bytes) : Bytes := natLE 4 0x4C53424E ++ [tier, 1] ++ natLE 2 n ++ natLE 4 4096 ++ natLE 4 crc ++ tail
def t0img (crc : Nat) : Bytes := imgOf 0 5 crc t0tail
def t1load : Bytes := imgOf 1 2 0xFFFFFFFF t1tail
def t2load : Bytes := imgOf 2 2 0xFFFFFFFF t2tail

theorem crc_zeros (n : Nat) : (List.replicate n (0 : U8)).foldl crcByte 0 = 0 := by
  induction n with
  | zero => rfl
  | succ n ih => rw [List.replicate_succ, List.foldl_cons, show crcByte 0 0 = 0 by decide]; exact ih

/-- The CRC register after `bs`, evaluated byte by byte. -/
def crcRun : Bytes → Nat → Nat
  | [], c => c
  | b :: r, 0 => crcRun r (crcByte 0 b).toNat
  | b :: r, c + 1 => crcRun r (crcByte (BitVec.ofNat 32 (c + 1)) b).toNat

theorem crcRun_eq (bs : Bytes) (c : U32) : crcRun bs c.toNat = (bs.foldl crcByte c).toNat := by
  induction bs generalizing c with
  | nil => rfl
  | cons b r ih =>
    rw [List.foldl_cons, ← ih]
    have h : BitVec.ofNat 32 c.toNat = c := by simp
    cases hc : c.toNat with
    | zero => rw [hc] at h; rw [← h]; rfl
    | succ m => rw [hc] at h; rw [← h]; rfl

theorem tailOf_crc (secs : Bytes) (fix zeros : Nat)
    (h : crcRun (List.replicate 16 0 ++ secs ++ natLE 4 fix) 0xFFFFFFFF = 0) : crc32 (tailOf secs fix zeros) = 0xFFFFFFFF := by
  have h2 : (List.replicate 16 0 ++ secs ++ natLE 4 fix).foldl crcByte 0xFFFFFFFF#32 = 0 :=
    BitVec.eq_of_toNat_eq ((crcRun_eq _ _).symm.trans h)
  rw [crc32, tailOf, List.foldl_append, h2, crc_zeros]; decide

theorem t0tail_crc : crc32 t0tail = 0xFFFFFFFF := tailOf_crc _ _ _ (by decide +kernel)

theorem t12_crc : headerCrcOk t1load = true ∧ headerCrcOk t2load = true := by
  have h3 : leAt t1load 12 4 = 0xFFFFFFFF ∧ leAt t2load 12 4 = 0xFFFFFFFF := by decide +kernel
  have h1 : t1load.drop 16 = t1tail := rfl
  have h2 : t2load.drop 16 = t2tail := rfl
  rw [headerCrcOk, headerCrcOk, h1, h2, t1tail, t2tail, tailOf_crc _ _ _ (by decide +kernel), tailOf_crc _ _ _ (by decide +kernel), h3.1, h3.2]
  decide

theorem t0img_crc : headerCrcOk (t0img 0xFFFFFFFF) = true ∧ headerCrcOk (t0img 0) = false := by
  have h3 : leAt (t0img 0xFFFFFFFF) 12 4 = 0xFFFFFFFF ∧ leAt (t0img 0) 12 4 = 0 := by decide +kernel
  have h (c : Nat) : (t0img c).drop 16 = t0tail := rfl
  rw [headerCrcOk, headerCrcOk, h, h, t0tail_crc, h3.1, h3.2]; decide

theorem t0img_ok : headerFits (t0img 0xFFFFFFFF) 0 4096 = true ∧ headerFits (t0img 0) 0 4096 = true ∧ (frontOf (t0img 0xFFFFFFFF)).isSome = true ∧
    (frontOf (t0img 0xFFFFFFFF)).map (·.coefB) = some 0 ∧ t0ImageOk (t0img 0xFFFFFFFF) = true ∧ t0ShapeBad (t0img 0xFFFFFFFF) = false ∧
    t0Span (t0img 0xFFFFFFFF) = 1 := by
  decide +kernel

theorem imgOf_length (tier : U8) (n crc : Nat) (tail : Bytes) : (imgOf tier n crc tail).length = 16 + tail.length := by
  simp only [imgOf, List.length_append, natLE, List.length_cons, List.length_nil]

theorem tail_lengths : t0tail.length = 4080 ∧ t1tail.length = 4080 ∧ t2tail.length = 4080 := by
  have h : t0secs.length = 328 ∧ t1secs.length = 64 ∧ t2secs.length = 128 := by decide +kernel
  simp only [t0tail, t1tail, t2tail, tailOf, List.length_append, List.length_replicate, natLE, List.length_cons, List.length_nil, h, and_self]

/-- A SLOT_LOAD of slot `k` from host address `a`, `n` bytes. -/
def lbody (k a n : Nat) : Bytes := natLE 8 k ++ natLE 8 a ++ natLE 8 n
/-- Pair 0 has this SLOT_LOAD in flight, slot `k` is `x`, and memory is `m`. -/
def lst (k a n : Nat) (m : List Host.Cell) (x : Slot) : State := { ds opSlotLoad (lbody k a n) with slots := [(k, x)], mem := m }
/-- `img` in host memory from 4096. -/
def at4k (img : Bytes) : List Host.Cell := (poke State.reset (mkey spHost 4096) img).mem
/-- What every clause of SlotLoads asks of a load. -/
def LoadOk (s : State) (k a n : Nat) : Prop :=
  Starts s 0 0 opSlotLoad (d0 opSlotLoad (lbody k a n)) ∧ Clean s ∧ (addrOf a).isSome = true ∧ memAwake s = true ∧ dramWaits s = false ∧
  dramFails s spDram = false ∧ loadWaits s k = false ∧ leAt (d0 opSlotLoad (lbody k a n)).bytes 8 1 = k ∧
  leAt (d0 opSlotLoad (lbody k a n)).bytes 16 8 = a ∧ leAt (d0 opSlotLoad (lbody k a n)).bytes 24 4 = n

theorem lbody_ok : ∀ k ∈ [0, 64, 192], mayLoad State.reset 0 k = true ∧
    mayStart (getRing (ds opSlotLoad (lbody k 4096 4096)) 0) 0 = some (d0 opSlotLoad (lbody k 4096 4096)) ∧
    descOp (d0 opSlotLoad (lbody k 4096 4096)).bytes = opSlotLoad ∧ leAt (d0 opSlotLoad (lbody k 4096 4096)).bytes 8 1 = k ∧
    leAt (d0 opSlotLoad (lbody k 4096 4096)).bytes 16 8 = 4096 ∧ leAt (d0 opSlotLoad (lbody k 4096 4096)).bytes 24 4 = 4096 := by
  decide +kernel

theorem lst_rights (k : Nat) (hk : k ∈ [0, 64, 192]) (m : List Host.Cell) (x : Slot) :
    descRights (lst k 4096 4096 m x) 0 (d0 opSlotLoad (lbody k 4096 4096)).bytes = (true, lst k 4096 4096 m x) := by
  obtain ⟨h1, -, h2, h3⟩ := lbody_ok k hk
  have h1 : mayLoad (lst k 4096 4096 m x) 0 k = true := h1
  have h4 : addrOf 4096 = some (spHost, 4096) := by decide
  generalize (d0 opSlotLoad (lbody k 4096 4096)).bytes = b at h2 h3 ⊢
  have h5 : descKnotsOk (lst k 4096 4096 m x) 0 b = true := by simp [descKnotsOk, h2, opSlotLoad, opKnotSignal, opKnotWait, opJobRun, opTrainStep]
  unfold descRights descRanges
  rw [h2, h3.1, h3.2.1, h3.2.2]
  simp [h5, opSlotLoad, opStreamOpen, opStreamClose, opStreamStatus, opIngest, h1, rangeRight, h4, devCheck]

theorem lst_ok (k : Nat) (hk : k ∈ [0, 64, 192]) (m : List Host.Cell) (x : Slot) (h : x.load = none ∧ x.verB = none ∧ x.activeB = false) :
    LoadOk (lst k 4096 4096 m x) k 4096 4096 := by
  have hw : loadWaits (lst k 4096 4096 m x) k = false := by
    have hx : getSlot (lst k 4096 4096 m x) k = x := by simp [getSlot, lst, smGet]
    simp [loadWaits, hx, h, versionOf]
  have hb := (lbody_ok k hk).2
  exact ⟨⟨⟨rfl, rfl, rfl, rfl⟩, hb.1, hb.2.1, lst_rights k hk m x⟩, ⟨rfl, rfl, rfl⟩, rfl, rfl, rfl, rfl, hw, hb.2.2⟩

theorem lst_peek (k a n : Nat) (img : Bytes) (x : Slot) (h : img.length = 4096) :
    peek (lst k a n (at4k img) x) (mkey spHost 4096) 4096 = img := by
  have h1 := peek_poke (s := State.reset) (mkey spHost 4096) img (by decide +kernel)
  rw [h] at h1
  refine (peek_of_mem (t := lst k a n (at4k img) x) (s := poke State.reset (mkey spHost 4096) img) rfl ?_ _ _).trans h1
  rw [poke_lost]; rfl

theorem t0img_length (c : Nat) : (t0img c).length = 4096 := by rw [t0img, imgOf_length, tail_lengths.1]
theorem t12_length : t1load.length = 4096 ∧ t2load.length = 4096 := by
  rw [t1load, t2load, imgOf_length, imgOf_length, tail_lengths.2.1, tail_lengths.2.2]; decide

/-- A Tier 0 image is admitted to the active range and, while a stream holds an instance, to the other one. -/
theorem wit_SlotLoads_t0 :
    let x : Slot := { placeA := 512, placeB := 512 + 1, verA := some { number := 0, image := t0img 0xFFFFFFFF } }
    let u : State := { up with slots := [(0, x)] }
    let w : State := { u with insts := [(5, some { slot := 0, inB := false, idx := 0 })] }
    LoadOk (lst 0 4096 4096 (at4k (t0img 0xFFFFFFFF)) x) 0 4096 4096 ∧
    peek (lst 0 4096 4096 (at4k (t0img 0xFFFFFFFF)) x) (mkey spHost 4096) 4096 = t0img 0xFFFFFFFF ∧
    slotInsts u 0 = 0 ∧ t0Refusal u 0 (t0img 0xFFFFFFFF) false = none ∧ slotInsts w 0 = 1 ∧ t0Refusal w 0 (t0img 0xFFFFFFFF) true = none ∧
    t0Refusal { u with slots := [(0, { x with placeA := 0 })] } 0 (t0img 0xFFFFFFFF) false = some 9 :=
  ⟨lst_ok 0 (by decide) _ _ ⟨rfl, rfl, rfl⟩, lst_peek _ _ _ _ _ (t0img_length _), by decide +kernel⟩

theorem wit_SlotLoads_t1 :
    let x : Slot := { placeA := 1 * 2 ^ 8 + 1 * 2 ^ 13 }
    let u : State := { up with slots := [(64, x)] }
    LoadOk (lst 64 4096 4096 (at4k t1load) x) 64 4096 4096 ∧ peek (lst 64 4096 4096 (at4k t1load) x) (mkey spHost 4096) 4096 = t1load ∧
    headerCrcOk t1load = true ∧ headerFits t1load 64 4096 = true ∧ tierOf 64 = 1 ∧ t1ImageOk u 64 t1load = true ∧ t1W t1load ≤ placeW x.placeA.toNat ∧
    t1H t1load ≤ placeH x.placeA.toNat ∧ placeOk x.placeA.toNat = true ∧ placeClash u 64 false x.placeA.toNat = false ∧
    (deviceBlobsOk u 0 t1load).1 = true ∧ t1Cores t1load = 1 :=
  ⟨lst_ok 64 (by decide) _ _ ⟨rfl, rfl, rfl⟩, lst_peek _ _ _ _ _ t12_length.1, t12_crc.1, by decide +kernel⟩

theorem wit_SlotLoads_t2 :
    let x : Slot := { placeA := 3 }
    let u : State := { up with slots := [(192, x)] }
    LoadOk (lst 192 4096 4096 (at4k t2load) x) 192 4096 4096 ∧ peek (lst 192 4096 4096 (at4k t2load) x) (mkey spHost 4096) 4096 = t2load ∧
    headerCrcOk t2load = true ∧ headerFits t2load 192 4096 = true ∧ tierOf 192 = 2 ∧ t2ImageOk u 192 t2load = true ∧ t2ShapeBad t2load = false ∧
    t2Neng t2load ≤ (rankEngines 3 (t2Neng t2load)).length ∧ residentClash u 192 false (resRanges t2load 0) 0 = false ∧
    (deviceBlobsOk u 0 t2load).1 = true ∧ (scratchOk u 0 t2load).1 = true :=
  ⟨lst_ok 192 (by decide) _ _ ⟨rfl, rfl, rfl⟩, lst_peek _ _ _ _ _ t12_length.2, t12_crc.2, by decide +kernel⟩

theorem wit_SlotLoads_refused :
    LoadOk (lst 0 4095 4096 [] {}) 0 4095 4096 ∧
    (LoadOk (lst 0 4096 4096 [] {}) 0 4096 4096 ∧ leAt (peek (lst 0 4096 4096 [] {}) (mkey spHost 4096) 4096) 0 4 = 0) ∧
    (LoadOk (lst 0 4096 4096 (at4k (t0img 0)) {}) 0 4096 4096 ∧
     peek (lst 0 4096 4096 (at4k (t0img 0)) {}) (mkey spHost 4096) 4096 = t0img 0) :=
  ⟨by unfold LoadOk Starts Runs Sound Clean; decide +kernel, ⟨lst_ok 0 (by decide) _ _ ⟨rfl, rfl, rfl⟩, by decide +kernel⟩,
    lst_ok 0 (by decide) _ _ ⟨rfl, rfl, rfl⟩, lst_peek _ _ _ _ _ (t0img_length _)⟩

theorem wit_SlotLoads_complete :
    let v : Version := { number := 1, image := [] }
    let x : Slot := { placeA := 512, verA := some v, load := some { ref := q0 } }
    let s := lst 0 0 0 [] x
    (Runs s ∧ (getSlot s 0).load.isSome = true ∧ versionHeld s 0 true = false ∧ versionOf (getSlot s 0) false = some v ∧ (findDesc s q0).isSome = true) ∧
    (let s := lst 0 0 0 [] { x with load := none }
     Runs s ∧ (getSlot s 0).load = none ∧ versionHeld s 0 true = false ∧ (versionOf (getSlot s 0) false).isSome = true) ∧
    (let s := { lst 0 0 0 [] { x with load := none } with insts := [(0, some { slot := 0, inB := true, idx := 0 })] }
     Runs s ∧ versionHeld s 0 true = true) := by
  unfold Runs Sound; decide +kernel

/-! ## Statements about jobs -/

/-- The hypotheses of Starts, word for word. -/
def StartsP (s : State) (op : Nat) (d : Desc) : Bool := starts s op d && s.poison.isEmpty && s.flaws.isEmpty && s.flt.dramRet.isEmpty && memAwake s

/-- A Tier 1 image of one core that may train. -/
def t1img : Bytes := bytesAt (List.replicate 6 0 ++ natLE 2 1) 0 32 ++ sec 0x21 1 (bytesAt ([1, 0, 1, 1] ++ bytesAt [] 0 12 ++ natLE 4 512 ++ [2]) 0 24)
/-- Slot 64 has it in force, and pair 0 has a descriptor with this opcode and body. -/
def jst (op : Nat) (body : Bytes) : State :=
  { ds op body with slots := [(64, { verA := some { number := 3, image := t1img } })], mem := cells (mkey spDram 0x1000) (natLE 4 0x5453424E ++ [1, 0, 1]) ++ (ds op body).mem }
/-- A JOB_RUN or TRAIN_STEP of `slot` with batch `n`, priority 2 and state at DRAM offset `a`. -/
def jbody (slot n a : Nat) : Bytes := natLE 1 slot ++ [2] ++ natLE 2 n ++ natLE 4 0 ++ natLE 16 0 ++ natLE 8 (2 ^ 63 + a) ++ natLE 8 0 ++ natLE 8 0 ++ [0, 1]

theorem wit_JobsQueueAndStart_queue :
    (let s := jst opJobRun (jbody 64 1 0)
     StartsP s opJobRun (d0 opJobRun (jbody 64 1 0)) = true ∧ (activeVersion s 64).isSome = true ∧
     ((activeVersion s 64).map (batchOk (desc opJobRun (jbody 64 1 0)))) = some true ∧ slotOut s 64 false = false) ∧
    (let s := { jst opJobRun (jbody 64 1 0) with cores := [(1, { slot := 64, st := 1 })], flt := { up.flt with outOf := [(3 * 4096 + 1, true)] } }
     StartsP s opJobRun (d0 opJobRun (jbody 64 1 0)) = true ∧ (activeVersion s 64).isSome = true ∧ slotOut s 64 false = true) ∧
    (∀ q ∈ [(64, 0), (65, 1), (0, 1)], let b := jbody q.1 q.2 0
      let s := jst opJobRun b
      StartsP s opJobRun (d0 opJobRun b) = true ∧
      (activeVersion s q.1 = none ∨ tierOf q.1 = 0 ∨ (activeVersion s q.1).map (batchOk (desc opJobRun b)) = some false)) ∧
    (∀ a ∈ [0x1000, 0x2000], let b := jbody 64 1 a
      let s := jst opTrainStep b
      StartsP s opTrainStep (d0 opTrainStep b) = true ∧ addrOn s (desc opTrainStep b) 32 = true ∧
      addrOf (leAt (desc opTrainStep b) 32 8) = some (spDram, a) ∧ leAt (desc opTrainStep b) 57 1 % 4 ≠ 3 ∧
      ((activeVersion s 64).map (batchOk (desc opTrainStep b))) = some true ∧ ((activeVersion s 64).map (trains s 64)) = some true ∧
      dramFails s spDram = false ∧ (devCheck s 0 spDram a 64 false none).1 = true ∧ slotOut s 64 false = false ∧
      trainHeaderOk (peek s (mkey spDram a) 64) = decide (a = 0x1000)) := by
  decide +kernel

/-- Core 1 is in slot 64, whose queue holds the jobs `js`. -/
def qst (js : List (Nat × Option Job)) (run : Option Nat) : State :=
  { bs { slot := 64, st := 1 } with jobs := js, slots := [(64, { verA := some { number := 3, image := t1img }, runA := run })] }
/-- A host job at level `l`. -/
def hj (l : Nat) : Job := { origin := .host q0, slot := 64, inB := false, fn := 0, level := l, kind := 0 }

theorem wit_JobsQueueAndStart_take :
    (let s := qst [(4, some (hj 1)), (7, some (hj 3))] none
     Runs s ∧ Canon {} s.cores ∧ tierOf 64 = 1 ∧ bobRuns s = true ∧ (versionOf (getSlot s 64) false).isSome = true ∧ repairHolds s 64 false = false ∧
     runOf (getSlot s 64) false = none ∧ pickJob (readyJobs s 64 false) = some (7, hj 3) ∧ startRights s (hj 3) = (true, s)) ∧
    pickJob (readyJobs (qst [] none) 64 false) = none := by
  unfold Runs Sound Canon; decide +kernel

/-- A Tier 2 image of `n` engines with one layer whose entry begins with `l`, and the optimiser slot 64. -/
def t2img (n : Nat) (l : Bytes) : Bytes :=
  bytesAt (List.replicate 6 0 ++ natLE 2 2) 0 32 ++ sec 0x41 1 (bytesAt [BitVec.ofNat 8 n, 2, 64, 0, 1] 0 40) ++ sec 0x42 1 (bytesAt l 0 64)
/-- A Tier 2 job of slot 192. -/
def cj : Job := { hj 2 with slot := 192 }
/-- Slot 192 has such an image on engines 0 and 1, and job 0 is `j`. -/
def cst (img : Bytes) (j : Job) : State :=
  { bs {} with jobs := [(0, some j)], nextJob := 1
               slots := [(64, { verA := some { number := 3, image := t1img } }), (192, { placeA := 3, verA := some { number := 5, image := img } })] }

theorem wit_JobsQueueAndStart_grant :
    (∀ n ∈ [1, 2], let s := cst (t2img n [5]) cj
      let j' := { cj with engines := [0] }
      Runs s ∧ Canon none s.jobs ∧ chmRuns s = true ∧ (getEngine s 0).job = none ∧ smGet false s.flt.outOf (4 * 4096 + 0) = false ∧
      engineMoves s 0 = false ∧ pickJob (waitingFor s 0) = some (0, cj) ∧ holdsAll s j' = decide (n = 1) ∧
      (let u := setJob { s with engines := smSet {} s.engines 0 { job := some 0 } } 0 (some j')
       startRights u j' = (true, u))) ∧
    (∀ q ∈ [(0, hj 1), (1, hj 2)], q.2.attempt ≤ 1) ∧ pickJob [(0, hj 1), (1, hj 2)] = some (1, hj 2) := by
  unfold Runs Sound Canon; decide +kernel

/-- Job 0 of slot 64 is `j`, and runs on core 1, which is `k`. -/
def est (j : Job) (k : Core) : State :=
  { bs { k with slot := 64, job := some 0 } with
    jobs := [(0, some j)], slots := [(64, { verA := some { number := 3, image := t1img }, runA := some 0 })]
    rings := [(0, { enabled := true, inflight := [{ d0 opJobRun [] with started := true }] })] }
def rj : Job := { hj 1 with st := .running }
def ended : Core := { ending := true, st := 4 }

theorem wit_JobsEnd :
    (∀ j ∈ ([rj, { rj with sig := some (0, 0, 1) }, { rj with err := some 2 }, { rj with origin := .cascade 0 0 1 4, kind := 2 }] : List Job),
      let s := est j { ended with jobBlock := bytesAt [] 0 0x30 ++ [7, 0, 9, 1] }
      Runs s ∧ runOf (getSlot s 64) false = some 0 ∧ getJob s 0 = some j ∧ tierOf 64 = 1 ∧ jobRuns s 0 = true ∧ jobCores s 0 = [1] ∧
      (jobCores s 0).all (fun c => coreDone (getCore s c)) = true ∧ (versionOf (getSlot s 64) false).isSome = true ∧
      (findDesc s q0).map (·.done) = some none) ∧
    jobStatus { rj with origin := .cascade 0 0 1 4, kind := 2 } 0 = 0 ∧
    (let s := est rj {}
     Runs s ∧ runOf (getSlot s 64) false = some 0 ∧ (jobCores s 0).all (fun c => coreDone (getCore s c)) = false) ∧
    (let r := { cj with st := .running }
     let e (j : Job) : State := { cst (t2img 1 [5]) j with rings := (est rj {}).rings }
     (∀ j ∈ ([{ r with layer := 1 }, { r with err := some 3 }] : List Job), Runs (e j) ∧ getJob (e j) 0 = some j ∧
       (j.err ≠ none ∨ curPlace (jobImage (e j) j) j = none) ∧ (findDesc (e j) q0).map (·.done) = some none) ∧
     (let j : Job := { r with kind := 1, mode := 2 }
      let s := e j
      Runs s ∧ getJob s 0 = some j ∧ curPlace (jobImage s j) j = none ∧ t2OptSlot (jobImage s j) = 64 ∧ (activeVersion s 64).isSome = true ∧
      s.nextJob ≠ 0 ∧ slotOut s 64 false = false) ∧
     (let j : Job := { r with kind := 1, mode := 0, layer := 1, stateAddr := BitVec.ofNat 64 (2 ^ 63 + 0x1000) }
      let s := e j
      Runs s ∧ Clean s ∧ Memory.wf s = true ∧ getJob s 0 = some j ∧ curPlace (jobImage s j) j = none ∧ j.finished = false ∧
      addrOf j.stateAddr.toNat = some (spDram, 0x1000) ∧ (jobAccess s 0 spDram 0x100C 4 false).1 = true ∧ (jobAccess s 0 spDram 0x100C 4 true).1 = true)) := by
  unfold Runs Sound Clean; decide +kernel

/-- A DMA_COPY body. -/
def cbody (codec src dst len max : Nat) : Bytes := natLE 8 codec ++ natLE 8 src ++ natLE 8 dst ++ natLE 4 len ++ natLE 4 max
/-- A tensor of one block of zeros, with layout 0 and no table. -/
def tensor1 : Bytes :=
  let h := natLE 4 0x4342424E ++ natLE 4 1 ++ natLE 4 1 ++ natLE 4 0 ++ natLE 8 0xFFFFFFFF00000000 ++ natLE 8 0xFFFFFFFF00000000 ++ natLE 4 0x1048 ++ bytesAt [] 0 26
  h ++ natLE 2 (crc16 (h.take 16 ++ h.drop 32))
/-- Pair 0 has this copy, and host memory holds the tensor at 0x10000. -/
def cpst (b : Bytes) : State :=
  let s := ds opDmaCopy b
  { s with mem := cells (mkey spHost 0x10000) tensor1 ++ cells (mkey spHost 0x11040) (bytesAt [] 0 6 ++ natLE 2 (crc16 (bytesAt [] 0 6))) ++ s.mem }
/-- An address in the shared area of Gallery. -/
def gal : Nat := 2 ^ 63 + 2 ^ 38 + galShared

theorem wit_Copies :
    (∀ b ∈ [cbody 0 0x1001 (gal + 3) 5 5, cbody 1 0x1000 gal 1024 0x2000, cbody 2 0x10000 gal 0x1048 1024],
      let s := cpst b
      StartsP s opDmaCopy (d0 opDmaCopy b) = true ∧ Memory.wf s = true ∧ addrOn s (desc opDmaCopy b) 16 = true ∧ addrOn s (desc opDmaCopy b) 24 = true ∧
      (match copyArgs (desc opDmaCopy b) with
       | some a => copyArgsOk a && !dramFails s a.src.1 && !dramFails s a.dst.1
       | none => false) = true) ∧
    (let b := cbody 0 (2 ^ 63 + 0x1000) gal 64 64
     let s := { cpst b with plls := up.plls.modify 4 (fun x => { x with locked := false, fault := true }) }
     StartsP s opDmaCopy (d0 opDmaCopy b) = true ∧ addrOn s (desc opDmaCopy b) 16 = true ∧ dramFails s spDram = true ∧
     (copyArgs (desc opDmaCopy b)).map (fun a => (copyArgsOk a, a.src.1)) = some (true, spDram)) ∧
    (let b := cbody 2 0x1000 gal 64 64
     let s := cpst b
     StartsP s opDmaCopy (d0 opDmaCopy b) = true ∧ (match snapshot (rdAt s (spHost, 0x1000)) none with | (.inl _, _) => true | _ => false) = true) ∧
    (let s := cpst (cbody 2 0x10000 gal 0x1048 1024)
     (match snapshot (rdAt s (spHost, 0x10000)) none with
      | (.inr sn, _) => sn.bytes == 0x1048 && sn.nblk == 1 && (readBlocks (rdAt s (spHost, 0x10000)) sn 0 sn.nblk).2.2.1.isNone
      | _ => false) = true) ∧
    (∀ c ∈ [0, 1, 2, 3], let b := cbody c 0x1001 gal 0 0
      let s := cpst b
      StartsP s opDmaCopy (d0 opDmaCopy b) = true ∧ leAt (desc opDmaCopy b) 8 1 % 4 = c ∧
      (copyArgs (desc opDmaCopy b)).map copyArgsOk = some false) := by
  decide +kernel

theorem blockCols_zero : blockCols (List.replicate 1024 0) = List.replicate 32 (List.replicate 32 0) := by
  have h : i8 0 = 0 := by decide
  have h0 (k : Nat) : ((List.replicate 1024 (0 : Int))[k]?.getD 0) = 0 := by rw [List.getElem?_replicate]; split <;> rfl
  rw [blockCols, List.map_replicate, h]
  simp only [h0]; decide

theorem buildTable_zero : buildTable (List.replicate 1024 0) 1 = [] := by
  have h : (List.drop (1024 * (0 * ((1 + 65535) / 65536))) (List.replicate 1024 (0 : U8))).take 1024 = List.replicate 1024 0 := by
    rw [List.drop_replicate, List.take_replicate, show min 1024 (1024 - 1024 * (0 * ((1 + 65535) / 65536))) = 1024 by decide]
  have h2 : List.range ((1 + (1 + 65535) / 65536 - 1) / max 1 ((1 + 65535) / 65536)) = [0] := by decide
  unfold buildTable
  simp only [h2, List.foldl_cons, List.foldl_nil, h, blockCols_zero]
  decide +kernel

/-- A packed block of zeros takes 16 bytes after the table. -/
theorem wit_Copies_pack :
    (∀ m ∈ [0x2000, 0x1000], let b := cbody 1 0x1000 gal 1024 m
      StartsP (cpst b) opDmaCopy (d0 opDmaCopy b) = true ∧ peek (cpst b) (mkey spHost 0x1000) 1024 = List.replicate 1024 0) ∧
    (let z : Bytes := List.replicate 1024 0
     (packedBytes (buildTable z 1) 0 1 [codedBytes (encodeBlock (blockCols z) (buildTable z 1)) z 0]).2.2.length = 16) := by
  refine ⟨by decide +kernel, ?_⟩
  simp only [buildTable_zero, blockCols_zero]; decide +kernel

/-- Core 1 runs job 0 of slot 64 with this descriptor on channel 0; `more` follows the bytes 1, 242, 80 of its row. -/
def bdSt (d : DmaDesc) (more : Bytes) : State :=
  { est rj { st := 2, dmas := [d] } with
    mem := cells (mkey (spBobbin 1) 0x40) ([1, 242, 80] ++ more) ++ cells (mkey (spBobbin 1) 0x1000) tensor1 ++
      cells (mkey (spBobbin 1) 0x2040) (bytesAt [] 0 6 ++ natLE 2 (crc16 (bytesAt [] 0 6))) }
/-- A descriptor of one row: `op`, whether its source is local, source, destination, bytes. -/
def dd (op : U8) (loc : Bool) (src dst n : Nat) : DmaDesc := ⟨0, BitVec.ofNat 64 src, BitVec.ofNat 64 dst, n, 1, op, loc, !loc, false, 0, 0, false, 0, 0⟩
def msg0 (dep : U16) (j : U8) : Msg := { dst := 1, depoch := dep, src := 2, sepoch := 0, jseq := j, srcRank := 1, dstRank := 0, hdr := 0, payload := [], order := 0 }
/-- Core 1 runs a job, core 2 runs one too if `snd`, and a message is on its way from 2 to 1. -/
def msgSt (k : Core) (m : Msg) (snd : Bool) : State :=
  { bs k with cores := [(1, k)] ++ (if snd then [(2, bk)] else []), msgs := [m] }

theorem wit_BobbinTransfers_dma :
    (∀ q ∈ [(dd 0 true 0x40 (2 ^ 63 + 0x3000) 3, true), (dd 0 false (2 ^ 63 + 0x3000) 0x41 3, true), (dd 0 true 0x40 (2 ^ 63 + 191 * 2 ^ 30) 3, false),
        (dd 2 true 0x40 (2 ^ 63 + 0x3000) 3, true), (dd 2 true 0x40 (2 ^ 63 + 0x3000) 4, true), (dd 1 true 0x1000 (2 ^ 63 + 0x3000) 1024, true)],
      let d := q.1
      let s := bdSt d (if d.rowBytes = 4 then [243] else [])
      let k := getCore s 1
      Runs s ∧ k.job = some 0 ∧ k.dmas.find? (fun d => d.ch == 0) = some d ∧ d.ran = false ∧ dmaMayRun s 0 d = true ∧ jobFailed s 0 = false ∧
      d.srcLoc ≠ d.dstLoc ∧ d.rows = 1 ∧ Memory.wf s = true ∧ Clean s ∧
      (match dmaEnd d.srcLoc d.src with
       | .loc a => decide (a + d.rowBytes ≤ sramSize)
       | .dev sp off => (jobAccess s 0 sp off d.rowBytes false).1) = true ∧
      (match dmaEnd d.dstLoc d.dst with
       | .loc a => decide (a + d.rowBytes ≤ sramSize)
       | .dev sp off => (jobAccess s 0 sp off d.rowBytes true).1) = q.2 ∧
      (∀ b ∈ peek s (mkey (spBobbin 1) 0x40) 3, b.toNat ≤ 242) ∧ (peek s (mkey (spBobbin 1) 0x40) 4).any (fun b => decide (242 < b.toNat)) = decide (d.rowBytes = 4)) ∧
    (let s := bdSt (dd 1 true 0x1000 (2 ^ 63 + 0x3000) 1024) []
     let rd := expandRd s 1 0 (dmaEnd true 0x1000)
     (match snapshot rd (some false) with
      | (.inr sn, rs) => (readBlocks rd sn 0 1).2.2.1.isNone && (rs ++ (readBlocks rd sn 0 1).2.2.2).all (fun r => decide (0x1000 + r.1 + r.2 ≤ sramSize))
      | _ => false) = true) ∧
    (let d := { dd 0 true 0x40 (2 ^ 63 + 0x3000) 3 with ran := true }
     let s := bdSt d []
     Runs s ∧ (getCore s 1).job = some 0 ∧ (getCore s 1).dmas.find? (fun d => d.ch == 0) = some d ∧ (getCore s 1).ksigs = []) := by
  unfold Runs Sound Clean; decide +kernel

theorem wit_BobbinTransfers_messages :
    (∀ q ∈ [(0, 0, true), (0, 5, true), (0, 0, false), (5, 0, true)],
      let m := msg0 (BitVec.ofNat 16 q.1) (BitVec.ofNat 8 q.2.1)
      let s := msgSt bk m q.2.2
      Runs s ∧ s.msgs[0]? = some m ∧ coreAt s 1 = some 1 ∧ (getCore s 1).slot ≠ 0 ∧ s.pwr.bobUp = true ∧ (∀ x, senderOf s m = some x → (getCore s x).ksigs = []) ∧ (getCore s 1).job ≠ none ∧ (getCore s 1).inbox.length < 64 ∧
      (senderOf s m).isSome = (q.2.2 && q.2.1 == 0) ∧ decide ((getCore s 1).epoch = m.depoch) = (q.1 == 0)) ∧
    (let s := msgSt { bk with inbox := List.replicate 64 [] } (msg0 0 0) true
     Runs s ∧ 64 ≤ (getCore s 1).inbox.length) ∧
    (∀ snd ∈ [true, false], let m := msg0 0 0
      let s := { msgSt bk m snd with msgs := [], bounces := [m] }
      Runs s ∧ s.bounces[0]? = some m ∧ (senderOf s m).isSome = snd ∧ (getCore s 2).eq.length < 16 ∧ (getCore s 2).ksigs = []) ∧
    (let s := { msgSt bk (msg0 0 0) true with msgs := [{ msg0 0 0 with dst := 300 }] }
     Runs s ∧ coreAt s 300 = none) ∧
    (let m := msg0 0 0
     let s := { msgSt bk m true with cores := [(1, bk), (2, { bk with eq := List.replicate 16 [] })], bounces := [m] }
     Runs s ∧ (senderOf s m) = some 2 ∧ 16 ≤ (getCore s 2).eq.length) := by
  unfold Runs Sound; decide +kernel

/-- Job 0 of slot 192 runs, and its next layer begins with `l`. -/
def lyst (l : Bytes) (j : Job) : State := { cst (t2img 1 l) { j with st := .running } with link := up.link, fns := up.fns }

/-- A RESULT of three scores that writes to OUT. -/
def resL : Bytes := bytesAt ([6, 0, 0, 0, 0, 0, 0, 0] ++ natLE 2 3) 0 0x24 ++ natLE 4 0x40000000

theorem wit_LayersRun :
    (∀ op ∈ ([1, 2, 3, 4, 5] : List U8), let s := lyst [op] cj
      Runs s ∧ (match readyLayer s 0 false with
        | some (j, img, p, l) => l.op == op.toNat && !jobFailed (runRanks s 0 img j p l).2 0 && !endsReplay img j l && !jobFailed (writeOuts (runRanks s 0 img j p l).2 0 l (runRanks s 0 img j p l).1) 0
        | none => false) = true) ∧
    (let s := lyst ([6, 0, 0, 0, 0, 0, 0, 0] ++ natLE 2 2) { cj with kind := 2, origin := .cascade 0 0 1 4 }
     Runs s ∧ (match readyLayer s 0 false with
       | some (j, img, _, l) => l.op == lopResult && j.kind == 2 && l.ic == 2 &&
           !jobFailed (tgtRead s 0 (refTgt img j (((jobRanks s j)[l.first]?).getD 0) l.inRef) 0 l.ic).2 0
       | none => false) = true) ∧
    (let s := lyst ([0x14, 0, 0, 0] ++ natLE 2 1024 ++ natLE 2 1024 ++ natLE 2 1 ++ natLE 2 1) cj
     Runs s ∧ readyLayer s 0 false = none ∧ smGet false s.flt.retired (5 * 4096 + 0) = false ∧
     (match readyLayer s 0 true with | some (j, _, _, l) => decide (j.piece + 1 < edgPieces l) && edgNext s 0 j 0 | none => false) = true ∧
     edgNext { s with flt := { s.flt with retired := [(5 * 4096, true)] } } 0 { cj with st := .running } 0 = false) ∧
    (let s := lyst [0x14] cj
     Runs s ∧ (match readyLayer s 0 true with
       | some (j, img, p, l) => decide (edgPieces l ≤ j.piece + 1) && edgNext s 0 j 0 && !jobFailed (runRanks (edgPass s (some 0)) 0 img j p l).2 0 &&
           !jobFailed (writeOuts (runRanks (edgPass s (some 0)) 0 img j p l).2 0 l (runRanks (edgPass s (some 0)) 0 img j p l).1) 0
       | none => false) = true) ∧
    readyLayer (lyst [5] cj) 0 true = none ∧ ([3, 9, 9] : Bytes) ≠ [] := by
  unfold Runs Sound; decide +kernel

theorem wit_LayersRun_host :
    (let s := { lyst resL { cj with outAddr := BitVec.ofNat 64 (2 ^ 63 + 0x3000) } with mem := cells (mkey (spChamber 0) 0) [3, 9, 9] }
     Runs s ∧ Memory.wf s = true ∧ Clean s ∧ (match readyLayer s 0 false with
       | some (j, img, _, l) => l.op == lopResult && j.kind == 0 && (match refTgt img j 0 l.outRef with | .dev sp off => sp == spDram && off == 0x3000 | _ => false) && (jobAccess s 0 spDram 0x3000 4 true).1
       | none => false) = true) := by
  unfold Runs Sound Clean; decide

theorem test_result_lowest_index : bestScore [3, 9, 9] = (1, 9) := by
  decide

/-! ## Statements about protection, resets, clocks and power -/

/-- `up` with these protection tables, and stream 0 in state `st`. -/
def pst (p : Prot) (st : BitVec 3) : State := { up with prot := p, streams := [(0, { ctx := { state := st } })] }

theorem wit_ProtectionCommits :
    (∀ p ∈ ([{}, { busy := true }, { shadow := [(protKey 0 0, 0)] }, { shadow := [(protKey 3 5, 2 ^ 43 + 2 ^ 16)] }] : List Prot),
      let s := pst p 1
      Reached s 0 ∧ Canon {} s.streams) ∧
    (protSelOk (pst {} 1) = true ∧ protSelOk { up with regs := [(0x10000, 7)] } = false) ∧ tablesOk ([] : SMap (BitVec 128)) = true ∧
    tablesOk [(protKey 3 5, 2 ^ 43 + 2 ^ 16 + 2 ^ 33)] = false ∧
    (tablesOk [(protKey 0 0, 0)] = true ∧ validOwner (protIn [(protKey 0 0, 0)] 0 0) 0 6 = false ∧ reportRoom (getStream (pst {} 1) 0) = true ∧
      (getStream (pst {} 1) 0).act = none) ∧
    (let s := { up with jobs := [(0, some { hj 1 with revoked := true })] }
     Runs s ∧ s.jobs.any (fun e => match e.2 with | some j => j.revoked | none => false) = true) ∧
    (Runs up ∧ up.jobs = [] ∧ up.knotOps = []) := by
  unfold Runs Reached Sound Canon; decide +kernel

theorem wit_FunctionResets :
    (let s := { up with
       vfEnable := true, rings := [(0, { enabled := true, rgen := 3 })], fns := [(1, { bme := true })], jobs := [(0, some { hj 1 with fn := 1 })]
       prot := { active := [(protKey 1 0, 1 + 2 ^ 12)] }, streams := [(0, { ctx := { state := 1, owner := 1 } })] }
     Runs s ∧ Canon {} s.rings ∧ Canon {} s.fns ∧ Canon {} s.streams ∧ Canon none s.jobs ∧ fnPresent s 1 = true ∧ ownsRing s 1 0 = true ∧
     (getJob s 0).isSome = true) ∧
    (let s := { up with vfEnable := true, jobs := [(0, some (hj 1))], streams := [(0, { ctx := { state := 1 } })] }
     Runs s ∧ Canon {} s.rings ∧ Canon {} s.fns ∧ Canon {} s.streams ∧ Canon none s.jobs ∧ (getJob s 0).map (·.fn) = some 0) ∧
    (Runs up ∧ Canon {} up.rings ∧ Canon {} up.fns ∧ Canon {} up.streams ∧ Canon none up.jobs ∧ fnPresent up 1 = false) := by
  unfold Runs Sound Canon; decide +kernel

/-- The device in power state `st` with the sequence `q` in progress. -/
def pw (st : PState) (q : List U8) : State := { up with pwr := { up.pwr with state := st, seq := q } }

theorem wit_DeviceResets :
    (let s := { pst {} 1 with knots := [(3, { value := 4 })] }
     hostOn s = true ∧ Canon {} s.streams ∧ s.flaws = [] ∧ (getStream s 0).ctx.state = 1 ∧ s.pwr.state ≠ .off ∧ s.pwr.seq = [] ∧ smGet 0 s.lost 0 = 0 ∧
     Memory.wf s = true) ∧
    hostOn (pw .retain []) = false ∧ (pw .idle [0x20]).pwr.seq ≠ [] ∧
    (let s := pw .retain []
     s.pwr.state = .retain ∧ s.pwr.seq = [] ∧ s.pwr.thenH = false ∧ s.pwr.byRequest = false ∧ s.pwr.railReset = false) ∧
    inH (pw .idle [0x48]) = true ∧ ((pw .off []).pwr.seq = [] ∧ (pw .off []).pwr.tripped = false) ∧
    (let s := { up with pwr := { up.pwr with tripped := true } }
     s.pwr.tripped = true) := by
  unfold Canon; decide +kernel

theorem wit_KnotCommandsAndResets_epoch :
    let s := { pst {} 1 with knots := [(3, { value := 4, sat := true })] }
    ∃ o : KnotOp, o.epoch = (getKnot s o.knot.toNat).epoch :=
  ⟨{ op := 0, knot := 3, epoch := 0, amount := 1, fn := 0, origin := .nobody }, by decide⟩

/-- PLL 6 is `x`. -/
def pl (x : Pll) : State := { up with plls := up.plls.take 6 ++ [x] }
def pll6 : Pll := ⟨140, 0, 0, true, 500, false, false, 0, 0, some (3, 2)⟩

theorem wit_ClocksLock :
    (∀ x ∈ ([{ pll6 with locked := true, judge := none }, pll6, { pll6 with judge := some (15, 0) }, { pll6 with judge := some (4, 1) }] : List Pll),
      let s := pl x
      s.plls[6]? = some x ∧ s.pwr.refclk = true ∧ x.en = true) ∧
    (windowOkay 6 pll6 (pllExpect 6 pll6) = true ∧ windowOkay 6 pll6 0 = false) ∧
    (let s := pl { pll6 with en := false }
     s.plls[6]? = some { pll6 with en := false }) ∧
    (∀ p ∈ [5, 1], let s := setReg up 0x70004 p
     Reached s 0 ∧ reg s 0x70004 % 8 = p ∧ (s.plls[p]?).map (·.en) = some true ∧ s.link.st ≠ .down) ∧
    (let s := setReg (pl { pll6 with en := false, judge := none }) 0x70004 6
     Reached s 0 ∧ reg s 0x70004 % 8 = 6 ∧ s.plls[6]? = some { pll6 with en := false, judge := none } ∧
     s.pwr.thenH = false ∧ s.pwr.thenF = false ∧ s.pwr.thenB = false ∧ s.pwr.dramDead = false) ∧
    (Reached up 0 ∧ (up.doms[0]?).map (·.src) = some false ∧ pllLocked up 0 = true) ∧
    (let s := { up with doms := { src := true } :: up.doms.drop 1, plls := { pll6 with judge := none } :: up.plls.drop 1 }
     Reached s 0 ∧ (s.doms[0]?).map (·.src) = some true ∧ pllLocked s 0 = false) ∧
    (let x := { pll6 with judge := none, fault := true }
     let s := pl x
     s.plls[6]? = some x ∧ hostOn s = true ∧ x.en = true ∧ x.locked = false ∧ x.judge = none) ∧
    (hostOn up = true ∧ up.pwr.perstHigh = true ∧ curEntry up ≠ some 0x45) := by
  unfold Reached Sound; decide +kernel

theorem wit_RailsAndGovernor :
    (railOn up 2 = true ∧ railOn up 0 = false ∧ railNominal 2 = 750 ∧ 100 * 712 < 95 * 750 ∧ 100 * 674 < 90 * 750 ∧ up.pwr.dip = none) ∧
    (railOn up 3 = true ∧ railNominal 3 = 800) ∧
    (let s := { up with pwr := { up.pwr with dip := some (2, 700) } }
     s.pwr.dip = some (2, 700) ∧ s.pwr.railReset = false ∧ railOn s 2 = true ∧ 100 * 699 < 95 * railNominal 2 ∧ (699 : Nat) < 700) ∧
    (let l := powerLimit up
     hostOn up = true ∧ [3, 2, 1].find? (fun d => mayStretch up d && decide (stretchOf up d < 56)) = some 3 ∧ 10 * l < 0xFFFF ∧
     0 < 10 * (l - l / 16) ∧ 0 + 3 < tjLimit up) ∧
    (let s := { up with doms := [{ running := true }, { running := true, stretch := 56 }, { stretch := 56 }, { stretch := 56 }] }
     hostOn s = true ∧ (∀ d ∈ [3, 2, 1], 56 ≤ stretchOf s d) ∧ [1, 2, 3].find? (fun d => decide (sminOf s d < stretchOf s d)) = some 1) ∧
    (Reached up 0 ∧ Canon 0 up.ctrs) := by
  unfold Reached Sound Canon; decide +kernel

/-- A job for a Tier 1 or Tier 2 slot waits, and the tiers are as given. -/
def tw (js : List (Nat × Option Job)) (bob : Bool) (st : PState) (q : List U8) : State :=
  { up with jobs := js, pwr := { up.pwr with state := st, bobUp := bob, seq := q } }

theorem wit_PowerSequences_tiers :
    (let s := tw [(0, some (hj 1)), (1, some cj)] false .idle []
     Runs s ∧ s.pwr.seq = [] ∧ ∀ chm, tierIsUp s chm = false ∧ tierWanted s chm = true) ∧
    (let s := tw [] true .run []
     Runs s ∧ tierIsUp s false = true ∧ jobsIn s (fun j => tierOf j.slot.toNat == 1) = false ∧ tierWanted s false = false ∧ watchBlock s ≠ 0) ∧
    (let s := { up with regs := [(0x70100, 1)] }
     Runs s ∧ s.pwr.state = .idle ∧ watchBlock s = 0) ∧
    (let s := { pw .watch [] with regs := [(0x70100, 0)] }
     Runs s ∧ s.pwr.state = .watch ∧ watchBlock s ≠ 0) ∧
    (∀ st ∈ [PState.idle, .watch], let s := { pw st [] with regs := [(0x70100, 8)], link := { st := .l1 0 }, fns := [(0, { dstate := 3 })] }
      Runs s ∧ mayRetain s = true) ∧
    (let s := pw .retain []
     let s := { s with pwr := { s.pwr with byRequest := true } }
     s.pwr.state = .retain ∧ s.pwr.byRequest = true ∧ s.pwr.seq = []) ∧
    inG (pw .idle [0x40]) = true ∧
    (∀ e ∈ [0x20, 0x21, 0x22], stepMayEnd (pw .idle (List.map (fun e : Nat => BitVec.ofNat 8 e) [e, e + 1])) e = true ∧
      (pw .idle (List.map (fun e : Nat => BitVec.ofNat 8 e) [e, e + 1])).pwr.thenH = false) ∧
    (let s := { tw [] false .idle [0x23] with pwr := { (tw [] false .idle [0x23]).pwr with goal := .run } }
     s.pwr.seq = [0x23] ∧ stepMayEnd s 0x23 = true ∧ s.pwr.thenH = false ∧ s.pwr.goal = .run ∧ s.pwr.dramDead = false) ∧
    (let s := { pw .idle [4] with plls := { pll6 with en := true } :: up.plls.drop 1 }
     stepMayEnd s 4 = false) := by
  unfold Runs Sound; decide +kernel

theorem wit_PowerSequences_link :
    (phyUp up = true ∧ pllLocked up 5 = true ∧ up.pwr.perstHigh = true ∧ linkUp up = true ∧ up.flt.fatal = false ∧ hostOn up = true ∧
      inG up = false ∧ fnPresent up 0 = true ∧ fnPresent up 1 = false ∧ Canon {} up.fns ∧ up.vfEnable = false) ∧
    (State.reset.link.st = .down ∧ linkUp State.reset = false) ∧
    (let s := { up with pwr := { up.pwr with perstHigh := false } }
     s.pwr.perstHigh = false) ∧
    (let s := pw .retain [0x16]
     s.link.st ≠ .down ∧ phyUp s = true ∧ hostOn s = false) ∧
    ({ up with vfEnable := true } : State).vfEnable = true := by
  unfold Canon; decide +kernel

theorem test_governor_needs_11 : (match exec (.governorInterval 0 0 []) up with | .fault _ => true | _ => false) = true := by
  decide +kernel

/-! ## Statements about the Passages -/

/-- Port 0 is `p`. -/
def po (p : Port) : State := { up with ports := smSet {} [] 0 p, plls := up.plls.take 6 ++ [{ pll6 with locked := true, judge := none }] }

theorem wit_PortsTrain :
    (∀ p ∈ ([{}, { en := true }, { en := true, up := true }, { up := true }, { en := true, train := some 0 }, { en := true, train := some 3 },
        { en := true, train := some 3, ident := true }] : List Port),
      let s := po p
      Reached s 0 ∧ Runs s ∧ Canon {} s.ports ∧ selPort s = 0 ∧ getPort s 0 = p ∧ p.retired = false ∧ p.retrain = false ∧ p.idConflict = false ∧
      p.queue = [] ∧ (if p.trainWin.1 = 0 then 1 else p.trainWin.2 + 1) ≠ 4 ∧ pllLocked s 6 = true) ∧
    (let s := { po { en := true, up := true } with regs := [(0x1000007, 1)] }
     chipsVia s 0 = [7]) := by
  unfold Runs Reached Sound Canon; decide +kernel

theorem wit_FlitsFlow :
    (∀ p ∈ ([{}, { up := true, retrain := true }, { up := true, retry := [(4, 0, [])] }, { up := true, owed := [300, 0, 1, 0] }] : List Port),
      let s := po p
      Runs s ∧ Canon {} s.ports ∧ getPort s 0 = p ∧ p.queue = [] ∧ p.rxSeq = 0) ∧
    (bufferFree (po { up := true }) 0 0 = true ∧ bufferFree { po { up := true } with delivered := List.replicate 64 ⟨0, 0, 0, 7, 0, 0, 0, 0, [], some 0⟩ } 0 0 = false) ∧
    ((0 : U32).getLsbD 26 = false ∧ (1 : U32).getLsbD 26 = false) ∧ ((0 : U32).extractLsb' 0 12 = 0 ∧ (1 : U32).extractLsb' 0 12 ≠ 0) ∧
    ([300, 0, 1, 0] : List Nat).any (· != 0) = true ∧ ([0, 0, 0, 0] : List Nat).any (· != 0) = false := by
  unfold Runs Sound Canon; decide +kernel

/-- A message of chip 7 for this one. -/
def pm (cls : BitVec 2) (ty : BitVec 4) (tagw : U32) (body : Bytes) : PMsg := ⟨cls, ty, 0, 7, 0, 0, 0, tagw, body, none⟩
/-- It is the only one delivered, and chip 7 has a route. -/
def px (m : PMsg) : State := { up with delivered := [m], regs := [(0x1000007, 1)] }
/-- The hypotheses of Takes. -/
def takes (s : State) (m : PMsg) : Bool :=
  !s.flt.fatal && hostRuns s && clocked s 1 && s.flt.ctlBad.isEmpty && s.delivered[0]? == some m && !(s.delivered.take 0).any (fun q => q.cls == m.cls && q.src == m.src) &&
  s.lossDue.isEmpty

/-- A body, and its complement. -/
def both (b : Bytes) : Bytes := b ++ b.map (~~~ ·)
/-- XSTART of 4 bytes to the shared area of Gallery, or `dst`. -/
def xs (codec dst : Nat) : Bytes := both (bytesAt (natLE 8 dst ++ natLE 8 0 ++ natLE 4 4 ++ natLE 1 codec) 0 32)
def xf0 (data : Bytes) (dk : Option (KnotId × U16)) : Xfer :=
  { chip := 7, xid := 5, dst := BitVec.ofNat 64 gal, rstg := 0, bytes := 4, codec := 0, rfn := 0, dknot := dk, data := data }

theorem wit_TransfersArrive :
    (∀ q ∈ [(0, gal), (3, gal), (0, 0x1000)],
      let m := pm 0 0 5 (xs q.1 q.2)
      takes (px m) m = true ∧ xstartOk m.body = true ∧ (decide ((parseXstart m).codec ≠ 3) && (xstartRight (px m) (parseXstart m)).1) = decide (q = (0, gal))) ∧
    (let m := pm 0 0 5 []
     takes (px m) m = true ∧ xstartOk m.body = false) ∧
    (∀ ty ∈ ([1, 2, 3] : List (BitVec 4)), takes (px (pm 0 ty 5 [])) (pm 0 ty 5 []) = true ∧ findXfer (px (pm 0 ty 5 [])) (pm 0 ty 5 []) = none) ∧
    (let m := pm 0 1 5 [1, 2, 3, 4, 5]
     let s := { px m with xfers := [xf0 [9] none] }
     takes s m = true ∧ findXfer s m = some (xf0 [9] none) ∧ addrOf (xf0 [9] none).dst.toNat = some (spGal, galShared) ∧ s.poison = [] ∧
     s.flaws = [] ∧ s.flt.dramRet = [] ∧ Memory.wf s = true ∧ passageRight s 0 0 7 = true ∧ (mayWrite s 0 (xf0 [9] none).dst 3).1 = true ∧ routeHops (routeWord s 7) ≠ 0) ∧
    (let m := pm 0 1 5 [1, 2, 3, 4, 5]
     let x := { xf0 [9] none with dst := 0x8000000000000000, rfn := 5 }
     let s := { px m with xfers := [x] }
     takes s m = true ∧ findXfer s m = some x ∧ passageRight s 5 0 7 = false ∧ routeHops (routeWord s 7) ≠ 0) ∧
    (let m := pm 0 1 5 [1, 2]
     let s := { px m with xfers := [xf0 [9, 9, 9, 9] none] }
     takes s m = true ∧ findXfer s m = some (xf0 [9, 9, 9, 9] none) ∧ passageRight s 0 0 7 = true ∧ s.poison = [] ∧ s.flaws = [] ∧ s.flt.dramRet = [] ∧
     m.body.take (4 - 4) = []) := by
  decide +kernel

/-- An XEND with the CRC of [9], for a transfer of 1 byte that has received `data`. -/
def xe : PMsg := pm 0 2 5 [0x29, 0x57, 0xDE, 0xAB]
def xeSt (dk : Option (KnotId × U16)) (data : Bytes) : State := { px xe with xfers := [{ xf0 data dk with bytes := 1 }] }
/-- The transfer is to be unpacked from host memory that holds nothing, or its function has no Passage right. -/
def xeNo (codec : Nat) (fn : FnId) : State := { xeSt none [9] with xfers := [{ xf0 [9] none with bytes := 1, codec := codec, rfn := fn }] }

theorem wit_TransfersArrive_end : takes (xeSt none [9]) xe = true ∧ findXfer (xeSt none [9]) xe = some { xf0 [9] none with bytes := 1 } ∧
    takes (xeSt (some (3, 0)) [9]) xe = true ∧ findXfer (xeSt (some (3, 0)) [9]) xe = some { xf0 [9] (some (3, 0)) with bytes := 1 } ∧
    takes (xeSt none []) xe = true ∧ findXfer (xeSt none []) xe = some { xf0 [] none with bytes := 1 } ∧
    takes (xeSt none [8]) xe = true ∧ findXfer (xeSt none [8]) xe = some { xf0 [8] none with bytes := 1 } ∧
    routeHops (routeWord (xeSt none [8]) 7) ≠ 0 ∧ passageRight (xeSt none [8]) 0 0 7 = true ∧
    (takes (xeNo 1 0) xe = true ∧ findXfer (xeNo 1 0) xe = some { xf0 [9] none with bytes := 1, codec := 1 } ∧ passageRight (xeNo 1 0) 0 0 7 = true ∧
      (let r := xferUnpack (taken (xeNo 1 0) 0 xe) { xf0 [9] none with bytes := 1, codec := 1 }
       r.1 ≠ 0 ∧ routeHops (routeWord r.2 7) ≠ 0)) ∧
    (takes (xeNo 0 5) xe = true ∧ findXfer (xeNo 0 5) xe = some { xf0 [9] none with bytes := 1, rfn := 5 } ∧ passageRight (xeNo 0 5) 5 0 7 = false) := by
  decide +kernel

theorem wit_TransfersArrive_crc :
    (crc32 [9]).toNat = leAt [0x29, 0x57, 0xDE, 0xAB] 0 4 ∧ (crc32 [8]).toNat ≠ leAt [0x29, 0x57, 0xDE, 0xAB] 0 4 := by
  decide +kernel

/-- A conduit to chip 7. -/
def cn (st : BitVec 2) (ready : Bool) : Conduit :=
  { ctrl := BitVec.ofNat 32 (1 + 7 * 2 ^ 9), src := BitVec.ofNat 64 gal, dst := BitVec.ofNat 64 gal, len := 64, state := st, ready := ready, xid := 5 }
def cs (c : Conduit) (lost : Bool) : State := { up with conduits := smSet {} [] 0 c, regs := [(0x1000007, 1)], lostChips := if lost then [(7, true)] else [] }

theorem wit_ConduitsRun_enable :
    (∀ st ∈ ([0, 3] : List (BitVec 2)), let s := cs { cn st false with ctrl := 0 } false
      Canon {} s.conduits ∧ Reached s 0 ∧ reg s 0x60100 % 256 = 0 ∧ (getConduit s 0).ctrl.getLsbD 0 = false ∧ (getConduit s 0).state ≠ 2) := by
  unfold Reached Sound Canon; decide

theorem wit_ConduitsRun :
    (∀ lost ∈ [true, false], let s := cs (cn 1 true) lost
      Canon {} s.conduits ∧ Runs s ∧ (cndRights s (cn 1 true)).1 = true ∧ chipLost s (cndChip (cn 1 true)) = lost ∧
      fld (cn 1 true).ctrl.toNat 7 2 = 0 ∧ (addrOf (cn 1 true).src.toNat).isSome = true ∧ (cn 1 true).len ≠ 0 ∧ Clean s) ∧
    (let s := { cs (cn 1 true) false with prot := { active := [(protKey 4 0, 0)] } }
     Canon {} s.conduits ∧ Runs s ∧ (cndRights s (cn 1 true)).1 = false) ∧
    (∀ st ∈ [0, 1, 2, 6], let m := pm 0 4 5 [BitVec.ofNat 8 st]
      let s := { cs (cn 2 false) false with delivered := [m] }
      Canon {} s.conduits ∧ takes s m = true ∧ leAt m.body 0 1 = st ∧
      s.conduits.find? (fun e => e.2.state == 2 && e.2.xid == xidOf m && cndChip e.2 == m.src.toNat) = some (0, cn 2 false)) := by
  unfold Runs Sound Clean Canon; decide +kernel

/-- Stream 0 is open on an instance whose image has no converter, so it is fed from other chips. -/
def rf (m : PMsg) (x : Stream) (i : Inst) : State :=
  { px m with
    streams := [(0, x)], insts := [(0, some i)]
    slots := [(0, { placeA := 512, verA := some { number := 0, image := bytesAt (List.replicate 6 0 ++ natLE 2 1) 0 32 ++ sec 3 1 (natLE 8 (1 + 16 * 2 ^ 16)) } })] }
def op0 : Stream := { ctx := { c0 with state := 1 } }
def i0 : Inst := { slot := 0, inB := false, idx := 0, openStep := 3, remoteIn := [(7, 2)] }

theorem wit_StepsAndKnotsCrossChips_steps :
    (∀ n ∈ [0, 1, 26, 27], let m := pm 1 0 (BitVec.ofNat 32 n) []
      let s := rf m op0 i0
      takes s m = true ∧ m.tagw.toNat % 32 = n ∧ isRemoteFed s 0 = true ∧ passageRight s 0 1 7 = true ∧
      ∀ e ∈ List.range n, fld (leAt m.body (8 * e) 8) 50 14 = 0) ∧
    (∀ n ∈ [2, 3], ∀ x ∈ [op0, { op0 with inputDone := true }], let m := pm 1 1 0 (natLE 12 0 ++ natLE 4 n)
      let s := rf m x i0
      takes s m = true ∧ (getInst s 0).isSome = true ∧ isRemoteFed s 0 = true ∧ (getStream s 0).ctx.gen = 0 ∧ passageRight s 0 1 7 = true ∧
      leAt m.body 12 4 = n ∧ smGet 0 i0.remoteIn 7 = 2 ∧ routeHops (routeWord s 7) ≠ 0) ∧
    (let m := pm 1 1 0 (natLE 4 0 ++ natLE 4 (2 ^ 14))
     let s := rf m op0 i0
     takes s m = true ∧ (getStream s 0).ctx.gen.toNat ≠ fld (leAt m.body 4 4) 14 4) ∧
    (let m := pm 1 1 0 (natLE 12 0 ++ natLE 4 2)
     let s := { rf m op0 i0 with prot := { active := [(protKey 5 0, 0)] } }
     takes s m = true ∧ passageRight s 0 1 7 = false ∧ routeHops (routeWord s 7) ≠ 0) ∧
    (let m := pm 1 2 0 (natLE 8 0 ++ natLE 4 3)
     takes (rf m op0 i0) m = true ∧ i0.waitAck = none ∧ getInst (px m) 0 = none ∧
     (∀ q ∈ [(1, 3), (0, 4)], let i := { i0 with waitAck := some (BitVec.ofNat 20 q.2, 1) }
      let s := rf m { op0 with ctx := { op0.ctx with gen := BitVec.ofNat 4 q.1 } } i
      takes s m = true ∧ getInst s 0 = some i ∧ ((getStream s 0).ctx.gen.toNat = 1 ∨ q.2 ≠ 3)) ∧
     (let i := { i0 with waitAck := some (3, 1) }
      let s := rf m op0 i
      takes s m = true ∧ (getInst s 0).isSome = true ∧ i.waitAck = some (i.openStep, 1) ∧ i.openStep.toNat = fld (leAt m.body 8 4) 0 20 ∧
      (getStream s 0).ctx.state ≠ 0)) := by
  decide +kernel

/-- A control body for knot 0. -/
def kb (epoch amount st token : Nat) : Bytes := both (natLE 2 0 ++ natLE 2 epoch ++ natLE 4 amount ++ natLE 4 st ++ natLE 4 token)

theorem wit_StepsAndKnotsCrossChips_knots :
    (∀ ty ∈ ([0, 1, 2, 3, 4, 5] : List (BitVec 4)), takes (px (pm 2 ty 0 (kb 0 1 0 3))) (pm 2 ty 0 (kb 0 1 0 3)) = true ∧
      takes (px (pm 2 ty 0 [])) (pm 2 ty 0 []) = true) ∧
    (kopOk (kb 0 1 0 3) = true ∧ kopOk [] = false ∧ kopKnot (kb 0 1 0 3) = 0) ∧
    (let o : KnotOp := ko 0 0 1
     let m := pm 2 1 0 (kb 0 1 2 3)
     let s := { ds opKnotSignal [] with delivered := [m], kfwd := [⟨3, o, 7, 1⟩], knots := [(0, { mirror := true, hchip := 7 })] }
     takes s m = true ∧ Canon {} s.knots ∧ (findDesc s q0).isSome = true ∧
     s.kfwd.find? (fun f => f.token == BitVec.ofNat 32 (kopToken m.body) && f.chip == m.src) = some ⟨3, o, 7, 1⟩) ∧
    (chipMayUse up 0 7 = true ∧ up.subs.length < 256 ∧ routeHops (routeWord (px (pm 2 2 0 [])) 7) ≠ 0) ∧
    (chipMayUse { up with prot := { active := [(protKey 4 0, 0)] } } 0 7 = false) ∧
    (let s := { px (pm 2 2 0 (kb 0 1 0 3)) with subs := (List.range 256).map (fun n => { knot := BitVec.ofNat 12 (n + 1), chip := 7, rknot := 0 }) }
     takes s (pm 2 2 0 (kb 0 1 0 3)) = true ∧ chipMayUse s 0 7 = true ∧ (s.subs.filter (fun x => x != { knot := 0, chip := 7, rknot := 3 })).length = 256) ∧
    (∀ st ∈ [0, 6], let m := pm 2 3 0 (kb 0 1 st 3)
      let s := { px m with knots := [(3, { bindPend := true, hchip := 7 })] }
      takes s m = true ∧ Canon {} s.knots ∧ kopMirror s m true = some 3 ∧ kopStatus m.body = st) ∧
    (let m := pm 2 4 0 (kb 0 1 0 3)
     let s := { px m with knots := [(3, { mirror := true, hchip := 7 })] }
     takes s m = true ∧ Canon {} s.knots ∧ kopMirror s m false = some 3) := by
  unfold Canon; decide +kernel

theorem wit_ManagementMessages :
    (∀ ty ∈ ([0, 1, 2] : List (BitVec 4)), ∀ busy ∈ [true, false], let m := pm 3 ty 0 []
      let s := { px m with rreg := { chip := 7, busy := busy } }
      takes s m = true ∧ s.rreg.chip = m.src) ∧
    (Reached up 0 ∧ up.rreg.busy = false ∧ chipLost up (reg up 0x60080 % 4096) = true) ∧
    (let s := { up with regs := [(0x60080, 7), (0x1000007, 1)] }
     Reached s 0 ∧ s.rreg.busy = false ∧ chipLost s (reg s 0x60080 % 4096) = false) ∧
    (let s := { up with rreg := { busy := true } }
     Reached s 0 ∧ s.rreg.busy = true) ∧
    (∀ off ∈ [0x00000, 0x80000, 0x60000], let m := pm 3 1 0 (natLE 4 off)
      let s := px m
      takes s m = true ∧ routeHops (routeWord s 7) ≠ 0 ∧ (remoteBlock off && passageRight s 0 3 7) = decide (off ≠ 0)) ∧
    (let s := { po { en := true, up := true } with regs := [(0x60050, 7), (0x1000007, 1)], lostChips := [(7, true)] }
     Reached s 0 ∧ reg s 0x60050 % 4096 = 7 ∧ pathUp s 7 = true ∧ pathUp { s with ports := [] } 7 = false) := by
  unfold Reached Sound; decide +kernel

/-! ## Statements about registers -/

theorem wit_Clears :
    (let s := { po { txFlits := 3 } with satCtrs := [(0, { evt := 4 })], streams := [(0, op0)] }
     Canon 0 s.ctrs ∧ Canon {} s.satCtrs ∧ Canon {} s.ports ∧ Canon {} s.fns ∧ Canon {} s.conduits ∧ Reached s 0 ∧ ReachedFlt s) := by
  unfold Reached ReachedFlt Sound Canon; decide +kernel

theorem wit_RegisterWrites :
    (Reached up 0 ∧ smWf regReset up.regs = true ∧ plainMask ≠ [] ∧ ctr64 ≠ [] ∧ ReachedFlt up ∧ Canon {} up.satCtrs) ∧
    (let s := rf (pm 0 0 0 []) op0 i0
     Reached s 0 ∧ getInst s (reg s 0x20038 % 16384) = some i0) ∧
    (let s := { up with slots := [(5, { placeA := 512 + 3, verA := some { number := 0, image := [] } })] }
     Reached s 0 ∧ reg s 0x20020 % 64 = 0 ∧ 512 < rangeBase (511 + 2 * 512) + rangeCount (511 + 2 * 512) ∧ rangeClash s 0 (512 + 4) = false ∧
     rangeBase (512 + 4) + rangeCount (512 + 4) ≤ 512 ∧ activeVersion s 0 = none) ∧
    (let s := { up with slots := [(0, { placeA := 4 * 2 ^ 9, verA := some { number := 0, image := [] } })] }
     Reached s 0 ∧ (activeVersion s 0).isSome = true ∧ false = (getSlot s 0).activeB ∧ rangeClash s 0 (8 + 4 * 2 ^ 9) = false ∧ slotInsts s 0 = 0 ∧
     t0Span [] ≤ rangeCount (8 + 4 * 2 ^ 9) ∧ rangesMeet (8 + 4 * 2 ^ 9) (rangeOf0 (getSlot s 0) false) = false ∧
     rangeClash s 0 (1 + 4 * 2 ^ 9) = false ∧ rangesMeet (1 + 4 * 2 ^ 9) (rangeOf0 (getSlot s 0) false) = true) := by
  unfold Reached ReachedFlt Sound Canon; decide +kernel

theorem wit_RegisterWrites_place :
    (let s := { up with slots := [(0, {}), (5, { placeA := 512 + 3, verA := some { number := 0, image := [] } })] }
     Reached s 0 ∧ rangeClash s 0 (512 + 3) = true) ∧
    (let v := some { number := 0, image := [] }
     let w := 1 * 2 ^ 8 + 1 * 2 ^ 13
     let s := { up with slots := [(64, { verA := v }), (65, { placeA := BitVec.ofNat 32 w, verA := v }), (192, { verA := v })] }
     Reached s 0 ∧ reg s 0x30020 % 256 = 64 ∧ tierOf 64 = 1 ∧ (versionOf (getSlot s 64) false).isSome = true ∧ versionOf (getSlot s 64) true = none ∧
     placeOk w = true ∧ placeMeets s w (fun _ _ => false) = true ∧ placeOk 0 = true ∧ placeMeets s 0 (fun _ _ => false) = false ∧
     placeOk (15 + 2 * 2 ^ 8 + 1 * 2 ^ 13) = false ∧
     reg s 0x40020 % 256 = 192 ∧ tierOf 192 = 2 ∧ (versionOf (getSlot s 192) false).isSome = true ∧ versionOf (getSlot s 192) true = none) ∧
    (let s := { up with flt := { up.flt with fatal := true } }
     ReachedFlt s ∧ s.flt.fatal = true ∧ assigned 0x08000 = true) ∧
    up.pending = [] := by
  unfold Reached ReachedFlt Sound; decide +kernel

theorem wit_RegisterWrites_host :
    (Reached up 0 ∧ Canon {} up.fns ∧ Canon {} (getFn up 0).vecs ∧ 12 / 16 < tableSize up 0 ∧ (getFn up 0).msixEn = false ∧
     regsRun up = true ∧ fnPresent up 0 = true ∧ reaches up 0 0x08010 = some 0x08010 ∧ lowHalf 0x08010 = true ∧ lowHalf 0x08000 = false ∧
     reaches up 0 0x08000 = some 0x08000 ∧ smFind (getFn up 0).latch 0x08010 = none ∧
     (let s := { up with fns := [(0, { bme := true, latch := [(0x08014, 9)] })] }
      regsRun s = true ∧ Canon {} s.fns ∧ reaches s 0 0x08014 = some 0x08014 ∧ smFind (getFn s 0).latch 0x08014 = some 9)) := by
  unfold Reached Sound Canon; decide +kernel

theorem wit_UnassignedAccess :
    regsRun up = true ∧ fnPresent up 0 = true ∧ up.lnt.recovery = false ∧ pfOffset 0 0xFFFFC = none ∧ pfOffset 0 0x08000 = some 0x08000 := by
  decide +kernel

/-! ## Statements about faults and repairs -/

theorem wit_ChecksAndScrubs_checks :
    (Runs up ∧ unitJob up 3 0 = none ∧ unitJob up 4 0 = none ∧ smGet false up.flt.retired (5 * 4096 + 0) = false ∧ unitsLeft up 5 ≠ 1 ∧
      (winCount up (winKey 5 (physOf up 5 0)) (2 ^ 32)).1 < 4) ∧
    (let s := { up with flt := { up.flt with retired := [(5 * 4096, true), (5 * 4096 + 1, true), (5 * 4096 + 2, true), (8 * 4096, true)], outOf := [(2 * 4096, true)] } }
     Runs s ∧ smGet false s.flt.retired (5 * 4096 + 0) = true ∧ smGet false s.flt.retired (8 * 4096 + 0) = true ∧ smGet false s.flt.outOf (2 * 4096 + 0) = true ∧
     smGet false s.flt.retired (5 * 4096 + 3) = false ∧ unitsLeft s 5 = 1) ∧
    (∀ w ∈ [0x6E, 0x2E], let s := (winCount (winCount (winCount (setReg up 0x90004 w) (winKey 5 0) (2 ^ 32)).2 (winKey 5 0) (2 ^ 32)).2 (winKey 5 0) (2 ^ 32)).2
      Runs s ∧ smGet false s.flt.retired (5 * 4096 + 0) = false ∧ unitsLeft s 5 ≠ 1 ∧ 4 ≤ (winCount s (winKey 5 (physOf s 5 0)) (2 ^ 32)).1 ∧
      bitOf (reg s 0x90004) 6 = decide (w = 0x6E)) ∧
    (∀ a ∈ [1, 2], let j := { rj with attempt := a }
      let s := est j {}
      Runs s ∧ unitJob s 3 1 = some 0 ∧ getJob s 0 = some j ∧ j.st = .running ∧ bitOf (reg s 0x90004) 5 = true ∧
      j.replayable = true ∧ j.attempt < 3 ∧ j.checks = [] ∧ smGet false s.flt.outOf (3 * 4096 + 1) = false ∧ (winCount s (winKey 3 (physOf s 3 1)) (2 ^ 32)).1 < 4) ∧
    checkUnit 6 0 = false ∧ checkUnit 2 512 = false := by
  unfold Runs Sound; decide +kernel

theorem wit_ChecksAndScrubs_scrubs :
    (let s := { up with regs := [(0x50030, 0)] }
     Runs s ∧ bitOf (reg s 0x50030) 0 = false ∧ bitOf (reg s 0x50030) 1 = false) ∧
    (Runs up ∧ bitOf (reg up 0x50030) 0 = true ∧ bitOf (reg up 0x50030) 1 = true ∧ memAwake up = true ∧ dramOn up = true ∧ up.flt.wins = [] ∧
      up.flaws = [] ∧ up.flt.due = [] ∧ up.flt.dramRet = [] ∧ hostOn up = true ∧ Sound up ∧ Canon false up.stackHot ∧ ReachedFlt up) ∧
    (∀ pos ∈ [0, 1500000], let s := pw .watch []
      let s := { s with memLogs := { s.memLogs with sramPos := pos } }
      Runs s ∧ s.pwr.state = .watch ∧ memAwake s = false ∧ decide (s.memLogs.sramPos * 128 < galShared) = decide (pos = 0) ∧ bitOf (reg s 0x50030) 0 = true ∧
      s.flt.wins = [] ∧ s.flaws = [] ∧ s.flt.due = []) := by
  unfold Runs ReachedFlt Sound Canon; decide +kernel

theorem test_scrub_poisons : nextIs (.sramScrub [⟨2, true⟩]) up
    (fun t => isPoisoned t (mkey spGal 16) && !isPoisoned t (mkey spGal 8) && t.memLogs.sramPos == 1) = true := by
  decide +kernel

/-- The repair `r` is in progress. -/
def rep (r : Repair) : State := { bs {} with flt := { up.flt with repair := some r, cmdBusy := r.cmd } }

theorem wit_Repairs :
    (ReachedFlt up ∧ up.flt.cmdBusy = false ∧ up.flt.repair = none ∧ up.flt.repairQ = [] ∧ repairable 5 0 = false ∧
      (∀ ut ∈ [2, 3, 4, 6], repairable ut 0 = true ∧ (freeSpares up ut).any (fun q => q != physOf up ut 0) = true)) ∧
    (∀ r ∈ ([⟨3, 1, false, 256, true⟩, ⟨4, 0, true, 0, false⟩, ⟨2, 5, false, 512, false⟩, ⟨6, 0, false, 32, true⟩] : List Repair),
      let s := rep r
      Runs s ∧ s.flt.repair = some r ∧ s.flt.repairQ = [] ∧ s.jobs = [] ∧ (r.utype = 3 ∨ r.utype = 4 → unitFree s r = true) ∧
      (r.utype = 2 → coreSettled s r.unit.toNat = true ∧ s.flaws = [])) := by
  unfold Runs ReachedFlt Sound; decide +kernel

/-! ## Statements about Lantern -/

theorem wit_SmbusLock :
    (∀ p ∈ [0x10, 0x20, 0x24, 0x28, 0x34, 0x40, 0x44, 0x48, 0x4C], let s := { up with lnt := { up.lnt with smbLock := true, ptr := BitVec.ofNat 16 p } }
      lntOn s true = true ∧ s.lnt.smbLock = true ∧ s.lnt.ptr.toNat = p ∧ hostRuns s = true ∧ s.flt.fatal = false) ∧
    isBank 0x20 = true := by
  decide +kernel

theorem wit_SmbusCommands :
    (∀ p ∈ [0x18, 0x2000, 0x2014, 0x3000, 0x10], let s := { up with lnt := { up.lnt with pecReq := true, ptr := BitVec.ofNat 16 p } }
      lntOn s true = true ∧ s.lnt.pecReq = true ∧ s.lnt.ptr.toNat = p) ∧
    (smbMap 0x3000 = none ∧ assigned (0x80000 + 0x10) = true ∧ 0x14 ∉ smbCodes) ∧
    (∀ r ∈ [true, false], let s := pw .retain []
     let s := { s with pwr := { s.pwr with byRequest := true, refclk := r } }
     lntOn s true = true ∧ s.pwr.state = .retain ∧ s.pwr.seq = [] ∧ s.pwr.byRequest = true ∧ s.pwr.thenH = false ∧ s.pwr.refclk = r) ∧
    (hostOn up = true ∧ inG up = false ∧ alertOn up = false) ∧
    (let s := { up with lnt := { up.lnt with alert := 1 } }
     lntOn s true = true ∧ alertOn s = true ∧ s.lnt.alertQuiet = false) := by
  decide +kernel

/-- These words stand in the staging buffer, byte by byte, and the path `o` owns it. -/
def stg (ws : List Nat) (o : BitVec 2) : State :=
  { up with mem := up.mem ++ (ws.flatMap (natLE 4)).zipIdx.map (fun e => (mkey spStage 0 + e.2, e.1)), lnt := { up.lnt with stageOwner := o, flashLen := 40 } }
def rec2 : List Nat := [0x5243424E, 0xADBCBDB1, 1, 0xFFFFFFFE, 2, 0xFFFFFFFD, 0x28, 0xFFFFFFD7, 0xF40B3411, 0x0BF4CBEE]
def uc2 : List Nat := [0x5543424E, 0xAABCBDB1, 1, 0xFFFFFFFE, 2, 0xFFFFFFFD, 0x28, 0xFFFFFFD7, 0xC83DC104, 0x37C23EFB]

theorem wit_FlashCommits_stage :
    (∀ o ∈ ([0, 1, 2] : List (BitVec 2)), let s := stg [] o
      lntOn s true = true ∧ lntOn s false = true ∧ s.lnt.smbLock = false ∧ s.lnt.stageOwner = o ∧ s.lnt.flashBusy = false ∧ s.pwr.state ≠ .retain ∧
      Memory.wf s = true ∧ s.lnt.smbAddr = 0x4E ∧ s.lnt.smbLeft ≠ 0 ∧ s.lnt.epochLeft ≠ 0 ∧ Canon 0x80E4 s.lnt.laneCfg) ∧
    (let s := { stg [] 2 with pwr := { up.pwr with state := .retain, seq := [0x10] } }
     lntOn s true = true ∧ s.pwr.state = .retain ∧ s.pwr.seq ≠ []) ∧
    (let s := stg [] 1
     0x01B ≠ (laneCfg s 0).toNat % 4096 ∧ (laneCfg s 0).toNat / 4096 ≠ 0 ∧ laneMapOk (0x01B % 256) = true ∧ (getPort s 0).en = false ∧
     (laneCfg s 0).toNat % 4096 = 0x0E4 ∧ laneMapOk 0 = false) ∧
    (copyValid (stg [0] 1) (mkey spStage 0) false = false ∧ copyValid (stg [0] 1) (mkey spStage 0) true = false) ∧
    (let s := { stg [] 1 with lnt := { (stg [] 1).lnt with flashBusy := true, ucEpoch := 3 } }
     s.lnt.flashBusy = true ∧ s.lnt.stageOwner = 1 ∧ Canon false s.lnt.flashBad ∧ s.lnt.epoch.toNat < 3) ∧
    isBank 0x38 = false := by
  unfold Canon; decide +kernel

theorem wit_FlashCommits_record :
    let s := stg rec2 1
    copyValid s (mkey spStage 0) false = true ∧ copyAt s (mkey spStage 0) 0x18 = s.lnt.flashLen.toNat ∧ copyAt s (mkey spStage 0) 0x10 = 2 ∧
    flashSeq s 0 = 1 ∧ flashSeq s 1 = 0 := by
  decide +kernel

theorem wit_FlashCommits_microcode :
    let s := stg uc2 2
    copyValid s (mkey spStage 0) true = true ∧ copyAt s (mkey spStage 0) 0x18 = s.lnt.flashLen.toNat ∧ copyAt s (mkey spStage 0) 0x10 = 2 ∧
    flashSeq s 2 = 1 ∧ flashSeq s 3 = 0 ∧ s.lnt.epoch.toNat ≤ copyEpoch s (mkey spStage 0) := by
  decide +kernel

theorem wit_FlashCommits_old :
    let s := stg [0x5243424E, 0xADBCBDB1, 0x00000001, 0xFFFFFFFE, 0x00000001, 0xFFFFFFFE, 0x00000028, 0xFFFFFFD7, 0xAA5D5213, 0x55A2ADEC] 1
    copyValid s (mkey spStage 0) false = true ∧ copyAt s (mkey spStage 0) 0x10 ≤ flashSeq s 0 ∧ flashValid s 0 = true := by
  decide +kernel

/-! ## The step and reset -/

theorem wit_StepRunsFront :
    ({ up with pending := [.cscClear] } : State).pending = .cscClear :: [] ∧ up.pending = [] ∧ residencyOff up.pwr.state = some 0x70148 ∧
    Runs up ∧ up.flt.due = [] ∧ up.lossDue = [] ∧ (let s := { up with flt := { up.flt with fatal := true } }
      ¬ Runs s ∧ s.pending = []) := by
  unfold Runs Sound; decide +kernel

/-- A state with a command at the front of its queue, a job, a stream, a knot and bytes of memory. -/
def fs : State := { est rj { st := 2 } with knots := smSet {} [] 0 { value := 5 }, streams := [(0, op0)], pending := [.cscClear, .nop 0 0], mem := cells (mkey spDram 0x100) [1, 2] }

theorem wit_StepsKeepForm : InForm fs ∧ step fs = exec .cscClear { fs with pending := [.nop 0 0] } :=
  ⟨⟨⟨by decide +kernel, rfl, rfl, rfl, rfl, by decide +kernel, rfl, rfl⟩, ⟨rfl, rfl, rfl, rfl, rfl, rfl, rfl, rfl⟩, ⟨rfl, rfl, rfl, rfl, rfl, rfl, rfl⟩⟩, rfl⟩

theorem test_step_takes_front : (match step { up with pending := [.nop 0 0, .cscClear] } with
    | .next t => t.pending == [.cscClear]
    | _ => false) = true := by
  decide +kernel

theorem test_word_in_front : (match step (State.reset.withFetchWord 32 0) with | .next _ => true | _ => false) = true := by
  decide +kernel

end Sys2Proof.Tests
end

section
/-! PROOFS. The last part of a reset: what it does after the common part. -/

namespace Sys2Proof.Machine

/-! ## What the ends of a reset can change -/

theorem sendLeaving_only (s : State) (i : Nat) : ∃ p o, sendLeaving s i = { s with ports := p, out := o } := by
  unfold sendLeaving
  split
  · exact ⟨_, _, rfl⟩
  · exact ⟨_, _, rfl⟩

theorem sendLeavings_only (s : State) (l : List Nat) : ∃ p o, l.foldl sendLeaving s = { s with ports := p, out := o } :=
  foldl_keeps (P := fun t => ∃ p o, t = { s with ports := p, out := o })
    (by rintro _ i ⟨p, o, rfl⟩; exact sendLeaving_only _ i) l s ⟨_, _, rfl⟩

theorem resetPorts_only (s : State) (warm : Bool) : ∃ p o, resetPorts s warm = { s with ports := p, out := o } := by
  obtain ⟨p, o, h⟩ := sendLeavings_only s (List.range 4)
  exact ⟨_, o, by unfold resetPorts; rw [h]⟩

/-- Regions are cleared one by one. -/
theorem clearResident_only (s : State) : ∃ m p f l, clearResident s = { s with mem := m, poison := p, flaws := f, lost := l } :=
  foldl_keeps (P := fun t => ∃ m p f l, t = { s with mem := m, poison := p, flaws := f, lost := l })
    (by rintro _ e ⟨m, p, f, l, rfl⟩; exact ⟨_, _, _, _, rfl⟩) (List.range 16) s ⟨_, _, _, _, rfl⟩

theorem loseWorking_only (s : State) : ∃ m p f l, loseWorking s = { s with mem := m, poison := p, flaws := f, lost := l } :=
  foldl_keeps (P := fun t => ∃ m p f l, t = { s with mem := m, poison := p, flaws := f, lost := l })
    (by rintro _ e ⟨m, p, f, l, rfl⟩; exact ⟨_, _, _, _, rfl⟩) (List.range 16) s ⟨_, _, _, _, rfl⟩

/-- A port that is enabled begins to train, and PLL 6 runs. -/
theorem portSetEn_on_only (s : State) (i : Nat) : ∃ p l, portSetEn s i true = { s with ports := p, plls := l } := by
  unfold portSetEn psgClock
  dsimp only
  rw [if_pos rfl]
  split
  · exact ⟨_, _, rfl⟩
  · split
    · exact ⟨_, _, rfl⟩
    · exact ⟨_, _, rfl⟩

theorem bootPorts_only (s : State) : ∃ p l, bootPorts s = { s with ports := p, plls := l } :=
  foldl_keeps (P := fun t => ∃ p l, t = { s with ports := p, plls := l })
    (by
      rintro _ i ⟨p, l, rfl⟩
      split
      · exact portSetEn_on_only _ i
      · exact ⟨_, _, rfl⟩)
    (List.range 4) s ⟨_, _, rfl⟩

/-- A warm reset is its common part, but for ports, PLLs, memories and what leaves the device. -/
theorem warmReset_only (s : State) : ∃ p o l m po f lo, warmReset s =
    { resetCommon s true with ports := p, out := o, plls := l, mem := m, poison := po, flaws := f, lost := lo } := by
  obtain ⟨p, o, h1⟩ := resetPorts_only (resetCommon s true) true
  obtain ⟨m, po, f, lo, h2⟩ := clearResident_only (resetPorts (resetCommon s true) true)
  obtain ⟨m', po', f', lo', h3⟩ := loseWorking_only (clearResident (resetPorts (resetCommon s true) true))
  obtain ⟨p', l, h4⟩ := bootPorts_only (loseWorking (clearResident (resetPorts (resetCommon s true) true)))
  refine ⟨p', o, l, m', po', f', lo', ?_⟩
  unfold warmReset
  rw [h4, h3, h2, h1]

/-! ## Bytes that stay listed -/

/-- A write of other keys leaves an entry listed. -/
theorem mem_smSet_of_ne {α : Type} [DecidableEq α] {d : α} {m : SMap α} {k : Nat} {v : α} {e : Nat × α} (h : e ∈ m) (hk : e.1 ≠ k) :
    e ∈ smSet d m k v := by
  induction m with
  | nil => cases h
  | cons x r ih =>
    simp only [smSet]
    rcases List.mem_cons.mp h with rfl | hr
    · split <;> [split; (split <;> [exact absurd (Eq.symm ‹_›) hk; skip])] <;> simp
    · split <;> [split; (split <;> [split; skip])] <;> simp [hr, ih hr]

theorem mem_smPut_of_ne {α : Type} {m : SMap α} {k : Nat} {v : α} {e : Nat × α} (h : e ∈ m) (hk : e.1 ≠ k) : e ∈ smPut m k v := by
  induction m with
  | nil => cases h
  | cons x r ih =>
    simp only [smPut]
    rcases List.mem_cons.mp h with rfl | hr
    · split <;> [skip; (split <;> [exact absurd (Eq.symm ‹_›) hk; skip])] <;> simp
    · split <;> [skip; split] <;> simp [hr, ih hr]

theorem smPut_lists {α : Type} (m : SMap α) (k : Nat) (v : α) : (k, v) ∈ smPut m k v := by
  induction m with
  | nil => simp [smPut]
  | cons x r ih =>
    simp only [smPut]
    split <;> [skip; split] <;> simp [ih]

/-- A write of the bytes from `k` on keeps a byte listed that lies before them. -/
theorem mem_poke_of_lt {s : State} {k : Nat} {bs : Bytes} {e : Host.Cell} (h : e ∈ s.mem) (hk : e.1 < k) : e ∈ (poke s k bs).mem := by
  induction bs generalizing s k with
  | nil => exact h
  | cons b r ih =>
    refine ih ?_ (by omega)
    unfold poke1
    split
    · exact mem_smSet_of_ne h (by omega)
    · exact mem_smPut_of_ne h (by omega)

theorem mem_listZeros_of_lt {s : State} {k n : Nat} {e : Host.Cell} (h : e ∈ s.mem) (hk : e.1 < k) : e ∈ (listZeros s k n).mem := by
  induction n generalizing s k with
  | zero => exact h
  | succ n ih => exact ih (mem_smPut_of_ne h (by omega)) (by omega)

/-- Every byte of the range is listed. -/
theorem listZeros_lists {s : State} {k n q : Nat} (h1 : k ≤ q) (h2 : q < k + n) : (q, (0 : U8)) ∈ (listZeros s k n).mem := by
  induction n generalizing s k with
  | zero => omega
  | succ n ih =>
    by_cases hq : q = k
    · subst hq
      exact mem_listZeros_of_lt (s := { s with mem := smPut s.mem q 0 }) (smPut_lists s.mem q 0) (Nat.lt_succ_self q)
    · exact ih (by omega) (by omega)

/-- A range that begins in a lost region has every byte listed, those past the region's end too. -/
theorem zeroRange_lists {s : State} {k n q : Nat} (h : isZeroed s k = false) (h1 : k ≤ q) (h2 : q < k + n) :
    (q, (0 : U8)) ∈ (zeroRange s k n).mem := by
  unfold zeroRange
  dsimp only
  rw [if_neg (by show ¬ isZeroed s k = true; rw [h]; decide)]
  exact listZeros_lists h1 h2

end Sys2Proof.Machine
end

section
namespace Sys2Proof.Machine

/-! ## What a placement writes -/

theorem listZeros_only (s : State) (k n : Nat) : ∃ m, listZeros s k n = { s with mem := m } := by
  induction n generalizing s k with
  | zero => exact ⟨_, rfl⟩
  | succ n ih => exact ih { s with mem := smPut s.mem k 0 } (k + 1)

theorem zeroRange_only (s : State) (k n : Nat) : ∃ m p f, zeroRange s k n = { s with mem := m, poison := p, flaws := f } := by
  unfold zeroRange
  dsimp only
  split
  · exact ⟨_, _, _, rfl⟩
  · obtain ⟨m, h⟩ := listZeros_only { s with mem := smClearRange s.mem k n, poison := smClearRange s.poison k n, flaws := smClearRange s.flaws k n } k n
    rw [h]
    exact ⟨_, _, _, rfl⟩

/-- Zeroing of ranges and writes of bytes change the contents of memory alone. -/
def Writes (s t : State) : Prop := ∃ m p f, t = { s with mem := m, poison := p, flaws := f }

theorem Writes.refl (s : State) : Writes s s := ⟨_, _, _, rfl⟩

theorem Writes.trans {s t u : State} (h : Writes s t) (h' : Writes t u) : Writes s u := by
  obtain ⟨m, p, f, rfl⟩ := h
  exact h'

theorem Writes.foldl {α : Type} {f : State → α → State} (hf : ∀ t a, Writes t (f t a)) (l : List α) (s : State) : Writes s (l.foldl f s) :=
  foldl_keeps (P := Writes s) (fun t a h => h.trans (hf t a)) l s (.refl s)

theorem writes_zeroRange (s : State) (k n : Nat) : Writes s (zeroRange s k n) := zeroRange_only s k n

theorem writes_poke (s : State) (k : Nat) (bs : Bytes) : Writes s (poke s k bs) := ⟨_, _, _, poke_eq s k bs⟩

theorem writes_writeDir (s : State) (st : Nat) (gen : Gen) (pl : Place) (fed : Bool) (b : Nat) : Writes s (writeDir s st gen pl fed b) :=
  .foldl (fun t _ => writes_poke t _ _) _ s

theorem writes_writeBridge (s : State) (st w : Nat) : Writes s (writeBridge s st w) := by
  unfold writeBridge
  split
  · exact .refl s
  · exact writes_writeDir ..

theorem writes_clearBlock (s : State) (pl : Place) : Writes s (clearBlock s pl) := by
  unfold clearBlock
  refine Writes.trans (.foldl (fun t o => ?_) _ s) (writes_zeroRange _ _ _)
  refine ((writes_zeroRange t _ _).trans (writes_zeroRange _ _ _)).trans (.foldl (fun t p => ?_) _ _)
  dsimp only
  split
  · exact .refl t
  · exact .foldl (fun t _ => writes_poke t _ _) _ t

/-- Instances that are placed clear their stream's record in Gallery, from a lost byte on byte by byte. -/
theorem placeInst_lists {s : State} {st q : Nat} (slot : Nat) (inB : Bool) (idx : Nat) (gen : Gen) (o : Stamp)
    (h : isZeroed s (mkey spGal (recordOff st)) = false) (h1 : mkey spGal (recordOff st) ≤ q)
    (h2 : q < mkey spGal (recordOff st) + 0xE00) : (q, (0 : U8)) ∈ (placeInst s st slot inB idx gen o).mem := by
  unfold placeInst galZero
  dsimp only
  rw [(cntWr_frame _ _ _).2.1]
  refine zeroRange_lists ?_ h1 h2
  obtain ⟨m, p, f, hw⟩ := (writes_clearBlock (setInst s st _) _).trans (writes_writeDir _ st gen _ _ 0)
  rw [hw]
  exact h

/-- A placement writes memory and its counters, and lists one of its slot's instances. -/
theorem placeInst_only (s : State) (st slot : Nat) (inB : Bool) (idx : Nat) (gen : Gen) (o : Stamp) :
    ∃ m p f c i, placeInst s st slot inB idx gen o = { setInst s st (some i) with mem := m, poison := p, flaws := f, ctrs := c } ∧
      i.slot = BitVec.ofNat 8 slot := by
  unfold placeInst galZero cntWr
  dsimp only
  rw [if_pos rfl]
  obtain ⟨m, p, f, hw⟩ := ((writes_clearBlock (setInst s st _) _).trans (writes_writeDir _ st gen _ _ 0)).trans
    (writes_zeroRange _ (mkey spGal (recordOff st)) 0xE00)
  rw [hw]
  exact ⟨_, _, _, _, _, rfl, rfl⟩

/-! ## The common part of a reset -/

/-- The state as a reset comes to the slots: every stream is reset, and all work has ended. -/
def resetWork (s : State) : State :=
  let fatal := s.flt.fatal
  let s := resetStreams { s with flt := { s.flt with fatal := false } }
  endAllWork { s with flt := { s.flt with fatal := fatal } }

theorem resetCommon_eq (s : State) (warm : Bool) :
    resetCommon s warm = bootPlls (bootProt (bootLantern (resetParts (resetKnots (resetSlots (resetWork s))) warm))) := rfl

/-- What a reset leaves, and what it takes, after the slots. -/
theorem resetCommon_frame (s : State) (warm : Bool) :
    (resetCommon s warm).mem = (resetSlots (resetWork s)).mem ∧ (resetCommon s warm).streams = (resetSlots (resetWork s)).streams ∧
    (resetCommon s warm).knots = (resetKnots (resetSlots (resetWork s))).knots ∧
    (resetCommon s warm).pwr = resetPwr (resetSlots (resetWork s)).pwr ∧
    (∃ u, (resetCommon s warm).plls = (resetSlots (resetWork s)).plls.zipIdx.map (fun e => bootPll u e.2 e.1)) ∧
    (resetCommon s warm).rings = [] ∧ (resetCommon s warm).vfEnable = false ∧ (resetCommon s warm).conduits = [] ∧
    (resetCommon s warm).subs = [] ∧ (resetCommon s warm).knotOps = [] ∧ (resetCommon s warm).knotWaits = [] ∧
    (resetCommon s warm).link = {} := by
  rw [resetCommon_eq]
  dsimp only [bootPlls, bootProt, bootLantern, resetParts, resetKnots]
  exact ⟨rfl, rfl, rfl, rfl, ⟨_, rfl⟩, rfl, rfl, rfl, rfl, rfl, rfl, rfl⟩

/-! ## Slots in a reset -/

theorem releaseSat_only (s : State) (slot : Nat) (img : Bytes) (o : Option Version) :
    ∃ m, releaseSat s slot img o = { s with satCtrs := m } :=
  foldl_keeps (P := fun t => ∃ m, t = { s with satCtrs := m }) (by rintro _ c ⟨m, rfl⟩; exact ⟨_, rfl⟩) _ s ⟨_, rfl⟩

/-- A version that goes leaves its counters, its cores and its slot free. -/
theorem retireVersion_only (s : State) (slot : Nat) (inB : Bool) :
    ∃ m c x, retireVersion s slot inB = { s with satCtrs := m, cores := c, slots := x } := by
  unfold retireVersion
  dsimp only
  split
  · exact ⟨_, _, _, rfl⟩
  · obtain ⟨m, hm⟩ := releaseSat_only s slot (Version.image ‹_›) (versionOf (getSlot s slot) (!inB))
    rw [hm]
    split
    · obtain ⟨c, hc⟩ := foldl_keeps (P := fun t => ∃ c, t = { { s with satCtrs := m } with cores := c }) (f := fun t (e : Nat × Core) => unassign t e.1)
        (by rintro _ e ⟨c, rfl⟩; exact ⟨_, rfl⟩) (members { s with satCtrs := m } slot inB) { s with satCtrs := m } ⟨_, rfl⟩
      rw [hc]
      exact ⟨_, _, _, rfl⟩
    · exact ⟨_, _, _, rfl⟩

end Sys2Proof.Machine
end

section
/-! PROOFS. O60 fails: the list of instances may hold a number that no stream has. Its record in Gallery then crosses the
end of the snapshot area, and a clear of it that begins in the lost area lists zeros in memory that was never lost. -/

namespace Sys2Proof.Machine

/-! ## The slots that do not move -/

/-- A slot that none of the instances names moves none. -/
theorem moveIdle_unused {s : State} {n : Nat} (h : ∀ e ∈ s.insts, ∀ i, e.2 = some i → i.slot.toNat ≠ n) : moveIdle s n = s := by
  unfold moveIdle
  generalize hl : s.insts = l at h
  clear hl
  induction l with
  | nil => rfl
  | cons e l ih =>
    have hs : (match e.2 with | some i => if i.slot.toNat = n then moveIfIdle s e.1 else s | none => s) = s := by
      cases he : e.2 with
      | none => rfl
      | some i => exact if_neg (h e (List.mem_cons_self ..) i he)
    rw [List.foldl_cons]
    refine (congrArg (fun t => List.foldl _ t l) hs).trans (ih (fun e he => h e (List.mem_cons_of_mem _ he)))

/-- The reset of a slot, once its instances have moved, leaves memory and the instances alone. -/
theorem resetT0_only (s : State) (n : Nat) :
    ∃ m c x, resetT0 s n = { moveIdle s n with satCtrs := m, cores := c, slots := x } := by
  have hv : ∃ m c x, (if (getSlot (moveIdle s n) n).moving then retireVersion (moveIdle s n) n (!(getSlot (moveIdle s n) n).activeB)
      else moveIdle s n) = { moveIdle s n with satCtrs := m, cores := c, slots := x } := by
    split
    · exact retireVersion_only _ _ _
    · exact ⟨_, _, _, rfl⟩
  obtain ⟨m, c, x, h⟩ := hv
  unfold resetT0
  dsimp only
  rw [h]
  split
  · exact ⟨_, _, _, rfl⟩
  · exact ⟨_, _, _, rfl⟩

theorem resetT12_only (s : State) (n : Nat) : ∃ m c x, resetT12 s n = { s with satCtrs := m, cores := c, slots := x } := by
  obtain ⟨m, c, x, h1⟩ := retireVersion_only s n false
  obtain ⟨m', c', x', h2⟩ := retireVersion_only (retireVersion s n false) n true
  unfold resetT12
  dsimp only
  rw [h2, h1]
  exact ⟨_, _, _, rfl⟩

/-! ## The state -/

/-- The number under which the stray is listed: no stream has it. -/
def strayNumber : Nat := 18022

/-- A Tier 0 image of one section: instances of 4,096 neurons on one core. -/
def strayImage : Bytes := [0, 0, 0, 0, 0, 0, 1, 0] ++ List.replicate 24 0 ++ [3, 0, 0, 0, 12, 0, 0, 0, 1, 0, 0, 0x10]

/-- The stray: of slot 0, on the version that the slot is leaving. -/
def strayInst : Inst := { slot := 0, inB := false, idx := 0 }

/-- The snapshot area of Gallery is lost, and slot 0 moves to its version in range B; of its instances one is listed, with
a suspended stream, under a number that no stream has. -/
def strayState : State :=
  { pending := [.warmReset], lost := [(regSnap, 1)]
    streams := [(strayNumber, { ctx := { state := 3 } })]
    slots := [(0, { activeB := true, moving := true, placeB := 0x200, verB := some { number := 0, image := strayImage } })]
    insts := [(strayNumber, some strayInst)] }

theorem strayState_inForm : InForm strayState :=
  ⟨⟨rfl, rfl, rfl, rfl, rfl, rfl, rfl, rfl⟩, ⟨rfl, rfl, rfl, rfl, rfl, rfl, rfl, rfl⟩, ⟨rfl, rfl, rfl, rfl, rfl, rfl, rfl⟩⟩

/-- The state as the slots are reset. -/
def strayReset : State := resetWork { strayState with pending := [] }

/-- The first byte behind the snapshot area. -/
def strayByte : Nat := mkey spGal galCoef

theorem strayByte_behind : mkey spGal (recordOff strayNumber) ≤ strayByte ∧ strayByte < mkey spGal (recordOff strayNumber) + 0xE00 := by
  unfold strayByte mkey spGal recordOff galStream galCoef strayNumber
  omega

/-! ## Its warm reset -/

/-- All instances are of slot 0. -/
def AllOfSlot0 (m : SMap (Option Inst)) : Prop := ∀ e ∈ m, ∀ i, e.2 = some i → i.slot.toNat = 0

theorem allOfSlot0_smSet {m : SMap (Option Inst)} (k : Nat) {v : Option Inst} (h : AllOfSlot0 m) (hv : ∀ i, v = some i → i.slot.toNat = 0) :
    AllOfSlot0 (smSet none m k v) := by
  intro e he
  rcases mem_smSet he with he | ⟨rfl, -⟩
  · exact h e he
  · exact hv

theorem allOfSlot0_get {m : SMap (Option Inst)} (k : Nat) {i : Inst} (h : AllOfSlot0 m) (hi : smGet none m k = some i) : i.slot.toNat = 0 := by
  induction m with
  | nil => cases hi
  | cons x r ih =>
    rw [smGet] at hi
    split at hi
    · exact h x (List.mem_cons_self ..) i hi
    · split at hi
      · cases hi
      · exact ih (fun e he => h e (List.mem_cons_of_mem _ he)) hi

/-- The byte behind the snapshot area is listed as 0, and all instances are of slot 0. -/
def Strayed (s : State) : Prop := (strayByte, (0 : U8)) ∈ s.mem ∧ AllOfSlot0 s.insts

theorem stray_placed (g : Gen) (o : Stamp) : (strayByte, (0 : U8)) ∈ (placeInst strayReset strayNumber 0 true 0 g o).mem :=
  placeInst_lists 0 true 0 g o rfl strayByte_behind.1 strayByte_behind.2

/-- The bridge words of instances go to Picot cores, behind Gallery. -/
theorem writeBridge_lists {s : State} {st w : Nat} (h : (strayByte, (0 : U8)) ∈ s.mem) : (strayByte, (0 : U8)) ∈ (writeBridge s st w).mem := by
  unfold writeBridge
  split
  · exact h
  · unfold writeDir
    refine foldl_keeps (P := fun t : State => (strayByte, (0 : U8)) ∈ t.mem) (fun t o ht => mem_poke_of_lt ht ?_) _ s h
    unfold strayByte mkey spGal spPicot galCoef
    omega

theorem modInst_insts (s : State) (i : Nat) (g : Inst → Inst) : (modInst s i g).insts = smSet none s.insts i ((getInst s i).map g) := rfl

/-- Slot 0 moves the stray. -/
theorem stray_moved : Strayed (moveIdle strayReset 0) := by
  have h0 : moveIdle strayReset 0 = moveInst strayReset strayNumber := rfl
  have hm : ∃ g o b f, moveInst strayReset strayNumber =
      modInst (writeBridge (placeInst strayReset strayNumber 0 true 0 g o) strayNumber b) strayNumber f ∧ ∀ n, (f n).slot = n.slot :=
    ⟨_, _, _, _, rfl, fun _ => rfl⟩
  obtain ⟨g, o, b, f, hm, hf⟩ := hm
  obtain ⟨_, _, _, _, i, hp, hs⟩ := placeInst_only strayReset strayNumber 0 true 0 g o
  obtain ⟨_, _, _, hw⟩ := writes_writeBridge (placeInst strayReset strayNumber 0 true 0 g o) strayNumber b
  have hi : AllOfSlot0 (writeBridge (placeInst strayReset strayNumber 0 true 0 g o) strayNumber b).insts := by
    rw [hw, hp]
    refine allOfSlot0_smSet _ (allOfSlot0_smSet (m := []) strayNumber (v := some { strayInst with deferred := true }) (fun _ he => nomatch he) ?_) ?_
    · intro i hi
      cases hi
      rfl
    · intro j hj
      cases hj
      rw [hs]
      rfl
  rw [h0, hm]
  refine ⟨by simpa using writeBridge_lists (stray_placed g o), ?_⟩
  rw [modInst_insts]
  refine allOfSlot0_smSet _ hi (fun j hj => ?_)
  obtain ⟨n, hn, rfl⟩ := Option.map_eq_some_iff.mp hj
  rw [hf]
  exact allOfSlot0_get strayNumber hi hn

theorem resetT0_strayed {s : State} {n : Nat} (h : Strayed (moveIdle s n)) : Strayed (resetT0 s n) := by
  obtain ⟨m, c, x, hr⟩ := resetT0_only s n
  rw [hr]
  exact h

/-- The other slots leave what slot 0 has done. -/
theorem resetSlot_strayed {s : State} {n : Nat} (hn : n ≠ 0) (h : Strayed s) :
    Strayed (if tierOf n = 0 then resetT0 s n else resetT12 s n) := by
  split
  · refine resetT0_strayed ?_
    rw [moveIdle_unused (fun e he i hi => by rw [h.2 e he i hi]; exact Ne.symm hn)]
    exact h
  · obtain ⟨m, c, x, hr⟩ := resetT12_only s n
    rw [hr]
    exact h

theorem resetSlots_strayed : Strayed (resetSlots strayReset) := by
  have hl : ∀ (l : List Nat) (s : State), (∀ n ∈ l, n ≠ 0) → Strayed s →
      Strayed (l.foldl (fun t n => if tierOf n = 0 then resetT0 t n else resetT12 t n) s) := by
    intro l
    induction l with
    | nil => exact fun s _ h => h
    | cons n l ih =>
      exact fun s hn h => ih _ (fun m hm => hn m (List.mem_cons_of_mem _ hm)) (resetSlot_strayed (hn n (List.mem_cons_self ..)) h)
  unfold resetSlots
  rw [List.range_eq_range', List.range'_succ, List.foldl_cons]
  rw [if_pos (by decide)]
  refine hl _ _ (fun n hn => ?_) (resetT0_strayed stray_moved)
  have := (List.mem_range'_1.mp hn).1
  omega

/-- What clears other regions leaves the byte listed. -/
theorem filter_region_lists {m : List Host.Cell} {r : Nat} (hr : r ≠ 0) (h : (strayByte, (0 : U8)) ∈ m) :
    (strayByte, (0 : U8)) ∈ m.filter (fun e => !decide (regionOf e.1 = r)) := by
  have h0 : regionOf strayByte = 0 := by decide
  refine List.mem_filter.mpr ⟨h, ?_⟩
  simp only [h0, Bool.not_eq_true', decide_eq_false_iff_not]
  exact Ne.symm hr

theorem clearResident_lists {s : State} (h : (strayByte, (0 : U8)) ∈ s.mem) : (strayByte, (0 : U8)) ∈ (clearResident s).mem := by
  unfold clearResident
  refine foldl_keeps (P := fun t : State => (strayByte, (0 : U8)) ∈ t.mem) (fun t e ht => filter_region_lists ?_ ht) _ s h
  unfold spChamber
  omega

theorem loseWorking_lists {s : State} (h : (strayByte, (0 : U8)) ∈ s.mem) : (strayByte, (0 : U8)) ∈ (loseWorking s).mem := by
  unfold loseWorking
  refine foldl_keeps (P := fun t : State => (strayByte, (0 : U8)) ∈ t.mem) (fun t e ht => filter_region_lists ?_ ht) _ s h
  unfold spChamber
  omega

theorem resetPorts_mem (s : State) (warm : Bool) : (resetPorts s warm).mem = s.mem := by
  obtain ⟨p, o, h⟩ := resetPorts_only s warm
  rw [h]

theorem bootPorts_mem (s : State) : (bootPorts s).mem = s.mem := by
  obtain ⟨p, l, h⟩ := bootPorts_only s
  rw [h]

theorem refreshDoms_mem (s : State) : (refreshDoms s).mem = s.mem := rfl

theorem warmReset_lists {s : State} (h : (strayByte, (0 : U8)) ∈ (resetCommon s true).mem) : (strayByte, (0 : U8)) ∈ (warmReset s).mem := by
  unfold warmReset
  rw [bootPorts_mem]
  refine loseWorking_lists (clearResident_lists ?_)
  rw [resetPorts_mem]
  exact h

/-- A state in form lists no 0 in memory that is never lost. -/
theorem not_inForm_of_stray {s : State} (h : (strayByte, (0 : U8)) ∈ s.mem) : ¬ InForm s := by
  intro hf
  refine ((memory_wf_iff s).mp hf.1.mem).2 _ h ?_ rfl
  have hl : lossOf s strayByte = 0 := hf.1.never
  unfold isZeroed
  rw [hl]
  rfl

end Sys2Proof.Machine

open Sys2Proof Sys2Proof.Machine

/-- Refutes O60: nothing keeps the numbers of the lists in the ranges of what they list. A warm reset moves the one
listed under 18022, which is no stream's number; the clear of its record begins in the lost snapshot area of Gallery,
where a 0 is listed, and ends in the area behind it, where an unlisted byte reads 0. -/
theorem not_stepsKeepForm : ¬ Obligations.StepsKeepForm := by
  intro h
  have hs : step strayState = .next (refreshDoms (warmReset { strayState with pending := [] })) := rfl
  have hc : (strayByte, (0 : U8)) ∈ (resetCommon { strayState with pending := [] } true).mem := by
    rw [(resetCommon_frame _ _).1]
    exact resetSlots_strayed.1
  obtain ⟨hf, -⟩ := h strayState _ hs strayState_inForm
  refine not_inForm_of_stray ?_ hf
  rw [refreshDoms_mem]
  exact warmReset_lists hc
end

section
/-! PROOFS. Accesses to BAR0 that R10 refuses. -/

namespace Sys2Proof.Machine

/-- No register stands at an offset that is not a multiple of 4 (R10). -/
theorem pfOffset_unaligned {fn off : Nat} (h : off % 4 ≠ 0) : pfOffset fn off = none := by
  have ha : ∀ o, o % 4 ≠ 0 → assigned o = false := fun o ho => by simp [assigned, ho]
  unfold pfOffset
  split
  · rw [ha off h]; rfl
  · split
    · rw [ha off h]; rfl
    · split
      · rw [ha off h]; rfl
      · split
        · rw [ha (off - 0xF000 + 0xA0000) (by omega)]; rfl
        · rfl

/-- Outside recovery mode an access reaches what its offset names. -/
theorem reaches_eq {s : State} (h : s.lnt.recovery = false) (fn off : Nat) : reaches s fn off = pfOffset fn off := by
  unfold reaches
  cases pfOffset fn off with
  | none => rfl
  | some o => simp [h]

theorem satAdd_one_ne_zero (w a : Nat) : satAdd (w + 1) a 1 ≠ 0 := by
  unfold satAdd
  have : 2 ≤ 2 ^ (w + 1) := by rw [Nat.pow_succ]; have := Nat.one_le_two_pow (n := w); omega
  split <;> omega

/-- A count of one moves its own counter alone, however the counters are listed. -/
theorem ctr_c32_one (s : State) (o : Nat) : ctr (c32 s o 1) o = satAdd 32 (ctr s o) 1 :=
  smUpd_same (d := 0) s.ctrs o (satAdd 32 · 1) (satAdd_one_ne_zero 31 _)

theorem ctr_c32_one_ne (s : State) {o q : Nat} (h : q ≠ o) : ctr (c32 s o 1) q = ctr s q :=
  smUpd_ne (d := 0) s.ctrs (satAdd 32 · 1) (satAdd_one_ne_zero 31 _) h

/-- An access that is not of one aligned word, or names no register, is counted; a read answers ones (R10). -/
theorem execBadBar0Access_refused {s : State} {fn : FnId} {off : BitVec 20} {size : Nat} (write : Bool) (hr : regsRun s = true)
    (hp : fnPresent s fn.toNat = true) (hb : size ≠ 4 ∨ reaches s fn.toNat off.toNat = none) :
    exec (.badBar0Access fn off size write) s =
      .next (if write then countBad s else emit (countBad s) (.readData fn off 0xFFFFFFFF)) := by
  show execBadBar0Access fn off size write s = _
  have hc : (size == 4 && (reaches s fn.toNat off.toNat).isSome) = false := by
    rcases hb with h | h
    · simp [h]
    · simp [h]
  unfold execBadBar0Access
  simp [hr, hp, hc]

/-- A write that reaches no register is discarded, and counted (R10). -/
theorem execRegisterWrite_refused {s : State} {fn : FnId} {off : BitVec 20} (w : U32) (hr : regsRun s = true)
    (hp : fnPresent s fn.toNat = true) (hb : reaches s fn.toNat off.toNat = none) :
    exec (.registerWrite fn false off w) s = .next (countBad s) := by
  show execRegisterWrite fn false off w s = _
  unfold execRegisterWrite bar0Write
  simp [hr, hp, hb]

end Sys2Proof.Machine

open Sys2Proof Sys2Proof.Machine

/-- Settles O52: what reaches no register only counts FLT_CORR. -/
theorem unassignedAccess : Obligations.UnassignedAccess := by
  unfold Obligations.UnassignedAccess
  intro s fn off size w hr hp hl
  have hnone : off.toNat % 4 ≠ 0 ∨ pfOffset fn.toNat off.toNat = none → reaches s fn.toNat off.toNat = none := by
    rw [reaches_eq hl]
    exact fun h => h.elim pfOffset_unaligned id
  refine ⟨countBad s, ctr_c32_one s 0x90040, fun o ho => ctr_c32_one_ne s ho, rfl, fun h => ?_, fun h => ?_⟩
  · have hb : size ≠ 4 ∨ reaches s fn.toNat off.toNat = none := h.imp id hnone
    exact ⟨execBadBar0Access_refused true hr hp hb, execBadBar0Access_refused false hr hp hb⟩
  · exact execRegisterWrite_refused w hr hp (hnone h)
end

section
/-! PROOFS. Reads and writes of registers (R9, R11, R138, R159, R160, R189, R261, R314, R402). -/

namespace Sys2Proof.Machine

/-! ## Writes that reach the block -/

theorem Reached.bar0 {s : State} (h : Reached s 0) (g : State → State) : bar0 s 0 false g = g s := by
  obtain ⟨hf, hr, hp, hl, hb⟩ := h
  exact bar0_runs (hostRuns_regs hr) hp hl (.inl hf) hb g

theorem ReachedFlt.bar0 {s : State} (h : ReachedFlt s) (g : State → State) : bar0 s 0 true g = g s := by
  obtain ⟨hr, hl, hb⟩ := h
  exact bar0_runs hr rfl hl (.inr rfl) hb g

/-- A write of a function that reaches a register takes effect there. -/
theorem registerWrite_reached {s : State} {fn : FnId} (h : Reached s fn.toNat) {off : BitVec 20} {o : Nat} (w : U32)
    (ho : pfOffset fn.toNat off.toNat = some o) : exec (.registerWrite fn false off w) s = .next (writeReg s fn.toNat o w.toNat) := by
  obtain ⟨hf, hr, hp, hl, hb⟩ := h
  show execRegisterWrite fn false off w s = _
  unfold execRegisterWrite bar0Write
  simp [hostRuns_regs hr, hp, reaches_eq hl, ho, hf]

theorem pfOffset_zero {off : Nat} (h : assigned off = true) : pfOffset 0 off = some off := by simp [pfOffset, h]

/-- After a fatal event a write outside FLT_ changes nothing (R402). -/
theorem registerWrite_fatal {s : State} (h : ReachedFlt s) {off : BitVec 20} (w : U32) (hf : s.flt.fatal = true)
    (ha : assigned off.toNat = true) (hb : off.toNat / 0x10000 ≠ 9) : exec (.registerWrite 0 false off w) s = .next s := by
  obtain ⟨hr, hl, -⟩ := h
  show execRegisterWrite 0 false off w s = _
  have ho : reaches s 0 off.toNat = some off.toNat := (reaches_eq hl 0 _).trans (pfOffset_zero ha)
  unfold execRegisterWrite bar0Write
  simp [hr, fnPresent, ho, hf, hb]

/-! ## Registers that only hold what is written -/

theorem plainMask_assigned : ∀ e ∈ plainMask, e.1 < 2 ^ 20 ∧ assigned e.1 = true ∧ e.2 < 2 ^ 32 := by decide

/-- The block of a plain register writes and reads it as such, whatever else stands in the block. -/
theorem writeReg_plain : ∀ e ∈ plainMask, ∀ (s : State) (w : Nat), writeReg s 0 e.1 w = setReg s e.1 (w &&& e.2) := by
  unfold plainMask
  simp only [List.cons_append, List.nil_append, List.forall_mem_cons, List.not_mem_nil, false_imp_iff, implies_true, and_true]
  repeat' apply And.intro
  all_goals exact fun _ _ => rfl

theorem readReg_plain : ∀ e ∈ plainMask, ∀ s : State, readReg s 0 e.1 = reg s e.1 := by
  unfold plainMask
  simp only [List.cons_append, List.nil_append, List.forall_mem_cons, List.not_mem_nil, false_imp_iff, implies_true, and_true]
  repeat' apply And.intro
  all_goals exact fun _ => rfl

theorem smGet_eq_find {α : Type} (d : α) (m : SMap α) (k : Nat) : smGet d m k = (smFind m k).getD d := by
  induction m with
  | nil => rfl
  | cons x r ih =>
    simp only [smGet, smFind]
    split
    · rfl
    · split
      · rfl
      · exact ih

/-- A register that is written reads back its 32 bits, and the others are as they were. -/
theorem reg_setReg {s : State} (o v : Nat) (h : smWf regReset s.regs = true) (q : Nat) :
    reg (setReg s o v) q = if q = o then v % 2 ^ 32 else reg s q := by
  have hs := smWf_sorted h
  split
  case isTrue hq =>
    subst hq
    unfold reg
    rw [reg_setReg_sorted s q q v hs rfl, if_pos rfl, BitVec.toNat_ofNat]
  case isFalse hq =>
    unfold reg setReg
    rw [smGet_eq_find, smGet_eq_find, smFind_smSet _ _ _ hs, if_neg hq]

/-! ## Registers that a write leaves alone -/

theorem ctr64_assigned : ∀ o ∈ ctr64, assigned o = true := by decide

/-- A write of a 64-bit counter is discarded by its block. -/
theorem writeReg_ctr64 : ∀ o ∈ ctr64, ∀ (s : State) (w : Nat), writeReg s 0 o w = s := by
  unfold ctr64
  simp only [List.cons_append, List.nil_append, List.forall_mem_cons, List.not_mem_nil, false_imp_iff, implies_true, and_true]
  repeat' apply And.intro
  all_goals exact fun _ _ => rfl

/-! ## Placements -/

theorem and_mask_toNat (w : U32) (k : Nat) (hk : k ≤ 32) : (w &&& BitVec.ofNat 32 (2 ^ k - 1)).toNat = w.toNat % 2 ^ k := by
  have h1 : 2 ^ k ≤ 2 ^ 32 := Nat.pow_le_pow_right (by decide) hk
  have h2 := Nat.two_pow_pos k
  rw [BitVec.toNat_and, BitVec.toNat_ofNat, Nat.mod_eq_of_lt (by omega : 2 ^ k - 1 < 2 ^ 32), Nat.and_two_pow_sub_one_eq_mod]

/-- The low bits of a word. -/
theorem and_mask (w : U32) (k : Nat) (hk : k ≤ 32) : w &&& BitVec.ofNat 32 (2 ^ k - 1) = BitVec.ofNat 32 (w.toNat % 2 ^ k) := by
  apply BitVec.eq_of_toNat_eq
  have h1 := (w &&& BitVec.ofNat 32 (2 ^ k - 1)).isLt
  rw [and_mask_toNat w k hk] at h1
  rw [and_mask_toNat w k hk, BitVec.toNat_ofNat, Nat.mod_eq_of_lt h1]

theorem writes_poke1 (s : State) (k : Nat) (v : U8) : Writes s (poke1 s k v) := ⟨_, _, _, poke1_eq s k v⟩

theorem writes_copyTables (s : State) (src dst : Nat) : Writes s (copyTables s src dst) :=
  (writes_zeroRange s _ _).trans (.foldl (fun t _ => .foldl (fun u _ => writes_poke1 u _ _) _ t) _ _)

/-- The copy of the tables to a new range writes memory alone. -/
theorem writes_rangeCopy (s : State) (span old new : Nat) : Writes s (rangeCopy s span old new) := by
  unfold rangeCopy
  split
  · exact .refl s
  · exact .foldl (fun t _ => writes_copyTables t _ _) _ s

/-- A slot with a range written. -/
def putRange (b : Bool) (v : Nat) (x : Slot) : Slot :=
  if b then { x with placeB := BitVec.ofNat 32 v } else { x with placeA := BitVec.ofNat 32 v }

/-- A slot that holds a version stays listed with a new range. -/
theorem putRange_ne_default {b : Bool} {v : Nat} {x : Slot} {ver : Version} (h : versionOf x x.activeB = some ver) : putRange b v x ≠ {} := by
  intro he
  have hA : x.verA = none := by
    have := congrArg Slot.verA he
    cases b <;> exact this
  have hB : x.verB = none := by
    have := congrArg Slot.verB he
    cases b <;> exact this
  unfold versionOf at h
  split at h
  · exact absurd (hB.symm.trans h) (by simp)
  · exact absurd (hA.symm.trans h) (by simp)

/-- PIC_SLOT_RANGE as the selected slot takes it (R138, R159). -/
theorem picRangeWrite_reached {s : State} (h : Reached s 0) (b : Bool) (w : U32) :
    exec (.picRangeWrite b w) s = .next (
      let n := reg s 0x20020 % 64
      let v := w.toNat % 2 ^ 19
      let x := getSlot s n
      let err (s : State) : State := modSlot s n (fun x => { x with rangeErr := true })
      if 512 < rangeBase v + rangeCount v ∨ rangeClash s n v = true then err s
      else match versionOf x x.activeB with
        | none => modSlot s n (putRange b v)
        | some ver =>
          if b ≠ x.activeB then modSlot s n (putRange b v)
          else if slotInsts s n = 0 ∧ t0Span ver.image ≤ rangeCount v ∧ !rangesMeet v (rangeOf0 x x.activeB) then
            modSlot (rangeCopy s (t0Span ver.image) (rangeOf0 x x.activeB) v) n (putRange b v)
          else err s) := by
  show execPicRangeWrite b w s = _
  unfold execPicRangeWrite
  rw [h.bar0]
  rfl

/-- A Bobbin placement that is written: refused, ignored, or taken (R189). -/
theorem bobPlaceWrite_reached {s : State} (h : Reached s 0) (b : Bool) (w : U32) (ht : tierOf (bobSel s) = 1) :
    exec (.bobPlaceWrite b w) s = .next (
      let n := bobSel s
      let v := w.toNat % 2 ^ 18
      if placeOk v = true ∧ placeMeets s v (fun _ _ => false) = false then
        if (versionOf (getSlot s n) b).isSome then s else modSlot s n (putRange b v)
      else modSlot s n (fun x => { x with rangeErr := true })) := by
  show execBobPlaceWrite b w s = _
  unfold execBobPlaceWrite putRange
  have hv : w &&& 0x3FFFF = BitVec.ofNat 32 (w.toNat % 2 ^ 18) := and_mask w 18 (by decide)
  have hn : (w &&& 0x3FFFF).toNat = w.toNat % 2 ^ 18 := and_mask_toNat w 18 (by decide)
  rw [h.bar0]
  dsimp only
  rw [hn, hv, if_neg (by simp [ht])]
  cases placeOk (w.toNat % 2 ^ 18) <;> cases placeMeets s (w.toNat % 2 ^ 18) (fun _ _ => false) <;> rfl

/-- A Chamber placement that is written (R314). -/
theorem chmPlaceWrite_reached {s : State} (h : Reached s 0) (b : Bool) (w : U32) (ht : tierOf (chmSel s) = 2) :
    exec (.chmPlaceWrite b w) s = .next (
      let n := chmSel s
      if (versionOf (getSlot s n) b).isSome then modSlot s n (fun x => { x with rangeErr := true })
      else modSlot s n (putRange b (w.toNat % 2 ^ 16))) := by
  show execChmPlaceWrite b w s = _
  unfold execChmPlaceWrite putRange
  have hv : w &&& 0xFFFF = BitVec.ofNat 32 (w.toNat % 2 ^ 16) := and_mask w 16 (by decide)
  rw [h.bar0]
  dsimp only
  rw [hv, if_neg (by simp [ht])]

/-! ## The MSI-X table (R70, R100) -/

theorem flushVecs_off {s : State} {f : Nat} (h : (getFn s f).msixEn = false) : flushVecs s f = s := by
  unfold flushVecs
  simp [h]

/-- A word of the table of a function that is not its mask, or its mask while MSI-X is off, replaces part of the vector. -/
theorem msixWrite_put {s : State} {fn off : Nat} (w : Nat) (g : MsixVec → MsixVec) (hv : off / 16 < tableSize s fn)
    (hg : (off % 16 = 0 ∧ g = fun e => { e with addr := putHalf e.addr false w }) ∨
      (off % 16 = 4 ∧ g = fun e => { e with addr := putHalf e.addr true w }) ∨
      (off % 16 = 8 ∧ g = fun e => { e with data := BitVec.ofNat 32 w }) ∨
      (off % 16 = 12 ∧ (getFn s fn).msixEn = false ∧ Canon {} s.fns ∧ g = fun e => { e with masked := bitOf w 0 })) :
    msixWrite s fn off w = modFn s fn (fun f => { f with vecs := smUpd {} f.vecs (off / 16) g }) := by
  have hn : ¬ (off % 4 ≠ 0 ∨ tableSize s fn ≤ off / 16) := by omega
  unfold msixWrite
  dsimp only
  rw [if_neg hn]
  rcases hg with ⟨ho, rfl⟩ | ⟨ho, rfl⟩ | ⟨ho, rfl⟩ | ⟨ho, hm, hf, rfl⟩
  · rw [ho]; rfl
  · rw [ho]; rfl
  · rw [ho]; rfl
  · rw [ho]
    refine flushVecs_off ?_
    rw [getFn_modFn_sorted _ _ _ _ (smWf_sorted hf), if_pos rfl]
    exact hm

/-- A vector's word that is written: the vector takes it, and nothing else changes. -/
theorem registerWrite_msix {s : State} {fn : FnId} {off : BitVec 20} (w : U32) (g : MsixVec → MsixVec) (h : Reached s fn.toNat)
    (hf : Canon {} s.fns) (hc : Canon {} (getFn s fn.toNat).vecs)
    (hw : msixWrite s fn.toNat off.toNat w.toNat = modFn s fn.toNat (fun f => { f with vecs := smUpd {} f.vecs (off.toNat / 16) g })) :
    ∃ t, exec (.registerWrite fn true off w) s = .next t ∧ t = { s with fns := t.fns } ∧
      smGet {} (getFn t fn.toNat).vecs (off.toNat / 16) = g (smGet {} (getFn s fn.toNat).vecs (off.toNat / 16)) ∧
      ∀ q, q ≠ off.toNat / 16 → smGet {} (getFn t fn.toNat).vecs q = smGet {} (getFn s fn.toNat).vecs q := by
  obtain ⟨-, hr, hp, -, -⟩ := h
  have hv : ∀ q, smGet {} (getFn (modFn s fn.toNat (fun f => { f with vecs := smUpd {} f.vecs (off.toNat / 16) g })) fn.toNat).vecs q =
      if q = off.toNat / 16 then g (smGet {} (getFn s fn.toNat).vecs (off.toNat / 16)) else smGet {} (getFn s fn.toNat).vecs q := by
    intro q
    rw [getFn_modFn_sorted _ _ _ _ (smWf_sorted hf), if_pos rfl]
    exact smGet_smSet_sorted _ (smWf_sorted hc)
  refine ⟨modFn s fn.toNat (fun f => { f with vecs := smUpd {} f.vecs (off.toNat / 16) g }), ?_, rfl, ?_, fun q hq => ?_⟩
  · show execRegisterWrite fn true off w s = _
    unfold execRegisterWrite
    simp only [hostRuns_regs hr, hp, hw]
    rfl
  · rw [hv, if_pos rfl]
  · rw [hv, if_neg hq]

/-! ## Reads (R9) -/

/-- A read of BAR4 answers its word. -/
theorem lowHalfRead_msix {s : State} {fn : FnId} {off : BitVec 20} (hr : regsRun s = true) (hp : fnPresent s fn.toNat = true)
    (ha : off.toNat % 4 = 0) : exec (.lowHalfRead fn ⟨true, off⟩) s =
      .next { s with out := .msixData fn off (BitVec.ofNat 32 (readMsix s fn.toNat off.toNat)) :: s.out } := by
  show execLowHalfRead fn ⟨true, off⟩ s = _
  unfold execLowHalfRead
  simp only [hr, hp, ha]
  rfl

/-- A read of a register answers what `readBar0` gives. -/
theorem lowHalfRead_bar0 {s : State} {fn : FnId} {off : BitVec 20} {o : Nat} (hr : regsRun s = true) (hp : fnPresent s fn.toNat = true)
    (ha : off.toNat % 4 = 0) (ho : reaches s fn.toNat off.toNat = some o) : exec (.lowHalfRead fn ⟨false, off⟩) s =
      .next (emit (readBar0 s fn.toNat o).2 (.readData fn off (readBar0 s fn.toNat o).1)) := by
  show execLowHalfRead fn ⟨false, off⟩ s = _
  unfold execLowHalfRead
  simp only [hr, hp, ha, ho]
  rfl

/-- A high half that is latched is answered and used up. -/
theorem readBar0_latched {s : State} {fn o : Nat} {h : U32} (hl : smFind (getFn s fn).latch o = some h) :
    readBar0 s fn o = (h, modFn s fn (fun f => { f with latch := f.latch.filter (fun e => e.1 != o) })) := by
  unfold readBar0
  rw [hl]

/-- The read of a low half latches the high half. -/
theorem readBar0_low {s : State} {fn o : Nat} (hl : smFind (getFn s fn).latch o = none) (h : lowHalf o = true) :
    readBar0 s fn o = (BitVec.ofNat 32 (readReg s fn o),
      modFn s fn (fun f => { f with latch := smPut f.latch (o + 4) (BitVec.ofNat 32 (readReg s fn (o + 4))) })) := by
  unfold readBar0
  rw [hl]
  simp only [h, if_true]

/-- Any other read leaves all but the Lantern's stage address alone. -/
theorem readBar0_other {s : State} {fn o : Nat} (hl : smFind (getFn s fn).latch o = none) (h : lowHalf o = false) :
    readBar0 s fn o = (BitVec.ofNat 32 (readReg s fn o), readEffect s o) := by
  unfold readBar0
  rw [hl]
  simp [h]

theorem readEffect_only (s : State) (o : Nat) : readEffect s o = { s with lnt := (readEffect s o).lnt } := by
  unfold readEffect
  split
  · rfl
  · rfl

end Sys2Proof.Machine
end

section
/-! PROOFS. O51, clause by clause. -/

namespace Sys2Proof.Machine

/-- A register that only holds what is written. -/
theorem plain_write_reads_back {s : State} (h : Reached s 0) (w : U32) {e : Nat × Nat} (he : e ∈ plainMask)
    (hs : smWf regReset s.regs = true) :
    ∃ t, exec (.registerWrite 0 false (BitVec.ofNat 20 e.1) w) s = .next t ∧ t = { s with regs := t.regs } ∧
      readReg t 0 e.1 = w.toNat &&& e.2 ∧ ∀ o, o ≠ e.1 → reg t o = reg s o := by
  obtain ⟨hlt, ha, hm⟩ := plainMask_assigned e he
  have ho : (BitVec.ofNat 20 e.1).toNat = e.1 := by rw [BitVec.toNat_ofNat, Nat.mod_eq_of_lt hlt]
  have hv : w.toNat &&& e.2 < 2 ^ 32 := lt_of_le_of_lt Nat.and_le_right hm
  refine ⟨setReg s e.1 (w.toNat &&& e.2), ?_, rfl, ?_, fun o hne => ?_⟩
  · rw [registerWrite_reached (o := e.1) h w (by rw [ho]; exact pfOffset_zero ha)]
    exact congrArg _ (writeReg_plain e he s w.toNat)
  · rw [readReg_plain e he, reg_setReg _ _ hs, if_pos rfl, Nat.mod_eq_of_lt hv]
  · rw [reg_setReg _ _ hs, if_neg hne]

/-- A 64-bit counter, or a register of CAP_. -/
theorem counter_write_discarded {s : State} (h : Reached s 0) (w : U32) {off : BitVec 20}
    (ho : off.toNat ∈ ctr64 ∨ off = 0xA0000 ∨ off = 0xA0004 ∨ off = 0xA0008 ∨ off = 0xA000C) :
    exec (.registerWrite 0 false off w) s = .next s := by
  have hc : assigned off.toNat = true ∧ writeReg s 0 off.toNat w.toNat = s := by
    rcases ho with ho | rfl | rfl | rfl | rfl
    · exact ⟨ctr64_assigned _ ho, writeReg_ctr64 _ ho s w.toNat⟩
    · exact ⟨by decide, rfl⟩
    · exact ⟨by decide, rfl⟩
    · exact ⟨by decide, rfl⟩
    · exact ⟨by decide, rfl⟩
  exact (registerWrite_reached (fn := 0) h w (pfOffset_zero hc.1)).trans (congrArg _ hc.2)

/-- PIC_BRIDGE waits for the step boundary of the selected stream (R160). -/
theorem bridge_write_pends {s : State} (h : Reached s 0) (w : U32) {i : Inst} (hi : getInst s (reg s 0x20038 % 16384) = some i) :
    ∃ t, exec (.picBridgeWrite w) s = .next t ∧ t = { s with insts := t.insts } ∧
      getInst t (reg s 0x20038 % 16384) = some { i with bridgePend := some (w &&& 0x7FFFFFFF) } ∧
      ∀ q, q ≠ reg s 0x20038 % 16384 → getInst t q = getInst s q := by
  refine ⟨setInst s (reg s 0x20038 % 16384) (some { i with bridgePend := some (w &&& 0x7FFFFFFF) }), ?_, rfl, ?_, fun q hq => ?_⟩
  · show execPicBridgeWrite w s = _
    unfold execPicBridgeWrite
    rw [h.bar0]
    unfold modInst
    rw [hi]
    rfl
  · exact getInst_setInst ..
  · exact getInst_setInst_ne _ _ hq

/-- A range in force that may move: its tables are copied, and it takes effect (R159). -/
theorem modSlot_rangeCopy {s : State} {n v span old : Nat} {b : Bool} {ver : Version} (hv : activeVersion s n = some ver) :
    getSlot (modSlot (rangeCopy s span old v) n (putRange b v)) n = putRange b v (getSlot s n) ∧
    ∀ q, q ≠ n → getSlot (modSlot (rangeCopy s span old v) n (putRange b v)) q = getSlot s q := by
  obtain ⟨m, p, f, hw⟩ := writes_rangeCopy s span old v
  rw [hw]
  have hd : putRange b v (getSlot s n) ≠ {} := putRange_ne_default hv
  exact ⟨getSlot_modSlot _ n _ hd, fun q hq => getSlot_modSlot_ne _ _ hd hq⟩

/-- The window of the selected counter begins again with its new field (R261). -/
theorem satCfg_write_restarts {s : State} (h : ReachedFlt s) (w : U32) (thresh : Bool) (hc : Canon {} s.satCtrs) :
    ∃ t, exec (.satCfgWrite thresh w) s = .next t ∧ t = { s with satCtrs := t.satCtrs } ∧
      ∀ n, getSat t n = if n ≠ reg s 0x94000 % 4096 then getSat s n
        else if thresh then { getSat s n with winSat := 0, winOut := 0, winDrift := false, thresh := w }
        else { getSat s n with winSat := 0, winOut := 0, winDrift := false, winLog2 := BitVec.ofNat 5 w.toNat } := by
  refine ⟨modSat s (reg s 0x94000 % 4096) (fun c =>
    restartWindow (if thresh then { c with thresh := w } else { c with winLog2 := BitVec.ofNat 5 w.toNat })), ?_, rfl, fun n => ?_⟩
  · show execSatCfgWrite thresh w s = _
    unfold execSatCfgWrite
    rw [h.bar0]
  · rw [getSat_modSat_sorted _ _ _ _ (smWf_sorted hc)]
    by_cases hn : n = reg s 0x94000 % 4096
    · subst hn
      cases thresh <;> simp [restartWindow]
    · simp [hn]

/-! ### A range of the selected slot (R138, R159) -/

/-- The slot that PIC_SLOT_SEL selects, and the range that `w` describes. -/
def rangeSlot (s : State) : Nat := reg s 0x20020 % 64
def rangeWord (w : U32) : Nat := w.toNat % 2 ^ 19

/-- The range lies within the cores and meets no other slot's. -/
def RangeFits (s : State) (v : Nat) : Prop := ¬ (512 < rangeBase v + rangeCount v ∨ rangeClash s (rangeSlot s) v = true)

theorem rangeFits {s : State} {v : Nat} (hfit : rangeBase v + rangeCount v ≤ 512) (hclash : rangeClash s (rangeSlot s) v = false) :
    RangeFits s v := by
  rintro (h | h)
  · omega
  · rw [hclash] at h
    cases h

/-- A range that fits, by the version in force. -/
theorem picRangeWrite_fits {s : State} (h : Reached s 0) {b : Bool} {w : U32} (hok : RangeFits s (rangeWord w)) :
    exec (.picRangeWrite b w) s = .next (
      let n := rangeSlot s
      let x := getSlot s n
      match activeVersion s n with
      | none => modSlot s n (putRange b (rangeWord w))
      | some ver =>
        if b ≠ x.activeB then modSlot s n (putRange b (rangeWord w))
        else if slotInsts s n = 0 ∧ t0Span ver.image ≤ rangeCount (rangeWord w) ∧ !rangesMeet (rangeWord w) (rangeOf0 x x.activeB) then
          modSlot (rangeCopy s (t0Span ver.image) (rangeOf0 x x.activeB) (rangeWord w)) n (putRange b (rangeWord w))
        else modSlot s n (fun x => { x with rangeErr := true })) :=
  (picRangeWrite_reached h b w).trans (congrArg _ (if_neg hok))

/-- The range is not in force: it takes effect. -/
theorem picRangeWrite_idle {s : State} (h : Reached s 0) {b : Bool} {w : U32} (hok : RangeFits s (rangeWord w))
    (hfree : activeVersion s (rangeSlot s) = none ∨ b ≠ (getSlot s (rangeSlot s)).activeB) :
    exec (.picRangeWrite b w) s = .next (modSlot s (rangeSlot s) (putRange b (rangeWord w))) := by
  rw [picRangeWrite_fits h hok]
  dsimp only
  split
  · rfl
  · rw [if_pos (hfree.resolve_left (by simp [*]))]

/-- A range in force moves when its slot has no instances, and its tables fit and do not meet their copy. -/
def RangeMoves (s : State) (v : Nat) (ver : Version) : Prop :=
  slotInsts s (rangeSlot s) = 0 ∧ t0Span ver.image ≤ rangeCount v ∧
    rangesMeet v (rangeOf0 (getSlot s (rangeSlot s)) (getSlot s (rangeSlot s)).activeB) = false

theorem picRangeWrite_inForce {s : State} (h : Reached s 0) {b : Bool} {w : U32} {ver : Version} (hok : RangeFits s (rangeWord w))
    (hver : activeVersion s (rangeSlot s) = some ver) (hb : b = (getSlot s (rangeSlot s)).activeB) :
    exec (.picRangeWrite b w) s = .next (
      let x := getSlot s (rangeSlot s)
      let old := rangeOf0 x x.activeB
      if slotInsts s (rangeSlot s) = 0 ∧ t0Span ver.image ≤ rangeCount (rangeWord w) ∧ (!rangesMeet (rangeWord w) old) = true then
        modSlot (rangeCopy s (t0Span ver.image) old (rangeWord w)) (rangeSlot s) (putRange b (rangeWord w))
      else modSlot s (rangeSlot s) (fun x => { x with rangeErr := true })) := by
  rw [picRangeWrite_fits h hok]
  dsimp only
  rw [hver]
  exact congrArg _ (if_neg (not_not_intro hb))

theorem picRangeWrite_moves {s : State} (h : Reached s 0) {b : Bool} {w : U32} {ver : Version} (hok : RangeFits s (rangeWord w))
    (hver : activeVersion s (rangeSlot s) = some ver) (hb : b = (getSlot s (rangeSlot s)).activeB) (hm : RangeMoves s (rangeWord w) ver) :
    ∃ t, exec (.picRangeWrite b w) s = .next t ∧ getSlot t (rangeSlot s) = putRange b (rangeWord w) (getSlot s (rangeSlot s)) ∧
      ∀ q, q ≠ rangeSlot s → getSlot t q = getSlot s q := by
  obtain ⟨h0, hspan, hmeet⟩ := hm
  obtain ⟨h1, h2⟩ := modSlot_rangeCopy (span := t0Span ver.image)
    (old := rangeOf0 (getSlot s (rangeSlot s)) (getSlot s (rangeSlot s)).activeB) (b := b) (v := rangeWord w) hver
  refine ⟨_, ?_, h1, h2⟩
  rw [picRangeWrite_inForce h hok hver hb]
  exact congrArg _ (if_pos ⟨h0, hspan, by rw [hmeet]; rfl⟩)

/-- A range in force that cannot move sets RANGE_ERR. -/
theorem picRangeWrite_stays {s : State} (h : Reached s 0) {b : Bool} {w : U32} {ver : Version} (hok : RangeFits s (rangeWord w))
    (hver : activeVersion s (rangeSlot s) = some ver) (hb : b = (getSlot s (rangeSlot s)).activeB) (hm : ¬ RangeMoves s (rangeWord w) ver) :
    exec (.picRangeWrite b w) s = .next (modSlot s (rangeSlot s) (fun x => { x with rangeErr := true })) := by
  rw [picRangeWrite_inForce h hok hver hb]
  exact congrArg _ (if_neg (by simpa [RangeMoves] using hm))

end Sys2Proof.Machine

open Sys2Proof Sys2Proof.Machine

/-- Settles O51, from what each write does to the block that it reaches. -/
theorem registerWrites : Obligations.RegisterWrites := by
  unfold Obligations.RegisterWrites
  intro s w
  refine ⟨fun h => ⟨fun e he hs => plain_write_reads_back h w he hs, fun off ho => counter_write_discarded h w ho,
    fun i hi => bridge_write_pends h w hi, fun b => ?range, fun b => ?bob, fun b => ?chm⟩,
    fun h => ⟨fun off hf ha hb => registerWrite_fatal h w hf ha hb, fun thresh hc => satCfg_write_restarts h w thresh hc⟩,
    fun fn off h hf hc hv => ?msix, fun fn off o hr hp ha hf => ⟨lowHalfRead_msix hr hp ha, fun ho => ?read⟩⟩
  case range =>
    dsimp only
    refine ⟨fun hbad => ?_, fun hfit hclash => ?_⟩
    · rw [picRangeWrite_reached h]
      exact congrArg _ (if_pos hbad)
    · exact ⟨picRangeWrite_idle h (rangeFits hfit hclash), fun ver hver hb =>
        ⟨picRangeWrite_moves h (rangeFits hfit hclash) hver hb, picRangeWrite_stays h (rangeFits hfit hclash) hver hb⟩⟩
  case bob =>
    dsimp only
    intro ht
    rw [bobPlaceWrite_reached h b w ht]
    refine ⟨fun hno => congrArg _ (if_neg hno), fun hfit hv => ?_, fun hfit hv => ?_⟩
    · exact congrArg _ ((if_pos hfit).trans (if_pos hv))
    · exact congrArg _ ((if_pos hfit).trans (if_neg (by simp [bobSel, hv])))
  case chm =>
    dsimp only
    intro ht
    rw [chmPlaceWrite_reached h b w ht]
    exact ⟨fun hv => congrArg _ (if_pos hv), fun hv => congrArg _ (if_neg (by simp [chmSel, hv]))⟩
  case msix =>
    refine ⟨fun h0 => ?_, fun h4 => ?_, fun h8 => ?_, fun h12 hm => ?_⟩
    · exact registerWrite_msix w _ h hf hc (msixWrite_put w.toNat _ hv (.inl ⟨h0, rfl⟩))
    · exact registerWrite_msix w _ h hf hc (msixWrite_put w.toNat _ hv (.inr (.inl ⟨h4, rfl⟩)))
    · have hg := registerWrite_msix w _ h hf hc (msixWrite_put w.toNat _ hv (.inr (.inr (.inl ⟨h8, rfl⟩))))
      simpa using hg
    · exact registerWrite_msix w _ h hf hc (msixWrite_put w.toNat _ hv (.inr (.inr (.inr ⟨h12, hm, hf, rfl⟩))))
  case read =>
    rw [lowHalfRead_bar0 hr hp ha ho]
    refine ⟨fun hi hl => ?_, fun hl hlow => ?_, fun hl hlow => ?_⟩
    · rw [readBar0_latched hl]
      rfl
    · rw [readBar0_low hl hlow]
      rfl
    · rw [readBar0_other hl hlow]
      refine ⟨_, rfl, ?_, ?_⟩
      · rw [readEffect_only]
        rfl
      · rw [readEffect_only]
        rfl
end

section
/-! PROOFS. What the work of streams and jobs leaves: the knots, the PLLs, and the power state but for a wake. -/

namespace Sys2Proof.Machine

/-- The power state without what a record for a sleeping host sets (R102). -/
def steady (p : Power) : Power := { p with wake := false, clkreq := false }

/-- A step leaves the PLLs, the steady part of the power state and the knots. -/
@[simp] abbrev Calm (s t : State) : Prop := t.plls = s.plls ∧ steady t.pwr = steady s.pwr ∧ t.knots = s.knots

/-- A calm step that leaves the streams. -/
@[simp] abbrev Quiet (s t : State) : Prop := t.streams = s.streams ∧ t.plls = s.plls ∧ steady t.pwr = steady s.pwr ∧ t.knots = s.knots

theorem Quiet.refl (s : State) : Quiet s s := ⟨rfl, rfl, rfl, rfl⟩

theorem Quiet.trans {s t u : State} (h : Quiet s t) (h' : Quiet t u) : Quiet s u :=
  ⟨h'.1.trans h.1, h'.2.1.trans h.2.1, h'.2.2.1.trans h.2.2.1, h'.2.2.2.trans h.2.2.2⟩

theorem Calm.trans {s t u : State} (h : Calm s t) (h' : Calm t u) : Calm s u :=
  ⟨h'.1.trans h.1, h'.2.1.trans h.2.1, h'.2.2.trans h.2.2⟩

@[simp] theorem quiet_foldl {α : Type} {f : State → α → State} (hf : ∀ t a, Quiet t (f t a)) (l : List α) (s : State) :
    Quiet s (l.foldl f s) :=
  foldl_keeps (P := Quiet s) (fun t a h => h.trans (hf t a)) l s (.refl s)

/-- The same of a fold that gathers events. -/
@[simp] theorem quiet_foldl_fst {α β : Type} {f : State × β → α → State × β} (hf : ∀ t a, Quiet t.1 (f t a).1) (l : List α) (t : State × β) :
    Quiet t.1 (l.foldl f t).1 :=
  foldl_keeps (P := fun u => Quiet t.1 u.1) (fun u a h => h.trans (hf u a)) l t (.refl t.1)

theorem Writes.quiet {s t : State} (h : Writes s t) : Quiet s t := by
  obtain ⟨m, p, f, rfl⟩ := h
  exact .refl s

@[simp] theorem ite_streams (c : Prop) [Decidable c] (s t : State) : (if c then s else t).streams = if c then s.streams else t.streams := apply_ite ..
@[simp] theorem ite_plls (c : Prop) [Decidable c] (s t : State) : (if c then s else t).plls = if c then s.plls else t.plls := apply_ite ..
@[simp] theorem ite_pwr (c : Prop) [Decidable c] (s t : State) : (if c then s else t).pwr = if c then s.pwr else t.pwr := apply_ite ..
@[simp] theorem ite_steady (c : Prop) [Decidable c] (p q : Power) : steady (if c then p else q) = if c then steady p else steady q := apply_ite ..
@[simp] theorem ite_fst {α β : Type} (c : Prop) [Decidable c] (p q : α × β) : (if c then p else q).1 = if c then p.1 else q.1 := apply_ite ..
@[simp] theorem ite_knots (c : Prop) [Decidable c] (s t : State) : (if c then s else t).knots = if c then s.knots else t.knots := apply_ite ..

/-! ## Memory -/

@[simp] theorem quiet_poke (s : State) (k : Nat) (bs : Bytes) : Quiet s (poke s k bs) := (writes_poke s k bs).quiet
@[simp] theorem quiet_zeroRange (s : State) (k n : Nat) : Quiet s (zeroRange s k n) := (writes_zeroRange s k n).quiet
@[simp] theorem quiet_coreWr (s : State) (c off n v : Nat) : Quiet s (coreWr s c off n v) := quiet_poke ..
@[simp] theorem quiet_galZero (s : State) (off n : Nat) : Quiet s (galZero s off n) := by simp [galZero]

/-! ## Flits, jobs and records -/

@[simp] theorem quiet_fltStale (s : State) (n : Nat) : Quiet s (fltStale s n) := by simp [fltStale]
@[simp] theorem quiet_fltCheck (s : State) : Quiet s (fltCheck s) := by simp [fltCheck]
@[simp] theorem quiet_sendFlit (s : State) (i : Nat) (hdr : U32) (pay : Bytes) : Quiet s (sendFlit s i hdr pay) := by simp [sendFlit]
@[simp] theorem quiet_sendLinkFlit (s : State) (i sub : Nat) (rest : Bytes) : Quiet s (sendLinkFlit s i sub rest) := by simp [sendLinkFlit]
@[simp] theorem quiet_sendLeaving (s : State) (i : Nat) : Quiet s (sendLeaving s i) := by simp [sendLeaving]
@[simp] theorem quiet_hopPass (s : State) : Quiet s (hopPass s) := by simp [hopPass]
@[simp] theorem quiet_addJob (s : State) (j : Job) : Quiet s (addJob s j) := by simp [addJob]
@[simp] theorem quiet_raisePriority (s : State) (j : Nat) : Quiet s (raisePriority s j) := by simp [raisePriority]
@[simp] theorem quiet_freeEngines (s : State) (jn : Nat) : Quiet s (freeEngines s jn) := by simp [freeEngines]
@[simp] theorem quiet_endWaitsOf (s : State) (mine : KOrigin → Bool) : Quiet s (endWaitsOf s mine) := by simp [endWaitsOf]
@[simp] theorem quiet_removeJob (s : State) (jn : Nat) : Quiet s (removeJob s jn) := by simp [removeJob]

@[simp] theorem quiet_writeRecordSpace (s : State) (st base : Nat) (second : Bool) (bs : Bytes) :
    Quiet s (writeRecordSpace s st base second bs) := by simp [writeRecordSpace]

@[simp] theorem quiet_copyWord (s : State) (src dst : Nat) : Quiet s (copyWord s src dst) := by simp [copyWord, setPoison]

@[simp] theorem quiet_copyWords (s : State) (src dst : Nat) (n : Nat) : Quiet s (copyWords s src dst n) := by
  induction n generalizing s src dst with
  | zero => exact .refl s
  | succ n ih => exact (quiet_copyWord s src dst).trans (ih ..)

@[simp] theorem quiet_copySnap (s : State) (st buf n cnt : Nat) : Quiet s (copySnap s st buf n cnt) := by simp [copySnap]
@[simp] theorem quiet_endStreamOp (s : State) (q : DescRef) (st status : Nat) : Quiet s (endStreamOp s q st status) := by simp [endStreamOp]

/-! ## The Passage -/

@[simp] theorem quiet_psgEvent (s : State) (bits : Nat) : Quiet s (psgEvent s bits) := by simp [psgEvent]
@[simp] theorem quiet_markLost (s : State) (chip row port : Nat) : Quiet s (markLost s chip row port) := by simp [markLost]
@[simp] theorem quiet_needRoute (s : State) (chip : Nat) : Quiet s (needRoute s chip) := by simp [needRoute]

@[simp] theorem quiet_emitData (s : State) (i : Nat) (seq : BitVec 12) (cls : BitVec 2) (pay : Bytes) :
    Quiet s (emitData s i seq cls pay) := by simp [emitData]

@[simp] theorem quiet_leaveBuffer (s : State) (m : PMsg) : Quiet s (leaveBuffer s m) := by
  unfold leaveBuffer
  split <;> simp

@[simp] theorem quiet_pump (s : State) (i : Nat) (n : Nat) : Quiet s (pump s i n) := by
  induction n generalizing s with
  | zero => exact .refl s
  | succ n ih =>
    unfold pump
    dsimp only
    split
    · exact .refl s
    · split
      · exact .refl s
      · split
        · exact .refl s
        · refine Quiet.trans ?_ (ih _)
          simp

@[simp] theorem quiet_pumpPort (s : State) (i : Nat) : Quiet s (pumpPort s i) := by simp [pumpPort]
@[simp] theorem quiet_forward (s : State) (m : PMsg) : Quiet s (forward s m) := by simp [forward]

@[simp] theorem quiet_psgSend (s : State) (cls mtype dest tagw : Nat) (body : Bytes) :
    Quiet s (psgSend s cls mtype dest tagw body) := by simp [psgSend]

@[simp] theorem quiet_sendBatch (s : State) (chip : Nat) : Quiet s (sendBatch s chip) := by simp [sendBatch]
@[simp] theorem quiet_holdEvent (s : State) (chip : Nat) (e : HeldEv) : Quiet s (holdEvent s chip e) := by simp [holdEvent]

/-! ## Spikes in the Picot cores -/

@[simp] theorem quiet_mendWord (s : State) (c : Nat) (e : Nat × BitVec 2) : Quiet s (mendWord s c e) := by simp [mendWord]
@[simp] theorem quiet_mendPicot (s : State) (c : Nat) : Quiet s (mendPicot s c) := by simp [mendPicot]

@[simp] theorem quiet_runNeuron (s : State) (c n entry : Nat) (t0 : Int) (close : Bool) :
    Quiet s (runNeuron s c n entry t0 close).1 := by simp [runNeuron]

@[simp] theorem quiet_mcEvent (s : State) (st : Nat) (i : Inst) (pl : Place) (c idx : Nat) (graded : Bool) (v : Int) (mc stamp : Nat) :
    Quiet s (mcEvent s st i pl c idx graded v mc stamp).1 := by simp [mcEvent]

@[simp] theorem quiet_emission (s : State) (st c : Nat) (q : Pop) (idx : Nat) (graded : Bool) (v : Int) (which : Issue) (stamp : Nat) :
    Quiet s (emission s st c q idx graded v which stamp).1 := by
  unfold emission
  split <;> simp

@[simp] theorem quiet_emitNeuron (s : State) (st c n : Nat) (graded : Bool) (v : Int) : Quiet s (emitNeuron s st c n graded v).1 := by
  unfold emitNeuron
  dsimp only
  repeat' split
  all_goals simp

@[simp] theorem quiet_addContribution (s : State) (st c n : Nat) (x : Int) : Quiet s (addContribution s st c n x).1 := by
  unfold addContribution
  dsimp only
  repeat' split
  all_goals simp

@[simp] theorem quiet_deliver (s : State) (e : Ev) : Quiet s (deliver s e).1 := by
  unfold deliver
  dsimp only
  split
  · simp
  · split
    · simp
    · split
      · simp
      · split
        · simp
        · split
          · simp
          · split
            · simp
            · refine Quiet.trans ?_ (quiet_foldl_fst (fun t x => ?_) _ _)
              · simp
              · simp

@[simp] theorem quiet_deliverAll (s : State) (n : Nat) (es : List Ev) : Quiet s (deliverAll s n es) := by
  induction n generalizing s es with
  | zero => simp [deliverAll]
  | succ n ih =>
    unfold deliverAll
    split
    · exact .refl s
    · refine Quiet.trans (quiet_foldl_fst (t := (s, [])) (fun t e => ?_) es) (ih ..)
      simp

@[simp] theorem quiet_evalNeuron (s : State) (st c n : Nat) : Quiet s (evalNeuron s st c n).1 := by
  unfold evalNeuron
  dsimp only
  repeat' split
  all_goals simp

@[simp] theorem quiet_evalParity (s : State) (st : Nat) (pl : Place) (c k par : Nat) (es : List Ev) :
    Quiet s (evalParity s st pl c k par es).1 := by simp [evalParity]

@[simp] theorem quiet_evalRank (s : State) (st : Nat) (pl : Place) (k : Nat) : Quiet s (evalRank s st pl k).1 := by simp [evalRank]

@[simp] theorem quiet_evalRanks (s : State) (st : Nat) (pl : Place) (k : Nat) (n : Nat) : Quiet s (evalRanks s st pl k n) := by
  induction n generalizing s k with
  | zero => exact .refl s
  | succ n ih =>
    unfold evalRanks
    exact ((quiet_evalRank s st pl k).trans (quiet_deliverAll ..)).trans (ih ..)

@[simp] theorem quiet_issueDeferred (s : State) (st : Nat) : Quiet s (issueDeferred s st) := by
  unfold issueDeferred
  split
  · exact .refl s
  · dsimp only
    simp only [modInst_frame]
    apply quiet_foldl_fst (t := (s, ([] : List Ev)))
    intro t o
    simp

/-! ## Instances that are placed and moved -/

@[simp] theorem quiet_writeDir (s : State) (st : Nat) (gen : Gen) (pl : Place) (fed : Bool) (bridge : Nat) :
    Quiet s (writeDir s st gen pl fed bridge) := (writes_writeDir s st gen pl fed bridge).quiet

@[simp] theorem quiet_writeBridge (s : State) (st : Nat) (w : Nat) : Quiet s (writeBridge s st w) := (writes_writeBridge s st w).quiet

@[simp] theorem quiet_clearBlock (s : State) (pl : Place) : Quiet s (clearBlock s pl) := (writes_clearBlock s pl).quiet

@[simp] theorem quiet_placeInst (s : State) (st slot : Nat) (inB : Bool) (idx : Nat) (gen : Gen) (openStep : Stamp) :
    Quiet s (placeInst s st slot inB idx gen openStep) := by simp [placeInst]

@[simp] theorem quiet_moveInst (s : State) (st : Nat) : Quiet s (moveInst s st) := by
  unfold moveInst
  dsimp only
  repeat' split
  all_goals simp

@[simp] theorem quiet_moveIfIdle (s : State) (st : Nat) : Quiet s (moveIfIdle s st) := by simp [moveIfIdle]

@[simp] theorem quiet_releaseDeferred (s : State) (st : Nat) : Quiet s (releaseDeferred s st) := by
  unfold releaseDeferred
  split <;> simp

@[simp] theorem quiet_copyFrame (s : State) (st : Nat) : Quiet s (copyFrame s st) := by simp [copyFrame]
@[simp] theorem quiet_dropHeld (s : State) (st chip : Nat) : Quiet s (dropHeld s st chip) := by simp [dropHeld]

/-! ## The front end -/

@[simp] theorem quiet_mendWords (s : State) (off n : Nat) : Quiet s (mendWords s off n) := by simp [mendWords]

@[simp] theorem quiet_readCoefs (s : State) (units : List Nat) (o n fuel : Nat) : Quiet s (readCoefs s units o n fuel).2 := by
  induction fuel generalizing s o n with
  | zero => exact .refl s
  | succ fuel ih =>
    unfold readCoefs
    split
    · exact .refl s
    · simp [ih]

@[simp] theorem quiet_feChain (s : State) (st : Nat) (f : Front) (units : List Nat) (i : FeIn) (k so : Nat) (gs : List FeStage) :
    Quiet s (feChain s st f units i k so gs).1 := by
  induction gs generalizing s i k so with
  | nil => exact .refl s
  | cons g gs ih => simp [feChain, ih]

@[simp] theorem quiet_edgPass (s : State) (e : Option Nat) : Quiet s (edgPass s e) := by
  unfold edgPass
  dsimp only
  repeat' split
  all_goals simp

end Sys2Proof.Machine
end

section
/-! PROOFS. The cascade, the closing of steps and the reset of streams are calm: they leave the PLLs, the steady part of the
power state and the knots. -/

namespace Sys2Proof.Machine

@[simp] theorem calm_foldl {α : Type} {f : State → α → State} (hf : ∀ t a, Calm t (f t a)) (l : List α) (s : State) :
    Calm s (l.foldl f s) :=
  foldl_keeps (P := Calm s) (fun t a h => h.trans (hf t a)) l s ⟨rfl, rfl, rfl⟩

@[simp] theorem steady_wake (p : Power) (b : Bool) : steady { p with wake := b } = steady p := rfl
@[simp] theorem steady_clkreq (p : Power) (b : Bool) : steady { p with clkreq := b } = steady p := rfl

@[simp] theorem steady_hostWake (s : State) (f : Nat) : steady (hostWake s f).pwr = steady s.pwr := by
  unfold hostWake
  dsimp only
  repeat' split
  all_goals simp

@[simp] theorem ite_snd {α β : Type} (c : Prop) [Decidable c] (p q : α × β) : (if c then p else q).2 = if c then p.2 else q.2 := apply_ite ..

/-! ## Fatal events (R402) -/

@[simp] theorem calm_endAllWork (s : State) : Calm s (endAllWork s) := by simp [endAllWork]
@[simp] theorem calm_fatalEvent (s : State) (cause : Nat) : Calm s (fatalEvent s cause) := by simp [fatalEvent]
@[simp] theorem calm_ctlFatal (s : State) (met : List CtlWord) : Calm s (ctlFatal s met) := by simp [ctlFatal]

theorem calm_live {s : State} {g : State → State} (hg : Calm s (g s)) : Calm s (live s g) :=
  live_keeps (P := Calm s) ⟨rfl, rfl, rfl⟩ hg (calm_ctlFatal s)

/-! ## Records and reports -/

@[simp] theorem calm_notify (s : State) (st k : Nat) (stamp : Stamp) (conf : U8) (cls : U16) (status : Nat) :
    Calm s (notify s st k stamp conf cls status) := by simp [notify]

@[simp] theorem calm_putStatus (s : State) (st : Nat) (r : Record) : Calm s (putStatus s st r) := by simp [putStatus]
@[simp] theorem calm_putStatusOrWait (s : State) (st : Nat) (r : Record) : Calm s (putStatusOrWait s st r) := by simp [putStatusOrWait]
@[simp] theorem calm_postReport (s : State) (st : Nat) (r : Report) : Calm s (postReport s st r) := by simp [postReport]
@[simp] theorem calm_updBacklog (s : State) (st : Nat) : Calm s (updBacklog s st) := by simp [updBacklog]

/-! ## Episodes of the cascade -/

@[simp] theorem calm_issueCasc (s : State) (st k buf : Nat) (stamp : Stamp) (spec : Bool) :
    Calm s (issueCasc s st k buf stamp spec) := by simp [issueCasc]

@[simp] theorem calm_closeEpisode (s : State) (st : Nat) : Calm s (closeEpisode s st) := by simp [closeEpisode]

@[simp] theorem calm_endEpisode (s : State) (st : Nat) : Calm s (endEpisode s st) := by
  unfold endEpisode
  dsimp only
  split <;> simp

@[simp] theorem calm_countCancel (s : State) (st : Nat) : Calm s (countCancel s st) := by simp [countCancel]
@[simp] theorem calm_oweReport (s : State) (st : Nat) (r : CascResult) : Calm s (oweReport s st r) := by simp [oweReport]

@[simp] theorem calm_withdrawJob (s : State) (st : Nat) (cancel : Bool) : Calm s (withdrawJob s st cancel) := by
  unfold withdrawJob
  dsimp only
  repeat' split
  all_goals simp

@[simp] theorem calm_abandon (s : State) (st : Nat) : Calm s (abandon s st) := by simp [abandon]
@[simp] theorem calm_dropIngests (s : State) (st : Nat) : Calm s (dropIngests s st) := by simp [dropIngests]

/-! ## Results and decisions -/

@[simp] theorem calm_checkFail (s : State) (st k b : Nat) : Calm s (checkFail s st k b) := by simp [checkFail]

@[simp] theorem calm_actResult (s : State) (st k : Nat) (r : CascResult) : Calm s (actResult s st k r) := by
  unfold actResult
  dsimp only
  repeat' split
  all_goals simp

theorem calm_tryResult {s t : State} {st : Nat} {r : CascResult} (h : tryResult s st r = some t) : Calm s t := by
  unfold tryResult at h
  dsimp only at h
  split at h
  · cases h; simp
  · split at h
    · cases h; simp
    · cases h

@[simp] theorem calm_beginEpisode (s : State) (st : Nat) (step : Stamp) (conf : U8) (cls : U16) (spec : Bool) :
    Calm s (beginEpisode s st step conf cls spec) := by
  unfold beginEpisode
  dsimp only
  repeat' split
  all_goals simp

@[simp] theorem calm_promoteEpisode (s : State) (st : Nat) (step : Stamp) (conf : U8) (cls : U16) :
    Calm s (promoteEpisode s st step conf cls) := by
  unfold promoteEpisode
  dsimp only
  repeat' split
  all_goals simp

@[simp] theorem calm_cancelEpisode (s : State) (st : Nat) : Calm s (cancelEpisode s st) := by simp [cancelEpisode]

@[simp] theorem calm_applyAct (s : State) (st : Nat) (step : Stamp) (conf : U8) (cls : U16) (a : Act) :
    Calm s (applyAct s st step conf cls a) := by
  unfold applyAct
  split <;> simp

@[simp] theorem calm_closedCtx (s : State) (st : Nat) (step : Stamp) (lost : Bool) :
    Calm s (closedCtx s st step lost) := by simp [closedCtx]

theorem calm_decideClose (s : State) (st : Nat) (w : WaitDecision) : (decideClose s st w).elim (Calm s) (fun _ => True) := by
  unfold decideClose
  dsimp only
  repeat' split
  all_goals simp

@[simp] theorem calm_dropResult (s : State) (r : CascResult) : Calm s (dropResult s r) := by
  unfold dropResult
  dsimp only
  repeat' split
  all_goals simp

@[simp] theorem calm_retryLatched (s : State) (st : Nat) : Calm s (retryLatched s st).2 := by
  unfold retryLatched
  dsimp only
  split
  · simp
  · split
    · split
      · have h := calm_tryResult ‹tryResult _ st _ = some _›
        simpa using h
      · simp
    · simp

/-! ## What befalls a stream -/

@[simp] theorem calm_suspendStream (s : State) (st : Nat) : Calm s (suspendStream s st) := by
  unfold suspendStream
  dsimp only
  split <;> simp

@[simp] theorem calm_faultNow (s : State) (st : Nat) : Calm s (faultNow s st) := by simp [faultNow]

@[simp] theorem calm_closeStream (s : State) (st : Nat) (drain : Bool) (desc : Option DescRef) :
    Calm s (closeStream s st drain desc) := by simp [closeStream]

@[simp] theorem calm_closeNoDrain (s : State) (st : Nat) (desc : Option DescRef) : Calm s (closeNoDrain s st desc) := by simp [closeNoDrain]

@[simp] theorem calm_runAct (s : State) (st : Nat) (a : StreamAct) : Calm s (runAct s st a) := by
  unfold runAct
  split <;> simp

@[simp] theorem calm_startAct (s : State) (st : Nat) (a : StreamAct) : Calm s (startAct s st a) := by simp [startAct]

/-! ## The closing of a step -/

@[simp] theorem calm_stepBoundary (s : State) (st : Nat) : Calm s (stepBoundary s st) := by
  unfold stepBoundary
  dsimp only
  repeat' split
  all_goals simp

@[simp] theorem calm_completeRemote (s : State) (st : Nat) : Calm s (completeRemote s st) := by
  unfold completeRemote
  dsimp only
  repeat' split
  all_goals simp

@[simp] theorem calm_pullEnd (s : State) (st : Nat) : Calm s (pullEnd s st) := by
  unfold pullEnd
  split <;> simp

@[simp] theorem calm_completeClosure (s : State) (st : Nat) : Calm s (completeClosure s st) := by simp [completeClosure]

@[simp] theorem calm_decisionPhase (s : State) (st : Nat) (w : WaitDecision) : Calm s (decisionPhase s st w) := by
  unfold decisionPhase
  dsimp only
  split
  · simp
  · split
    · have h := calm_decideClose (copyFrame (retryLatched s st).2 st) st w
      rw [‹decideClose _ st w = _›] at h
      simpa using h
    · simp
    · simp

@[simp] theorem calm_finishClosure (s : State) (st : Nat) (lost : Bool) : Calm s (finishClosure s st lost) := by
  unfold finishClosure
  split <;> simp

@[simp] theorem calm_peerLostStep (s : State) (st n : Nat) : Calm s (peerLostStep s st n) := by simp [peerLostStep]

@[simp] theorem calm_sendStepEnd (s : State) (st : Nat) : Calm s (sendStepEnd s st) := by
  unfold sendStepEnd
  split <;> simp

@[simp] theorem calm_execStepClose (st : StreamId) (s u : State) : Calm s (goOn u (execStepClose st s)) := by
  refine calm_live ?_
  dsimp only
  split
  · split <;> simp
  · simp

/-! ## The reset of a stream -/

@[simp] theorem calm_convertStep (s : State) (st : Nat) (i : Inst) (c : Conv) (img : Bytes) : Calm s (convertStep s st i c img) := by
  simp only [convertStep]
  refine Calm.trans ?_ (calm_foldl (fun t j => ?_) _ _)
  · simp
  · split <;> simp

@[simp] theorem calm_runFrontend (s : State) (st : Nat) (v : Version) (f : Front) : Calm s (runFrontend s st v f) := by simp [runFrontend]

@[simp] theorem calm_endClosure (s : State) (st : Nat) : Calm s (endClosure s st) := by
  unfold endClosure
  split
  · simp
  · split <;> simp
  · simp

@[simp] theorem calm_closeNow (s : State) (st : Nat) : Calm s (closeNow s st) := by simp [closeNow]

@[simp] theorem calm_finishInput (s : State) (st : Nat) : Calm s (finishInput s st) := by
  unfold finishInput
  dsimp only
  repeat' split
  all_goals simp

@[simp] theorem calm_resetStream (s : State) (st : Nat) : Calm s (resetStream s st) := by simp [resetStream]
@[simp] theorem calm_resetStreams (s : State) : Calm s (resetStreams s) := by simp [resetStreams]

end Sys2Proof.Machine
end

section
/-! PROOFS. What ends with a clock leaves the PLLs: jobs, knot operations, peers, and the slots in DRAM (R431). -/

namespace Sys2Proof.Machine

@[simp] theorem plls_foldl {α : Type} {f : State → α → State} (hf : ∀ t a, (f t a).plls = t.plls) (l : List α) (s : State) :
    (l.foldl f s).plls = s.plls :=
  foldl_keeps (P := fun t => t.plls = s.plls) (fun t a h => (hf t a).trans h) l s rfl

/-! ## Jobs and the answers of knots -/

@[simp] theorem pushEq_plls (s : State) (c : Nat) (e : Bytes) : (pushEq s c e).plls = s.plls := by simp [pushEq]

@[simp] theorem finishHostJob_plls (s : State) (jn : Nat) (j : Job) (st : Nat) : (finishHostJob s jn j st).plls = s.plls := by
  unfold finishHostJob
  split <;> simp

@[simp] theorem noteReplay_plls (s : State) (j : Job) (st : Nat) : (noteReplay s j st).plls = s.plls := by simp [noteReplay]

@[simp] theorem endHostJob_plls (s : State) (jn : Nat) (j : Job) (st : Nat) (ran : Bool) : (endHostJob s jn j st ran).plls = s.plls := by
  unfold endHostJob
  split <;> simp

@[simp] theorem sigAnswered_plls (s : State) (jn st : Nat) : (sigAnswered s jn st).plls = s.plls := by
  unfold sigAnswered
  split <;> simp

@[simp] theorem deliverCascade_plls (s : State) (jn : Nat) (j : Job) (st : Nat) : (deliverCascade s jn j st).plls = s.plls := by
  unfold deliverCascade
  dsimp only
  repeat' split
  all_goals simp

@[simp] theorem endParent_plls (s : State) (parent : Nat) (child : Job) (st : Nat) : (endParent s parent child st).plls = s.plls := by
  unfold endParent
  split <;> simp

@[simp] theorem endJob_plls (s : State) (jn base : Nat) (ran : Bool) : (endJob s jn base ran).plls = s.plls := by
  unfold endJob
  dsimp only
  repeat' split
  all_goals simp

@[simp] theorem journalAdd_plls (s : State) (jn : Nat) (e : JEntry) : (journalAdd s jn e).plls = s.plls := by simp [journalAdd]

@[simp] theorem answerCore_plls (s : State) (c : Nat) (wait : Bool) (word : U32) (op : BitVec 2) (knot : KnotId) (amount : U32) (st found : Nat) :
    (answerCore s c wait word op knot amount st found).plls = s.plls := by
  unfold answerCore
  split <;> simp

@[simp] theorem answerDone_plls (s : State) (x st : Nat) : (answerDone s x st).plls = s.plls := by
  unfold answerDone
  split <;> simp

@[simp] theorem conduitError_plls (s : State) (n st : Nat) (fn : Option Nat) :
    (conduitError s n st fn).plls = s.plls := by simp [conduitError]

@[simp] theorem knotAnswer_plls (s : State) (o : KOrigin) (op : BitVec 2) (knot : KnotId) (amount : U32) (st found : Nat) :
    (knotAnswer s o op knot amount st found).plls = s.plls := by
  unfold knotAnswer
  split <;> simp

@[simp] theorem endWaits_plls (s : State) (k st : Nat) : (endWaits s k st).plls = s.plls := by simp [endWaits]
@[simp] theorem releaseWaits_plls (s : State) (k : Nat) : (releaseWaits s k).plls = s.plls := by simp [releaseWaits]

@[simp] theorem refuseAt_plls (s : State) (o : KnotOp) (st : Nat) (ctrOff : Option Nat) (found : U16) :
    (refuseAt s o st ctrOff found).plls = s.plls := by
  unfold refuseAt
  split <;> simp

/-! ## A chip that is lost (R389) -/

@[simp] theorem adoptValue_plls (s : State) (k : Nat) (v : U32) (e : U16) : (adoptValue s k v e).plls = s.plls := by simp [adoptValue]
@[simp] theorem endBind_plls (s : State) (k st : Nat) (v : U32) (e : U16) : (endBind s k st v e).plls = s.plls := by simp [endBind]
@[simp] theorem knotsLoseChip_plls (s : State) (chip : Nat) : (knotsLoseChip s chip).plls = s.plls := by simp [knotsLoseChip]

@[simp] theorem streamLosesChip_plls (s : State) (chip st : Nat) : (streamLosesChip s chip st).plls = s.plls := by
  unfold streamLosesChip
  dsimp only
  repeat' split
  all_goals simp

@[simp] theorem conduitsLoseChip_plls (s : State) (chip : Nat) : (conduitsLoseChip s chip).plls = s.plls := by simp [conduitsLoseChip]
@[simp] theorem endRreg_plls (s : State) (st : Nat) (w : U32) : (endRreg s st w).plls = s.plls := by simp [endRreg]
@[simp] theorem rregLosesChip_plls (s : State) (chip : Nat) : (rregLosesChip s chip).plls = s.plls := by simp [rregLosesChip]
@[simp] theorem xfersLoseChip_plls (s : State) (chip : Nat) : (xfersLoseChip s chip).plls = s.plls := by simp [xfersLoseChip]
@[simp] theorem tellLoss_plls (s : State) (chip : Nat) : (tellLoss s chip).plls = s.plls := by simp [tellLoss]
@[simp] theorem settleLoss_plls (s : State) : (settleLoss s).plls = s.plls := by simp [settleLoss]
@[simp] theorem loseChip_plls (s : State) (chip row port : Nat) : (loseChip s chip row port).plls = s.plls := by simp [loseChip]
@[simp] theorem losePeer_plls (s : State) (i row : Nat) : (losePeer s i row).plls = s.plls := by simp [losePeer]

/-! ## Units and slots whose clock fails (R431) -/

@[simp] theorem endCore_plls (s : State) (c : Nat) : (endCore s c).plls = s.plls := by simp [endCore]

@[simp] theorem leavePartition_plls (s : State) (slot : Nat) (inB : Bool) (jn : Nat) :
    (leavePartition s slot inB jn).plls = s.plls := by simp [leavePartition]

@[simp] theorem retireVersion_plls (s : State) (slot : Nat) (inB : Bool) : (retireVersion s slot inB).plls = s.plls := by
  obtain ⟨m, c, x, h⟩ := retireVersion_only s slot inB
  rw [h]

@[simp] theorem muteCore_plls (s : State) (c : Nat) : (muteCore s c).plls = s.plls := by simp [muteCore]
@[simp] theorem stopCore_plls (s : State) (c : Nat) : (stopCore s c).plls = s.plls := by simp [stopCore]
@[simp] theorem leaveUnits_plls (s : State) (jn : Nat) (j : Job) : (leaveUnits s jn j).plls = s.plls := by simp [leaveUnits]
@[simp] theorem failReplay_plls (s : State) (jn : Nat) (j : Job) : (failReplay s jn j).plls = s.plls := by simp [failReplay]

@[simp] theorem failTier_plls (s : State) (t : Nat) : (failTier s t).plls = s.plls := by
  refine plls_foldl (fun t e => ?_) _ s
  split <;> simp

@[simp] theorem failLoad_plls (s : State) (slot : Nat) : (failLoad s slot).plls = s.plls := by
  unfold failLoad
  split <;> simp

@[simp] theorem loseDram_plls (s : State) : (loseDram s).plls = s.plls := rfl

@[simp] theorem dramFault_plls (s : State) : (dramFault s).plls = s.plls := by simp [dramFault]
@[simp] theorem psgFault_plls (s : State) : (psgFault s).plls = s.plls := by simp [psgFault]

end Sys2Proof.Machine
end

section
/-! PROOFS. PLLs and clock domains (R430 to R437). -/

namespace Sys2Proof.Machine

/-! ## PLLs and domains in their lists -/

theorem plls_modPll {s : State} {p : Nat} {x : Pll} (g : Pll → Pll) (h : s.plls[p]? = some x) : (modPll s p g).plls[p]? = some (g x) := by
  simp [modPll, setNth, h]

theorem modPll_const {s : State} {p : Nat} {x : Pll} (g : Pll → Pll) (h : s.plls[p]? = some x) : modPll s p g = modPll s p (fun _ => g x) := by
  unfold modPll setNth
  congr 1
  refine List.ext_getElem? (fun q => ?_)
  simp only [List.getElem?_modify]
  split
  case isTrue hq => subst hq; simp [h]
  case isFalse => rfl

theorem modPll_modPll (s : State) (p : Nat) (g k : Pll → Pll) : modPll (modPll s p g) p k = modPll s p (fun x => k (g x)) := by
  unfold modPll setNth
  rw [List.modify_modify_eq]
  rfl

theorem doms_modDom {s : State} {d : Nat} {x : Dom} (g : Dom → Dom) (h : s.doms[d]? = some x) : (modDom s d g).doms[d]? = some (g x) := by
  simp [modDom, setNth, h]

@[simp] theorem refreshDoms_plls (s : State) : (refreshDoms s).plls = s.plls := rfl

/-- Whether a domain runs is all that is judged again. -/
theorem doms_refreshDoms {s : State} {d : Nat} {x : Dom} (h : s.doms[d]? = some x) :
    ∃ b, (refreshDoms s).doms[d]? = some { x with running := b } := by
  simp [refreshDoms, h]

/-! ## A warm reset and PLL 5 -/

@[simp] theorem quiet_moveIdle (s : State) (n : Nat) : Quiet s (moveIdle s n) := by
  refine quiet_foldl (fun t e => ?_) _ s
  split <;> simp

@[simp] theorem quiet_resetSlots (s : State) : Quiet s (resetSlots s) := by
  refine quiet_foldl (fun t n => ?_) _ s
  split
  · obtain ⟨m, c, x, h⟩ := resetT0_only t n
    rw [h]
    exact quiet_moveIdle t n
  · obtain ⟨m, c, x, h⟩ := resetT12_only t n
    rw [h]
    exact .refl t

@[simp] theorem calm_resetWork (s : State) : Calm s (resetWork s) := by simp [resetWork]

theorem bootPll_locked {u : State} {p : Nat} {x : Pll} (h : x.locked = false) : (bootPll u p x).locked = false := by
  unfold bootPll
  simp [h]

theorem psgClock_plls {s : State} {p : Nat} (h : p ≠ 6) : (psgClock s).plls[p]? = s.plls[p]? := by
  unfold psgClock
  split <;> simp [modPll, setNth, h.symm]

theorem portSetEn_plls {s : State} {i p : Nat} (h : p ≠ 6) : (portSetEn s i true).plls[p]? = s.plls[p]? := by
  unfold portSetEn
  dsimp only
  rw [if_pos rfl]
  split
  · rfl
  · exact psgClock_plls h

theorem bootPorts_plls {s : State} {p : Nat} (h : p ≠ 6) : (bootPorts s).plls[p]? = s.plls[p]? :=
  foldl_keeps (P := fun t : State => t.plls[p]? = s.plls[p]?)
    (by
      intro t i ht
      split
      · exact (portSetEn_plls h).trans ht
      · exact ht)
    (List.range 4) s rfl

/-- A PLL other than that of the ports that is not locked is not locked after a warm reset. -/
theorem warmReset_unlocked {s : State} {p : Nat} {x : Pll} (hp : p ≠ 6) (h : s.plls[p]? = some x) (hx : x.locked = false) :
    ∃ z, (warmReset s).plls[p]? = some z ∧ z.locked = false := by
  obtain ⟨-, -, -, -, ⟨u, hu⟩, -⟩ := resetCommon_frame s true
  obtain ⟨q, o, hr⟩ := resetPorts_only (resetCommon s true) true
  have hq : (loseWorking (clearResident (resetPorts (resetCommon s true) true))).plls = (resetCommon s true).plls := by
    obtain ⟨_, _, _, _, h1⟩ := loseWorking_only (clearResident (resetPorts (resetCommon s true) true))
    obtain ⟨_, _, _, _, h2⟩ := clearResident_only (resetPorts (resetCommon s true) true)
    rw [h1, h2, hr]
  have hw : (resetSlots (resetWork s)).plls = s.plls := by simp
  refine ⟨bootPll u p x, ?_, bootPll_locked hx⟩
  unfold warmReset
  rw [bootPorts_plls hp, hq, hu, hw]
  simp [h]

/-! ## Clock faults (R431) -/

theorem clockFault_plls (s : State) {p : Nat} (count e : Nat) (hp : p ≠ 5) :
    (clockFault s p count e).plls = (modPll s p (fun x => { x with locked := false, fault := true, judge := none })).plls := by
  unfold clockFault
  dsimp only
  split
  · simp
  · simp

theorem pcieFault_faulty {s : State} {x : Pll} (h : s.plls[5]? = some x) (hx : x.locked = false) :
    ∃ z, (pcieFault s).plls[5]? = some z ∧ z.locked = false ∧ z.fault = true := by
  have hw : ∃ z, (if s.link.st = .down then s else warmReset s).plls[5]? = some z ∧ z.locked = false := by
    split
    · exact ⟨x, h, hx⟩
    · exact warmReset_unlocked (by decide) h hx
  obtain ⟨z, hz, hl⟩ := hw
  exact ⟨_, plls_modPll _ hz, hl, rfl⟩

theorem clockFault_faulty {s : State} {p : Nat} {x : Pll} (count e : Nat) (h : s.plls[p]? = some x) :
    ∃ z, (refreshDoms (clockFault s p count e)).plls[p]? = some z ∧ z.locked = false ∧ z.fault = true := by
  rw [refreshDoms_plls]
  by_cases hp : p = 5
  case neg => exact ⟨_, (congrArg (·[p]?) (clockFault_plls s count e hp)).trans (plls_modPll _ h), rfl, rfl⟩
  case pos =>
    subst hp
    obtain ⟨z, hz, hl⟩ := pcieFault_faulty (plls_modPll (fun x => { x with locked := false, fault := true, judge := none }) h) rfl
    refine ⟨z, ?_, hl⟩
    unfold clockFault
    simpa using hz

/-! ## Windows (R430) -/

/-- A window is counted: the readings of the PLL are those of the window. -/
theorem countWindow_eq {s : State} {p : Nat} {x : Pll} (count : BitVec 17) (ok : Bool) (h : s.plls[p]? = some x) :
    countWindow s p count.toNat ok = modPll s p (fun _ =>
      { x with last := count, fails := if ok then x.fails else satAdd 32 x.fails 1 }) := by
  unfold countWindow
  rw [modPll_const _ h, BitVec.ofNat_toNat, BitVec.setWidth_eq]

theorem pllWindow_uncounted {s : State} {p : BitVec 3} (count : BitVec 17) {x : Pll} (h : s.plls[p.toNat]? = some x)
    (hx : s.pwr.refclk = false ∨ x.en = false ∨ (x.locked = false ∧ x.judge = none)) : exec (.pllWindow p count) s = .next s := by
  show execPllWindow p count s = _
  unfold execPllWindow
  rcases hx with hr | he | ⟨hl, hj⟩
  · simp [h, hr]
  · simp [h, he]
  · simp [h, hl, hj]

theorem pllWindow_locked {s : State} {p : BitVec 3} (count : BitVec 17) {x : Pll} (h : s.plls[p.toNat]? = some x)
    (hr : s.pwr.refclk = true) (he : x.en = true) (hl : x.locked = true) :
    exec (.pllWindow p count) s = .next (let u := countWindow s p.toNat count.toNat (windowOkay p.toNat x count.toNat)
      if windowOkay p.toNat x count.toNat then u else refreshDoms (clockFault u p.toNat count.toNat (pllExpect p.toNat x))) := by
  show execPllWindow p count s = _
  unfold execPllWindow
  simp [h, hr, he, hl]

theorem pllWindow_judged {s : State} {p : BitVec 3} (count : BitVec 17) {x : Pll} {w k : Nat} (h : s.plls[p.toNat]? = some x)
    (hr : s.pwr.refclk = true) (he : x.en = true) (hl : x.locked = false) (hj : x.judge = some (w, k)) :
    exec (.pllWindow p count) s = .next (let u := countWindow s p.toNat count.toNat (windowOkay p.toNat x count.toNat)
      let k := if windowOkay p.toNat x count.toNat then k + 1 else 0
      if k = 3 then refreshDoms (modPll u p.toNat (fun x => { x with locked := true, fault := false, judge := none }))
      else if 16 ≤ w + 1 then refreshDoms (clockFault u p.toNat count.toNat (pllExpect p.toNat x))
      else modPll u p.toNat (fun x => { x with judge := some (w + 1, k) })) := by
  show execPllWindow p count s = _
  unfold execPllWindow
  simp [h, hr, he, hl, hj]

end Sys2Proof.Machine
end

section
/-! PROOFS. O41, command by command. -/

namespace Sys2Proof.Machine

/-! ## Windows of one PLL -/

/-- What PLL `x` is after a window of `count` cycles. -/
def windowed (p : Nat) (x : Pll) (count : BitVec 17) : Pll :=
  { x with last := count, fails := if windowOkay p x count.toNat then x.fails else satAdd 32 x.fails 1 }

theorem windowed_plls {s : State} {p : BitVec 3} (count : BitVec 17) {x : Pll} (h : s.plls[p.toNat]? = some x) :
    (countWindow s p.toNat count.toNat (windowOkay p.toNat x count.toNat)).plls[p.toNat]? = some (windowed p.toNat x count) := by
  rw [countWindow_eq count _ h]
  exact plls_modPll _ h

theorem pllWindow_good {s : State} {p : BitVec 3} (count : BitVec 17) {x : Pll} (h : s.plls[p.toNat]? = some x)
    (hr : s.pwr.refclk = true) (he : x.en = true) (hl : x.locked = true) (hk : windowOkay p.toNat x count.toNat = true) :
    exec (.pllWindow p count) s = .next (modPll s p.toNat (fun _ => windowed p.toNat x count)) := by
  rw [pllWindow_locked count h hr he hl, countWindow_eq count _ h]
  simp [hk, windowed]

/-- A bad window of a locked PLL, and the sixteenth of one that is not, are a clock fault. -/
theorem pllWindow_faulty {s : State} {p : BitVec 3} (count : BitVec 17) {x : Pll} (h : s.plls[p.toNat]? = some x)
    (hr : s.pwr.refclk = true) (he : x.en = true)
    (hx : (x.locked = true ∧ windowOkay p.toNat x count.toNat = false) ∨
      (x.locked = false ∧ ∃ w k, x.judge = some (w, k) ∧ 15 ≤ w ∧ ¬ (windowOkay p.toNat x count.toNat = true ∧ k = 2))) :
    ∃ t z, exec (.pllWindow p count) s = .next t ∧ t.plls[p.toNat]? = some z ∧ z.locked = false ∧ z.fault = true := by
  obtain ⟨z, hz⟩ := clockFault_faulty count.toNat (pllExpect p.toNat x) (windowed_plls count h)
  refine ⟨_, z, ?_, hz⟩
  rcases hx with ⟨hl, hk⟩ | ⟨hl, w, k, hj, hw, hk⟩
  · rw [pllWindow_locked count h hr he hl]
    simp [hk]
  · rw [pllWindow_judged count h hr he hl hj]
    have h3 : ¬ (if windowOkay p.toNat x count.toNat then k + 1 else 0) = 3 := by
      split
      · exact fun h => hk ⟨‹_›, by omega⟩
      · decide
    dsimp only
    rw [if_neg h3, if_pos (by omega)]

/-- The third good window in a row locks the PLL. -/
theorem pllWindow_locks {s : State} {p : BitVec 3} (count : BitVec 17) {x : Pll} {w : Nat} (h : s.plls[p.toNat]? = some x)
    (hr : s.pwr.refclk = true) (he : x.en = true) (hl : x.locked = false) (hj : x.judge = some (w, 2))
    (hk : windowOkay p.toNat x count.toNat = true) :
    ∃ t, exec (.pllWindow p count) s = .next t ∧
      t.plls[p.toNat]? = some { windowed p.toNat x count with locked := true, fault := false, judge := none } ∧
      t = { s with plls := t.plls, doms := t.doms } := by
  refine ⟨refreshDoms (modPll (countWindow s p.toNat count.toNat (windowOkay p.toNat x count.toNat)) p.toNat
    (fun x => { x with locked := true, fault := false, judge := none })), ?_, plls_modPll _ (windowed_plls count h), rfl⟩
  rw [pllWindow_judged count h hr he hl hj]
  simp [hk]

theorem pllWindow_judging {s : State} {p : BitVec 3} (count : BitVec 17) {x : Pll} {w k : Nat} (h : s.plls[p.toNat]? = some x)
    (hr : s.pwr.refclk = true) (he : x.en = true) (hl : x.locked = false) (hj : x.judge = some (w, k)) (hw : w < 15)
    (hk : ¬ (windowOkay p.toNat x count.toNat = true ∧ k = 2)) :
    exec (.pllWindow p count) s = .next (modPll s p.toNat (fun _ =>
      { windowed p.toNat x count with judge := some (w + 1, if windowOkay p.toNat x count.toNat then k + 1 else 0) })) := by
  have h3 : ¬ (if windowOkay p.toNat x count.toNat then k + 1 else 0) = 3 := by
    split
    · exact fun h => hk ⟨‹_›, by omega⟩
    · decide
  rw [pllWindow_judged count h hr he hl hj]
  dsimp only
  rw [if_neg h3, if_neg (by omega), countWindow_eq count _ h, modPll_modPll]
  rfl

/-! ## A PLL is enabled and disabled (R431) -/

theorem pllEnWrite_reached {s : State} (h : Reached s 0) (w : U32) : exec (.pllEnWrite w) s = .next (pllEnWrite s w.toNat) := by
  show execPllEnWrite w s = _
  unfold execPllEnWrite
  rw [h.bar0]

theorem bitOf_toNat {n : Nat} (w : BitVec n) (i : Nat) : bitOf w.toNat i = w.getLsbD i := by
  simp [bitOf, BitVec.getLsbD]

/-- The PLL that is disabled is not locked, and what runs from it stops. -/
def disabledPll (s : State) (p w : Nat) : State := stopPll (modPll s p (fun y => { y with tol := BitVec.ofNat 11 (w / 2), en := false })) p

theorem pllEnWrite_disable {s : State} {w : Nat} {x : Pll} (h : s.plls[reg s 0x70004 % 8]? = some x) (he : x.en = true)
    (hw : bitOf w 0 = false) :
    pllEnWrite s w = refreshDoms (if reg s 0x70004 % 8 = 6 then psgFault (disabledPll s (reg s 0x70004 % 8) w)
      else if reg s 0x70004 % 8 = 5 ∧ s.link.st ≠ .down then warmReset (disabledPll s (reg s 0x70004 % 8) w)
      else disabledPll s (reg s 0x70004 % 8) w) := by
  unfold pllEnWrite
  simp [h, he, hw, disabledPll, stopPll]

theorem disabledPll_plls {s : State} {p w : Nat} {x : Pll} (h : s.plls[p]? = some x) :
    ∃ z, (disabledPll s p w).plls[p]? = some z ∧ z.en = false ∧ z.locked = false :=
  ⟨_, plls_modPll _ (plls_modPll _ h), rfl, rfl⟩

/-- The link goes down with PLL 5, which is a warm reset (R14). -/
theorem pllEnWrite_linkDown {s : State} {w : U32} {x : Pll} (hs : Reached s 0) (h : s.plls[reg s 0x70004 % 8]? = some x)
    (he : x.en = true) (hw : w.getLsbD 0 = false) (hp : reg s 0x70004 % 8 = 5) (hl : s.link.st ≠ .down) :
    ∃ t, exec (.pllEnWrite w) s = .next t ∧ t.rings = [] ∧ t.vfEnable = false ∧ t.link.st = .down := by
  refine ⟨refreshDoms (warmReset (disabledPll s 5 w.toNat)), ?_, ?_⟩
  · rw [pllEnWrite_reached hs, pllEnWrite_disable h he (bitOf_toNat w 0 ▸ hw)]
    simp [hp, hl]
  · obtain ⟨p, o, l, m, po, f, lo, hr⟩ := warmReset_only (disabledPll s 5 w.toNat)
    obtain ⟨-, -, -, -, -, h1, h2, -, -, -, -, h3⟩ := resetCommon_frame (disabledPll s 5 w.toNat) true
    rw [hr]
    exact ⟨h1, h2, congrArg Link.st h3⟩

theorem pllEnWrite_unlocks {s : State} {w : U32} {x : Pll} (hs : Reached s 0) (h : s.plls[reg s 0x70004 % 8]? = some x)
    (he : x.en = true) (hw : w.getLsbD 0 = false) (hp : reg s 0x70004 % 8 ≠ 5 ∨ s.link.st = .down) :
    ∃ t z, exec (.pllEnWrite w) s = .next t ∧ t.plls[reg s 0x70004 % 8]? = some z ∧ z.en = false ∧ z.locked = false := by
  obtain ⟨z, hz, hoff⟩ := disabledPll_plls (w := w.toNat) h
  refine ⟨_, z, (pllEnWrite_reached hs w).trans (congrArg Host.Outcome.next (pllEnWrite_disable h he (bitOf_toNat w 0 ▸ hw))), ?_, hoff⟩
  have hk : ¬ (reg s 0x70004 % 8 = 5 ∧ s.link.st ≠ .down) := fun ⟨h5, hd⟩ => hp.elim (fun h => h h5) hd
  rw [refreshDoms_plls, if_neg hk]
  simpa using hz

/-- No sequence follows, or one is in progress. -/
theorem followUp_none {s : State} (h : s.pwr.seq ≠ [] ∨
    (s.pwr.thenH = false ∧ s.pwr.thenF = false ∧ s.pwr.thenB = false ∧ s.pwr.dramDead = false)) : followUp s = s := by
  unfold followUp
  rcases h with h | ⟨h1, h2, h3, h4⟩
  · simp [h]
  · simp [h1, h2, h3, h4]

theorem pllEnWrite_enables {s : State} {w : U32} {x : Pll} (hs : Reached s 0) (h : s.plls[reg s 0x70004 % 8]? = some x)
    (he : x.en = false) (hw : w.getLsbD 0 = true) (hl : x.locked = false) (hj : x.judge = none)
    (hq : s.pwr.seq ≠ [] ∨ (s.pwr.thenH = false ∧ s.pwr.thenF = false ∧ s.pwr.thenB = false ∧ s.pwr.dramDead = false)) :
    ∃ t z, exec (.pllEnWrite w) s = .next t ∧ t.plls[reg s 0x70004 % 8]? = some z ∧ z.en = true ∧ z.fault = false ∧
      z.judge = some (0, 0) := by
  have hb : bitOf w.toNat 0 = true := (bitOf_toNat w 0).trans hw
  have hx := plls_modPll (fun y => { y with fault := false })
    (plls_modPll (fun y => { y with tol := BitVec.ofNat 11 (w.toNat / 2), en := true }) h)
  refine ⟨relockPll (modPll (modPll s (reg s 0x70004 % 8) (fun y => { y with tol := BitVec.ofNat 11 (w.toNat / 2), en := true }))
    (reg s 0x70004 % 8) (fun y => { y with fault := false })) (reg s 0x70004 % 8), _, ?_, plls_modPll _ hx, ?_⟩
  · rw [pllEnWrite_reached hs]
    unfold pllEnWrite
    simp only [h, he, hb]
    exact congrArg Host.Outcome.next (followUp_none hq)
  · simp [hl, hj]

/-! ## Domains (R435) -/

theorem domSwitch_reached {s : State} (h : Reached s 0) (w : U32) : exec (.domSwitch w) s = .next (domWrite s w.toNat) := by
  show execDomSwitch w s = _
  unfold execDomSwitch
  rw [h.bar0]

/-- CLK_DOM_CTRL as written: the source that is asked for. -/
def askDom (w : U32) : Dom → Dom := fun x => { x with srcReq := w.getLsbD 0, smin := BitVec.ofNat 6 (w.toNat / 4) }

@[simp] theorem pllLocked_modDom (s : State) (d : Nat) (g : Dom → Dom) (e : Nat) : pllLocked (modDom s d g) e = pllLocked s e := rfl

theorem domSwitch_eq {s : State} {w : U32} {x : Dom} (hs : Reached s 0) (h : s.doms[reg s 0x70020 % 4]? = some x) :
    exec (.domSwitch w) s = .next (let d := reg s 0x70020 % 4
      let t := modDom s d (askDom w)
      if x.src = w.getLsbD 0 then t
      else if w.getLsbD 0 = false ∧ pllLocked s d = false then modPwr t (fun p => { p with cfgErr := true })
      else refreshDoms (c32 (modDom t d (fun x => { x with src := w.getLsbD 0 })) 0x70034 1)) := by
  have hd := doms_modDom (askDom w) h
  rw [domSwitch_reached hs]
  unfold domWrite
  unfold askDom at hd ⊢
  simp only [bitOf_toNat, hd]
  simp

/-- The source is the one that is asked for already. -/
theorem domSwitch_same {s : State} {w : U32} {x : Dom} (hs : Reached s 0) (h : s.doms[reg s 0x70020 % 4]? = some x)
    (hx : x.src = w.getLsbD 0) : exec (.domSwitch w) s = .next (modDom s (reg s 0x70020 % 4) (askDom w)) := by
  rw [domSwitch_eq hs h]
  simp only [if_pos hx]

/-- A PLL that is not locked is no source. -/
theorem domSwitch_refused {s : State} {w : U32} {x : Dom} (hs : Reached s 0) (h : s.doms[reg s 0x70020 % 4]? = some x)
    (hx : x.src ≠ w.getLsbD 0) (hw : w.getLsbD 0 = false) (hl : pllLocked s (reg s 0x70020 % 4) = false) :
    ∃ t y, exec (.domSwitch w) s = .next t ∧ t.pwr.cfgErr = true ∧ t.doms[reg s 0x70020 % 4]? = some y ∧ y.src = x.src := by
  refine ⟨modPwr (modDom s (reg s 0x70020 % 4) (askDom w)) (fun p => { p with cfgErr := true }), _, ?_, rfl,
    doms_modDom (askDom w) h, rfl⟩
  rw [domSwitch_eq hs h]
  simp only [if_neg hx, if_pos (And.intro hw hl)]

theorem domSwitch_switches {s : State} {w : U32} {x : Dom} (hs : Reached s 0) (h : s.doms[reg s 0x70020 % 4]? = some x)
    (hx : x.src ≠ w.getLsbD 0) (hl : w.getLsbD 0 = true ∨ pllLocked s (reg s 0x70020 % 4) = true) :
    ∃ t y, exec (.domSwitch w) s = .next t ∧ t.doms[reg s 0x70020 % 4]? = some y ∧ y.src = w.getLsbD 0 ∧
      t = { c32 s 0x70034 1 with doms := t.doms } := by
  have hd : (c32 (modDom (modDom s (reg s 0x70020 % 4) (askDom w)) (reg s 0x70020 % 4) (fun x => { x with src := w.getLsbD 0 }))
      0x70034 1).doms[reg s 0x70020 % 4]? = some { askDom w x with src := w.getLsbD 0 } :=
    doms_modDom (fun x => { x with src := w.getLsbD 0 }) (doms_modDom (askDom w) h)
  obtain ⟨b, hb⟩ := doms_refreshDoms hd
  refine ⟨_, _, ?_, hb, rfl, rfl⟩
  have hn : ¬ (w.getLsbD 0 = false ∧ pllLocked s (reg s 0x70020 % 4) = false) := by
    rintro ⟨h0, h1⟩
    rcases hl with hl | hl
    · rw [h0] at hl; cases hl
    · rw [h1] at hl; cases hl
  rw [domSwitch_eq hs h]
  simp only [if_neg hx, if_neg hn]

theorem clkObsWrite_holds {s : State} (hs : Reached s 0) (w : U32) :
    exec (.clkObsWrite w) s = .next (setReg s 0x70030 (w.toNat % 2 ^ 31)) := by
  show execClkObsWrite w s = _
  unfold execClkObsWrite
  rw [hs.bar0]

/-! ## The retry of PLL 6, and REFCLK (R431, R432) -/

theorem passagePllRetry_judges {s : State} {x : Pll} (h : s.plls[6]? = some x) (hf : x.fault = true) (ho : hostOn s = true)
    (he : x.en = true) (hl : x.locked = false) (hj : x.judge = none) :
    exec .passagePllRetry s = .next (modPll s 6 (fun x => { x with judge := some (0, 0) })) := by
  show execPassagePllRetry s = _
  unfold execPassagePllRetry relockPll pllFault
  rw [modPll_const (fun x => { x with judge := some (0, 0) }) h, modPll_const (fun x : Pll =>
    if x.en && !x.locked && x.judge.isNone then { x with judge := some (0, 0) } else x) h]
  simp [h, hf, ho, he, hl, hj]

theorem fatalEvent_fatal (s : State) (c : Nat) : (fatalEvent s c).flt.fatal = true := by
  unfold fatalEvent
  split
  · assumption
  · simp

theorem refclkLoss_fatal {s : State} (ho : hostOn s = true) (hp : s.pwr.perstHigh = true) (hc : curEntry s ≠ some 0x45) :
    ∃ t, exec .refclkLoss s = .next t ∧ t.flt.fatal = true ∧ t.pwr.refclk = false := by
  refine ⟨refreshDoms (fatalEvent (modPwr s (fun p => { p with refclk := false })) 2), ?_, fatalEvent_fatal _ 2, ?_⟩
  · show execRefclkLoss s = _
    unfold execRefclkLoss
    simp [ho, hp, hc]
  · exact congrArg Power.refclk (calm_fatalEvent (modPwr s (fun p => { p with refclk := false })) 2).2.1

/-- Settles O41: by the command, each case by its lemma. -/
theorem clocksLock : Obligations.ClocksLock := by
  unfold Obligations.ClocksLock
  refine ⟨fun s p count x h => ?_, fun s w hs => ?_, fun s x => ⟨passagePllRetry_judges, refclkLoss_fatal⟩⟩
  · refine ⟨pllWindow_uncounted count h, fun hr he => ⟨pllWindow_good count h hr he, pllWindow_faulty count h hr he, ?_⟩⟩
    rintro w k hl hj
    refine ⟨?_, pllWindow_judging count h hr he hl hj⟩
    rintro hk rfl
    exact pllWindow_locks count h hr he hl hj hk
  · exact ⟨fun x h => ⟨pllEnWrite_linkDown hs h, pllEnWrite_unlocks hs h, pllEnWrite_enables hs h⟩,
      fun x h => ⟨domSwitch_same hs h, fun hx => ⟨domSwitch_refused hs h hx, domSwitch_switches hs h hx⟩⟩, clkObsWrite_holds hs w⟩

end Sys2Proof.Machine
end

section
/-! PROOFS. Sorted lists under maps and filters, and the resets that need no more (R14, R440, R447, R466, R485, R491). -/

namespace Sys2Proof.Machine

/-! ## Sorted lists -/

section
variable {α : Type}

theorem smSorted_tail {x : Nat × α} {m : SMap α} (h : SmSorted (x :: m)) : SmSorted m := by
  cases m with
  | nil => trivial
  | cons y r =>
    have hr : smRising x.1 (y :: r) = true := h
    simp only [smRising, Bool.and_eq_true] at hr
    exact hr.2

/-- Entries that read as unlisted keys do may be left out. -/
theorem smGet_filter_default [DecidableEq α] {d : α} {m : SMap α} (k : Nat) (h : SmSorted m) :
    smGet d (m.filter (fun e => !decide (e.2 = d))) k = smGet d m k := by
  induction m with
  | nil => rfl
  | cons x r ih =>
    have ih := ih (smSorted_tail h)
    by_cases hx : x.2 = d
    · rw [List.filter_cons_of_neg (by simp [hx]), ih]
      simp only [smGet]
      split
      case isTrue hk => subst hk; rw [smGet_rising r h (Nat.le_refl _), hx]
      case isFalse =>
        split
        case isTrue hk => exact smGet_rising r h (Nat.le_of_lt hk)
        case isFalse => rfl
    · rw [List.filter_cons_of_pos (by simp [hx])]
      simp only [smGet, ih]

/-- A change of every value leaves the keys as they are. -/
theorem smRising_map (f : Nat → α → α) (b : Nat) (m : SMap α) : smRising b (m.map (fun e => (e.1, f e.1 e.2))) = smRising b m := by
  induction m generalizing b with
  | nil => rfl
  | cons x r ih => simp [smRising, ih]

theorem smSorted_map (f : Nat → α → α) {m : SMap α} (h : SmSorted m) : SmSorted (m.map (fun e => (e.1, f e.1 e.2))) := by
  cases m with
  | nil => trivial
  | cons x r => exact (smRising_map f x.1 r).trans h

theorem smGet_map {d : α} (f : Nat → α → α) (m : SMap α) (k : Nat) (hd : f k d = d) :
    smGet d (m.map (fun e => (e.1, f e.1 e.2))) k = f k (smGet d m k) := by
  induction m with
  | nil => exact hd.symm
  | cons x r ih =>
    simp only [List.map_cons, smGet, ih]
    split
    case isTrue hk => rw [hk]
    case isFalse => split <;> simp [hd]

theorem smSorted_smMap [DecidableEq α] {d : α} {m : SMap α} (f : Nat → α → α) (h : SmSorted m) : SmSorted (smMap d m f) :=
  smSorted_filter _ (smSorted_map f h)

/-- A change of every value that leaves the default as it is reads so everywhere. -/
theorem smGet_smMap [DecidableEq α] {d : α} {m : SMap α} (f : Nat → α → α) (k : Nat) (h : SmSorted m) (hd : f k d = d) :
    smGet d (smMap d m f) k = f k (smGet d m k) :=
  (smGet_filter_default k (smSorted_map f h)).trans (smGet_map f m k hd)

theorem smRising_range' (g : Nat → α) (b a n : Nat) (h : b < a) : smRising b ((List.range' a n).map (fun i => (i, g i))) = true := by
  induction n generalizing a b with
  | zero => rfl
  | succ n ih => simp [List.range'_succ, smRising, h, ih a (a + 1) (Nat.lt_succ_self a)]

theorem smGet_range' (d : α) (g : Nat → α) {a n k : Nat} (h1 : a ≤ k) (h2 : k < a + n) :
    smGet d ((List.range' a n).map (fun i => (i, g i))) k = g k := by
  induction n generalizing a with
  | zero => omega
  | succ n ih =>
    rw [List.range'_succ, List.map_cons, smGet]
    split
    case isTrue hk => rw [hk]
    case isFalse hk =>
      rw [if_neg (by omega)]
      exact ih (by omega) (by omega)

/-- A value for each number below `n` reads so. -/
theorem smGet_range [DecidableEq α] (d : α) (g : Nat → α) {n k : Nat} (h : k < n) :
    smGet d (((List.range n).map (fun i => (i, g i))).filter (fun e => !decide (e.2 = d))) k = g k := by
  rw [List.range_eq_range', smGet_filter_default]
  · exact smGet_range' d g (Nat.zero_le k) (by omega)
  · cases n with
    | zero => trivial
    | succ n => exact smRising_range' g 0 1 n Nat.zero_lt_one

theorem smRising_lt {b : Nat} {m : SMap α} (h : smRising b m = true) : ∀ k ∈ m.map (·.1), b < k := by
  induction m generalizing b with
  | nil => intro k hk; cases hk
  | cons x r ih =>
    simp only [smRising, Bool.and_eq_true, decide_eq_true_eq] at h
    intro k hk
    rcases List.mem_cons.mp hk with rfl | hk
    · exact h.1
    · exact Nat.lt_trans h.1 (ih h.2 k hk)

theorem smSorted_keys {m : SMap α} (h : SmSorted m) : (m.map (·.1)).Pairwise (· < ·) := by
  induction m with
  | nil => exact List.Pairwise.nil
  | cons x r ih => exact List.pairwise_cons.mpr ⟨smRising_lt h, ih (smSorted_tail h)⟩

/-- What does not read as the default is listed. -/
theorem smGet_listed {d : α} {m : SMap α} {k : Nat} (h : smGet d m k ≠ d) : (k, smGet d m k) ∈ m := by
  induction m with
  | nil => exact absurd rfl h
  | cons x r ih =>
    simp only [smGet] at h ⊢
    split at h
    case isTrue hk => simp [hk]
    case isFalse hk =>
      split at h
      · exact absurd rfl h
      · rw [if_neg hk, if_neg ‹_›]
        exact List.mem_cons_of_mem _ (ih h)

end

/-! ## The resets that turn the device off -/

theorem regionOf_host_flash {k : Nat} (h : keySpace k = spHost ∨ keySpace k = spFlash) : regionOf k = 0 := by
  unfold regionOf
  rcases h with h | h <;> simp [h, spHost, spFlash, spDram, spGal, spStage]

/-- The bytes of host memory and of the flash outlast every reset. -/
theorem coldReset_peek1 {s : State} {k : Nat} (hw : Memory.wf s = true) (hl : smGet 0 s.lost 0 = 0)
    (h : keySpace k = spHost ∨ keySpace k = spFlash) : peek1 (coldReset s) k = peek1 s k := by
  have hr := regionOf_host_flash h
  have hs : SmSorted s.mem := ((memory_wf_iff s).mp hw).1
  have hf : smFind (coldReset s).mem k = smFind s.mem k := by
    refine (smFind_filter_sorted (fun q => keySpace q == spHost || keySpace q == spFlash) hs k).trans (if_pos ?_)
    rcases h with h | h <;> simp [h]
  have hu : unlisted (coldReset s) k = unlisted s k := by
    unfold unlisted isZeroed lossOf
    rw [hr, hl]
    rfl
  unfold peek1
  rw [hf, hu]

/-- The device is off, and has forgotten all but host memory and the flash. -/
def TurnedOff (s t : State) : Prop :=
  t.pwr.state = .off ∧ t.rings = [] ∧ t.streams = [] ∧ t.knots = [] ∧ t.slots = [] ∧ t.jobs = [] ∧
    ∀ k, (keySpace k = spHost ∨ keySpace k = spFlash) → peek1 t k = peek1 s k

theorem coldReset_off {s : State} (g : Power → Power) (hg : ∀ p, (g p).state = p.state) (hl : smGet 0 s.lost 0 = 0) (hw : Memory.wf s = true) :
    TurnedOff s (modPwr (coldReset s) g) :=
  ⟨hg _, rfl, rfl, rfl, rfl, rfl, fun _ h => coldReset_peek1 hw hl h⟩

theorem powerOn_startsA {s : State} (ho : s.pwr.state = .off) (hs : s.pwr.seq = []) (ht : s.pwr.tripped = false) :
    ∃ t, exec .powerOn s = .next t ∧ t.pwr.seq = [0, 1, 2, 3, 4, 5, 6, 7, 8] ∧ t.pwr.goal = .idle ∧ t.rings = [] ∧ t.streams = [] := by
  refine ⟨startA s, ?_, rfl, rfl, rfl, rfl⟩
  show execPowerOn s = _
  unfold execPowerOn
  simp [ho, hs, ht]

/-- The latch of a trip holds the device off (R491). -/
theorem powerOn_tripped {s : State} (ht : s.pwr.tripped = true) : exec .powerOn s = .next s := by
  show execPowerOn s = _
  unfold execPowerOn
  simp [ht]

/-! ## PERST# (R447, R449) -/

theorem perstAssert_pending {s : State} (ho : s.pwr.state ≠ .off) (hs : s.pwr.seq ≠ []) :
    exec .perstAssert s = .next (modPwr s (fun p =>
      { p with perstHigh := false, wake := false, thenB := false, thenH := !inH s || p.thenH })) := by
  show execPerstAssert s = _
  unfold execPerstAssert
  have hh : inH (modPwr s (fun p => { p with perstHigh := false, wake := false, thenB := false })) = inH s := rfl
  simp only [hh]
  cases inH s <;> simp [ho, hs, modPwr]

theorem perstDeassert_leaves {s : State} (hr : s.pwr.state = .retain) (hs : s.pwr.seq = []) (hh : s.pwr.thenH = false)
    (hb : s.pwr.byRequest = false) (hg : s.pwr.railReset = false) :
    ∃ t, exec .perstDeassert s = .next t ∧ t.pwr.perstHigh = true ∧ t.pwr.goal = .idle ∧ t.pwr.seq.head? = some 0x10 := by
  refine ⟨startB (modPwr s (fun p => { p with perstHigh := true, refclk := true, wake := false })), ?_, rfl, rfl, rfl⟩
  show execPerstDeassert s = _
  unfold execPerstDeassert
  simp [inH, inSeq, stepIn, mayLeave, hr, hs, hh, hb, hg]

theorem perstDeassert_waits {s : State} (h : inH s = true ∨ s.pwr.thenH = true) :
    exec .perstDeassert s = .next (modPwr s (fun p => { p with perstHigh := true, refclk := true, wake := false, thenB := true })) := by
  show execPerstDeassert s = _
  unfold execPerstDeassert
  have hh : inH (modPwr s (fun p => { p with perstHigh := true, refclk := true, wake := false })) = inH s := rfl
  simp only [hh]
  rcases h with h | h <;> simp [h, modPwr]

theorem resetPwr_steady {p q : Power} (h : steady p = steady q) :
    (resetPwr p).seq = q.seq ∧ (resetPwr p).goal = q.goal ∧ (resetPwr p).perstHigh = q.perstHigh :=
  have hs : p.seq = q.seq := (congrArg Power.seq h :)
  have hg : p.goal = q.goal := (congrArg Power.goal h :)
  have hp : p.perstHigh = q.perstHigh := (congrArg Power.perstHigh h :)
  ⟨hs, hg, hp⟩

theorem abandonFlash_frame (s : State) : (abandonFlash s).rings = s.rings ∧ (abandonFlash s).pwr = s.pwr := by
  unfold abandonFlash endFlash
  split <;> simp

/-- A fundamental reset tears down the ring pairs, and leaves the steady part of the power state but for its readings. -/
theorem fundamentalReset_frame (s : State) :
    (fundamentalReset s).rings = [] ∧ (fundamentalReset s).pwr.seq = s.pwr.seq ∧ (fundamentalReset s).pwr.goal = s.pwr.goal ∧
    (fundamentalReset s).pwr.perstHigh = s.pwr.perstHigh := by
  obtain ⟨m, p, f, l, hc⟩ := clearResident_only (abandonFlash (resetCommon s false))
  obtain ⟨-, -, -, hp, -, hr, -⟩ := resetCommon_frame s false
  have hw : steady (resetSlots (resetWork s)).pwr = steady s.pwr := by simp
  have ha := abandonFlash_frame (resetCommon s false)
  unfold fundamentalReset
  rw [hc]
  dsimp only
  rw [ha.1, ha.2, hp]
  exact ⟨hr, resetPwr_steady hw⟩

theorem beginStep_H {s : State} (h : curEntry s = some 0x48) :
    beginStep s = modPwr (fundamentalReset s) (fun p => { p with byRequest := false }) := by
  unfold beginStep
  rw [h]
  simp

theorem startSeq_H (s : State) (es : List Nat) (g : PState) :
    (startSeq s (0x48 :: es) g).rings = [] ∧ (startSeq s (0x48 :: es) g).pwr.perstHigh = s.pwr.perstHigh ∧
    (startSeq s (0x48 :: es) g).pwr.goal = g ∧ (startSeq s (0x48 :: es) g).pwr.seq = (0x48 :: es).map (BitVec.ofNat 8) := by
  unfold startSeq
  rw [beginStep_H (by rfl)]
  obtain ⟨hr, hs, hg, hp⟩ := fundamentalReset_frame (modPwr s (fun p => { p with seq := (0x48 :: es).map (BitVec.ofNat 8), goal := g }))
  generalize fundamentalReset _ = t at hr hs hg hp ⊢
  exact ⟨hr, hp, hg, hs⟩

/-- Sequence H begins with a fundamental reset. -/
theorem startH_resets (s : State) :
    (startH s).rings = [] ∧ (startH s).pwr.perstHigh = s.pwr.perstHigh ∧ (startH s).pwr.goal = .retain ∧
    (startH s).pwr.seq = if tierUp s then [0x48, 0x49, 0x4A, 0x4B] else [0x48, 0x49, 0x4B] := by
  have hu : ∃ t, startH s = startSeq t (if tierUp t then [0x48, 0x49, 0x4A, 0x4B] else [0x48, 0x49, 0x4B]) .retain ∧
      t.pwr.perstHigh = s.pwr.perstHigh ∧ tierUp t = tierUp s := by
    unfold startH
    refine ⟨_, rfl, ?_⟩
    split <;> exact ⟨rfl, rfl⟩
  obtain ⟨t, h, hp, ht⟩ := hu
  rw [h, ht, ← hp]
  split <;> exact startSeq_H _ _ _

theorem perstAssert_resets {s : State} (ho : s.pwr.state ≠ .off) (hs : s.pwr.seq = []) :
    ∃ t, exec .perstAssert s = .next t ∧ t.pwr.perstHigh = false ∧ t.rings = [] ∧ t.pwr.goal = .retain ∧
      t.pwr.seq = (if tierUp s then [0x48, 0x49, 0x4A, 0x4B] else [0x48, 0x49, 0x4B]) := by
  obtain ⟨hr, hp, hg, hq⟩ := startH_resets (modPwr s (fun p => { p with perstHigh := false, wake := false, thenB := false }))
  refine ⟨_, ?_, hp, hr, hg, hq⟩
  show execPerstAssert s = _
  unfold execPerstAssert
  simp [inH, inSeq, stepIn, ho, hs]

end Sys2Proof.Machine
end

section
/-! PROOFS. A stream that a reset suspends: what still happens to it leaves its state, generation and records. -/

namespace Sys2Proof.Machine

/-- The stream acts on no step: it is not OPEN, and nothing waits to befall it. -/
def Halted (x : Stream) : Prop := x.ctx.state ≠ 1 ∧ x.latched = none ∧ x.act = none ∧ x.useRevoked = false

/-- State, generation and records held are the same, and a stream that is halted stays so. -/
def Stays (x y : Stream) : Prop :=
  y.ctx.state = x.ctx.state ∧ y.ctx.gen = x.ctx.gen ∧ y.hold = x.hold ∧ (Halted x → Halted y)

theorem Stays.refl (x : Stream) : Stays x x := ⟨rfl, rfl, rfl, id⟩

theorem Stays.trans {x y z : Stream} (h : Stays x y) (h' : Stays y z) : Stays x z := by
  obtain ⟨hs, hg, hr, hh⟩ := h
  obtain ⟨hs', hg', hr', hh'⟩ := h'
  exact ⟨hs'.trans hs, hg'.trans hg, hr'.trans hr, hh' ∘ hh⟩

/-- Every stream stays, where the list of streams is sorted. -/
def Still (m n : SMap Stream) : Prop := SmSorted m → SmSorted n ∧ ∀ i, Stays (smGet {} m i) (smGet {} n i)

theorem Still.refl (m : SMap Stream) : Still m m := fun h => ⟨h, fun _ => .refl _⟩

theorem Still.trans {m n o : SMap Stream} (h : Still m n) (h' : Still n o) : Still m o := fun hs =>
  ⟨(h' (h hs).1).1, fun i => ((h hs).2 i).trans ((h' (h hs).1).2 i)⟩

theorem Still.upd {m n : SMap Stream} (h : Still m n) (st : Nat) {g : Stream → Stream} (hg : ∀ x, Stays x (g x)) : Still m (smUpd {} n st g) := by
  refine h.trans (fun hs => ⟨smSorted_smSet _ hs, fun i => ?_⟩)
  unfold smUpd
  rw [smGet_smSet_sorted _ hs]
  split
  case isTrue hi => rw [hi]; exact hg _
  case isFalse => exact .refl _

@[simp] theorem modStream_streams (s : State) (i : Nat) (g : Stream → Stream) : (modStream s i g).streams = smUpd {} s.streams i g := rfl
@[simp] theorem modCtx_streams (s : State) (i : Nat) (g : StreamCtx → StreamCtx) :
    (modCtx s i g).streams = smUpd {} s.streams i (fun x => { x with ctx := g x.ctx }) := rfl

/-- The stream is halted, and the list of streams is sorted. -/
def Ready (s : State) (st : Nat) : Prop := SmSorted s.streams ∧ Halted (getStream s st)

theorem Still.ready {s t : State} {st : Nat} (h : Still s.streams t.streams) (hr : Ready s st) : Ready t st :=
  ⟨(h hr.1).1, ((h hr.1).2 st).2.2.2 hr.2⟩

/-! ## What may happen in a step -/

theorem stays_endStreamWork (x : Stream) : Stays x (endStreamWork x) := by
  unfold endStreamWork dropUnread freshBacklog
  split <;> exact ⟨rfl, rfl, rfl, fun ⟨hs, hl, _, hu⟩ => ⟨hs, hl, rfl, hu⟩⟩

theorem endAllWork_streams (s : State) : (endAllWork s).streams = smMap {} s.streams (fun _ x => endStreamWork x) := rfl

theorem still_endAllWork (s : State) : Still s.streams (endAllWork s).streams := fun hs => by
  rw [endAllWork_streams]
  refine ⟨smSorted_smMap _ hs, fun i => ?_⟩
  rw [smGet_smMap (fun _ x => endStreamWork x) i hs rfl]
  exact stays_endStreamWork _

theorem still_fatalEvent (s : State) (c : Nat) : Still s.streams (fatalEvent s c).streams := by
  unfold fatalEvent
  split
  · exact .refl _
  · simpa using still_endAllWork s

theorem still_ctlFatal (s : State) (m : List CtlWord) : Still s.streams (ctlFatal s m).streams := by
  unfold ctlFatal
  refine Still.trans ?_ (still_fatalEvent _ 1)
  simpa using Still.refl s.streams

theorem still_putStatus (s : State) (st : Nat) (r : Record) : Still s.streams (putStatus s st r).streams := by
  unfold putStatus
  simp only [hostWake_frame, modStream_streams, quiet_writeRecordSpace]
  exact (Still.refl _).upd st (fun x => ⟨rfl, rfl, rfl, id⟩)

theorem Still.of_eq {m n : SMap Stream} (h : n = m) : Still m n := h ▸ .refl m

theorem Still.mod {m : SMap Stream} {s : State} (h : Still m s.streams) (st : Nat) {g : Stream → Stream} (hg : ∀ x, Stays x (g x)) :
    Still m (modStream s st g).streams := h.upd st hg

/-- A change of the context that keeps state and generation. -/
theorem Still.ctx {m : SMap Stream} {s : State} (h : Still m s.streams) (st : Nat) {g : StreamCtx → StreamCtx}
    (hg : ∀ c, (g c).state = c.state ∧ (g c).gen = c.gen) : Still m (modCtx s st g).streams :=
  h.upd st (g := fun x => { x with ctx := g x.ctx }) (fun x =>
    ⟨(hg x.ctx).1, (hg x.ctx).2, rfl, fun ⟨h1, h2⟩ => ⟨fun h => h1 ((hg x.ctx).1.symm.trans h), h2⟩⟩)

theorem still_updBacklog (s : State) (st : Nat) : Still s.streams (updBacklog s st).streams := by
  have h : Still s.streams (modCtx s st (fun c => { c with backlog := BitVec.ofNat 7 (backlogOf (getStream s st)) })).streams :=
    (Still.refl _).ctx st (fun _ => ⟨rfl, rfl⟩)
  have hl : ∀ b, Still s.streams (modCtx (modCtx s st (fun c => { c with backlog := BitVec.ofNat 7 (backlogOf (getStream s st)) })) st
      (fun c => { c with lag := b })).streams := fun b => h.ctx st (fun _ => ⟨rfl, rfl⟩)
  unfold updBacklog
  dsimp only
  split
  · split
    · exact (hl true).trans (still_putStatus _ _ _)
    · simpa using hl true
  · split
    · exact hl false
    · exact h

theorem still_completeRemote (s : State) (st : Nat) : Still s.streams (completeRemote s st).streams := by
  unfold completeRemote
  split
  · exact .refl _
  · split
    · exact .refl _
    · dsimp only
      split
      · simp only [modStream_streams, modInst_frame, quiet_psgSend]
        exact (Still.refl _).upd st (fun x => ⟨rfl, rfl, rfl, id⟩)
      · exact .refl _

theorem still_pullEnd (s : State) (st : Nat) : Still s.streams (pullEnd s st).streams := by
  unfold pullEnd
  split
  · exact .refl _
  · split
    · exact (Still.refl _).mod st (fun x => ⟨rfl, rfl, rfl, id⟩)
    · split
      · exact .refl _
      · exact (Still.of_eq (by simp)).trans (still_completeRemote _ st)

/-- Nothing is left for the step boundary of a stream that is halted. -/
theorem still_stepBoundary {s : State} {st : Nat} (h : Ready s st) : Still s.streams (stepBoundary s st).streams := by
  obtain ⟨-, -, -, -, hu⟩ := h
  have hs : (stepBoundary s st).streams = if (getStream s st).clrPending then smUpd {} s.streams st (fun x => { x with
      clrPending := false, ctx := { x.ctx with stPrewake := 0, stPromote := 0, stCancel := 0, stNotify := 0 } }) else s.streams := by
    unfold stepBoundary
    simp only [hu, Bool.false_eq_true, if_false]
    cases getInst s st with
    | none => simp
    | some i =>
      simp only [ite_streams, quiet_moveInst, quiet_releaseDeferred, modInst_frame, modStream_streams, ite_self]
      cases i.bridgePend <;> simp
  rw [hs]
  split
  · exact (Still.refl _).upd st (fun x => ⟨rfl, rfl, rfl, id⟩)
  · exact .refl _

theorem still_completeClosure {s : State} {st : Nat} (h : Ready s st) : Still s.streams (completeClosure s st).streams := by
  have hc : ∀ t : State, t.streams = s.streams → Still s.streams (modStream t st (fun x => { x with
      waiting := none, inputDone := false, frameReady := false, stepBuf := [], ctx := { x.ctx with sampleInStep := 0 } })).streams :=
    fun t ht => (Still.of_eq ht).mod st (fun x => ⟨rfl, rfl, rfl, id⟩)
  unfold completeClosure
  dsimp only
  refine Still.trans ?_ (still_pullEnd _ st)
  refine Still.trans ?_ (still_stepBoundary (Still.ready ?_ h))
  all_goals exact (hc _ (by simp)).trans (still_updBacklog _ st)

theorem retryLatched_none {s : State} {st : Nat} (h : (getStream s st).latched = none) : retryLatched s st = (true, s) := by
  unfold retryLatched
  simp [h]

theorem decideClose_halted {s : State} {st : Nat} (w : WaitDecision) (h : (getStream s st).ctx.state ≠ 1) :
    decideClose s st w = .inl (closedCtx s st w.stamp w.lost) := by
  unfold decideClose
  exact if_pos h

theorem getStream_copyFrame (s : State) (st i : Nat) : getStream (copyFrame s st) i = getStream s i := by
  unfold getStream
  rw [(quiet_copyFrame s st).1]

/-- The step of a stream that is halted closes without a decision. -/
theorem decisionPhase_halted {s : State} {st : Nat} (w : WaitDecision) (h : Halted (getStream s st)) :
    decisionPhase s st w = completeClosure (closedCtx (copyFrame s st) st w.stamp w.lost) st := by
  obtain ⟨hs, hl, ha, -⟩ := h
  unfold decisionPhase
  rw [retryLatched_none hl]
  simp [ha, decideClose_halted w ((getStream_copyFrame s st st).symm ▸ hs)]

theorem still_decisionPhase {s : State} {st : Nat} (w : WaitDecision) (h : Ready s st) : Still s.streams (decisionPhase s st w).streams := by
  have hc : Still s.streams (closedCtx (copyFrame s st) st w.stamp w.lost).streams :=
    (Still.of_eq (quiet_copyFrame s st).1).mod st (fun x => ⟨rfl, rfl, rfl, id⟩)
  rw [decisionPhase_halted w h.2]
  exact hc.trans (still_completeClosure (hc.ready h))

theorem still_finishClosure {s : State} {st : Nat} (lost : Bool) (h : Ready s st) : Still s.streams (finishClosure s st lost).streams := by
  unfold finishClosure
  split
  · exact .refl _
  · dsimp only
    refine (Still.of_eq ?_).trans (still_decisionPhase _ (Still.ready (Still.of_eq ?_) h))
    · simp
    · simp

theorem still_peerLostStep {s : State} {st : Nat} (n : Nat) (h : Ready s st) : Still s.streams (peerLostStep s st n).streams :=
  still_finishClosure true (s := c32 s 0x20070 n) h

theorem still_sendStepEnd {s : State} {st : Nat} (h : Ready s st) : Still s.streams (sendStepEnd s st).streams := by
  have hr : ∀ t : State, t.streams = s.streams → Ready t st := fun t ht => Still.ready (Still.of_eq ht) h
  have hf : ∀ t : State, t.streams = s.streams → Still s.streams (finishClosure t st false).streams :=
    fun t ht => (Still.of_eq ht).trans (still_finishClosure false (hr t ht))
  have hp : ∀ (t : State) (n : Nat), t.streams = s.streams → Still s.streams (peerLostStep t st n).streams :=
    fun t n ht => (Still.of_eq ht).trans (still_peerLostStep n (hr t ht))
  unfold sendStepEnd
  split
  · exact .refl _
  · dsimp only
    split
    · exact hf _ (by simp)
    · split
      · exact hf _ (by simp)
      · split
        · exact hp _ _ (by simp)
        · exact .of_eq (by simp)

/-- A step of a stream that is not open closes none. -/
theorem still_execStepClose {s : State} {st : StreamId} (u : State) (h : (getStream s st.toNat).ctx.state ≠ 0 → Ready s st.toNat) :
    Still s.streams (goOn u (execStepClose st s)).streams := by
  refine live_keeps (P := fun t => Still s.streams t.streams) (.refl _) ?_ (still_ctlFatal s)
  dsimp only
  split
  case isFalse => exact .refl _
  case isTrue hc =>
    split
    · exact .refl _
    case h_2 i hi =>
      have hn : (getStream s st.toNat).ctx.state ≠ 0 := by
        simp only [closable, hi, Bool.and_eq_true, bne_iff_ne] at hc
        exact hc.1.1.2
      refine (Still.of_eq ?_).trans (still_sendStepEnd (Still.ready (Still.of_eq ?_) (h hn)))
      · simp
      · simp

theorem still_endClosure {s : State} {st : Nat} (h : Ready s st) : Still s.streams (endClosure s st).streams := by
  unfold endClosure
  split
  · exact still_decisionPhase _ h
  · split
    · exact still_peerLostStep _ h
    · exact .refl _
  · exact .refl _

theorem still_closeNow {s : State} {st : Nat} (h : Ready s st)
    (hj : (getStream s (BitVec.ofNat 14 st).toNat).ctx.state ≠ 0 → Ready s (BitVec.ofNat 14 st).toNat) :
    Still s.streams (closeNow s st).streams := by
  have hc := still_execStepClose s hj
  unfold closeNow
  split
  · exact hc.trans (still_endClosure (hc.ready h))
  · exact .refl _

theorem still_runFrontend (s : State) (st : Nat) (v : Version) (f : Front) : Still s.streams (runFrontend s st v f).streams := by
  unfold runFrontend
  exact (Still.of_eq (by simp)).mod st (fun x => ⟨rfl, rfl, rfl, id⟩)

theorem still_convertStep (s : State) (st : Nat) (i : Inst) (c : Conv) (img : Bytes) : Still s.streams (convertStep s st i c img).streams := by
  unfold convertStep
  refine Still.mod (.of_eq ?_) st (fun x => ⟨rfl, rfl, rfl, id⟩)
  refine (Quiet.trans ?_ (quiet_foldl (fun t j => ?_) _ _)).1
  · simp
  · dsimp only
    split <;> simp

theorem still_finishInput (s : State) (st : Nat) : Still s.streams (finishInput s st).streams := by
  unfold finishInput
  dsimp only
  split
  · split
    · exact (still_runFrontend _ _ _ _).trans (still_convertStep _ _ _ _ _)
    · exact still_convertStep _ _ _ _ _
  · split
    · exact still_runFrontend _ _ _ _
    · exact .refl _

end Sys2Proof.Machine
end

section
/-! PROOFS. O40: what a warm reset leaves of the streams and of the knots, and the resets from outside. -/

namespace Sys2Proof.Machine

/-! ## Streams in a reset (R14) -/

/-- The stream after its reset: SUSPENDED with its next generation if it was OPEN or CLOSING, and without records. -/
def Suspends (x y : Stream) : Prop :=
  ((x.ctx.state = 1 ∨ x.ctx.state = 2) → y.ctx.state = 3 ∧ y.ctx.gen = x.ctx.gen + 1) ∧
  (¬ (x.ctx.state = 1 ∨ x.ctx.state = 2) → y.ctx.state = x.ctx.state ∧ y.ctx.gen = x.ctx.gen) ∧ y.hold = [] ∧ Halted y

/-- A reset sees of a stream its state and its generation. -/
theorem Suspends.of_stays {x y z : Stream} (h : Stays x y) (h' : Suspends y z) : Suspends x z := by
  obtain ⟨hs, hg, -, -⟩ := h
  unfold Suspends at h'
  rwa [hs, hg] at h'

theorem Suspends.stays {x y z : Stream} (h : Suspends x y) (h' : Stays y z) : Suspends x z := by
  obtain ⟨hs, hg, hr, hh⟩ := h'
  obtain ⟨h1, h2, h3, h4⟩ := h
  unfold Suspends
  rw [hs, hg, hr]
  exact ⟨h1, h2, h3, hh h4⟩

theorem Suspends.halted {x y : Stream} (h : Suspends x y) : Halted y := h.2.2.2

theorem dropUnread_frame (x : Stream) : (dropUnread x).ctx.state = x.ctx.state ∧ (dropUnread x).ctx.gen = x.ctx.gen := by
  unfold dropUnread
  split <;> exact ⟨rfl, rfl⟩

theorem suspends_suspendCtx (x : Stream) : Suspends x (freshBacklog (suspendCtx x)) := by
  have hd := dropUnread_frame x
  have hm : ((dropUnread x).ctx.state == 1 || (dropUnread x).ctx.state == 2) = true ↔ (x.ctx.state = 1 ∨ x.ctx.state = 2) := by
    simp [hd.1]
  unfold freshBacklog suspendCtx
  dsimp only
  refine ⟨fun h => ?_, fun h => ?_, rfl, ?_, rfl, rfl, rfl⟩
  · rw [if_pos (hm.mpr h), if_pos (hm.mpr h), hd.2]
    exact ⟨rfl, rfl⟩
  · rw [if_neg (mt hm.mp h), if_neg (mt hm.mp h)]
    exact hd
  · dsimp only
    split
    case isTrue => decide
    case isFalse h => exact fun h1 => h (hm.mpr (.inl (hd.1.symm.trans h1)))

/-- The low 14 bits of a listed number, which the engine's own close of a step goes by. -/
def low14 (st : Nat) : Nat := (BitVec.ofNat 14 st).toNat

/-- What a reset does first: the stream is suspended. -/
def begunReset (s : State) (st : Nat) : State :=
  modInst (modStream s st (fun x => freshBacklog (suspendCtx x))) st (fun i => { i with deferred := true, heldMove := false })

theorem getStream_begunReset {s : State} (st i : Nat) (hs : SmSorted s.streams) :
    getStream (begunReset s st) i = if i = st then freshBacklog (suspendCtx (getStream s st)) else getStream s i :=
  getStream_modStream_sorted s st i (fun x => freshBacklog (suspendCtx x)) hs

/-- What a reset does then leaves every stream as it stands. -/
theorem still_resetStream {s : State} {st : Nat} (h : Ready (begunReset s st) st)
    (hj : (getStream (begunReset s st) (low14 st)).ctx.state ≠ 0 → Ready (begunReset s st) (low14 st)) :
    Still (begunReset s st).streams (resetStream s st).streams := by
  have h1 := (still_endClosure h).trans (still_finishInput (endClosure (begunReset s st) st) st)
  have h2 := h1.trans (.of_eq (quiet_deliverAll
    { finishInput (endClosure (begunReset s st) st) st with events := [] } 8 (finishInput (endClosure (begunReset s st) st) st).events).1)
  have h3 := h2.trans (still_closeNow (h2.ready h) (fun hn => h2.ready (hj fun h0 => hn (((h2 h.1).2 _).1.trans h0))))
  exact h3.mod st (g := fun x => { x with waiting := none, clrPending := false }) (fun x => ⟨rfl, rfl, rfl, id⟩)

/-- A reset of a stream suspends it, and leaves the others. -/
theorem resetStream_suspends {s : State} {st : Nat} (hs : SmSorted s.streams)
    (hj : low14 st ≠ st → (getStream s (low14 st)).ctx.state ≠ 0 → Halted (getStream s (low14 st))) :
    SmSorted (resetStream s st).streams ∧ Suspends (getStream s st) (getStream (resetStream s st) st) ∧
      ∀ i, i ≠ st → Stays (getStream s i) (getStream (resetStream s st) i) := by
  have hb : SmSorted (begunReset s st).streams := modStream_sorted s st (fun x => freshBacklog (suspendCtx x)) hs
  have hg := fun i => getStream_begunReset st i hs
  have hr : Ready (begunReset s st) st := ⟨hb, by rw [hg, if_pos rfl]; exact (suspends_suspendCtx _).halted⟩
  have hl : (getStream (begunReset s st) (low14 st)).ctx.state ≠ 0 → Ready (begunReset s st) (low14 st) := by
    intro hn
    by_cases hlow : low14 st = st
    · rw [hlow]
      exact hr
    · rw [hg, if_neg hlow] at hn
      exact ⟨hb, by rw [hg, if_neg hlow]; exact hj hlow hn⟩
  obtain ⟨hsort, hstays⟩ := still_resetStream hr hl hb
  refine ⟨hsort, ?_, fun i hi => ?_⟩
  · have h := hstays st
    change Stays (getStream (begunReset s st) st) _ at h
    rw [hg, if_pos rfl] at h
    exact (suspends_suspendCtx _).stays h
  · have h := hstays i
    change Stays (getStream (begunReset s st) i) _ at h
    rwa [hg, if_neg hi] at h

/-- Of the streams that are in use, those that are not still to be reset are halted. -/
def Swept (s : State) (rest : List Nat) : Prop :=
  SmSorted s.streams ∧ ∀ i, i ∉ rest → (getStream s i).ctx.state ≠ 0 → Halted (getStream s i)

/-- The streams are reset in the order of their numbers, each once. -/
theorem resetAll_suspends {l : List Nat} (hl : l.Pairwise (· < ·)) {s : State} (h : Swept s l) :
    SmSorted (l.foldl resetStream s).streams ∧
      ∀ i, if i ∈ l then Suspends (getStream s i) (getStream (l.foldl resetStream s) i)
        else Stays (getStream s i) (getStream (l.foldl resetStream s) i) := by
  induction l generalizing s with
  | nil => exact ⟨h.1, fun i => .refl _⟩
  | cons st l ih =>
    obtain ⟨hlt, hl⟩ := List.pairwise_cons.mp hl
    obtain ⟨hs, hswept⟩ := h
    have hlow : low14 st ≤ st := by
      unfold low14
      rw [BitVec.toNat_ofNat]
      exact Nat.mod_le ..
    have hj : low14 st ≠ st → (getStream s (low14 st)).ctx.state ≠ 0 → Halted (getStream s (low14 st)) := by
      intro hne hn
      refine hswept _ (fun hm => ?_) hn
      rcases List.mem_cons.mp hm with hm | hm
      · exact hne hm
      · exact absurd (hlt _ hm) (by omega)
    obtain ⟨hs', hst, hothers⟩ := resetStream_suspends hs hj
    have hnext : Swept (resetStream s st) l := by
      refine ⟨hs', fun i hi hn => ?_⟩
      by_cases hist : i = st
      · rw [hist]
        exact hst.halted
      · obtain ⟨hstate, -, -, hkeep⟩ := hothers i hist
        exact hkeep (hswept i (by simp [hist, hi]) (hstate ▸ hn))
    obtain ⟨hsort, hall⟩ := ih hl hnext
    refine ⟨hsort, fun i => ?_⟩
    have hi := hall i
    by_cases hist : i = st
    · subst hist
      have hnot : i ∉ l := fun hm => Nat.lt_irrefl _ (hlt i hm)
      rw [if_neg hnot] at hi
      rw [if_pos (List.mem_cons_self ..)]
      exact hst.stays hi
    · have hm : (i ∈ st :: l) = (i ∈ l) := by simp [hist]
      simp only [hm]
      split
      case isTrue hil =>
        rw [if_pos hil] at hi
        exact .of_stays (hothers i hist) hi
      case isFalse hil =>
        rw [if_neg hil] at hi
        exact (hothers i hist).trans hi

/-- The numbers of the streams that are in use. -/
def inUse (m : SMap Stream) : List Nat := (m.filter (fun e => e.2.ctx.state != 0)).map (·.1)

theorem inUse_pairwise {m : SMap Stream} (h : SmSorted m) : (inUse m).Pairwise (· < ·) := smSorted_keys (smSorted_filter _ h)

theorem mem_inUse {m : SMap Stream} {i : Nat} (h : (smGet {} m i).ctx.state ≠ 0) : i ∈ inUse m := by
  have hm := smGet_listed (d := {}) (m := m) (k := i) (fun he => h (congrArg (·.ctx.state) he))
  exact List.mem_map.mpr ⟨_, List.mem_filter.mpr ⟨hm, bne_iff_ne.mpr h⟩, rfl⟩

theorem resetStreams_suspends {s : State} (hs : SmSorted s.streams) :
    SmSorted (resetStreams s).streams ∧
      ∀ i, (getStream s i).ctx.state ≠ 0 → Suspends (getStream s i) (getStream (resetStreams s) i) := by
  have hr : resetStreams s = (inUse (deliverAll { s with events := [], results := [] } 8 s.events).streams).foldl resetStream
      (deliverAll { s with events := [], results := [] } 8 s.events) := rfl
  have hq : (deliverAll { s with events := [], results := [] } 8 s.events).streams = s.streams := (quiet_deliverAll _ _ _).1
  generalize deliverAll { s with events := [], results := [] } 8 s.events = u at hr hq
  have hg : ∀ i, getStream u i = getStream s i := fun i => by
    unfold getStream
    rw [hq]
  rw [hr, hq]
  obtain ⟨hsort, hall⟩ := resetAll_suspends (inUse_pairwise hs)
    (s := u) ⟨hq.symm ▸ hs, fun i hi hn => absurd (mem_inUse (m := s.streams) (hq ▸ hn)) hi⟩
  refine ⟨hsort, fun i hi => ?_⟩
  have h := hall i
  rw [if_pos (mem_inUse hi), hg] at h
  exact h

theorem resetWork_suspends {s : State} (hs : SmSorted s.streams) {i : Nat} (hi : (getStream s i).ctx.state ≠ 0) :
    Suspends (getStream s i) (getStream (resetWork s) i) := by
  obtain ⟨hsort, hall⟩ := resetStreams_suspends (s := { s with flt := { s.flt with fatal := false } }) hs
  exact (hall i hi).stays ((still_endAllWork _ hsort).2 i)

/-! ## WARM_RESET (R14, R57, R109, R222) -/

theorem getKnot_resetKnots (s : State) {k : Nat} (h : k < 4096) : getKnot (resetKnots s) k = resetKnotOf (getKnot s k) := by
  rw [← smGet_range {} (fun i => resetKnotOf (getKnot s i)) h]
  show smGet {} (resetKnots s).knots k = _
  dsimp only [resetKnots]
  rfl

theorem getStream_warmReset (s : State) (i : Nat) : getStream (warmReset s) i = getStream (resetWork s) i := by
  obtain ⟨p, o, l, m, po, f, lo, h⟩ := warmReset_only s
  obtain ⟨-, hs, -⟩ := resetCommon_frame s true
  unfold getStream
  rw [h]
  dsimp only
  rw [hs, (quiet_resetSlots (resetWork s)).1]

theorem getKnot_warmReset (s : State) {k : Nat} (hk : k < 4096) : getKnot (warmReset s) k = resetKnotOf (getKnot s k) := by
  obtain ⟨p, o, l, m, po, f, lo, h⟩ := warmReset_only s
  obtain ⟨-, -, hn, -⟩ := resetCommon_frame s true
  have hs : (resetSlots (resetWork s)).knots = s.knots := by simp
  have hg : getKnot (resetSlots (resetWork s)) k = getKnot s k := by
    unfold getKnot
    rw [hs]
  rw [← hg, ← getKnot_resetKnots _ hk]
  unfold getKnot
  rw [h]
  dsimp only
  rw [hn]

theorem warmReset_empties (s : State) :
    (warmReset s).rings = [] ∧ (warmReset s).vfEnable = false ∧ (warmReset s).conduits = [] ∧ (warmReset s).subs = [] ∧
    (warmReset s).knotOps = [] ∧ (warmReset s).knotWaits = [] := by
  obtain ⟨p, o, l, m, po, f, lo, h⟩ := warmReset_only s
  obtain ⟨-, -, -, -, -, hr, hv, hc, hs, ho, hw, -⟩ := resetCommon_frame s true
  rw [h]
  exact ⟨hr, hv, hc, hs, ho, hw⟩

theorem refreshDoms_frame (s : State) :
    (refreshDoms s).rings = s.rings ∧ (refreshDoms s).vfEnable = s.vfEnable ∧ (refreshDoms s).conduits = s.conduits ∧
    (refreshDoms s).subs = s.subs ∧ (refreshDoms s).knotOps = s.knotOps ∧ (refreshDoms s).knotWaits = s.knotWaits ∧
    (∀ k, getKnot (refreshDoms s) k = getKnot s k) ∧ ∀ i, getStream (refreshDoms s) i = getStream s i :=
  ⟨rfl, rfl, rfl, rfl, rfl, rfl, fun _ => rfl, fun _ => rfl⟩

theorem warmReset_resets {s : State} (ho : hostOn s = true) (hc : Canon {} s.streams) :
    ∃ t, exec .warmReset s = .next t ∧ t.rings = [] ∧ t.vfEnable = false ∧ t.conduits = [] ∧ t.subs = [] ∧ t.knotOps = [] ∧
      t.knotWaits = [] ∧ (∀ k, k < 4096 → (getKnot t k).value = 0 ∧ (getKnot t k).epoch = (getKnot s k).epoch + 1) ∧
      ∀ st, st < 16384 → (getStream s st).ctx.state = 1 →
        (getStream t st).ctx.state = 3 ∧ (getStream t st).ctx.gen = (getStream s st).ctx.gen + 1 ∧ (getStream t st).hold = [] := by
  obtain ⟨hr, hv, hcon, hs, hops, hw⟩ := warmReset_empties s
  obtain ⟨fr, fv, fcon, fs, fops, fw, fk, fst⟩ := refreshDoms_frame (warmReset s)
  refine ⟨refreshDoms (warmReset s), ?_, fr.trans hr, fv.trans hv, fcon.trans hcon, fs.trans hs, fops.trans hops, fw.trans hw,
    fun k hk => ?_, fun st _ h1 => ?_⟩
  · show execWarmReset s = _
    unfold execWarmReset
    rw [if_pos ho]
  · rw [fk, getKnot_warmReset s hk]
    exact ⟨rfl, rfl⟩
  · obtain ⟨hopen, -, hhold, -⟩ := resetWork_suspends (smWf_sorted hc) (i := st) (by rw [h1]; decide)
    obtain ⟨hstate, hgen⟩ := hopen (.inl h1)
    rw [fst, getStream_warmReset]
    exact ⟨hstate, hgen, hhold⟩

theorem warmReset_hostOff {s : State} (ho : hostOn s = false) : exec .warmReset s = .next { s with link := {} } := by
  show execWarmReset s = _
  unfold execWarmReset
  simp [ho]

/-- Settles O40: each reset by its lemma. -/
theorem deviceResets : Obligations.DeviceResets := by
  unfold Obligations.DeviceResets
  intro s
  refine ⟨fun ho hc _ => warmReset_resets ho hc, warmReset_hostOff, fun ho => ⟨perstAssert_resets ho, perstAssert_pending ho⟩,
    perstDeassert_leaves, perstDeassert_waits, powerOn_startsA, powerOn_tripped, fun hl hw => ⟨?_, ?_⟩⟩
  · exact ⟨_, rfl, coldReset_off (fun p => { p with tripped := false }) (fun _ => rfl) hl hw, rfl⟩
  · exact ⟨_, rfl, coldReset_off (fun p => { p with tripped := true }) (fun _ => rfl) hl hw, rfl⟩

end Sys2Proof.Machine
end

section
/-! PROOFS. The state after reset (R460, R466). -/

namespace Sys2Proof.Machine

theorem reset_ownsStream {st : Nat} (h : st < 16384) : ownsStream State.reset 0 st = true := by
  have he : protGet State.reset 0 st = 0x40 := by simp [protGet, protIn, protDefault, State.reset, h]
  unfold ownsStream
  rw [he]
  rfl

theorem reset_ownsKnot {k : Nat} (h : k < 4096) : ownsKnot State.reset 0 k = true := by
  have he : protGet State.reset 4 k = 0x40 := by simp [protGet, protIn, protDefault, State.reset, h]
  unfold ownsKnot
  rw [he]
  rfl

/-- The default of R460: the PF owns the ring pairs below 64, and no function the others. -/
theorem reset_ownsRing (p : Nat) : ownsRing State.reset 0 p = decide (p < 64) := by
  by_cases h : p < 64
  · have hall : ∀ q < 64, ownsRing State.reset 0 q = true := by decide
    simp [h, hall p h]
  · have he : protGet State.reset 1 p = 0 := by simp [protGet, protIn, protDefault, State.reset, h]
    unfold ownsRing
    rw [he]
    simp [h, validOwner, bitOf]

theorem reset_fnAbsent {f : Nat} (h : f ≠ 0) : fnPresent State.reset f = false := by simp [fnPresent, State.reset, h]

theorem reset_inForm : InForm State.reset :=
  ⟨⟨rfl, rfl, rfl, rfl, rfl, rfl, rfl, rfl⟩, ⟨rfl, rfl, rfl, rfl, rfl, rfl, rfl, rfl⟩, ⟨rfl, rfl, rfl, rfl, rfl, rfl, rfl⟩⟩

/-- Settles O59: the state after reset is one concrete state, and what it says of all keys follows from the defaults of R460. -/
theorem resetState : Obligations.ResetState := by
  unfold Obligations.ResetState
  refine ⟨rfl, rfl, rfl, fun _ => rfl, fun _ => rfl, fun n b => by cases b <;> rfl, fun _ => rfl, rfl, rfl, fun _ => rfl,
    fun _ => reset_fnAbsent, rfl, rfl, fun _ => reset_ownsStream, fun _ => reset_ownsKnot, fun p _ => reset_ownsRing p,
    ?_, ?_, ?_, ?_, ?_, ?_, ⟨reset_inForm.1.mem, reset_inForm.2.2.cores⟩, reset_inForm⟩
  all_goals decide

end Sys2Proof.Machine
end

section
/-! PROOFS. The clear registers: CLR_STREAMS on a list of streams that is not in its canonical form. -/

namespace Sys2Proof.Machine

/-- A reset state whose list of streams is out of order: stream 3 stands behind the default entry of stream 5, so that
it reads as CLOSED. -/
def disordered : State := { State.reset with streams := [(5, {}), (3, { ctx := { state := 1 } })] }

theorem disordered_reached : Reached disordered 0 := ⟨rfl, by decide, rfl, rfl, rfl⟩

theorem disordered_hides : getStream disordered 3 = {} := rfl

/-- CLR_STREAMS drops the default entry, and the entry behind it reads as an OPEN stream. -/
theorem disordered_cleared : exec .clrStreams disordered =
    .next { disordered with streams := [(3, { ctx := { state := 1 }, clrPending := true })] } := by
  show execClrStreams disordered = _
  unfold execClrStreams
  rw [disordered_reached.bar0]
  rfl

/-- Refutes O50: the clause on CLR_STREAMS speaks of every stream, and no hypothesis puts the list of streams in its
canonical form. In `disordered` stream 3 reads as CLOSED before the clear and as OPEN after it. -/
theorem not_clears : ¬ Obligations.Clears := by
  unfold Obligations.Clears
  intro h
  obtain ⟨hpf, -, -⟩ := h disordered 0 rfl rfl rfl rfl rfl
  obtain ⟨-, -, -, -, -, -, -, -, -, t, ht, -, hget⟩ := hpf disordered_reached
  rw [disordered_cleared] at ht
  injection ht with ht
  have h3 := hget 3
  rw [← ht, disordered_hides] at h3
  exact absurd h3 (by decide)

end Sys2Proof.Machine
end

section
/-! PROOFS. NOTIFY_WRITE on a list of streams that lists one stream twice. -/

namespace Sys2Proof.Machine

/-- A status record of stage 0. -/
def someRecord : Record :=
  { last := true, specf := false, seq := 0, gen := 0, stage := 0, tier := 0, status := 0, cls := 0, conf := 0, first := 0
    count := 0, stamp := 0, slot := 0, order := 0 }

/-- A device that may write the NQ of pair 0, and lists stream 3 twice: the first entry holds nothing but a status record
in its slot, the second one a record that waits for the slot. -/
def twiceListed : State :=
  { State.reset with
    fns := [(0, { bme := true })]
    link := { st := .l0 }
    rings := [(0, { enabled := true, nqLog2 := 4 })]
    streams := [(3, { slotRec := some someRecord }), (3, { slotWait := [someRecord] })] }

theorem twiceListed_runs : Runs twiceListed := ⟨rfl, by decide, by decide, rfl⟩

/-- Once its record is posted the first entry is the default and leaves the list; the second one then gives its waiting
record to the slot. -/
theorem twiceListed_fillsSlot : ∃ t, exec (.notifyWrite 3) twiceListed = .next t ∧ (getStream t 3).slotRec.isSome = true := by
  refine ⟨_, rfl, ?_⟩
  rw [hostLive_runs rfl (by decide) rfl]
  decide +kernel

/-- Refutes O19: no hypothesis puts the list of streams in its canonical form. In `twiceListed` the stream shows no record
that waits for the status slot, so that NOTIFY_WRITE ought to leave the slot empty, and it leaves one there. -/
theorem not_heldRecordsAreWritten : ¬ Obligations.HeldRecordsAreWritten := by
  unfold Obligations.HeldRecordsAreWritten
  intro h
  obtain ⟨-, -, -, hw⟩ := h twiceListed 3 0 twiceListed_runs ⟨rfl, rfl, rfl⟩ rfl rfl
  obtain ⟨t, ht, heq, -, -⟩ := hw someRecord true rfl (fun _ => rfl) rfl rfl rfl rfl (by decide) (by decide) (by decide)
  obtain ⟨u, hu, hslot⟩ := twiceListed_fillsSlot
  rw [hu] at ht
  injection ht with ht
  subst ht
  have hempty : (getStream u 3).slotRec = none :=
    (congrArg (fun v : State => (getStream v 3).slotRec) heq).trans rfl
  rw [hempty] at hslot
  exact absurd hslot (by decide)

end Sys2Proof.Machine
end

section
/-! PROOFS. DEFERRED_ACTION_RESUME on a stream whose latched result names another stream. -/

namespace Sys2Proof.Machine

/-- A decision that waits. -/
def someDecision : WaitDecision := { stamp := 0, conf := 0, cls := 0 }

/-- A device in which stream 3 has latched a result that names stream 5, whose stage 0 asks for reports. Every list is in
its canonical form. -/
def strayLatched : State :=
  { State.reset with
    streams :=
      [(3, { ctx := { state := 3 }, waiting := some someDecision
             latched := some { st := 5, gen := 0, stage := 0, stamp := 0, status := 0, cls := 0, conf := 0, slot := 0 } }),
       (5, { ctx := { state := 1, stages := [{ report := true }] } })] }

theorem strayLatched_runs : Runs strayLatched := ⟨rfl, by decide, by decide, rfl⟩

/-- The latched result is dropped before the decision is taken, and its report goes to the stream that it names. -/
theorem strayLatched_reports : ∃ t, exec (.deferredResume 3) strayLatched = .next t ∧ (getStream t 5).reports.length = 1 := by
  refine ⟨_, rfl, ?_⟩
  rw [live_runs strayLatched_runs]
  decide +kernel

/-- Refutes O26: nothing ties a latched result to the stream that holds it. In `strayLatched` the resume of stream 3 ought
to leave stream 5 as it is, and it posts a report there. -/
theorem not_stepsClose : ¬ Obligations.StepsClose := by
  unfold Obligations.StepsClose
  intro h
  obtain ⟨-, -, hresume⟩ := h
  obtain ⟨-, -, hwaits, -⟩ := hresume strayLatched 3 strayLatched_runs
  obtain ⟨⟨t, ht, -, hone, -⟩, -⟩ := hwaits someDecision rfl rfl
  obtain ⟨u, hu, hreport⟩ := strayLatched_reports
  rw [hu] at ht
  injection ht with ht
  subst ht
  rw [hone 5 (by decide)] at hreport
  exact absurd hreport (by decide)

end Sys2Proof.Machine
end

section
/-! PROOFS. SLOT_LOAD_COMPLETE on a list of slots that lists one slot twice. -/

namespace Sys2Proof.Machine

/-- A started descriptor of pair 0 with tag 0, and what its messages carry. -/
def loadDesc : Desc := { idx := 0, bytes := [], fn := 0, started := true }
def loadRef : DescRef := { pair := 0, rgen := 0, tag := 0, tgen := 0 }

/-- A device that lists slot 0 twice: the first entry holds nothing but a pending load of an image without a front-end, the
second one a version number. -/
def slotTwiceListed : State :=
  { State.reset with
    rings := [(0, { inflight := [loadDesc] })]
    slots := [(0, { load := some { ref := loadRef, image := some [] } }), (0, { verNo := 1 })] }

theorem slotTwiceListed_runs : Runs slotTwiceListed := ⟨rfl, by decide, by decide, rfl⟩

/-- The image is refused; the first entry, its load being over, is the default and leaves the list. -/
theorem slotTwiceListed_uncovers : ∃ t, exec (.slotLoadComplete 0) slotTwiceListed = .next t ∧ (getSlot t 0).verNo = 1 := by
  refine ⟨_, rfl, ?_⟩
  rw [live_runs slotTwiceListed_runs]
  decide +kernel

/-- Refutes O32: no hypothesis puts the list of slots in its canonical form. In `slotTwiceListed` the refused load ought to
leave slot 0 without a load and else as it was, with version number 0, and it leaves the number 1. -/
theorem not_slotLoads : ¬ Obligations.SlotLoads := by
  unfold Obligations.SlotLoads
  intro h
  obtain ⟨-, hcomplete⟩ := h
  obtain ⟨-, -, hactive, -⟩ := hcomplete slotTwiceListed 0 slotTwiceListed_runs
  obtain ⟨hrefused, -⟩ := hactive { ref := loadRef, image := some [] } [] loadDesc rfl rfl rfl rfl rfl
  obtain ⟨t, ht, hslot, -⟩ := hrefused stBad rfl
  obtain ⟨u, hu, hver⟩ := slotTwiceListed_uncovers
  rw [hu] at ht
  injection ht with ht
  subst ht
  exact absurd ((congrArg Slot.verNo hslot).symm.trans hver) (by decide)

end Sys2Proof.Machine
end

section
/-! PROOFS. The life of a descriptor: it starts (R86), its messages find it (R78), and it ends (R94). -/

namespace Sys2Proof.Machine

/-- Descriptor `d` of pair `p` is in flight and has not ended. -/
def Waiting (s : State) (p : PairId) (d : Desc) : Prop := d ∈ (getRing s p.toNat).inflight ∧ d.done = none

/-- The state once descriptor `d` of pair `p` has started. -/
def started (s : State) (p : PairId) (d : Desc) : State := modDesc s (refOf s p d) (fun d => { d with started := true })

/-- The pair once the descriptors that a message belongs to have changed. -/
def answered (r : Ring) (q : DescRef) (g : Desc → Desc) : Ring :=
  { r with inflight := r.inflight.map (fun d => if isRef r q d then g d else d) }

theorem mayStart_waiting {s : State} {p : PairId} {idx : Nat} {d : Desc} (h : mayStart (getRing s p.toNat) idx = some d) :
    Waiting s p d := by
  unfold mayStart nextStart at h
  cases hw : (getRing s p.toNat).inflight.dropWhile (fun d => d.started || d.done.isSome) with
  | nil => simp [hw] at h
  | cons e rest =>
    have hmem : e ∈ (getRing s p.toNat).inflight := (List.dropWhile_suffix _).subset (hw ▸ List.mem_cons_self ..)
    have hnot := List.head?_dropWhile_not (fun d : Desc => d.started || d.done.isSome) (getRing s p.toNat).inflight
    simp only [hw, List.head?_cons, Bool.or_eq_false_iff] at h hnot
    split at h
    · cases h
      exact ⟨hmem, by simpa using hnot.2⟩
    · cases h

theorem sameTag_self {d : Desc} (h : d.done = none) : sameTag d d = true := by simp [sameTag, bearsTag, h]

theorem isRef_refOf (s : State) (p : PairId) (r : Ring) (d e : Desc) :
    isRef r (refOf s p d) e = (r.rgen == (getRing s p.toNat).rgen && sameTag d e) := rfl

/-- A message that finds a descriptor belongs to those with its tag. -/
theorem isRef_of_found {s : State} {q : DescRef} {d : Desc} (h : findDesc s q = some d) (e : Desc) :
    isRef (getRing s q.pair.toNat) q e = sameTag d e := by
  have hd := List.find?_some h
  simp only [isRef, bearsTag, Bool.and_eq_true, beq_iff_eq] at hd
  obtain ⟨hgen, ⟨-, htag⟩, htgen⟩ := hd
  simp [isRef, sameTag, hgen, htag, htgen]

/-! ## Messages -/

theorem ring_ne_default {r : Ring} (h : r.inflight ≠ []) : r ≠ {} := fun he => h (he ▸ rfl)

theorem answered_ne_default {r : Ring} (h : r.inflight ≠ []) (q : DescRef) (g : Desc → Desc) : answered r q g ≠ {} :=
  ring_ne_default (by simpa [answered] using h)

theorem getRing_modDesc {s : State} {q : DescRef} (g : Desc → Desc) (h : (getRing s q.pair.toNat).inflight ≠ []) :
    getRing (modDesc s q g) q.pair.toNat = answered (getRing s q.pair.toNat) q g :=
  getRing_modRing s _ (fun r => answered r q g) (answered_ne_default h q g)

theorem getRing_modDesc_ne {s : State} {q : DescRef} {p : Nat} (g : Desc → Desc) (h : (getRing s q.pair.toNat).inflight ≠ [])
    (hp : p ≠ q.pair.toNat) : getRing (modDesc s q g) p = getRing s p :=
  getRing_modRing_ne s (fun r => answered r q g) (answered_ne_default h q g) hp

theorem getRing_of_rings {s t : State} (h : t.rings = s.rings) (p : Nat) : getRing t p = getRing s p := by unfold getRing; rw [h]

theorem answered_start {r : Ring} {q : DescRef} {d : Desc} (h : ∀ e, isRef r q e = sameTag d e) :
    answered r q (fun d => { d with started := true }) = startIn r d := by simp [answered, startIn, h]

theorem answered_end {r : Ring} {q : DescRef} {d : Desc} {c : Compl} (h : ∀ e, isRef r q e = sameTag d e) :
    answered r q (fun d => { d with started := true, done := some c }) = endIn r d c := by simp [answered, endIn, h]

/-! ## Starts -/

theorem begins_started {s : State} {p : PairId} {d : Desc} (h : Waiting s p d) : Begins s (started s p d) p d := by
  have hne : (getRing s (refOf s p d).pair.toNat).inflight ≠ [] := List.ne_nil_of_mem h.1
  have hsame : ∀ e, isRef (getRing s p.toNat) (refOf s p d) e = sameTag d e := fun e => by simp [isRef_refOf]
  exact ⟨(getRing_modDesc _ hne).trans (answered_start hsame), fun q hq => getRing_modDesc_ne _ hne hq⟩

/-- Steps that leave every ring pair keep what has begun. -/
theorem Begins.of_rings {s u t : State} {p : PairId} {d : Desc} (h : Begins s u p d) (hr : t.rings = u.rings) : Begins s t p d :=
  ⟨(getRing_of_rings hr _).trans h.1, fun q hq => (getRing_of_rings hr q).trans (h.2 q hq)⟩

/-- A started descriptor is found by its messages. -/
theorem Begins.found {s u : State} {p : PairId} {d : Desc} (h : Begins s u p d) (hw : Waiting s p d) :
    ∃ e, findDesc u (refOf s p d) = some e := by
  obtain ⟨hmem, hdone⟩ := hw
  apply Option.isSome_iff_exists.mp
  simp only [findDesc]
  rw [List.find?_isSome]
  refine ⟨{ d with started := true }, ?_, ?_⟩
  · show _ ∈ (getRing u p.toNat).inflight
    rw [h.1]
    exact List.mem_map.mpr ⟨d, hmem, by simp [sameTag_self hdone]⟩
  · show (getRing u p.toNat).rgen == (getRing s p.toNat).rgen && sameTag d d
    rw [h.1, sameTag_self hdone]
    simp [startIn]

/-- A descriptor that may start, and whose function still holds its rights, starts, and `g` runs. -/
theorem startDesc_starts {s : State} {p : PairId} {idx : U16} {op : Nat} {d : Desc} (h : Starts s p idx op d)
    (g : State → DescRef → Desc → State) : startDesc s p idx op g = g (started s p d) (refOf s p d) d := by
  obtain ⟨⟨-, -, -, hsound⟩, hmay, hop, hrights⟩ := h
  unfold startDesc
  simp only [hmay, hop, ne_eq, not_true_eq_false, if_false, useCtl_sound hsound, hrights]
  rfl

theorem Starts.waiting {s : State} {p : PairId} {idx : U16} {op : Nat} {d : Desc} (h : Starts s p idx op d) : Waiting s p d :=
  mayStart_waiting h.2.1

theorem startAwake_starts {s : State} {p : PairId} {idx : U16} {op o : Nat} {d : Desc} (h : Starts s p idx op d)
    (hm : memWaits s (leAt d.bytes o 8) = false) (g : State → DescRef → Desc → State) :
    startAwake s p idx op o g = g (started s p d) (refOf s p d) d := by
  unfold startAwake
  simp only [h.2.1, hm, Bool.false_eq_true, if_false]
  exact startDesc_starts h g

/-! ## Ends -/

theorem endIn_startIn (r : Ring) (d : Desc) (c : Compl) : endIn (startIn r d) d c = endIn r d c := by
  have hmap : ∀ e : Desc, (fun e => if sameTag d e then { e with started := true, done := some c } else e)
      (if sameTag d e then { e with started := true } else e) = if sameTag d e then { e with started := true, done := some c } else e := by
    intro e
    by_cases he : sameTag d e = true
    · simp [he, show sameTag d { e with started := true } = true from he]
    · simp [he]
  simp [endIn, startIn, Function.comp_def, hmap]

theorem finish_rings {s : State} {q : DescRef} {d : Desc} (c : Compl) (h : findDesc s q = some d) :
    (finish s q c).rings = (modDesc s q (fun d => { d with started := true, done := some c })).rings := by
  rw [finish_eq c h]
  simp

/-- The end of a descriptor that its message finds: its pair is `r` but for the end, and the other pairs are as they were. -/
theorem finish_goes {u : State} {q : DescRef} {e d : Desc} (c : Compl) (h : findDesc u q = some e)
    (hq : ∀ x, isRef (getRing u q.pair.toNat) q x = sameTag d x) :
    getRing (finish u q c) q.pair.toNat = endIn (getRing u q.pair.toNat) d c ∧
      ∀ p, p ≠ q.pair.toNat → getRing (finish u q c) p = getRing u p := by
  have hne : (getRing u q.pair.toNat).inflight ≠ [] := List.ne_nil_of_mem (List.mem_of_find?_eq_some h)
  have hr := finish_rings c h
  refine ⟨?_, fun p hp => ?_⟩
  · rw [getRing_of_rings hr, getRing_modDesc _ hne, answered_end hq]
  · rw [getRing_of_rings hr, getRing_modDesc_ne _ hne hp]

/-- The end of a descriptor that has begun. -/
theorem ends_begun {s u : State} {p : PairId} {d : Desc} (hw : Waiting s p d) (hb : Begins s u p d) (c : Compl) :
    Ends s (finish u (refOf s p d) c) p d c := by
  obtain ⟨e, he⟩ := hb.found hw
  have hrgen : (getRing u p.toNat).rgen = (getRing s p.toNat).rgen := by rw [hb.1]; rfl
  obtain ⟨hsame, hother⟩ := finish_goes (d := d) c he (fun x => by
    rw [isRef_refOf]
    show ((getRing u p.toNat).rgen == _ && _) = _
    simp [hrgen])
  refine ⟨hsame.trans ?_, fun q hq => (hother q hq).trans (hb.2 q hq)⟩
  show endIn (getRing u p.toNat) d c = _
  rw [hb.1, endIn_startIn]

/-- The end of a descriptor found in a state with the same ring pairs. -/
theorem ends_found {s u : State} {q : DescRef} {d : Desc} (h : findDesc s q = some d) (hr : u.rings = s.rings) (c : Compl) :
    Ends s (finish u q c) q.pair d c := by
  have hg := getRing_of_rings hr
  have hu : findDesc u q = some d := by unfold findDesc at h ⊢; rw [hg]; exact h
  obtain ⟨hsame, hother⟩ := finish_goes (d := d) c hu (isRef_of_found hu)
  exact ⟨hsame.trans (by rw [hg]), fun p hp => (hother p hp).trans (hg p)⟩

/-- What an end can change beside its ring pair: the counts of its function and of the fault manager. -/
theorem finish_only (s : State) (q : DescRef) (c : Compl) :
    finish s q c = { s with rings := (finish s q c).rings, fns := (finish s q c).fns, ctrs := (finish s q c).ctrs } := by
  unfold finish
  split
  · unfold dropStale
    split <;> rfl
  · unfold countStatus
    repeat' split
    all_goals rfl

/-- An end that is found leaves the counters, but for a stale one. -/
theorem finish_ctrs {s : State} {q : DescRef} {d : Desc} {c : Compl} (h : findDesc s q = some d) (hc : c.status ≠ 2) :
    (finish s q c).ctrs = s.ctrs := by
  have h2 : c.status.toNat ≠ stStale := fun h => hc (BitVec.eq_of_toNat_eq h)
  rw [finish_eq c h]
  unfold countStatus
  split
  · rfl
  · split
    · rfl
    · rfl

/-- An end with OK that is found counts nothing. -/
theorem finish_ok {s : State} {q : DescRef} {d : Desc} {c : Compl} (h : findDesc s q = some d) (hc : c.status = 0) :
    finish s q c = { s with rings := (finish s q c).rings } := by
  rw [finish_eq c h, hc]
  rfl

end Sys2Proof.Machine
end

section
/-! PROOFS. Accesses to memory without poison and without errors. -/

namespace Sys2Proof.Machine

theorem memOps_only (s : State) (sp off n : Nat) : ∃ w, memOps s sp off n = { s with flt := { s.flt with wins := w } } := by
  unfold memOps
  split
  · exact ⟨s.flt.wins, rfl⟩
  · exact ⟨_, rfl⟩

theorem cntRd_only (s : State) (sp n : Nat) : ∃ c, cntRd s sp n = { s with ctrs := c } := by
  unfold cntRd
  split
  · exact ⟨_, rfl⟩
  · split <;> exact ⟨_, rfl⟩

theorem cntWr_only (s : State) (sp n : Nat) : ∃ c, cntWr s sp n = { s with ctrs := c } := by
  unfold cntWr
  split
  · exact ⟨_, rfl⟩
  · split <;> exact ⟨_, rfl⟩

/-- A read without errors only counts. -/
theorem memRd_clean {s : State} (h : s.flaws = []) (sp off n : Nat) :
    ∃ c w, (memRd s sp off n).2 = { s with ctrs := c, flt := { s.flt with wins := w } } := by
  obtain ⟨w, hw⟩ := memOps_only s sp off n
  obtain ⟨c, hc⟩ := cntRd_only { s with flt := { s.flt with wins := w } } sp n
  have he : eccRead s (mkey sp off) n false = s := by simp [eccRead, h]
  refine ⟨c, w, ?_⟩
  show cntRd (memOps (eccRead s (mkey sp off) n false) sp off n) sp n = _
  rw [he, hw]
  exact hc

/-- A write without poison and errors puts bytes into memory, and counts. -/
theorem memWr_clean {s : State} (h : Clean s) (sp off : Nat) (bs : Bytes) :
    ∃ m c w, memWr s sp off bs = { s with mem := m, ctrs := c, flt := { s.flt with wins := w } } := by
  obtain ⟨hp, hf, hr⟩ := h
  have hpoke : pokeEcc s (mkey sp off) bs = { s with mem := (pokeEcc s (mkey sp off) bs).mem } := by
    rw [pokeEcc_plain (by simp [hr]), poke_eq]
    simp [clearPoison, clearFlaws, hp, hf]
  unfold memWr
  rw [hpoke]
  obtain ⟨w, hw⟩ := memOps_only { s with mem := (pokeEcc s (mkey sp off) bs).mem } sp off bs.length
  rw [hw]
  obtain ⟨c, hc⟩ := cntWr_only { s with mem := (pokeEcc s (mkey sp off) bs).mem, flt := { s.flt with wins := w } } sp bs.length
  exact ⟨_, c, w, hc⟩

theorem firstPoison_clean {s : State} (h : Clean s) (k n : Nat) : firstPoison s k n = none := by
  obtain ⟨hp, hf, hr⟩ := h
  simp [firstPoison, hp, hf, hr]

@[simp] theorem natLE_length (n v : Nat) : (natLE n v).length = n := by
  induction n generalizing v with
  | zero => rfl
  | succ n ih => simp [natLE, ih]

@[simp] theorem stageBytes_length (e : StageEntry) : (stageBytes e).length = 12 := by simp [stageBytes]

@[simp] theorem ctxBytes_length (c : StreamCtx) : (ctxBytes c).length = 128 := by
  simp [ctxBytes, List.length_flatMap]

end Sys2Proof.Machine
end

section
/-! PROOFS. STREAM_STATUS (R59). -/

namespace Sys2Proof.Machine

/-- What a STREAM_STATUS that may start does with its descriptor. -/
theorem streamStatus_starts {s : State} {p : PairId} {idx : U16} {d : Desc} {sp off : Nat} (h : Starts s p idx opStreamStatus d)
    (ha : addrOf (leAt d.bytes 16 8) = some (sp, off)) (hm : memWaits s (leAt d.bytes 16 8) = false) :
    exec (.streamStatus p idx) s = .next (
      let c := (getStream s (descStream d.bytes)).ctx
      let q := refOf s p d
      if off % 128 ≠ 0 then finish (started s p d) q (plain stBad)
      else if descSgen d.bytes ≠ c.gen.toNat then finish (started s p d) q (plain stStale)
      else if dramFails s sp then finish (started s p d) q (plain stUncorr)
      else finish (memWr (started s p d) sp off (ctxBytes (snapshotOf c))) q (plain stOk)) := by
  show execStreamStatus p idx s = _
  unfold execStreamStatus
  rw [live_runs h.1, startAwake_starts h hm]
  simp only [ha]
  rfl

/-- A STREAM_STATUS that is refused only ends. -/
theorem streamStatus_refused {s : State} {p : PairId} {d : Desc} (h : Waiting s p d) (st : Nat) :
    let t := finish (started s p d) (refOf s p d) (plain st)
    Ends s t p d (plain st) ∧ t = { s with rings := t.rings, fns := t.fns, ctrs := t.ctrs } ∧
      (BitVec.ofNat 8 st ≠ 2 → t = { s with rings := t.rings, fns := t.fns }) := by
  have hb := begins_started h
  obtain ⟨e, he⟩ := hb.found h
  have honly := finish_only (started s p d) (refOf s p d) (plain st)
  refine ⟨ends_begun h hb _, honly, fun h2 => ?_⟩
  have hc := finish_ctrs (c := plain st) he h2
  rw [hc] at honly
  exact honly

/-- The context goes to its destination, and to no other byte. -/
theorem streamStatus_stores {s : State} {p : PairId} {d : Desc} (h : Waiting s p d) (hc : Clean s) (hw : Memory.wf s = true)
    (sp off : Nat) {bs : Bytes} (hbs : bs.length = 128) :
    let t := finish (memWr (started s p d) sp off bs) (refOf s p d) (plain stOk)
    Ends s t p d (plain stOk) ∧ peek t (mkey sp off) 128 = bs ∧ KeepsOutside s t (mkey sp off) 128 ∧ Memory.wf t = true ∧
      t = { s with mem := t.mem, rings := t.rings, ctrs := t.ctrs, flt := { s.flt with wins := t.flt.wins } } := by
  intro t
  have hret : (started s p d).flt.dramRet.isEmpty = true := by show s.flt.dramRet.isEmpty = true; simp [hc.2.2]
  have hb : Begins s (memWr (started s p d) sp off bs) p d := (begins_started h).of_rings (by simp)
  obtain ⟨e, he⟩ := hb.found h
  obtain ⟨m, c, w, hwr⟩ := memWr_clean (s := started s p d) hc sp off bs
  have hok : t = { memWr (started s p d) sp off bs with rings := t.rings } := finish_ok (c := plain stOk) he rfl
  have hmem : t.mem = (memWr (started s p d) sp off bs).mem := by rw [hok]
  have hlost : t.lost = (memWr (started s p d) sp off bs).lost := by rw [hok]
  refine ⟨ends_begun h hb _, ?_, fun a ha => ?_, ?_, ?_⟩
  · rw [peek_of_mem hmem hlost, ← hbs]
    exact peek_memWr sp off bs hw hret
  · rw [peek1_of_mem hmem hlost]
    exact peek1_memWr_out (s := started s p d) hw hret (by rwa [hbs])
  · rw [wf_of_mem hmem hlost]
    exact wf_memWr sp off bs hw
  · rw [hwr] at hok
    rw [hok]
    rfl

/-- Settles O24: the status that the checks lead to, and the store where they all hold. -/
theorem streamStatusStores : Obligations.StreamStatusStores := by
  unfold Obligations.StreamStatusStores
  intro s p idx d sp off hstart haddr hmem hclean hwf c
  have hexec := streamStatus_starts hstart haddr hmem
  refine ⟨fun ho hg hf => ?_, fun ho => ?_, fun ho hg => ?_⟩
  · obtain ⟨hends, hpeek, hout, hwf', heq⟩ := streamStatus_stores hstart.waiting hclean hwf sp off (ctxBytes_length (snapshotOf c))
    refine ⟨_, ?_, hends, hpeek, hout, hwf', heq⟩
    rw [hexec]
    simp [ho, hg, hf, c]
  · obtain ⟨hends, -, heq⟩ := streamStatus_refused hstart.waiting stBad
    refine ⟨_, ?_, hends, heq (by decide)⟩
    rw [hexec]
    simp [ho]
  · obtain ⟨hends, heq, -⟩ := streamStatus_refused hstart.waiting stStale
    refine ⟨_, ?_, hends, heq⟩
    rw [hexec]
    simp [ho, show ¬ descSgen d.bytes = (getStream s (descStream d.bytes)).ctx.gen.toNat from hg]

end Sys2Proof.Machine
end

section
/-! PROOFS. One stream's work: what an operation makes of its stream, the other streams being as they were. -/

namespace Sys2Proof.Machine

/-- Stream `st` of `t` is `y`, and the other streams are those of `s`. -/
def StreamIs (s t : State) (st : Nat) (y : Stream) : Prop := getStream t st = y ∧ OneStream s t st

theorem StreamIs.refl (s : State) (st : Nat) : StreamIs s s st (getStream s st) := ⟨rfl, fun _ _ => rfl⟩

theorem stream_ne_of_state {x : Stream} (h : x.ctx.state ≠ 0) : x ≠ {} := fun he => h (he ▸ rfl)

theorem stream_ne_of_hold {x : Stream} (h : x.hold ≠ []) : x ≠ {} := fun he => h (he ▸ rfl)

theorem stream_ne_of_reports {x : Stream} (h : x.reports ≠ []) : x ≠ {} := fun he => h (he ▸ rfl)

theorem getStream_of_streams {s t : State} (h : t.streams = s.streams) (i : Nat) : getStream t i = getStream s i := by
  unfold getStream; rw [h]

theorem StreamIs.of_streams {s t u : State} {st : Nat} {y : Stream} (h : StreamIs s t st y) (hu : u.streams = t.streams) :
    StreamIs s u st y :=
  ⟨(getStream_of_streams hu st).trans h.1, fun q hq => (getStream_of_streams hu q).trans (h.2 q hq)⟩

/-- An update of the stream to something other than the default. -/
theorem StreamIs.upd {s t u : State} {st : Nat} {y : Stream} {g : Stream → Stream} (h : StreamIs s t st y)
    (hu : u.streams = smUpd {} t.streams st g) (hne : g y ≠ {}) : StreamIs s u st (g y) := by
  obtain ⟨rfl, hother⟩ := h
  refine ⟨?_, fun q hq => ?_⟩
  · exact (getStream_of_streams (t := u) (s := modStream t st g) hu st).trans (getStream_modStream t st g hne)
  · exact (getStream_of_streams (t := u) (s := modStream t st g) hu q).trans
      ((getStream_modStream_ne t g hne hq).trans (hother q hq))

theorem StreamIs.mod {s t : State} {st : Nat} {y : Stream} (h : StreamIs s t st y) (g : Stream → Stream) (hne : g y ≠ {}) :
    StreamIs s (modStream t st g) st (g y) := h.upd rfl hne

/-! ## Records and reports -/

/-- The record that a notification leaves in the hold. -/
def noteOf (x : Stream) (k : Nat) (stamp : Stamp) (conf : U8) (cls : U16) (status : Nat) : Record :=
  { mkRecord x k stamp conf cls status with second := match x.hold with | h :: _ => !h.second | [] => false }

/-- A stream with one more record held. -/
def withNote (k : Nat) (stamp : Stamp) (conf : U8) (cls : U16) (status : Nat) (x : Stream) : Stream :=
  { x with hold := x.hold ++ [noteOf x k stamp conf cls status], seq := x.seq + 1, recOrder := x.recOrder + 1 }

/-- A report as the hold has it. -/
def heldReport (r : Report) (x : Stream) : Report :=
  { r with second := match x.reports with | h :: _ => !h.second | [] => false }

/-- A stream with one more report held. -/
def withReport (r : Report) (x : Stream) : Stream := { x with reports := x.reports ++ [heldReport r x] }

theorem notify_streams (s : State) (st k : Nat) (stamp : Stamp) (conf : U8) (cls : U16) (status : Nat) :
    (notify s st k stamp conf cls status).streams = smUpd {} s.streams st (withNote k stamp conf cls status) := by
  simp [notify, writeRecordSpace]
  rfl

theorem postReport_streams (s : State) (st : Nat) (r : Report) :
    (postReport s st r).streams = smUpd {} s.streams st (withReport r) := by
  simp [postReport, writeRecordSpace]
  rfl

theorem StreamIs.notify {s t : State} {st : Nat} {y : Stream} (h : StreamIs s t st y) (k : Nat) (stamp : Stamp) (conf : U8)
    (cls : U16) (status : Nat) : StreamIs s (notify t st k stamp conf cls status) st (withNote k stamp conf cls status y) :=
  h.upd (notify_streams ..) (stream_ne_of_hold (by simp [withNote]))

theorem StreamIs.postReport {s t : State} {st : Nat} {y : Stream} (h : StreamIs s t st y) (r : Report) :
    StreamIs s (postReport t st r) st (withReport r y) :=
  h.upd (postReport_streams ..) (stream_ne_of_reports (by simp [withReport]))

@[simp] theorem notify_results (s : State) (st k : Nat) (stamp : Stamp) (conf : U8) (cls : U16) (status : Nat) :
    (notify s st k stamp conf cls status).results = s.results := by simp [notify, writeRecordSpace]

@[simp] theorem postReport_results (s : State) (st : Nat) (r : Report) : (postReport s st r).results = s.results := by
  simp [postReport, writeRecordSpace]

/-! ## The end of an episode -/

/-- A stream whose episode has ended (R33). -/
def atRest (x : Stream) : Stream :=
  { x with job := none, held := none, latched := none,
           ctx := { x.ctx with ep := 0, armed := decide ((stageOf x.ctx 0).holdCount.toNat ≤ x.ctx.holdRun.toNat) } }

theorem endEpisode_streams (s : State) (st : Nat) : (endEpisode s st).streams = smUpd {} s.streams st atRest := by
  unfold endEpisode
  dsimp only
  split
  · split
    · rfl
    · simp [closeEpisode]
      rfl
  · rfl

theorem StreamIs.endEpisode {s t : State} {st : Nat} {y : Stream} (h : StreamIs s t st y) (hs : y.ctx.state ≠ 0) :
    StreamIs s (endEpisode t st) st (atRest y) :=
  h.upd (endEpisode_streams ..) (stream_ne_of_state hs)

@[simp] theorem endEpisode_results (s : State) (st : Nat) : (endEpisode s st).results = s.results := by
  unfold endEpisode
  dsimp only
  split
  · split <;> simp [closeEpisode]
  · simp [closeEpisode]

/-! ## Moves -/

theorem moveIfIdle_of_state {s : State} {st : Nat} (h3 : (getStream s st).ctx.state ≠ 3) (h4 : (getStream s st).ctx.state ≠ 4) :
    moveIfIdle s st = s := if_neg (fun h => h.1.elim h3 h4)

theorem moveIfIdle_of_toMove {s : State} {st : Nat} (h : toMove s st = false) : moveIfIdle s st = s := by simp [moveIfIdle, h]

theorem toMove_of_insts {s t : State} (hi : t.insts = s.insts) (hl : t.slots = s.slots) (st : Nat) : toMove t st = toMove s st := by
  unfold toMove getInst getSlot
  rw [hi, hl]

end Sys2Proof.Machine
end

section
/-! PROOFS. O28: a result reaches the sequencer (R31, R36). -/

namespace Sys2Proof.Machine

/-- The state once the `k`-th result in flight has been taken. -/
def resultTaken (s : State) (k : Nat) : State := hopPass { s with results := s.results.eraseIdx k }

theorem resultTaken_streams (s : State) (k : Nat) : (resultTaken s k).streams = s.streams := by
  simp [resultTaken]

theorem getStream_resultTaken (s : State) (k i : Nat) : getStream (resultTaken s k) i = getStream s i :=
  getStream_of_streams (resultTaken_streams s k) i

theorem streamIs_resultTaken (s : State) (k st : Nat) : StreamIs s (resultTaken s k) st (getStream s st) :=
  (StreamIs.refl s st).of_streams (resultTaken_streams s k)

theorem toMove_resultTaken (s : State) (k st : Nat) : toMove (resultTaken s k) st = toMove s st :=
  toMove_of_insts (by unfold resultTaken hopPass; split <;> rfl) (by unfold resultTaken hopPass; split <;> rfl) st

theorem exec_onResult {s : State} {k : Nat} {r : CascResult} (hruns : Runs s) (h : s.results[k]? = some r) :
    exec (.onResult k) s = .next (moveIfIdle (arriveResult (resultTaken s k) r) r.st.toNat) := by
  show execOnResult k s = _
  unfold execOnResult
  rw [live_runs hruns]
  simp only [getNth, h]
  rfl

/-- A stream that acts on results is OPEN, or CLOSING. -/
theorem acceptable_state {x : Stream} {r : CascResult} (h : acceptable x r = true) : x.ctx.state = 1 ∨ x.ctx.state = 2 := by
  simp only [acceptable, Bool.and_eq_true, Bool.or_eq_true, beq_iff_eq] at h
  obtain ⟨⟨⟨⟨⟨⟨hst | ⟨hst, -⟩, -⟩, -⟩, -⟩, -⟩, -⟩, -⟩ := h
  · exact .inl hst
  · exact .inr hst

/-- A stream that is OPEN or CLOSING does not move with a result. -/
theorem moveIfIdle_active {s : State} {st : Nat} {y : Stream} (h : getStream s st = y) (hs : y.ctx.state = 1 ∨ y.ctx.state = 2) :
    moveIfIdle s st = s := by
  subst h
  apply moveIfIdle_of_state <;> rcases hs with hs | hs <;> simp [hs]

section
variable {s : State} {k : Nat} {r : CascResult}

/-- A result that is acted on, and whose records fit, makes of the state what `tryResult` says. -/
theorem exec_onResult_acts {t : State} {y : Stream} (hruns : Runs s) (h : s.results[k]? = some r)
    (hacc : acceptable (getStream s r.st.toNat) r = true) (ht : tryResult (resultTaken s k) r.st.toNat r = some t)
    (hy : StreamIs s t r.st.toNat y) (hs : y.ctx.state = (getStream s r.st.toNat).ctx.state) : exec (.onResult k) s = .next t := by
  rw [exec_onResult hruns h]
  unfold arriveResult
  simp only [getStream_resultTaken, hacc, if_true, ht]
  rw [moveIfIdle_active hy.1 (hs ▸ acceptable_state hacc)]

/-- A result of a stream that is speculative is held. -/
theorem onResult_held (hruns : Runs s) (h : s.results[k]? = some r) (hacc : acceptable (getStream s r.st.toNat) r = true)
    (hep : (getStream s r.st.toNat).ctx.ep = 1) :
    ∃ t, exec (.onResult k) s = .next t ∧ t = { resultTaken s k with streams := t.streams } ∧ OneStream s t r.st.toNat ∧
      getStream t r.st.toNat = { getStream s r.st.toNat with held := some r, ctx := { (getStream s r.st.toNat).ctx with ep := 2 } } := by
  have hy := (streamIs_resultTaken s k r.st.toNat).mod (fun x => { x with held := some r, ctx := { x.ctx with ep := 2 } })
    (fun he => by cases congrArg Stream.held he)
  exact ⟨_, exec_onResult_acts hruns h hacc (by simp only [tryResult, getStream_resultTaken, hep, if_true]) hy rfl, rfl, hy.2, hy.1⟩

/-- What the report of a result acted on makes of the stream. -/
def withOwnReport (r : CascResult) (x : Stream) : Stream :=
  if (stageOf x.ctx r.stage.toNat).report then
    withReport (mkReport r.gen r.stage.toNat (stageOf x.ctx r.stage.toNat) r.spec r.stamp r.status.toNat r.cls r.conf) x
  else x

/-- The report goes with the result (R38). -/
def ownReport (s : State) (st k : Nat) (r : CascResult) : State :=
  if (stageOf (getStream s st).ctx k).report then
    postReport s st (mkReport r.gen k (stageOf (getStream s st).ctx k) r.spec r.stamp r.status.toNat r.cls r.conf)
  else s

theorem ownReport_results (s : State) (st k : Nat) (r : CascResult) : (ownReport s st k r).results = s.results := by
  unfold ownReport; split <;> simp

theorem streamIs_ownReport {s t : State} {st : Nat} {y : Stream} (h : StreamIs s t st y) (r : CascResult) :
    StreamIs s (ownReport t st r.stage.toNat r) st (withOwnReport r y) := by
  unfold ownReport withOwnReport
  rw [h.1]
  split
  · exact h.postReport _
  · exact h

@[simp] theorem withOwnReport_ctx (r : CascResult) (x : Stream) : (withOwnReport r x).ctx = x.ctx := by
  unfold withOwnReport; split <;> rfl
@[simp] theorem withOwnReport_hold (r : CascResult) (x : Stream) : (withOwnReport r x).hold = x.hold := by
  unfold withOwnReport; split <;> rfl
@[simp] theorem withOwnReport_seq (r : CascResult) (x : Stream) : (withOwnReport r x).seq = x.seq := by
  unfold withOwnReport; split <;> rfl

/-- A result of status 0 of the last stage at WAKE or more, the checks holding. -/
theorem resAct_last {c : StreamCtx} (hst : r.status = 0) (hw : wakeOk (stageOf c r.stage.toNat) = true)
    (hh : holdCountOk (stageOf c 0) = true) (hconf : (stageOf c r.stage.toNat).wake ≤ r.conf)
    (hl : r.stage.toNat + 1 = c.nstage.toNat) : resAct c r.stage.toNat r = .last := by
  have hnot : ¬ r.conf < (stageOf c r.stage.toNat).wake := BitVec.not_lt.mpr hconf
  simp [resAct, hst, hw, hh, hnot, hl]

/-- A result of status 0 below WAKE, the checks holding. -/
theorem resAct_reject {c : StreamCtx} (hst : r.status = 0) (hw : wakeOk (stageOf c r.stage.toNat) = true)
    (hh : holdCountOk (stageOf c 0) = true) (hconf : r.conf < (stageOf c r.stage.toNat).wake) :
    resAct c r.stage.toNat r = .reject := by
  simp [resAct, hst, hw, hh, hconf]

/-- A result whose records fit is acted on. -/
theorem tryResult_fits {st : Nat} (hep : (getStream s st).ctx.ep ≠ 1)
    (hfit : recordsFit (getStream s st) (resNotes (getStream s st).ctx r.stage.toNat (resAct (getStream s st).ctx r.stage.toNat r))
      (b2n (stageOf (getStream s st).ctx r.stage.toNat).report) = true) :
    tryResult s st r = some (actResult s st r.stage.toNat r) := by
  simp only [tryResult, hep, if_false, hfit, if_true]

/-- The last stage's result is notified, and the episode is over. -/
theorem onResult_last (hruns : Runs s) (h : s.results[k]? = some r) (hacc : acceptable (getStream s r.st.toNat) r = true)
    (hep : (getStream s r.st.toNat).ctx.ep ≠ 1) (hact : resAct (getStream s r.st.toNat).ctx r.stage.toNat r = .last)
    (hl : r.stage.toNat + 1 = (getStream s r.st.toNat).ctx.nstage.toNat)
    (hhold : (getStream s r.st.toNat).hold.length < 2)
    (hrep : (getStream s r.st.toNat).reports.length + b2n (stageOf (getStream s r.st.toNat).ctx r.stage.toNat).report ≤ 2) :
    ∃ t n, exec (.onResult k) s = .next t ∧ t.results = (resultTaken s k).results ∧ OneStream s t r.st.toNat ∧
      let x := getStream s r.st.toNat
      let y := getStream t r.st.toNat
      y.ctx.ep = 0 ∧ y.job = none ∧ y.hold = x.hold ++ [n] ∧ n.stage = r.stage ∧ n.conf = r.conf ∧ n.cls = r.cls ∧
        n.stamp = r.stamp ∧ n.status = 0 ∧ n.last = true ∧ n.seq = x.seq ∧ y.seq = x.seq + 1 := by
  have hstate : (getStream s r.st.toNat).ctx.state ≠ 0 := by rcases acceptable_state hacc with h | h <;> simp [h]
  have hy := ((streamIs_ownReport (streamIs_resultTaken s k r.st.toNat) r).notify r.stage.toNat r.stamp r.conf r.cls stOk).endEpisode
    (by simpa [withNote] using hstate)
  refine ⟨_, noteOf (withOwnReport r (getStream s r.st.toNat)) r.stage.toNat r.stamp r.conf r.cls stOk,
    exec_onResult_acts hruns h hacc ?_ hy ?_, ?_, hy.2, ?_⟩
  · rw [tryResult_fits (by simpa [getStream_resultTaken] using hep)
      (by simp [getStream_resultTaken, hact, recordsFit, resNotes, hrep]; omega)]
    simp only [actResult, getStream_resultTaken, hact, ownReport]
  · simp [atRest, withNote]
  · simp [ownReport_results]
  · rw [hy.1]
    simp [atRest, withNote, noteOf, mkRecord, hl, stOk]

/-- A result below WAKE ends the episode without a notification. -/
theorem onResult_reject (hruns : Runs s) (h : s.results[k]? = some r) (hacc : acceptable (getStream s r.st.toNat) r = true)
    (hep : (getStream s r.st.toNat).ctx.ep ≠ 1) (hact : resAct (getStream s r.st.toNat).ctx r.stage.toNat r = .reject)
    (hhold : (getStream s r.st.toNat).hold.length ≤ 2)
    (hrep : (getStream s r.st.toNat).reports.length + b2n (stageOf (getStream s r.st.toNat).ctx r.stage.toNat).report ≤ 2) :
    ∃ t, exec (.onResult k) s = .next t ∧ t.results = (resultTaken s k).results ∧ OneStream s t r.st.toNat ∧
      let x := getStream s r.st.toNat
      let y := getStream t r.st.toNat
      y.ctx.ep = 0 ∧ y.job = none ∧ y.hold = x.hold ∧ y.seq = x.seq := by
  have hstate : (getStream s r.st.toNat).ctx.state ≠ 0 := by rcases acceptable_state hacc with h | h <;> simp [h]
  have hy := ((streamIs_ownReport (streamIs_resultTaken s k r.st.toNat) r).of_streams (u := c64 _ 0x08030 1) rfl).endEpisode
    (by simpa using hstate)
  refine ⟨_, exec_onResult_acts hruns h hacc ?_ hy ?_, ?_, hy.2, ?_⟩
  · rw [tryResult_fits (by simpa [getStream_resultTaken] using hep)
      (by simp [getStream_resultTaken, hact, recordsFit, resNotes, hrep, hhold])]
    simp only [actResult, getStream_resultTaken, hact, ownReport]
  · simp [atRest]
  · simp [ownReport_results]
  · rw [hy.1]
    simp [atRest]

/-- A result whose notification does not fit is latched, and counted (R46). -/
theorem onResult_latched (hruns : Runs s) (h : s.results[k]? = some r) (hacc : acceptable (getStream s r.st.toNat) r = true)
    (hep : (getStream s r.st.toNat).ctx.ep ≠ 1) (hact : resAct (getStream s r.st.toNat).ctx r.stage.toNat r = .last)
    (hhold : 2 ≤ (getStream s r.st.toNat).hold.length) :
    exec (.onResult k) s = .next (modStream (c32 (resultTaken s k) 0x0804C 1) r.st.toNat (fun x => { x with latched := some r })) := by
  have hnot : recordsFit (getStream s r.st.toNat) 1 (b2n (stageOf (getStream s r.st.toNat).ctx r.stage.toNat).report) = false := by
    simp [recordsFit]; omega
  have hy := ((streamIs_resultTaken s k r.st.toNat).of_streams (u := c32 (resultTaken s k) 0x0804C 1) rfl).mod
    (fun x => { x with latched := some r }) (fun he => by cases congrArg Stream.latched he)
  rw [exec_onResult hruns h]
  simp only [arriveResult, tryResult, getStream_resultTaken, hacc, if_true, hep, if_false, hact, resNotes, hnot, Bool.false_eq_true]
  rw [moveIfIdle_active hy.1 (acceptable_state hacc)]

/-- A stale result of a stream with no job is dropped, with the report that it owes. -/
theorem dropResult_stale {u : State} (hjob : (getStream u r.st.toNat).job = none) (hro : r.reportOnly = false)
    (hroom : (stageOf (getStream u r.st.toNat).ctx r.stage.toNat).report = true → (getStream u r.st.toNat).ctx.state ≠ 0 →
      (getStream u r.st.toNat).reports.length < 2) :
    dropResult u r =
      if (stageOf (getStream u r.st.toNat).ctx r.stage.toNat).report && (getStream u r.st.toNat).ctx.state != 0 then
        postReport (fltStale (c64 u 0x08040 1) 1) r.st.toNat (reportOf (stageOf (getStream u r.st.toNat).ctx r.stage.toNat) r)
      else fltStale (c64 u 0x08040 1) 1 := by
  unfold dropResult
  by_cases howes : (stageOf (getStream u r.st.toNat).ctx r.stage.toNat).report = true ∧ (getStream u r.st.toNat).ctx.state ≠ 0
  · have hlt := hroom howes.1 howes.2
    simp [howes, reportRoom, hlt, hjob, hro, unsettled]
  · have hf : ((stageOf (getStream u r.st.toNat).ctx r.stage.toNat).report && (getStream u r.st.toNat).ctx.state != 0) = false := by
      simpa using howes
    simp only [hf, Bool.false_and, Bool.not_false, Bool.false_eq_true, if_false, hro, hjob, if_true]

/-- A stale result without a report only counts. -/
theorem onResult_stale (hruns : Runs s) (h : s.results[k]? = some r) (hacc : acceptable (getStream s r.st.toNat) r = false)
    (hjob : (getStream s r.st.toNat).job = none) (hro : r.reportOnly = false) (hmove : toMove s r.st.toNat = false)
    (hno : (stageOf (getStream s r.st.toNat).ctx r.stage.toNat).report = false ∨ (getStream s r.st.toNat).ctx.state = 0) :
    exec (.onResult k) s = .next (c64 (c64 (resultTaken s k) 0x08040 1) 0x90060 1) := by
  rw [exec_onResult hruns h]
  simp only [arriveResult, getStream_resultTaken, hacc, Bool.false_eq_true, if_false]
  rw [dropResult_stale (by simpa [getStream_resultTaken] using hjob) hro
    (by rw [getStream_resultTaken]; intro h1 h2; rcases hno with hn | hn <;> simp_all)]
  have hf : ((stageOf (getStream s r.st.toNat).ctx r.stage.toNat).report && (getStream s r.st.toNat).ctx.state != 0) = false := by
    rcases hno with hn | hn <;> simp [hn]
  simp only [getStream_resultTaken, hf, Bool.false_eq_true, if_false]
  exact congrArg Host.Outcome.next (moveIfIdle_of_toMove (by
    exact (toMove_of_insts (s := resultTaken s k) rfl rfl _).trans ((toMove_resultTaken ..).trans hmove)))

/-- A stale result's report is held. -/
theorem onResult_staleReport (hruns : Runs s) (h : s.results[k]? = some r) (hacc : acceptable (getStream s r.st.toNat) r = false)
    (hjob : (getStream s r.st.toNat).job = none) (hro : r.reportOnly = false) (hmove : toMove s r.st.toNat = false)
    (he : (stageOf (getStream s r.st.toNat).ctx r.stage.toNat).report = true) (hs : (getStream s r.st.toNat).ctx.state ≠ 0)
    (hlt : (getStream s r.st.toNat).reports.length < 2) :
    ∃ t n, exec (.onResult k) s = .next t ∧ t.results = (resultTaken s k).results ∧ OneStream s t r.st.toNat ∧
      getStream t r.st.toNat = { getStream s r.st.toNat with reports := (getStream s r.st.toNat).reports ++ [n] } ∧
      n.stage = r.stage ∧ n.stamp = r.stamp ∧ n.gen = r.gen ∧ n.status = (if r.cancelled then 1 else r.status) := by
  have hy := ((streamIs_resultTaken s k r.st.toNat).of_streams (u := fltStale (c64 (resultTaken s k) 0x08040 1) 1) rfl).postReport
    (reportOf (stageOf (getStream s r.st.toNat).ctx r.stage.toNat) r)
  refine ⟨_, _, ?_, ?_, hy.2, hy.1, ?_⟩
  · rw [exec_onResult hruns h]
    simp only [arriveResult, getStream_resultTaken, hacc, Bool.false_eq_true, if_false]
    rw [dropResult_stale (by simpa [getStream_resultTaken] using hjob) hro (fun _ _ => by rwa [getStream_resultTaken])]
    have ht : ((stageOf (getStream s r.st.toNat).ctx r.stage.toNat).report && (getStream s r.st.toNat).ctx.state != 0) = true := by
      simpa [he] using hs
    simp only [getStream_resultTaken, ht, if_true]
    exact congrArg Host.Outcome.next (moveIfIdle_of_toMove (by
      rw [toMove_of_insts (s := resultTaken s k) (by simp [postReport, writeRecordSpace, fltStale])
        (by simp [postReport, writeRecordSpace, fltStale]), toMove_resultTaken, hmove]))
  · simp [fltStale]
  · cases hc : r.cancelled <;> simp [heldReport, reportOf, hc, mkReport, stCancelled]

end

/-- Settles O28, by what the sequencer does with the result: it is held, acted on, latched, or dropped. -/
theorem resultsArrive : Obligations.ResultsArrive := by
  unfold Obligations.ResultsArrive
  refine ⟨fun s k r hruns h => ⟨fun hacc hep => onResult_held hruns h hacc hep, fun hacc hep hst hw hh => ⟨?_, ?_, ?_⟩,
    fun hacc hjob hro hmove => ⟨fun hno => onResult_stale hruns h hacc hjob hro hmove hno,
      fun he hs hlt => onResult_staleReport hruns h hacc hjob hro hmove he hs hlt⟩⟩, fun s k hruns h => ?_⟩
  · exact fun hconf hl hhold hrep => onResult_last hruns h hacc hep (resAct_last hst hw hh hconf hl) hl hhold hrep
  · exact fun hconf hhold hrep => onResult_reject hruns h hacc hep (resAct_reject hst hw hh hconf) hhold hrep
  · exact fun hconf hl hhold => onResult_latched hruns h hacc hep (resAct_last hst hw hh hconf hl) hhold
  · show execOnResult k s = _
    unfold execOnResult
    rw [live_runs hruns]
    simp only [getNth, h]

end Sys2Proof.Machine
end

section
/-! PROOFS. BACKLOG and the notification of lagging (R45, R50). -/

namespace Sys2Proof.Machine

/-- The stream begins to lag with its present backlog. -/
def lagsNow (x : Stream) : Bool := decide (x.ctx.lagDepth.toNat < backlogOf x) && !x.ctx.lag

/-- Whether the stream lags once BACKLOG has its present value. -/
def lagAfter (x : Stream) : Bool :=
  decide (x.ctx.lagDepth.toNat < backlogOf x) || (x.ctx.lag && !decide (backlogOf x ≤ x.ctx.lagDepth.toNat / 2))

/-- A stream whose BACKLOG has its present value, with the effects of R50. -/
def withBacklog (x : Stream) : Stream :=
  { x with ctx := { x.ctx with backlog := BitVec.ofNat 7 (backlogOf x), lag := lagAfter x } }

/-- A stream with a record in the status slot. -/
def withStatus (r : Record) (x : Stream) : Stream :=
  { x with slotRec := some { r with seq := x.seq, order := x.recOrder }, seq := x.seq + 1, recOrder := x.recOrder + 1 }

/-- `y` is `x` but for the status slot and the numbers that a status record takes. -/
def ButStatus (x y : Stream) : Prop := y = { x with slotRec := y.slotRec, seq := y.seq, recOrder := y.recOrder }

theorem ButStatus.refl (x : Stream) : ButStatus x x := rfl

theorem butStatus_withStatus (r : Record) (x : Stream) : ButStatus x (withStatus r x) := rfl

theorem ButStatus.fields {x y : Stream} (h : ButStatus x y) :
    y.ctx = x.ctx ∧ y.hold = x.hold ∧ y.reports = x.reports ∧ y.ingests = x.ingests ∧ y.job = x.job ∧ y.held = x.held ∧
      y.latched = x.latched ∧ y.closeDesc = x.closeDesc ∧ y.drain = x.drain ∧ y.waiting = x.waiting ∧ y.act = x.act := by
  rw [h]
  exact ⟨rfl, rfl, rfl, rfl, rfl, rfl, rfl, rfl, rfl, rfl, rfl⟩

theorem putStatus_streams (s : State) (st : Nat) (r : Record) :
    (putStatus s st r).streams = smUpd {} s.streams st (withStatus r) := by
  simp [putStatus, writeRecordSpace]
  rfl

theorem StreamIs.putStatus {s t : State} {st : Nat} {y : Stream} (h : StreamIs s t st y) (r : Record) :
    StreamIs s (putStatus t st r) st (withStatus r y) :=
  h.upd (putStatus_streams ..) (fun he => by cases congrArg Stream.slotRec he)

theorem StreamIs.modCtx {s t : State} {st : Nat} {y : Stream} (h : StreamIs s t st y) (g : StreamCtx → StreamCtx)
    (hs : (g y.ctx).state ≠ 0) : StreamIs s (modCtx t st g) st { y with ctx := g y.ctx } :=
  h.mod (fun x => { x with ctx := g x.ctx }) (stream_ne_of_state hs)

/-- The context once BACKLOG has been set. -/
def setBacklog (s : State) (st : Nat) : State :=
  modCtx s st (fun c => { c with backlog := BitVec.ofNat 7 (backlogOf (getStream s st)) })

theorem updBacklog_eq (s : State) (st : Nat) :
    updBacklog s st =
      let x := getStream s st
      let u := setBacklog s st
      if lagsNow x = true then
        let v := modCtx u st (fun c => { c with lag := true })
        let y := getStream v st
        if (y.slotRec.isNone && y.slotWait.isEmpty) = true then putStatus v st (mkStatus y stLagging (y.ctx.stepLen.toNat * backlogOf x))
        else c32 v 0x08050 1
      else if (x.ctx.lag && decide (backlogOf x ≤ x.ctx.lagDepth.toNat / 2)) = true then modCtx u st (fun c => { c with lag := false })
      else u := rfl

theorem lagAfter_of_lagsNow {x : Stream} (h : lagsNow x = true) : lagAfter x = true := by
  simp only [lagsNow, Bool.and_eq_true] at h
  simp [lagAfter, h.1]

theorem lagAfter_of_ends {x : Stream} (h : (x.ctx.lag && decide (backlogOf x ≤ x.ctx.lagDepth.toNat / 2)) = true) :
    lagAfter x = false := by
  simp only [Bool.and_eq_true, decide_eq_true_eq] at h
  have hlt : ¬ x.ctx.lagDepth.toNat < backlogOf x := by omega
  simp [lagAfter, hlt, h.2]

theorem lagAfter_of_stays {x : Stream} (h : lagsNow x = false)
    (h' : (x.ctx.lag && decide (backlogOf x ≤ x.ctx.lagDepth.toNat / 2)) = false) : lagAfter x = x.ctx.lag := by
  cases hl : x.ctx.lag <;> simp_all [lagAfter, lagsNow]

/-- BACKLOG and LAG are set, and a status record may be held. -/
theorem StreamIs.updBacklog {s t : State} {st : Nat} {y : Stream} (h : StreamIs s t st y) (hs : y.ctx.state ≠ 0) :
    ∃ z, StreamIs s (updBacklog t st) st z ∧ ButStatus (withBacklog y) z := by
  rw [updBacklog_eq]
  have hset : StreamIs s (setBacklog t st) st { y with ctx := { y.ctx with backlog := BitVec.ofNat 7 (backlogOf y) } } := by
    have hb := h.modCtx (fun c => { c with backlog := BitVec.ofNat 7 (backlogOf (getStream t st)) }) hs
    rw [h.1] at hb
    unfold setBacklog
    rwa [h.1]
  have hlag (b : Bool) := hset.modCtx (fun c => { c with lag := b }) hs
  simp only [h.1]
  split
  next honset =>
    have hy : withBacklog y = { y with ctx := { y.ctx with backlog := BitVec.ofNat 7 (backlogOf y), lag := true } } := by
      rw [withBacklog, lagAfter_of_lagsNow honset]
    rw [hy]
    split
    · exact ⟨_, (hlag true).putStatus _, butStatus_withStatus ..⟩
    · exact ⟨_, (hlag true).of_streams rfl, .refl _⟩
  next honset =>
    split
    next hends =>
      have hy : withBacklog y = { y with ctx := { y.ctx with backlog := BitVec.ofNat 7 (backlogOf y), lag := false } } := by
        rw [withBacklog, lagAfter_of_ends hends]
      exact ⟨_, hlag false, by rw [hy]; exact .refl _⟩
    next hstays =>
      have hy : withBacklog y = { y with ctx := { y.ctx with backlog := BitVec.ofNat 7 (backlogOf y) } } := by
        rw [withBacklog, lagAfter_of_stays (by simpa using honset) (by simpa using hstays)]
      exact ⟨_, hset, by rw [hy]; exact .refl _⟩

@[simp] theorem putStatus_rings (s : State) (st : Nat) (r : Record) : (putStatus s st r).rings = s.rings := by
  simp [putStatus, writeRecordSpace]

@[simp] theorem updBacklog_rings (s : State) (st : Nat) : (updBacklog s st).rings = s.rings := by
  rw [updBacklog_eq]
  dsimp only
  repeat' split
  all_goals simp [setBacklog]

/-- A stream that does not begin to lag has nothing stored. -/
theorem updBacklog_mem {s : State} {st : Nat} (h : lagsNow (getStream s st) = false) : (updBacklog s st).mem = s.mem := by
  rw [updBacklog_eq]
  simp only [h, Bool.false_eq_true, if_false]
  split <;> rfl

theorem recordBytes_length (st : Nat) (x : Stream) (r : Record) : (recordBytes st x r).length = 32 := by simp [recordBytes]

theorem KeepsOutside.of_mem {s t u : State} {k n : Nat} (h : KeepsOutside s t k n) (hm : u.mem = t.mem) (hl : u.lost = t.lost) :
    KeepsOutside s u k n := fun a ha => (peek1_of_mem hm hl a).trans (h a ha)

theorem keepsOutside_of_mem {s t : State} (hm : t.mem = s.mem) (hl : t.lost = s.lost) (k n : Nat) : KeepsOutside s t k n :=
  fun a _ => peek1_of_mem hm hl a

/-- A status record is stored in the status slot, and nowhere else. -/
theorem putStatus_keepsOutside {s : State} (hret : s.flt.dramRet = []) (hw : Memory.wf s = true) (st : Nat) (r : Record) :
    KeepsOutside s (putStatus s st r) (mkey spGal (holdOff st 0xE80 false)) 32 := by
  have hout : KeepsOutside s (writeRecordSpace s st 0xE80 false
      (recordBytes st (getStream s st) { r with seq := (getStream s st).seq, order := (getStream s st).recOrder }))
      (mkey spGal (holdOff st 0xE80 false)) 32 := by
    intro a ha
    unfold writeRecordSpace
    exact peek1_memWr_out hw (by simp [hret]) (by rwa [recordBytes_length])
  exact hout.of_mem (by simp [putStatus]) (by simp [putStatus])

/-- BACKLOG's change stores at most a status record. -/
theorem updBacklog_keepsOutside {s : State} (hret : s.flt.dramRet = []) (hw : Memory.wf s = true) (st : Nat) :
    KeepsOutside s (updBacklog s st) (mkey spGal (holdOff st 0xE80 false)) 32 := by
  rw [updBacklog_eq]
  dsimp only
  split
  · split
    · exact putStatus_keepsOutside (s := modCtx (setBacklog s st) st _) hret hw st _
    · exact keepsOutside_of_mem rfl rfl _ _
  · split <;> exact keepsOutside_of_mem rfl rfl _ _

end Sys2Proof.Machine
end

section
/-! PROOFS. O25: samples are announced by INGEST (R52, R90), and read (R52). -/

namespace Sys2Proof.Machine

/-! ## INGEST -/

/-- The INGEST of descriptor `d`. -/
def ingestJob (s : State) (p : PairId) (d : Desc) (nx : U64) : IngestJob :=
  { ref := refOf s p d, buf := leAt d.bytes 24 8, unit := leAt d.bytes 12 2, count := leAt d.bytes 32 4, taken := 0, next := nx }

/-- NEXT_SAMPLE after the INGEST of descriptor `d`. -/
def nextAfter (x : Stream) (d : Desc) : U64 := x.ctx.nextSample + BitVec.ofNat 64 (leAt d.bytes 32 4)

/-- A stream that has accepted the INGEST `g`. -/
def announced (g : IngestJob) (x : Stream) : Stream :=
  { x with ctx := { x.ctx with nextSample := g.next }, ingests := x.ingests ++ [g] }

/-- The stream takes its events from a bridge. -/
def bridgeFed (s : State) (st : Nat) : Bool := match getInst s st with | some i => remoteFed s i | none => false

/-- What R90 asks of the count, the unit size and the ring pair of an INGEST. -/
def ingestSound (s : State) (p : PairId) (d : Desc) : Prop :=
  let x := getStream s (descStream d.bytes)
  1 ≤ leAt d.bytes 32 4 ∧ leAt d.bytes 32 4 ≤ 1048576 ∧ leAt d.bytes 32 4 * leAt d.bytes 12 2 ≤ 2 ^ 24 ∧
    leAt d.bytes 12 2 = unitBytes s x.ctx ∧ x.ctx.ingestRing = p

theorem ingestSound_iff {s : State} {p : PairId} {d : Desc} :
    ingestSound s p d ↔ ¬ (leAt d.bytes 32 4 = 0 ∨ 1048576 < leAt d.bytes 32 4 ∨ 2 ^ 24 < leAt d.bytes 32 4 * leAt d.bytes 12 2 ∨
      leAt d.bytes 12 2 ≠ unitBytes s (getStream s (descStream d.bytes)).ctx ∨
      (getStream s (descStream d.bytes)).ctx.ingestRing ≠ p) := by
  unfold ingestSound
  simp only [not_or, not_lt, ne_eq, not_not, ← Nat.one_le_iff_ne_zero]

/-- What an INGEST that may start comes to, by its checks in order. -/
theorem ingest_starts {s : State} {p : PairId} {idx : U16} {d : Desc} (h : Starts s p idx opIngest d) :
    exec (.ingest p idx) s = .next (
      let st := descStream d.bytes
      let x := getStream s st
      let u := started s p d
      let fail (s' : State) (k : Nat) : State := finish s' (refOf s p d) { status := BitVec.ofNat 8 k, res1 := x.ctx.nextSample }
      if leAt d.bytes 32 4 = 0 ∨ 1048576 < leAt d.bytes 32 4 ∨ 2 ^ 24 < leAt d.bytes 32 4 * leAt d.bytes 12 2 ∨
        leAt d.bytes 12 2 ≠ unitBytes s x.ctx ∨ x.ctx.ingestRing ≠ p then fail u stBad
      else if descSgen d.bytes ≠ x.ctx.gen.toNat then fail u stStale
      else if x.ctx.state = 0 ∨ x.ctx.state = 3 then fail u stBad
      else if x.ctx.state = 2 then fail u stStale
      else if x.ctx.state = 4 then fail u stCheckFail
      else if bridgeFed s st = true then fail u stBad
      else if leAt d.bytes 16 8 ≠ x.ctx.nextSample.toNat then fail (c32 u 0x08048 1) stBad
      else updBacklog (modStream u st (announced (ingestJob s p d (nextAfter x d)))) st) := by
  show execIngest p idx s = _
  unfold execIngest
  rw [live_runs h.1, startDesc_starts h]
  rfl

/-- The end that refuses an INGEST: its descriptor ends, and no stream changes and no byte of memory. -/
theorem ingest_fails {s u : State} {p : PairId} {d : Desc} (hw : Waiting s p d) (hr : u.rings = (started s p d).rings)
    (hs : u.streams = s.streams) (hm : u.mem = s.mem) (c : Compl) :
    Ends s (finish u (refOf s p d) c) p d c ∧ (finish u (refOf s p d) c).streams = s.streams ∧
      (finish u (refOf s p d) c).mem = s.mem :=
  ⟨ends_begun hw ((begins_started hw).of_rings hr) c, by simp [hs], by simp [hm]⟩

/-- An INGEST that its checks refuse ends with status `k`. -/
theorem ingest_refused {s : State} {p : PairId} {idx : U16} {d : Desc} (h : Starts s p idx opIngest d) (k : BitVec 8)
    (hk : let x := getStream s (descStream d.bytes)
      (¬ ingestSound s p d ∧ k = 9) ∨ (ingestSound s p d ∧ descSgen d.bytes ≠ x.ctx.gen.toNat ∧ k = 2) ∨
        (ingestSound s p d ∧ descSgen d.bytes = x.ctx.gen.toNat ∧
          ((k = 9 ∧ (x.ctx.state = 0 ∨ x.ctx.state = 3 ∨ (x.ctx.state = 1 ∧ leAt d.bytes 16 8 ≠ x.ctx.nextSample.toNat))) ∨
            (k = 2 ∧ x.ctx.state = 2) ∨ (k = 3 ∧ x.ctx.state = 4)))) :
    ∃ t, exec (.ingest p idx) s = .next t ∧
      Ends s t p d { status := k, res1 := (getStream s (descStream d.bytes)).ctx.nextSample } ∧ t.streams = s.streams ∧ t.mem = s.mem := by
  have hfail := ingest_fails (u := started s p d) h.waiting rfl rfl rfl { status := k, res1 := (getStream s (descStream d.bytes)).ctx.nextSample }
  have hseq := ingest_fails (u := c32 (started s p d) 0x08048 1) h.waiting rfl rfl rfl
    { status := k, res1 := (getStream s (descStream d.bytes)).ctx.nextSample }
  have hexec := ingest_starts h
  simp only [ingestSound_iff, not_not] at hk
  obtain ⟨hns, rfl⟩ | ⟨hs, hgen, rfl⟩ | ⟨hs, hgen, hk⟩ := hk
  · exact ⟨_, by rw [hexec]; simp only [hns, if_true]; rfl, hfail⟩
  · exact ⟨_, by rw [hexec]; simp only [hs, if_false, ne_eq, hgen, not_false_eq_true, if_true]; rfl, hfail⟩
  · simp only [hs, if_false, ne_eq, hgen, not_true_eq_false] at hexec
    obtain ⟨rfl, h0 | h3 | ⟨h1, hidx⟩⟩ | ⟨rfl, h2⟩ | ⟨rfl, h4⟩ := hk
    · exact ⟨_, by rw [hexec]; simp only [h0, true_or, if_true]; rfl, hfail⟩
    · exact ⟨_, by rw [hexec]; simp only [h3, or_true, if_true]; rfl, hfail⟩
    · cases hb : bridgeFed s (descStream d.bytes)
      · exact ⟨_, by rw [hexec]; simp [h1, hb, hidx, stBad], hseq⟩
      · exact ⟨_, by rw [hexec]; simp [h1, hb, stBad], hfail⟩
    · exact ⟨_, by rw [hexec]; simp [h2, stStale], hfail⟩
    · exact ⟨_, by rw [hexec]; simp [h4, stCheckFail], hfail⟩

/-- An INGEST that passes its checks is announced. -/
theorem ingest_admitted {s : State} {p : PairId} {idx : U16} {d : Desc} (h : Starts s p idx opIngest d)
    (hsound : ingestSound s p d) (hgen : descSgen d.bytes = (getStream s (descStream d.bytes)).ctx.gen.toNat)
    (hst : (getStream s (descStream d.bytes)).ctx.state = 1) (hfed : bridgeFed s (descStream d.bytes) = false)
    (hidx : leAt d.bytes 16 8 = (getStream s (descStream d.bytes)).ctx.nextSample.toNat) :
    exec (.ingest p idx) s = .next (updBacklog (modStream (started s p d) (descStream d.bytes)
      (announced (ingestJob s p d (nextAfter (getStream s (descStream d.bytes)) d)))) (descStream d.bytes)) := by
  rw [ingest_starts h]
  rw [ingestSound_iff] at hsound
  simp only [hsound, if_false, hgen, ne_eq, not_true_eq_false, hfed, hidx, Bool.false_eq_true]
  simp [hst]

theorem bridgeFed_false {s : State} {st : Nat} (h : ∀ i, getInst s st = some i → remoteFed s i = false) : bridgeFed s st = false := by
  unfold bridgeFed
  cases hi : getInst s st with
  | none => rfl
  | some i => exact h i hi

/-- What an admitted INGEST leaves. -/
theorem ingest_accepts {s : State} {p : PairId} {idx : U16} {d : Desc} (h : Starts s p idx opIngest d)
    (hsound : ingestSound s p d) (hgen : descSgen d.bytes = (getStream s (descStream d.bytes)).ctx.gen.toNat)
    (hst : (getStream s (descStream d.bytes)).ctx.state = 1) (hfed : bridgeFed s (descStream d.bytes) = false)
    (hidx : leAt d.bytes 16 8 = (getStream s (descStream d.bytes)).ctx.nextSample.toNat) :
    let x := getStream s (descStream d.bytes)
    let a := announced (ingestJob s p d (nextAfter x d)) x
    ∃ t z, exec (.ingest p idx) s = .next t ∧ Begins s t p d ∧ StreamIs s t (descStream d.bytes) z ∧ ButStatus (withBacklog a) z ∧
      (lagsNow a = false → t.mem = s.mem) ∧
      (Clean s → Memory.wf s = true → KeepsOutside s t (mkey spGal (holdOff (descStream d.bytes) 0xE80 false)) 32) := by
  intro x a
  have ha : StreamIs s (modStream (started s p d) (descStream d.bytes) (announced (ingestJob s p d (nextAfter x d))))
      (descStream d.bytes) a :=
    ((StreamIs.refl s _).of_streams (u := started s p d) rfl).mod _ (stream_ne_of_state (by simp [announced, hst]))
  obtain ⟨z, hz, hbut⟩ := ha.updBacklog (by simp [a, announced, x, hst])
  refine ⟨_, z, ingest_admitted h hsound hgen hst hfed hidx, (begins_started h.waiting).of_rings (by simp), hz, hbut, fun hl => ?_,
    fun hc hw => ?_⟩
  · exact (updBacklog_mem (by rw [ha.1]; exact hl)).trans rfl
  · exact updBacklog_keepsOutside
      (s := modStream (started s p d) (descStream d.bytes) (announced (ingestJob s p d (nextAfter x d)))) hc.2.2 hw (descStream d.bytes)

/-! ## INGEST_STEP_READ -/

/-- A stream of whose oldest descriptors `n` samples, the bytes `bs`, have been read; `left` is what remains of them. -/
def stepTaken (left : List IngestJob) (bs : Bytes) (n : Nat) (x : Stream) : Stream :=
  { x with ingests := left, stepBuf := x.stepBuf ++ bs, ctx := { x.ctx with sampleInStep := x.ctx.sampleInStep + BitVec.ofNat 16 n } }

/-- A descriptor with more samples than are asked for is read in part. -/
theorem takeSamples_part {g : IngestJob} {rest : List IngestJob} {n : Nat} (hn : 0 < n) (h : n < g.count - g.taken) :
    takeSamples (g :: rest) n = ([(g.buf + g.taken * g.unit, n * g.unit)], { g with taken := g.taken + n } :: rest, [], n) := by
  have hmin : min n (g.count - g.taken) = n := by omega
  have hne : ¬ g.taken + n = g.count := by omega
  simp [takeSamples, Nat.pos_iff_ne_zero.mp hn, hmin, hne]

/-- A descriptor with just the samples that are asked for, or the last one with fewer, is read to its end. -/
theorem takeSamples_whole {g : IngestJob} {rest : List IngestJob} {n : Nat} (hn : 0 < n) (hg : g.taken < g.count)
    (h : g.count - g.taken = n ∨ (g.count - g.taken < n ∧ rest = [])) :
    takeSamples (g :: rest) n =
      ([(g.buf + g.taken * g.unit, (g.count - g.taken) * g.unit)], rest, [g], g.count - g.taken) := by
  have hmin : min n (g.count - g.taken) = g.count - g.taken := by omega
  have hend : g.taken + (g.count - g.taken) = g.count := by omega
  have hrest : takeSamples rest (n - (g.count - g.taken)) = ([], rest, [], 0) := by
    rcases h with h | ⟨-, rfl⟩
    · have h0 : n - (g.count - g.taken) = 0 := by omega
      rw [h0]
      cases rest <;> simp [takeSamples]
    · simp [takeSamples]
  simp [takeSamples, Nat.pos_iff_ne_zero.mp hn, hmin, hend, hrest]

/-- Without poison and errors a range of samples is read as it stands. -/
theorem readSamples_clean {s : State} (h : Clean s) {a n sp off : Nat} (ha : addrOf a = some (sp, off)) :
    ∃ c w, readSamples s (a, n) = (peek s (mkey sp off) n, { s with ctrs := c, flt := { s.flt with wins := w } }) := by
  obtain ⟨c, w, hrd⟩ := memRd_clean h.2.1 sp off n
  have hclean : Clean (memRd s sp off n).2 := by rw [hrd]; exact h
  have hbytes : (memRd s sp off n).1 = peek s (mkey sp off) n := by simp [memRd, eccRead, h.2.1]
  have hread : readSamples s (a, n) = memRd s sp off n := by simp only [readSamples, ha, firstPoison_clean hclean]
  exact ⟨c, w, by rw [hread]; exact Prod.ext hbytes hrd⟩

theorem readRanges_single (s : State) (r : Nat × Nat) : readRanges s [r] = readSamples s r := by simp [readRanges]

theorem joinLine_only (s : State) (st : Nat) : joinLine s st = { s with feLine := (joinLine s st).feLine } := by
  unfold joinLine; split <;> rfl

/-- The state once `n` samples, the bytes `bs`, have been read for the open step. -/
def readOnce (s : State) (st : Nat) (left : List IngestJob) (bs : Bytes) (n : Nat) : State :=
  joinLine (modStream s st (stepTaken left bs n)) st

/-- The samples of one range are read: the stream takes them, and nothing else changes but counts and the line of the front-ends. -/
theorem readStep_one {s : State} (h : Clean s) {st : Nat} (hs : (getStream s st).ctx.state ≠ 0) {a m sp off n : Nat}
    {left done : List IngestJob} (ha : addrOf a = some (sp, off))
    (ht : takeSamples (getStream s st).ingests ((getStream s st).ctx.stepLen.toNat - (getStream s st).ctx.sampleInStep.toNat) =
      ([(a, m)], left, done, n)) :
    ∃ u, readStep s st = done.foldl (fun t g => finish t g.ref { status := 0, res0 := BitVec.ofNat 32 g.count, res1 := g.next }) u ∧
      u.rings = s.rings ∧ u.mem = s.mem ∧ StreamIs s u st (stepTaken left (peek s (mkey sp off) m) n (getStream s st)) := by
  obtain ⟨c, w, hrd⟩ := readSamples_clean (n := m) h ha
  refine ⟨readOnce { s with ctrs := c, flt := { s.flt with wins := w } } st left (peek s (mkey sp off) m) n, ?_, ?_, ?_, ?_⟩
  · unfold readStep
    simp only [ht, readRanges_single, hrd]
    rfl
  · rw [readOnce, joinLine_only]; rfl
  · rw [readOnce, joinLine_only]; rfl
  · refine (((StreamIs.refl s st).of_streams (u := { s with ctrs := c, flt := { s.flt with wins := w } }) rfl).mod
      (stepTaken left (peek s (mkey sp off) m) n) (stream_ne_of_state hs)).of_streams ?_
    rw [readOnce, joinLine_only]

/-- The samples of the open step may be read. -/
structure MayRead (s : State) (st : StreamId) (i : Inst) : Prop where
  inst : getInst s st.toNat = some i
  ack : i.waitAck = none
  state : (getStream s st.toNat).ctx.state = 1
  frame : (getStream s st.toNat).frameReady = false
  input : (getStream s st.toNat).inputDone = false
  waits : (getStream s st.toNat).waiting = none
  act : (getStream s st.toNat).act = none
  master : canMaster s (getStream s st.toNat).ctx.owner.toNat = true
  awake : samplesWait s (getStream s st.toNat) = false
  sound : samplesFail s (getStream s st.toNat) = false
  allowed : samplesRefused s (getStream s st.toNat) = false

theorem exec_ingestStepRead {s : State} {st : StreamId} {i : Inst} (hruns : Runs s) (h : MayRead s st i) :
    exec (.ingestStepRead st) s = .next (readStep s st.toNat) := by
  show execIngestStepRead st s = _
  unfold execIngestStepRead
  rw [live_runs hruns]
  simp [h.inst, h.ack, h.state, h.frame, h.input, h.waits, h.act, h.master, h.awake, h.sound, useCtl_sound hruns.2.2.2, h.allowed]

/-- Settles O25: an INGEST by its checks and by what the stream announces, a read by the samples that it takes. -/
theorem ingestAccepts : Obligations.IngestAccepts := by
  unfold Obligations.IngestAccepts
  refine ⟨fun s p idx d h => ⟨fun hsound hgen hst hfed hidx => ?_, fun k hk => ingest_refused h k hk⟩, ?_⟩
  · obtain ⟨t, z, hexec, hbeg, hz, hbut, hmem, hout⟩ := ingest_accepts h hsound hgen hst (bridgeFed_false hfed) hidx
    obtain ⟨hctx, hhold, -, hing, -⟩ := hbut.fields
    refine ⟨t, hexec, hbeg, hz.2, ?_, ?_, ?_, ?_, ?_, fun hl => hmem ?_, hout⟩
    · rw [hz.1, hctx]; rfl
    · rw [hz.1, hctx]; rfl
    · rw [hz.1, hing]; rfl
    · rw [hz.1, hctx]; rfl
    · rw [hz.1, hhold]; rfl
    · simp only [lagsNow, Bool.and_eq_false_iff, decide_eq_false_iff_not, Nat.not_lt, Bool.not_eq_false']
      exact hl
  · intro s st i g rest sp off hruns hclean x need have_ hi hack hst hframe hinput hwait hact hmaster hawake hfail hallowed hing ha hneed htaken
    have hexec := exec_ingestStepRead hruns ⟨hi, hack, hst, hframe, hinput, hwait, hact, hmaster, hawake, hfail, hallowed⟩
    have hs : (getStream s st.toNat).ctx.state ≠ 0 := by rw [hst]; decide
    refine ⟨fun hlt => ?_, fun hend => ?_⟩
    · obtain ⟨u, hu, hrings, hmem, hx⟩ := readStep_one hclean hs ha (hing ▸ takeSamples_part hneed hlt)
      exact ⟨u, hexec.trans (congrArg _ hu), hx.2, hrings, hmem, hx.1⟩
    · obtain ⟨u, hu, hrings, hmem, hx⟩ := readStep_one hclean hs ha (hing ▸ takeSamples_whole hneed htaken hend)
      have hx' := hx.of_streams (u := finish u g.ref { status := 0, res0 := BitVec.ofNat 32 g.count, res1 := g.next }) (by simp)
      exact ⟨_, hexec.trans (congrArg _ hu), hx'.2, by simp [hmem], hx'.1, fun d hd => ends_found hd hrings _⟩

end Sys2Proof.Machine
end

section
/-! PROOFS. What a stream leaves behind: its INGESTs, its job and its place in Picot (R35, R52, R139). -/

namespace Sys2Proof.Machine

/-- `y` is `x` but for reports that have become due. -/
def ButReports (x y : Stream) : Prop := y = { x with reports := y.reports, specOwed := y.specOwed }

theorem ButReports.refl (x : Stream) : ButReports x x := rfl

/-- A due report enters the hold, or waits among the results. -/
theorem StreamIs.oweReport {s t : State} {st : Nat} {y : Stream} (h : StreamIs s t st y) (r : CascResult) :
    ∃ z, StreamIs s (oweReport t st r) st z ∧ ButReports y z := by
  unfold Machine.oweReport
  dsimp only
  split
  · exact ⟨y, h, .refl y⟩
  · split
    · exact ⟨_, h.postReport _, rfl⟩
    · exact ⟨y, h.of_streams rfl, .refl y⟩

/-- A withdrawn job changes the reports of its stream. -/
theorem StreamIs.withdrawJob {s t : State} {st : Nat} {y : Stream} (h : StreamIs s t st y) (hs : y.ctx.state ≠ 0) (cancel : Bool) :
    ∃ z, StreamIs s (withdrawJob t st cancel) st z ∧ ButReports y z := by
  unfold Machine.withdrawJob
  simp only [h.1]
  split
  · split
    · obtain ⟨z, hz, hb⟩ := (h.mod (fun x => { x with specOwed := none }) (stream_ne_of_state hs)).oweReport _
      exact ⟨z, hz, hb⟩
    · exact ⟨y, h, .refl y⟩
  · split
    · split
      · exact (h.of_streams (u := dropSnap (removeJob t _) _) (by simp)).oweReport _
      · exact ⟨y, h.of_streams rfl, .refl y⟩
    · split
      · exact (h.of_streams (u := dropSnap t _) (by simp)).oweReport _
      · exact ⟨y, h.of_streams (by simp), .refl y⟩

/-- `y` is `x` whose episode has been given up. -/
def Abandoned (x y : Stream) : Prop :=
  y = { x with reports := y.reports, specOwed := y.specOwed, job := none, held := none, latched := none,
               ctx := { x.ctx with ep := 0, stCancel := y.ctx.stCancel } }

/-- An episode that is given up. -/
theorem StreamIs.abandon {s t : State} {st : Nat} {y : Stream} (h : StreamIs s t st y) (hs : y.ctx.state ≠ 0) :
    ∃ z, StreamIs s (abandon t st) st z ∧ Abandoned y z := by
  unfold Machine.abandon
  dsimp only
  obtain ⟨u, hu, n, hn⟩ : ∃ u, (if ((getStream t st).ctx.ep == 1 || (getStream t st).ctx.ep == 2) = true then countCancel t st else t) = u ∧
      ∃ n, StreamIs s u st { y with ctx := { y.ctx with stCancel := n } } := by
    refine ⟨_, rfl, ?_⟩
    split
    · exact ⟨_, (h.modCtx (fun c => { c with stCancel := satAdd 32 c.stCancel 1 }) hs).of_streams rfl⟩
    · exact ⟨_, h⟩
  rw [hu]
  obtain ⟨z, hz, hb⟩ := hn.withdrawJob hs ((getStream t st).ctx.ep == 1 || (getStream t st).ctx.ep == 2)
  have hzs : z.ctx.state ≠ 0 := by rw [hb]; exact hs
  refine ⟨_, hz.mod (fun x => { x with job := none, held := none, latched := none, ctx := { x.ctx with ep := 0 } })
    (stream_ne_of_state hzs), ?_⟩
  rw [hb]
  rfl

theorem finish_foldl_streams {α : Type} (q : α → DescRef) (c : α → Compl) (l : List α) (s : State) :
    (l.foldl (fun t g => finish t (q g) (c g)) s).streams = s.streams :=
  foldl_keeps (P := fun t => t.streams = s.streams) (fun t g h => by simp [h]) l s rfl

theorem dropUnread_ctx (x : Stream) :
    (dropUnread x).ctx = { x.ctx with nextSample := if x.ingests = [] then x.ctx.nextSample else BitVec.ofNat 64 (firstUnread x) } := by
  unfold dropUnread
  cases x.ingests <;> simp

theorem dropUnread_only (x : Stream) : dropUnread x = { x with ingests := [], ctx := (dropUnread x).ctx } := by
  unfold dropUnread
  split
  next h => rw [List.isEmpty_iff] at h; rw [← h]
  next => rfl

/-- The accepted descriptors of a stream end, and it holds none. -/
theorem StreamIs.dropIngests {s t : State} {st : Nat} {y : Stream} (h : StreamIs s t st y) (hs : y.ctx.state ≠ 0) :
    ∃ z, StreamIs s (dropIngests t st) st z ∧ ButStatus (withBacklog (dropUnread y)) z := by
  unfold Machine.dropIngests
  have hd : (dropUnread y).ctx.state ≠ 0 := by rw [dropUnread_ctx]; exact hs
  exact ((h.of_streams (finish_foldl_streams ..)).mod dropUnread (stream_ne_of_state hd)).updBacklog hd

/-! ## Its place in Picot -/

theorem galZero_keeps (s : State) (off n : Nat) :
    (galZero s off n).insts = s.insts ∧ (galZero s off n).streams = s.streams ∧ (galZero s off n).rings = s.rings := by
  obtain ⟨m, p, f, hz⟩ := writes_zeroRange s (mkey spGal off) n
  simp [galZero, hz]

/-- A stream that held a place in Picot holds none once that is freed; the streams and the ring pairs stay. -/
theorem freeInst_some {s : State} {st : Nat} {i : Inst} (h : getInst s st = some i) :
    (freeInst s st).insts = smSet none s.insts st none ∧ (freeInst s st).streams = s.streams ∧ (freeInst s st).rings = s.rings := by
  obtain ⟨m, p, f, hfold⟩ := Writes.foldl
    (fun t o => writes_zeroRange t (mkey (spPicot ((instPlace s i).core + o)) (dirOff (instPlace s i).j)) 16)
    (List.range (instPlace s i).span) s
  simp only [freeInst, h, hfold]
  simp [galZero_keeps, setInst]

theorem freeInst_none {s : State} {st : Nat} (h : getInst s st = none) : freeInst s st = s := by simp [freeInst, h]

theorem freeInst_keeps (s : State) (st : Nat) : (freeInst s st).streams = s.streams ∧ (freeInst s st).rings = s.rings := by
  cases h : getInst s st with
  | none => simp [freeInst_none h]
  | some i => exact (freeInst_some h).2

end Sys2Proof.Machine
end

section
/-! PROOFS. O23: a stream is closed (R55, R56). -/

namespace Sys2Proof.Machine

/-! ## STREAM_CLOSE -/

/-- A descriptor that names a stream may start only where its function owns the stream. -/
theorem ownsStream_of_rights {s : State} {fn : Nat} {b : Bytes} (h : descRights s fn b = (true, s))
    (hop : descOp b = opStreamOpen ∨ descOp b = opStreamClose ∨ descOp b = opStreamStatus ∨ descOp b = opIngest) :
    ownsStream s fn (descStream b) = true := by
  cases hown : ownsStream s fn (descStream b) with
  | true => rfl
  | false =>
    unfold descRights at h
    simp [hop, hown] at h

/-- The end of a STREAM_OPEN or STREAM_CLOSE that has begun. -/
theorem ends_streamOp {s u : State} {p : PairId} {d : Desc} (hw : Waiting s p d) (hb : Begins s u p d) (st k : Nat) :
    Ends s (endStreamOp u (refOf s p d) st k) p d (streamCompl u st k) := ends_begun hw hb _

/-- What a STREAM_CLOSE that may start comes to. -/
theorem streamClose_starts {s : State} {p : PairId} {idx : U16} {d : Desc} (h : Starts s p idx opStreamClose d) :
    exec (.streamClose p idx) s = .next (
      let st := descStream d.bytes
      let x := getStream s st
      let u := started s p d
      let q := refOf s p d
      if descSgen d.bytes = x.ctx.gen.toNat ∧ x.ctx.state ≠ 0 ∧ x.ctx.state ≠ 2 ∧ closeWaits s x (descOptA d.bytes) = true then holdDesc s p d
      else if descSgen d.bytes ≠ x.ctx.gen.toNat then endStreamOp u q st stStale
      else if x.ctx.state = 0 ∨ x.ctx.state = 2 then endStreamOp u q st stBad
      else closeStream u st (descOptA d.bytes) (some q)) := by
  have hown := ownsStream_of_rights h.2.2.2 (.inr (.inl h.2.2.1))
  show execStreamClose p idx s = _
  unfold execStreamClose
  rw [live_runs h.1]
  simp only [h.2.1, h.2.2.1, hown, true_and, and_assoc, startDesc_starts h]

theorem streamCompl_of_streams {s u : State} (h : u.streams = s.streams) (st k : Nat) :
    streamCompl u st k = { status := BitVec.ofNat 8 k, res0 := BitVec.ofNat 32 (getStream s st).ctx.gen.toNat,
                           res1 := (getStream s st).ctx.nextSample } := by
  unfold streamCompl
  rw [getStream_of_streams h]

/-- A STREAM_CLOSE that is refused ends with GEN and NEXT_SAMPLE, and no stream changes. -/
theorem streamClose_refused {s : State} {p : PairId} {d : Desc} (h : Waiting s p d) (st k : Nat) :
    let t := endStreamOp (started s p d) (refOf s p d) st k
    t.streams = s.streams ∧ Ends s t p d { status := BitVec.ofNat 8 k, res0 := BitVec.ofNat 32 (getStream s st).ctx.gen.toNat,
                                           res1 := (getStream s st).ctx.nextSample } := by
  refine ⟨?_, ?_⟩
  · simp [endStreamOp, started]
  · rw [← streamCompl_of_streams (s := s) (u := started s p d) rfl]
    exact ends_streamOp h (begins_started h) st k

/-- The stream as its close begins. -/
def closing (drain : Bool) (desc : Option DescRef) (x : Stream) : Stream :=
  { x with closeDesc := desc, drain := drain, ctx := { x.ctx with state := 2 } }

/-- A close without DRAIN: no record is left to be posted, and the generation advances. -/
def undrained (x : Stream) : Stream :=
  { x with hold := [], slotRec := none, slotWait := [], ctx := { x.ctx with gen := x.ctx.gen + 1 } }

theorem closeStream_eq (s : State) (st : Nat) (drain : Bool) (desc : Option DescRef) :
    closeStream s st drain desc =
      let u := dropIngests (modStream s st (closing drain desc)) st
      if drain = true then
        if (getStream s st).ctx.ep = 3 ∧ (getStream s st).ctx.state = 1 then u else abandon u st
      else modStream (abandon u st) st undrained := rfl

/-- What a stream holds once its INGESTs have ended. -/
theorem dropped_fields {x z : Stream} (h : ButStatus (withBacklog (dropUnread x)) z) :
    z.ingests = [] ∧ z.ctx.nextSample = (if x.ingests = [] then x.ctx.nextSample else BitVec.ofNat 64 (firstUnread x)) ∧
      z.ctx.state = x.ctx.state ∧ z.ctx.gen = x.ctx.gen ∧ z.ctx.ep = x.ctx.ep ∧ z.hold = x.hold ∧ z.reports = x.reports ∧
      z.closeDesc = x.closeDesc ∧ z.drain = x.drain := by
  have hc := dropUnread_ctx x
  rw [h, dropUnread_only]
  simp only [withBacklog, hc]
  simp

theorem abandoned_fields {x z : Stream} (h : Abandoned x z) :
    z.ctx = { x.ctx with ep := 0, stCancel := z.ctx.stCancel } ∧ z.job = none ∧ z.ingests = x.ingests ∧ z.hold = x.hold ∧
      z.closeDesc = x.closeDesc ∧ z.drain = x.drain := by
  rw [h]
  simp

/-- What a closed stream holds. -/
structure ClosedAs (drain : Bool) (desc : Option DescRef) (x y : Stream) : Prop where
  state : y.ctx.state = 2
  desc : y.closeDesc = desc
  ingests : y.ingests = []
  next : y.ctx.nextSample = if x.ingests = [] then x.ctx.nextSample else BitVec.ofNat 64 (firstUnread x)
  flag : y.drain = drain
  atOnce : drain = false → y.ctx.gen = x.ctx.gen + 1 ∧ y.ctx.ep = 0 ∧ y.job = none ∧ y.hold = [] ∧ y.slotRec = none ∧ y.slotWait = []
  drained : drain = true → y.ctx.gen = x.ctx.gen ∧ (y.ctx.ep = 0 ∨ (y.ctx.ep = x.ctx.ep ∧ x.ctx.ep = 3)) ∧ y.hold = x.hold

theorem StreamIs.closeStream {s t : State} {st : Nat} {x : Stream} (h : StreamIs s t st x) (drain : Bool) (desc : Option DescRef) :
    ∃ y, StreamIs s (closeStream t st drain desc) st y ∧ ClosedAs drain desc x y := by
  obtain ⟨z, hz, hbut⟩ := (h.mod (closing drain desc) (stream_ne_of_state (by simp [closing]))).dropIngests (by simp [closing])
  obtain ⟨hing, hnext, hstate, hgen, hep, hhold, -, hdesc, hdrain⟩ := dropped_fields hbut
  have hnext' : z.ctx.nextSample = if x.ingests = [] then x.ctx.nextSample else BitVec.ofNat 64 (firstUnread x) := hnext
  obtain ⟨w, hw, hab⟩ := hz.abandon (by rw [hstate]; simp [closing])
  obtain ⟨hctx, hjob, hwing, hwhold, hwdesc, hwdrain⟩ := abandoned_fields hab
  rw [closeStream_eq]
  simp only [h.1]
  cases drain with
  | true =>
    simp only [if_true]
    split
    next hact =>
      exact ⟨z, hz, hstate, hdesc, hing, hnext', hdrain, nofun, fun _ => ⟨hgen, .inr ⟨hep, hact.1⟩, hhold⟩⟩
    next =>
      refine ⟨w, hw, ?_, hwdesc.trans hdesc, hwing.trans hing, ?_, hwdrain.trans hdrain, nofun, fun _ => ⟨?_, .inl ?_, hwhold.trans hhold⟩⟩
      · rw [hctx]; exact hstate
      · rw [hctx]; exact hnext'
      · rw [hctx]; exact hgen
      · rw [hctx]
  | false =>
    simp only [Bool.false_eq_true, if_false]
    have hu : (undrained w).ctx.state = 2 := by show w.ctx.state = 2; rw [hctx]; exact hstate
    refine ⟨_, hw.mod undrained (stream_ne_of_state (by rw [hu]; decide)), hu, hwdesc.trans hdesc, hwing.trans hing, ?_,
      hwdrain.trans hdrain, fun _ => ⟨?_, ?_, hjob, rfl, rfl, rfl⟩, nofun⟩
    · show w.ctx.nextSample = _
      rw [hctx]; exact hnext'
    · show w.ctx.gen + 1 = _
      rw [hctx]; exact congrArg (· + 1) hgen
    · show w.ctx.ep = 0
      rw [hctx]

/-! ## CLOSE_COMPLETE -/

/-- A stream that has become CLOSED with generation `gen`. -/
def closedWith (gen : Gen) (x : Stream) : Stream :=
  { ctx := { x.ctx with state := 0, gen := gen, lag := false, peer := false }
    openSample := x.openSample, closedSteps := x.closedSteps, seq := x.seq }

/-- A stream that has become CLOSED: after a drain its generation has advanced. -/
def closedNow (x : Stream) : Stream := closedWith (if x.drain then x.ctx.gen + 1 else x.ctx.gen) x

theorem finishClose_eq (s : State) (st : Nat) :
    finishClose s st =
      let u := modStream (freeInst s st) st (closedWith (closedNow (getStream s st)).ctx.gen)
      match (getStream s st).closeDesc with
      | none => u
      | some q => endStreamOp u q st stOk := rfl

theorem exec_closeComplete {s : State} (h : Runs s) (st : StreamId) :
    exec (.closeComplete st) s = .next (if closeReady s st.toNat then finishClose s st.toNat else s) := by
  show execCloseComplete st s = _
  unfold execCloseComplete
  rw [live_runs h]

/-- The end of a close. -/
theorem finishClose_spec {s : State} {st : Nat} (hlen : (getStream s st).ctx.stepLen ≠ 0) :
    StreamIs s (finishClose s st) st (closedNow (getStream s st)) ∧
      (∀ i, getInst s st = some i → (finishClose s st).insts = smSet none s.insts st none) ∧
      ((getStream s st).closeDesc = none → (finishClose s st).rings = s.rings) ∧
      (∀ q d, (getStream s st).closeDesc = some q → findDesc s q = some d →
        Ends s (finishClose s st) q.pair d { status := 0, res0 := BitVec.ofNat 32 (closedNow (getStream s st)).ctx.gen.toNat,
                                             res1 := (getStream s st).ctx.nextSample }) := by
  obtain ⟨hstreams, hrings⟩ := freeInst_keeps s st
  have hu := ((StreamIs.refl s st).of_streams hstreams).mod
    (closedWith (closedNow (getStream s st)).ctx.gen)
    (fun he => hlen (congrArg (·.ctx.stepLen) he))
  rw [finishClose_eq]
  dsimp only
  split
  next hd =>
    exact ⟨hu, fun i hi => (freeInst_some hi).1, fun _ => hrings, fun q d hq => by rw [hd] at hq; cases hq⟩
  next q hd =>
    refine ⟨hu.of_streams (by simp [endStreamOp]), fun i hi => ?_, fun hn => (by rw [hd] at hn; cases hn), fun q' d hq hf => ?_⟩
    · simp [endStreamOp, (freeInst_some hi).1]
    · obtain rfl : q = q' := Option.some.inj (hd.symm.trans hq)
      have hcompl : streamCompl (modStream (freeInst s st) st (closedWith (closedNow (getStream s st)).ctx.gen)) st stOk =
          { status := 0, res0 := BitVec.ofNat 32 (closedNow (getStream s st)).ctx.gen.toNat, res1 := (getStream s st).ctx.nextSample } := by
        unfold streamCompl
        rw [hu.1]
        rfl
      rw [← hcompl]
      exact ends_found (u := modStream (freeInst s st) st _) hf hrings _

/-- Settles O23, by the checks of STREAM_CLOSE, the close itself, and its completion. -/
theorem streamsClose : Obligations.StreamsClose := by
  unfold Obligations.StreamsClose
  refine ⟨fun s p idx d h => ?_, fun s st hruns => ?_⟩
  · have hexec := streamClose_starts h
    refine ⟨fun hgen => ⟨_, ?_, streamClose_refused h.waiting _ stStale⟩, fun hgen hs => ⟨_, ?_, streamClose_refused h.waiting _ stBad⟩,
      fun hgen h0 h2 hwait => ?_, fun hgen h0 h2 hwait => ?_⟩
    · rw [hexec]; simp [hgen]
    · rw [hexec]; rcases hs with hs | hs <;> simp [hgen, hs]
    · rw [hexec]; simp only [hgen, h0, h2, hwait, ne_eq, not_false_eq_true, and_self, if_true]; rfl
    · obtain ⟨y, hy, hc⟩ := ((StreamIs.refl s (descStream d.bytes)).of_streams (u := started s p d) rfl).closeStream
        (descOptA d.bytes) (some (refOf s p d))
      refine ⟨_, ?_, hy.2, ?_⟩
      · rw [hexec]
        simp only [hgen, h0, h2, hwait, ne_eq, not_false_eq_true, not_true_eq_false, Bool.false_eq_true, and_false, or_self, if_false]
      · rw [hy.1]
        exact ⟨hc.state, hc.desc, hc.ingests, hc.next, hc.flag, hc.atOnce, hc.drained⟩
  · refine ⟨fun hr => ?_, fun hr hlen => ?_⟩
    · rw [exec_closeComplete hruns]; simp [hr]
    · obtain ⟨hx, hinst, hnone, hsome⟩ := finishClose_spec hlen
      exact ⟨_, by rw [exec_closeComplete hruns, hr]; rfl, hx.2, by rw [hx.1]; rfl, hinst, hnone, hsome⟩

end Sys2Proof.Machine
end

section
/-! PROOFS. STREAM_OPEN on a core that is being replaced (R413). -/

namespace Sys2Proof.Machine

/-- A section of a slot image. -/
def imageSection (ty : Nat) (body : Bytes) : Bytes := natLE 2 ty ++ natLE 2 1 ++ natLE 4 (8 + body.length) ++ body

/-- A Tier 0 image: a front-end that takes windows of 8 samples and makes frames of 8 bytes, a converter of one channel, and
16 neurons on one core. -/
def smallImage : Bytes :=
  bytesAt (natLE 6 0 ++ natLE 2 3) 0 32 ++
  imageSection 1 ([1, 0] ++ natLE 6 8 ++ natLE 8 16 ++ [1, 5, 8, 0] ++ natLE 28 0) ++
  imageSection 2 (bytesAt [5, 0, 1] 0 40) ++ imageSection 3 (natLE 8 (1 + 16 * 2 ^ 16))

/-- The program of a stream of one stage, in slot 0. -/
def smallProgram : StreamCtx :=
  { sfmt := 5, nstage := 1, stepLen := 16, histSteps := 4, frameUnits := 1, lagDepth := 1
    stages := [{ wake := 5, prewake := 5, hold := 2, holdCount := 2, nwake := ~~~5, nprewake := ~~~5, nhold := ~~~2, nholdCount := ~~~2 }] }

/-- A STREAM_OPEN of stream 0 whose image stands at 128. -/
def openDesc : Desc :=
  { idx := 0, bytes := bytesAt (natLE 4 opStreamOpen ++ natLE 4 (2 ^ 32 - 1 - opStreamOpen) ++ natLE 8 0 ++ natLE 8 128) 0 64, fn := 0 }

/-- The bytes of a list from address `k` on, those that are 0 left out. -/
def imageCells (k : Nat) (bs : Bytes) : List Host.Cell :=
  (bs.zipIdx.map (fun e => (k + e.2, e.1))).filter (fun e => e.2 != 0)

/-- A device that may open stream 0 while core 0, the one of slot 0's range, is being replaced. -/
def openUnderRepair : State :=
  { State.reset with
    link := { st := .l0 }
    fns := [(0, { bme := true })]
    rings := [(0, { enabled := true, nqLog2 := 4, inflight := [openDesc] })]
    slots := [(0, { placeA := 512, verA := some { number := 0, image := smallImage } })]
    mem := imageCells (mkey spHost 128) (ctxBytes smallProgram) ++ State.reset.mem
    flt := { State.reset.flt with repair := some { utype := 2, unit := 0, restore := false, spare := 0, cmd := true } } }

theorem openUnderRepair_starts : Starts openUnderRepair 0 0 opStreamOpen openDesc := by
  unfold Starts Runs Sound
  decide +kernel

/-- The opened stream's closures are held until the replacement ends. -/
theorem openUnderRepair_holds :
    ∃ t, exec (.streamOpen 0 0) openUnderRepair = .next t ∧ (getInst t 0).map Inst.heldMove = some true := by
  refine ⟨_, rfl, ?_⟩
  rw [live_runs openUnderRepair_starts.1]
  decide +kernel

/-- The context that the open takes from its image. -/
def openContext : StreamCtx := ctxFrom (peek openUnderRepair (mkey spHost 128) 128) (getStream openUnderRepair 0).ctx.gen

/-- The front-end of the version in slot 0. -/
def openFront : Front := (frontOf smallImage).getD ⟨0, 0, 0, 0, 0, [], 0⟩

/-- The open is one that O22 speaks of. -/
theorem openUnderRepair_admitted :
    opensLoading openUnderRepair 0 0 = false ∧ imageOk openUnderRepair 0 (peek openUnderRepair (mkey spHost 128) 128) = true ∧
      activeVersion openUnderRepair (stageOf openContext 0).slot.toNat = some { number := 0, image := smallImage } ∧
      (frontOf smallImage).isSome = true ∧ frontFits openFront openContext = true ∧
      openInst openUnderRepair (stageOf openContext 0).slot.toNat = some 0 := by
  decide +kernel

/-- Refutes O22: no closure of the opened stream is said to be held, and in `openUnderRepair` the open of stream 0 holds them
(`heldMove`), as core 0 is being replaced. -/
theorem not_streamsOpen : ¬ Obligations.StreamsOpen := by
  unfold Obligations.StreamsOpen
  intro h
  obtain ⟨hload, himg, hv, hf, hfits, hi⟩ := openUnderRepair_admitted
  have hfront : frontOf smallImage = some openFront := (Option.some_get hf).symm.trans (congrArg some (Option.get_eq_getD _))
  obtain ⟨-, hopen⟩ := h openUnderRepair 0 0 openDesc spHost 128 openUnderRepair_starts
    (by decide +kernel) rfl (by decide +kernel) (by decide +kernel) ⟨rfl, rfl, rfl⟩
  obtain ⟨hfresh, -⟩ := hopen hload
  obtain ⟨t, ht, -, -, -, -, hinst, -⟩ := hfresh _ _ 0 (by decide +kernel) (by decide +kernel) himg hv hfront hfits (by decide +kernel) hi
  obtain ⟨u, hu, hheld⟩ := openUnderRepair_holds
  rw [hu] at ht
  injection ht with ht
  subst ht
  have hnew : getInst u 0 = some _ := hinst
  rw [hnew] at hheld
  exact absurd hheld (by decide)

end Sys2Proof.Machine
end

section
/-! PROOFS. What the work of streams and of the Passage leaves: the protection tables, the jobs and the snapshot buffers. -/

namespace Sys2Proof.Machine

/-- A step leaves the protection tables, the jobs and the snapshot buffers. -/
@[simp] abbrev Apart (s t : State) : Prop := t.prot = s.prot ∧ t.jobs = s.jobs ∧ t.snaps = s.snaps

theorem Apart.refl (s : State) : Apart s s := ⟨rfl, rfl, rfl⟩

theorem Apart.trans {s t u : State} (h : Apart s t) (h' : Apart t u) : Apart s u :=
  ⟨h'.1.trans h.1, h'.2.1.trans h.2.1, h'.2.2.trans h.2.2⟩

@[simp] theorem apart_foldl {α : Type} {f : State → α → State} (hf : ∀ t a, Apart t (f t a)) (l : List α) (s : State) :
    Apart s (l.foldl f s) :=
  foldl_keeps (P := Apart s) (fun t a h => h.trans (hf t a)) l s (.refl s)

/-- The same of a fold that gathers events. -/
@[simp] theorem apart_foldl_fst {α β : Type} {f : State × β → α → State × β} (hf : ∀ t a, Apart t.1 (f t a).1) (l : List α) (t : State × β) :
    Apart t.1 (l.foldl f t).1 :=
  foldl_keeps (P := fun u => Apart t.1 u.1) (fun u a h => h.trans (hf u a)) l t (.refl t.1)

theorem Writes.apart {s t : State} (h : Writes s t) : Apart s t := by
  obtain ⟨m, p, f, rfl⟩ := h
  exact .refl s

@[simp] theorem ite_prot (c : Prop) [Decidable c] (s t : State) : (if c then s else t).prot = if c then s.prot else t.prot := apply_ite ..
@[simp] theorem ite_jobs (c : Prop) [Decidable c] (s t : State) : (if c then s else t).jobs = if c then s.jobs else t.jobs := apply_ite ..
@[simp] theorem ite_snaps (c : Prop) [Decidable c] (s t : State) : (if c then s else t).snaps = if c then s.snaps else t.snaps := apply_ite ..

/-! ## Memory -/

@[simp] theorem apart_poke (s : State) (k : Nat) (bs : Bytes) : Apart s (poke s k bs) := (writes_poke s k bs).apart
@[simp] theorem apart_zeroRange (s : State) (k n : Nat) : Apart s (zeroRange s k n) := (writes_zeroRange s k n).apart
@[simp] theorem apart_coreWr (s : State) (c off n v : Nat) : Apart s (coreWr s c off n v) := apart_poke ..
@[simp] theorem apart_galZero (s : State) (off n : Nat) : Apart s (galZero s off n) := by simp [galZero]
@[simp] theorem apart_copyWord (s : State) (src dst : Nat) : Apart s (copyWord s src dst) := by simp [copyWord, setPoison]

@[simp] theorem apart_copyWords (s : State) (src dst : Nat) (n : Nat) : Apart s (copyWords s src dst n) := by
  induction n generalizing s src dst with
  | zero => exact .refl s
  | succ n ih => exact (apart_copyWord s src dst).trans (ih ..)

@[simp] theorem apart_copyFrame (s : State) (st : Nat) : Apart s (copyFrame s st) := by simp [copyFrame]
@[simp] theorem apart_copySnap (s : State) (st buf n cnt : Nat) : Apart s (copySnap s st buf n cnt) := by simp [copySnap]

/-! ## Records -/

@[simp] theorem apart_writeRecordSpace (s : State) (st base : Nat) (second : Bool) (bs : Bytes) :
    Apart s (writeRecordSpace s st base second bs) := by simp [writeRecordSpace]

@[simp] theorem apart_notify (s : State) (st k : Nat) (stamp : Stamp) (conf : U8) (cls : U16) (status : Nat) :
    Apart s (notify s st k stamp conf cls status) := by simp [notify]

@[simp] theorem apart_putStatus (s : State) (st : Nat) (r : Record) : Apart s (putStatus s st r) := by simp [putStatus]
@[simp] theorem apart_postReport (s : State) (st : Nat) (r : Report) : Apart s (postReport s st r) := by simp [postReport]
@[simp] theorem apart_oweReport (s : State) (st : Nat) (r : CascResult) : Apart s (oweReport s st r) := by simp [oweReport]

@[simp] theorem apart_updBacklog (s : State) (st : Nat) : Apart s (updBacklog s st) := by
  rw [updBacklog_eq]
  dsimp only
  repeat' split
  all_goals simp [setBacklog]

@[simp] theorem apart_dropIngests (s : State) (st : Nat) : Apart s (dropIngests s st) := by simp [dropIngests]
@[simp] theorem apart_closedCtx (s : State) (st : Nat) (step : Stamp) (lost : Bool) : Apart s (closedCtx s st step lost) := by simp [closedCtx]

/-! ## The Passage -/

@[simp] theorem apart_sendFlit (s : State) (i : Nat) (hdr : U32) (pay : Bytes) : Apart s (sendFlit s i hdr pay) := by simp [sendFlit]
@[simp] theorem apart_psgEvent (s : State) (bits : Nat) : Apart s (psgEvent s bits) := by simp [psgEvent]
@[simp] theorem apart_hopPass (s : State) : Apart s (hopPass s) := by simp [hopPass]
@[simp] theorem apart_markLost (s : State) (chip row port : Nat) : Apart s (markLost s chip row port) := by simp [markLost]
@[simp] theorem apart_needRoute (s : State) (chip : Nat) : Apart s (needRoute s chip) := by simp [needRoute]

@[simp] theorem apart_emitData (s : State) (i : Nat) (seq : BitVec 12) (cls : BitVec 2) (pay : Bytes) :
    Apart s (emitData s i seq cls pay) := by simp [emitData]

@[simp] theorem apart_leaveBuffer (s : State) (m : PMsg) : Apart s (leaveBuffer s m) := by
  unfold leaveBuffer
  split <;> simp

@[simp] theorem apart_pump (s : State) (i : Nat) (n : Nat) : Apart s (pump s i n) := by
  induction n generalizing s with
  | zero => exact .refl s
  | succ n ih =>
    unfold pump
    dsimp only
    split
    · exact .refl s
    · split
      · exact .refl s
      · split
        · exact .refl s
        · refine Apart.trans ?_ (ih _)
          simp

@[simp] theorem apart_pumpPort (s : State) (i : Nat) : Apart s (pumpPort s i) := by simp [pumpPort]
@[simp] theorem apart_forward (s : State) (m : PMsg) : Apart s (forward s m) := by simp [forward]

@[simp] theorem apart_psgSend (s : State) (cls mtype dest tagw : Nat) (body : Bytes) :
    Apart s (psgSend s cls mtype dest tagw body) := by simp [psgSend]

@[simp] theorem apart_sendBatch (s : State) (chip : Nat) : Apart s (sendBatch s chip) := by simp [sendBatch]
@[simp] theorem apart_holdEvent (s : State) (chip : Nat) (e : HeldEv) : Apart s (holdEvent s chip e) := by simp [holdEvent]

/-! ## Deferred emissions -/

@[simp] theorem apart_mcEvent (s : State) (st : Nat) (i : Inst) (pl : Place) (c idx : Nat) (graded : Bool) (v : Int) (mc stamp : Nat) :
    Apart s (mcEvent s st i pl c idx graded v mc stamp).1 := by simp [mcEvent]

@[simp] theorem apart_emission (s : State) (st c : Nat) (q : Pop) (idx : Nat) (graded : Bool) (v : Int) (which : Issue) (stamp : Nat) :
    Apart s (emission s st c q idx graded v which stamp).1 := by
  unfold emission
  split <;> simp

@[simp] theorem apart_issueDeferred (s : State) (st : Nat) : Apart s (issueDeferred s st) := by
  unfold issueDeferred
  split
  · exact .refl s
  · dsimp only
    simp only [modInst_frame]
    apply apart_foldl_fst (t := (s, ([] : List Ev)))
    intro t o
    simp

@[simp] theorem apart_releaseDeferred (s : State) (st : Nat) : Apart s (releaseDeferred s st) := by
  unfold releaseDeferred
  split <;> simp

/-! ## Instances that are placed and moved -/

@[simp] theorem apart_writeBridge (s : State) (st : Nat) (w : Nat) : Apart s (writeBridge s st w) := (writes_writeBridge s st w).apart

@[simp] theorem apart_placeInst (s : State) (st slot : Nat) (inB : Bool) (idx : Nat) (gen : Gen) (openStep : Stamp) :
    Apart s (placeInst s st slot inB idx gen openStep) := by
  have hdir (t : State) (pl : Place) (fed : Bool) := (writes_writeDir t st gen pl fed 0).apart
  have hblock (t : State) (pl : Place) := (writes_clearBlock t pl).apart
  simp [placeInst, hdir, hblock]

@[simp] theorem apart_moveInst (s : State) (st : Nat) : Apart s (moveInst s st) := by
  unfold moveInst
  dsimp only
  repeat' split
  all_goals simp

@[simp] theorem apart_moveIfIdle (s : State) (st : Nat) : Apart s (moveIfIdle s st) := by simp [moveIfIdle]

end Sys2Proof.Machine
end

section
/-! PROOFS. O27: the decision of a step (R31 to R37), up to the boundary that it makes. -/

namespace Sys2Proof.Machine

/-! ## The frame goes into the history -/

/-- What a decision looks at beside its stream: the registers, the line for the buffers, and the next job's number. -/
@[simp] abbrev SameView (s t : State) : Prop := t.regs = s.regs ∧ t.snapWait = s.snapWait ∧ t.nextJob = s.nextJob

theorem SameView.trans {s t u : State} (h : SameView s t) (h' : SameView t u) : SameView s u :=
  ⟨h'.1.trans h.1, h'.2.1.trans h.2.1, h'.2.2.trans h.2.2⟩

@[simp] theorem sameView_copyWord (s : State) (src dst : Nat) : SameView s (copyWord s src dst) := by
  unfold copyWord
  dsimp only
  split <;> simp [setPoison]

@[simp] theorem sameView_copyWords (s : State) (src dst : Nat) (n : Nat) : SameView s (copyWords s src dst n) := by
  induction n generalizing s src dst with
  | zero => exact ⟨rfl, rfl, rfl⟩
  | succ n ih => exact (sameView_copyWord s src dst).trans (ih ..)

@[simp] theorem sameView_copyFrame (s : State) (st : Nat) : SameView s (copyFrame s st) := by
  unfold copyFrame
  dsimp only
  split <;> simp

@[simp] theorem sameView_copySnap (s : State) (st buf n cnt : Nat) : SameView s (copySnap s st buf n cnt) := by
  unfold copySnap
  refine foldl_keeps (P := SameView s) (fun t i h => h.trans ?_) _ s ⟨rfl, rfl, rfl⟩
  split <;> simp

/-! ## The closure is completed -/

/-- `y` is `x` but for what the boundary of a step changes: the open step, the backlog, and the status slot. -/
def ButClosure (x y : Stream) : Prop :=
  y = { x with waiting := y.waiting, inputDone := y.inputDone, frameReady := y.frameReady, stepBuf := y.stepBuf
               slotRec := y.slotRec, seq := y.seq, recOrder := y.recOrder
               ctx := { x.ctx with sampleInStep := y.ctx.sampleInStep, backlog := y.ctx.backlog, lag := y.ctx.lag } }

/-- At a boundary for which no clear and no revocation waits, the streams stay, whether it moves or not. -/
theorem stepBoundary_keeps {s : State} {st : Nat} (hc : (getStream s st).clrPending = false) (hu : (getStream s st).useRevoked = false) :
    (stepBoundary s st).streams = s.streams ∧ Apart s (stepBoundary s st) := by
  unfold stepBoundary
  simp only [hc, hu, Bool.false_eq_true, if_false]
  split
  next i hi =>
    split <;> split <;> simp
  next => split <;> simp

theorem completeRemote_streamIs {s t : State} {st : Nat} {y : Stream} (h : StreamIs s t st y) (hs : y.ctx.state ≠ 0) :
    ∃ b, StreamIs s (completeRemote t st) st { y with inputDone := b } := by
  unfold completeRemote
  split
  · exact ⟨_, h⟩
  · split
    · exact ⟨_, h⟩
    · split
      · exact ⟨_, (h.of_streams (by simp)).mod (fun x => { x with inputDone := true }) (stream_ne_of_state hs)⟩
      · exact ⟨_, h⟩

theorem pullEnd_streamIs {s t : State} {st : Nat} {y : Stream} (h : StreamIs s t st y) (hs : y.ctx.state ≠ 0) :
    ∃ b, StreamIs s (pullEnd t st) st { y with inputDone := b } := by
  unfold pullEnd
  split
  · exact ⟨_, h⟩
  · split
    · exact ⟨_, h.mod (fun x => { x with inputDone := true }) (stream_ne_of_state hs)⟩
    · split
      · exact ⟨_, h⟩
      · exact completeRemote_streamIs (h.of_streams (by simp)) hs

@[simp] theorem apart_completeRemote (s : State) (st : Nat) : Apart s (completeRemote s st) := by
  unfold completeRemote
  dsimp only
  repeat' split
  all_goals simp

@[simp] theorem apart_pullEnd (s : State) (st : Nat) : Apart s (pullEnd s st) := by
  unfold pullEnd
  split
  · simp
  · split
    · simp
    · split <;> simp

/-- The stream as the next step opens. -/
def stepOpened (x : Stream) : Stream :=
  { x with waiting := none, inputDone := false, frameReady := false, stepBuf := [], ctx := { x.ctx with sampleInStep := 0 } }

/-- The counts of a completed closure (HIF_CSC_STEPS, PIC_STRETCH), and the stream's place in the line for a buffer. -/
def closureCounted (s : State) (st : Nat) : State :=
  let x := getStream s st
  let s := c64 s 0x08010 1
  let s := if 2 ≤ x.ctx.backlog.toNat then c32 s 0x20074 1 else s
  { s with snapWait := s.snapWait.filter (fun q => q.toNat != st) }

theorem completeClosure_eq (s : State) (st : Nat) :
    completeClosure s st = pullEnd (stepBoundary (updBacklog (modStream (closureCounted s st) st stepOpened) st) st) st := rfl

theorem closureCounted_keeps (s : State) (st : Nat) : (closureCounted s st).streams = s.streams ∧ Apart s (closureCounted s st) := by
  unfold closureCounted
  dsimp only
  split <;> simp

/-- A completed closure opens the next step of its stream, and the rest of the stream stays. -/
theorem StreamIs.completeClosure {s t : State} {st : Nat} {y : Stream} (h : StreamIs s t st y) (hs : y.ctx.state ≠ 0)
    (hc : y.clrPending = false) (hu : y.useRevoked = false) :
    ∃ z, StreamIs s (completeClosure t st) st z ∧ ButClosure y z ∧ Apart t (completeClosure t st) := by
  rw [completeClosure_eq]
  obtain ⟨hstr, hap⟩ := closureCounted_keeps t st
  obtain ⟨z, hz, hbut⟩ := ((h.of_streams hstr).mod stepOpened (stream_ne_of_state hs)).updBacklog hs
  have hzc : z.clrPending = false := by rw [hbut]; exact hc
  have hzu : z.useRevoked = false := by rw [hbut]; exact hu
  have hzs : z.ctx.state ≠ 0 := by rw [hbut]; exact hs
  obtain ⟨hstr', hap'⟩ := stepBoundary_keeps (s := Machine.updBacklog (modStream (closureCounted t st) st stepOpened) st) (st := st)
    (by rw [hz.1]; exact hzc) (by rw [hz.1]; exact hzu)
  obtain ⟨b, hb⟩ := pullEnd_streamIs (hz.of_streams hstr') hzs
  refine ⟨_, hb, ?_, ((hap.trans ?_).trans hap').trans (apart_pullEnd ..)⟩
  · rw [hbut]
    rfl
  · simp

/-! ## The decision is taken -/

/-- HOLD_RUN after a step of confidence `q`. -/
def holdAfter (c : StreamCtx) (q : U8) : U8 := if (stageOf c 0).hold ≤ q then 0 else if c.holdRun = 255 then 255 else c.holdRun + 1

/-- The context with which a decision starts. -/
def decisionCtx (x : Stream) (w : WaitDecision) : StreamCtx :=
  { x.ctx with curStep := w.stamp, holdRun := holdAfter x.ctx w.conf, sampleInStep := 0, peer := x.ctx.peer || w.lost }

/-- The stream as its decision is taken, with context `c`. -/
def decided (c : StreamCtx) (x : Stream) : Stream := { x with closedSteps := x.closedSteps + 1, ctx := c }

/-- What a decision of an OPEN stream asks for: nothing goes before it, nothing waits for the boundary, and the holds are empty. -/
structure Deciding (s : State) (st : Nat) (w : WaitDecision) : Prop where
  waits : (getStream s st).waiting = some w
  act : (getStream s st).act = none
  latched : (getStream s st).latched = none
  held : (getStream s st).held = none
  clear : (getStream s st).clrPending = false
  revoked : (getStream s st).useRevoked = false
  state : (getStream s st).ctx.state = 1
  hold : (getStream s st).hold = []
  reports : (getStream s st).reports = []
  wake : wakeOk (stageOf (getStream s st).ctx 0) = true
  prewake : prewakeOk (stageOf (getStream s st).ctx 0) = true
  holdOk : holdOk (stageOf (getStream s st).ctx 0) = true
  holdCount : holdCountOk (stageOf (getStream s st).ctx 0) = true

/-- The state in which the act of a decision takes place. -/
def atDecision (s : State) (st : Nat) (w : WaitDecision) (c : StreamCtx) : State :=
  modStream (closedCtx (copyFrame s st) st w.stamp w.lost) st (fun x => { x with ctx := c })

theorem atDecision_keeps (s : State) (st : Nat) (w : WaitDecision) (c : StreamCtx) :
    Apart s (atDecision s st w c) ∧ SameView s (atDecision s st w c) := by
  simp [atDecision, closedCtx]

theorem atDecision_streamIs {s : State} {st : Nat} (w : WaitDecision) {c : StreamCtx} (hs : (getStream s st).ctx.state ≠ 0) (hc : c.state ≠ 0) :
    StreamIs s (atDecision s st w c) st (decided c (getStream s st)) := by
  have h := ((StreamIs.refl s st).of_streams (u := copyFrame s st) (by simp)).mod
    (fun x => { x with closedSteps := x.closedSteps + 1, ctx := { x.ctx with curStep := w.stamp, sampleInStep := 0, peer := x.ctx.peer || w.lost } })
    (stream_ne_of_state hs)
  exact h.mod (fun x => { x with ctx := c }) (stream_ne_of_state hc)

theorem decideAct_of_regs {s t : State} (h : t.regs = s.regs) (x : Stream) (c : StreamCtx) (step : Stamp) (conf : U8) :
    decideAct t x c step conf = decideAct s x c step conf := by
  unfold decideAct reg
  rw [h]

/-- A decision whose records fit, and that has its buffer, takes effect, and the closure is complete. -/
theorem exec_decision {s : State} {st : StreamId} {w : WaitDecision} {a : Act} {c : StreamCtx} (hruns : Runs s)
    (h : Deciding s st.toNat w)
    (hd : decideAct s (getStream s st.toNat) (decisionCtx (getStream s st.toNat) w) w.stamp w.conf = (a, c))
    (hfit : let n := actNeeds (copyFrame s st.toNat) (getStream s st.toNat) a
      recordsFit (getStream s st.toNat) n.1 n.2 = true)
    (hsnap : ∀ spec, a = .begin spec → (getStream s st.toNat).ctx.nstage = 1 ∨ snapAvail (copyFrame s st.toNat) st.toNat = true)
    (hbad : ∀ k b, a ≠ .bad k b) :
    exec (.deferredResume st) s = .next
      (completeClosure (applyAct (atDecision s st.toNat w c) st.toNat w.stamp w.conf w.cls a) st.toNat) := by
  have hframe : getStream (copyFrame s st.toNat) st.toNat = getStream s st.toNat := getStream_copyFrame ..
  have hdecide : decideClose (copyFrame s st.toNat) st.toNat w =
      .inl (applyAct (atDecision s st.toNat w c) st.toNat w.stamp w.conf w.cls a) := by
    have hd' := (decideAct_of_regs (sameView_copyFrame s st.toNat).1 _ _ _ _).trans hd
    unfold decisionCtx holdAfter at hd'
    have h1 : ¬ (getStream s st.toNat).ctx.state ≠ 1 := by rw [h.state]; decide
    unfold decideClose
    simp only [hframe, h1, if_false, hd', hfit, Bool.not_true, Bool.false_eq_true]
    cases a with
    | bad k b => exact absurd rfl (hbad k b)
    | begin spec =>
      have hno : ((getStream s st.toNat).ctx.nstage != 1 && !snapAvail (copyFrame s st.toNat) st.toNat) = false := by
        rcases hsnap spec rfl with h | h <;> simp [h]
      simp only [hno, Bool.false_eq_true, if_false]
      rfl
    | nothing => rfl
    | defer => rfl
    | promote => rfl
    | cancel => rfl
  show execDeferredResume st s = _
  unfold execDeferredResume
  rw [live_runs hruns]
  simp only [h.act, Option.isSome_none, Bool.false_eq_true, if_false, h.waits]
  unfold decisionPhase
  rw [retryLatched_none h.latched]
  simp only [h.act, Option.isSome_none, Bool.not_true, Bool.or_self, Bool.false_eq_true, if_false, hdecide]

end Sys2Proof.Machine
end

section
/-! PROOFS. O27: what the decisions come to (R31 to R37). -/

namespace Sys2Proof.Machine

theorem stageOf_decisionCtx (x : Stream) (w : WaitDecision) (k : Nat) : stageOf (decisionCtx x w) k = stageOf x.ctx k := rfl
theorem decisionCtx_ep (x : Stream) (w : WaitDecision) : (decisionCtx x w).ep = x.ctx.ep := rfl
theorem decisionCtx_armed (x : Stream) (w : WaitDecision) : (decisionCtx x w).armed = x.ctx.armed := rfl
theorem decisionCtx_holdRun (x : Stream) (w : WaitDecision) : (decisionCtx x w).holdRun = holdAfter x.ctx w.conf := rfl

section
variable {s : State} {st : Nat} {w : WaitDecision}

/-! ## Which act -/

/-- IDLE and not armed, below HOLD_COUNT: nothing. -/
theorem decideAct_unarmed (h : Deciding s st w) (hep : (getStream s st).ctx.ep = 0) (harm : (getStream s st).ctx.armed = false)
    (hlt : holdAfter (getStream s st).ctx w.conf < (stageOf (getStream s st).ctx 0).holdCount) :
    decideAct s (getStream s st) (decisionCtx (getStream s st) w) w.stamp w.conf = (.nothing, decisionCtx (getStream s st) w) := by
  have hnot : ¬ (stageOf (getStream s st).ctx 0).holdCount.toNat ≤ (holdAfter (getStream s st).ctx w.conf).toNat :=
    Nat.not_le.mpr (BitVec.lt_def.mp hlt)
  unfold decideAct
  simp only [stageOf_decisionCtx, decisionCtx_ep, h.holdOk, h.holdCount, hep, decisionCtx_armed, harm, decisionCtx_holdRun, hnot, Bool.not_true, Bool.not_false, Bool.and_false, decide_false,
    Bool.false_eq_true, if_false, if_true]

/-- IDLE, armed, WAKE or more: an episode begins. -/
theorem decideAct_wakes (h : Deciding s st w) (hep : (getStream s st).ctx.ep = 0) (harm : (getStream s st).ctx.armed = true)
    (hwake : (stageOf (getStream s st).ctx 0).wake ≤ w.conf) :
    decideAct s (getStream s st) (decisionCtx (getStream s st) w) w.stamp w.conf = (.begin false, decisionCtx (getStream s st) w) := by
  have hroom : heldFull (getStream s st) = false := by simp [heldFull, h.hold, h.reports]
  unfold decideAct
  simp only [stageOf_decisionCtx, decisionCtx_ep, h.holdOk, h.wake, hep, decisionCtx_armed, harm, hwake, hroom, Bool.not_true, Bool.false_and, Bool.false_eq_true, if_false, if_true]

/-- IDLE, armed, PREWAKE or more but below WAKE, speculation on: a speculative episode begins. -/
theorem decideAct_prewakes (h : Deciding s st w) (hep : (getStream s st).ctx.ep = 0) (harm : (getStream s st).ctx.armed = true)
    (hwake : w.conf < (stageOf (getStream s st).ctx 0).wake) (hpre : (stageOf (getStream s st).ctx 0).prewake ≤ w.conf)
    (hspec : bitOf (reg s 0x08000) 2 = true) :
    decideAct s (getStream s st) (decisionCtx (getStream s st) w) w.stamp w.conf = (.begin true, decisionCtx (getStream s st) w) := by
  have hroom : heldFull (getStream s st) = false := by simp [heldFull, h.hold, h.reports]
  have hno : ¬ (stageOf (getStream s st).ctx 0).wake ≤ w.conf := BitVec.not_le.mpr hwake
  unfold decideAct
  simp only [stageOf_decisionCtx, decisionCtx_ep, h.holdOk, h.wake, h.prewake, hep, decisionCtx_armed, harm, hno, hpre, hspec, hroom, Bool.not_true, Bool.false_and, Bool.and_true, decide_true,
    Bool.false_eq_true, if_false, if_true]

/-- SPEC, WAKE or more: the episode is promoted. -/
theorem decideAct_promotes (h : Deciding s st w) (hep : (getStream s st).ctx.ep = 1) (hwake : (stageOf (getStream s st).ctx 0).wake ≤ w.conf) :
    decideAct s (getStream s st) (decisionCtx (getStream s st) w) w.stamp w.conf = (.promote, decisionCtx (getStream s st) w) := by
  unfold decideAct
  simp only [stageOf_decisionCtx, decisionCtx_ep, h.holdOk, h.wake, hep, hwake, Bool.not_true, Bool.false_eq_true, if_false, if_true, true_or]
  rfl

/-- SPEC, below WAKE, HOLD_RUN at HOLD_COUNT: the episode is cancelled. -/
theorem decideAct_cancels (h : Deciding s st w) (hep : (getStream s st).ctx.ep = 1) (hwake : w.conf < (stageOf (getStream s st).ctx 0).wake)
    (hcount : (stageOf (getStream s st).ctx 0).holdCount ≤ holdAfter (getStream s st).ctx w.conf) :
    decideAct s (getStream s st) (decisionCtx (getStream s st) w) w.stamp w.conf = (.cancel, decisionCtx (getStream s st) w) := by
  have hno : ¬ (stageOf (getStream s st).ctx 0).wake ≤ w.conf := BitVec.not_le.mpr hwake
  unfold decideAct
  simp only [stageOf_decisionCtx, decisionCtx_ep, h.holdOk, h.wake, h.holdCount, hep, hno, decisionCtx_holdRun, hcount, Bool.not_true, Bool.false_eq_true, if_false, if_true, true_or]
  rfl

end

/-! ## What the act makes of the stream -/

/-- A stream whose episode begins. -/
def begun (spec : Bool) (x : Stream) : Stream := { x with specf := spec, ctx := { x.ctx with armed := false } }

/-- A program of one stage notifies. -/
theorem StreamIs.beginSingle {s t : State} {st : Nat} {y : Stream} (h : StreamIs s t st y) (hs : y.ctx.state ≠ 0) (hn : y.ctx.nstage = 1)
    (step : Stamp) (conf : U8) (cls : U16) (spec : Bool) :
    StreamIs s (beginEpisode t st step conf cls spec) st (withNote 0 step conf cls stOk (begun spec y)) ∧
      Apart t (beginEpisode t st step conf cls spec) := by
  have heq : beginEpisode t st step conf cls spec = Machine.notify (modStream t st (begun spec)) st 0 step conf cls stOk := by
    unfold beginEpisode
    simp only [h.1, hn, if_true]
    rfl
  rw [heq]
  exact ⟨(h.mod (begun spec) (stream_ne_of_state hs)).notify 0 step conf cls stOk, by simp⟩

/-- A stream with a job of stage `k` outstanding. -/
def withJob (o : OutJob) (k : Nat) (x : Stream) : Stream := { x with job := some o, ctx := { x.ctx with actStage := BitVec.ofNat 3 k } }

/-- A job is issued: the stream has it outstanding, and the buffers stay as they are. -/
theorem StreamIs.issueCasc {s t : State} {st : Nat} {y : Stream} (h : StreamIs s t st y) (hs : y.ctx.state ≠ 0) (k buf : Nat)
    (stamp : Stamp) (spec : Bool) :
    StreamIs s (issueCasc t st k buf stamp spec) st
        (withJob { stage := BitVec.ofNat 3 k, stamp := stamp, gen := y.ctx.gen, job := t.nextJob, buf := buf } k y) ∧
      (issueCasc t st k buf stamp spec).snaps = t.snaps := by
  have hj := (h.of_streams (u := copySnap t st buf (stageOf y.ctx k).inputSteps.toNat (ordinalOf y stamp + 1)) (by simp)).mod
    (withJob { stage := BitVec.ofNat 3 k, stamp := stamp, gen := y.ctx.gen, job := t.nextJob, buf := buf } k) (stream_ne_of_state hs)
  have hview := (sameView_copySnap t st buf (stageOf y.ctx k).inputSteps.toNat (ordinalOf y stamp + 1)).2.2
  refine ⟨hj.of_streams ?_, ?_⟩
  · unfold Machine.issueCasc
    simp only [h.1, hview]
    repeat' split
    all_goals simp only [quiet_addJob, quiet_hopPass]; rfl
  · unfold Machine.issueCasc
    dsimp only
    repeat' split
    all_goals simp [addJob]

/-- A stream whose speculative episode has begun with job `o`. -/
def speculative (o : OutJob) (step : Stamp) (x : Stream) : Stream :=
  let y := withJob o 1 { begun true x with ctx := { (begun true x).ctx with specStamp := step } }
  { y with ctx := { y.ctx with ep := 1, stPrewake := satAdd 32 y.ctx.stPrewake 1 } }

/-- A speculative episode of a program of several stages takes the lowest free buffer and issues stage 1. -/
theorem StreamIs.beginSpec {s t : State} {st : Nat} {y : Stream} (h : StreamIs s t st y) (hs : y.ctx.state ≠ 0) (hn : y.ctx.nstage ≠ 1)
    {b : Nat} (hb : freeSnap t = some b) (step : Stamp) (conf : U8) (cls : U16) :
    StreamIs s (beginEpisode t st step conf cls true) st
        (speculative { stage := 1, stamp := step, gen := y.ctx.gen, job := t.nextJob, buf := b } step y) ∧
      (beginEpisode t st step conf cls true).snaps = smSet none t.snaps b (some (BitVec.ofNat 14 st)) := by
  have hbegun := h.mod (begun true) (stream_ne_of_state hs)
  have hspec := (hbegun.of_streams (u := takeSnap (modStream t st (begun true)) b (BitVec.ofNat 14 st)) (by simp)).modCtx
    (fun c => { c with specStamp := step }) hs
  obtain ⟨hjob, hsnaps⟩ := hspec.issueCasc hs 1 b step true
  have hep := hjob.modCtx (fun c => { c with ep := 1, stPrewake := satAdd 32 c.stPrewake 1 }) hs
  have hfree : freeSnap (modStream t st (begun true)) = some b := by
    unfold freeSnap at hb ⊢
    simpa only [modStream_frame] using hb
  have heq : beginEpisode t st step conf cls true =
      c64 (Machine.modCtx (Machine.issueCasc (Machine.modCtx (takeSnap (modStream t st (begun true)) b (BitVec.ofNat 14 st)) st
        (fun c => { c with specStamp := step })) st 1 b step true) st
        (fun c => { c with ep := 1, stPrewake := satAdd 32 c.stPrewake 1 })) 0x08018 1 := by
    unfold beginEpisode
    simp only [h.1, hn, if_false, if_true]
    unfold begun at hfree
    simp only [hfree]
    rfl
  rw [heq]
  refine ⟨hep.of_streams (by simp), ?_⟩
  simp only [c64_frame, modCtx_frame, hsnaps]
  rfl

/-- A stream whose episode has been promoted. -/
def promoted (x : Stream) : Stream := { x with ctx := { x.ctx with ep := 3, stPromote := satAdd 32 x.ctx.stPromote 1 } }

/-- A promotion without a notification and without a result held. -/
theorem StreamIs.promote {s t : State} {st : Nat} {y : Stream} (h : StreamIs s t st y) (hs : y.ctx.state ≠ 0)
    (hn : (stageOf y.ctx 0).notify = false) (hheld : y.held = none) (step : Stamp) (conf : U8) (cls : U16) :
    StreamIs s (promoteEpisode t st step conf cls) st (promoted y) := by
  have hp := (h.modCtx (fun c => { c with ep := 3, stPromote := satAdd 32 c.stPromote 1 }) hs).of_streams
    (u := c64 (Machine.modCtx t st (fun c => { c with ep := 3, stPromote := satAdd 32 c.stPromote 1 })) 0x08020 1) rfl
  unfold promoteEpisode
  simp only [h.1, hn, hheld, Bool.false_eq_true, if_false]
  split
  · exact hp.of_streams (by simp)
  · exact hp

/-- A cancelled episode is given up, and ARMED follows the hold run. -/
theorem StreamIs.cancel {s t : State} {st : Nat} {y : Stream} (h : StreamIs s t st y) (hs : y.ctx.state ≠ 0) :
    ∃ z, Abandoned y z ∧ StreamIs s (cancelEpisode t st) st (atRest z) := by
  obtain ⟨z, hz, hab⟩ := h.abandon hs
  have hzs : z.ctx.state ≠ 0 := by rw [hab]; exact hs
  exact ⟨z, hab, hz.upd rfl (stream_ne_of_state hzs)⟩

end Sys2Proof.Machine
end

section
/-! PROOFS. O27: a decision and the boundary after it. -/

namespace Sys2Proof.Machine

/-- What the boundary of a step leaves of a stream. -/
theorem ButClosure.fields {x y : Stream} (h : ButClosure x y) :
    y.ctx.ep = x.ctx.ep ∧ y.ctx.holdRun = x.ctx.holdRun ∧ y.ctx.curStep = x.ctx.curStep ∧ y.ctx.armed = x.ctx.armed ∧
      y.ctx.specStamp = x.ctx.specStamp ∧ y.ctx.actStage = x.ctx.actStage ∧ y.hold = x.hold ∧ y.job = x.job := by
  rw [h]
  exact ⟨rfl, rfl, rfl, rfl, rfl, rfl, rfl, rfl⟩

section
variable {s : State} {st : StreamId} {w : WaitDecision}

theorem Deciding.fits (h : Deciding s st.toNat w) {n m : Nat} (hn : n ≤ 2) (hm : m ≤ 2) :
    recordsFit (getStream s st.toNat) n m = true := by
  simp [recordsFit, h.hold, h.reports, hn, hm]

theorem Deciding.state_ne (h : Deciding s st.toNat w) : (decided (decisionCtx (getStream s st.toNat) w) (getStream s st.toNat)).ctx.state ≠ 0 := by
  show (getStream s st.toNat).ctx.state ≠ 0
  rw [h.state]
  decide

/-- The stream as its act takes place. -/
theorem Deciding.streamIs (h : Deciding s st.toNat w) :
    StreamIs s (atDecision s st.toNat w (decisionCtx (getStream s st.toNat) w)) st.toNat
      (decided (decisionCtx (getStream s st.toNat) w) (getStream s st.toNat)) :=
  atDecision_streamIs w h.state_ne h.state_ne

/-- A decision and the closure that it completes: the act leaves stream `y`, and the boundary little else. -/
theorem Deciding.closes {a : Act} {u : State} {y : Stream} (h : Deciding s st.toNat w) (hruns : Runs s)
    (hd : decideAct s (getStream s st.toNat) (decisionCtx (getStream s st.toNat) w) w.stamp w.conf = (a, decisionCtx (getStream s st.toNat) w))
    (hfit : (actNeeds (copyFrame s st.toNat) (getStream s st.toNat) a).1 ≤ 2 ∧ (actNeeds (copyFrame s st.toNat) (getStream s st.toNat) a).2 ≤ 2)
    (hsnap : ∀ spec, a = .begin spec → (getStream s st.toNat).ctx.nstage = 1 ∨ snapAvail (copyFrame s st.toNat) st.toNat = true)
    (hbad : ∀ k b, a ≠ .bad k b)
    (hu : applyAct (atDecision s st.toNat w (decisionCtx (getStream s st.toNat) w)) st.toNat w.stamp w.conf w.cls a = u)
    (hy : StreamIs s u st.toNat y) (hs : y.ctx.state ≠ 0) (hc : y.clrPending = false) (hr : y.useRevoked = false) :
    ∃ t, exec (.deferredResume st) s = .next t ∧ ButClosure y (getStream t st.toNat) ∧ Apart u t := by
  obtain ⟨z, hz, hbut, hap⟩ := hy.completeClosure hs hc hr
  refine ⟨completeClosure u st.toNat, ?_, by rw [hz.1]; exact hbut, hap⟩
  rw [exec_decision hruns h hd (h.fits hfit.1 hfit.2) hsnap hbad, hu]

/-- IDLE, not armed, HOLD_RUN below HOLD_COUNT: nothing begins. -/
theorem decision_nothing (h : Deciding s st.toNat w) (hruns : Runs s) (hep : (getStream s st.toNat).ctx.ep = 0)
    (harm : (getStream s st.toNat).ctx.armed = false)
    (hlt : holdAfter (getStream s st.toNat).ctx w.conf < (stageOf (getStream s st.toNat).ctx 0).holdCount) :
    ∃ t, exec (.deferredResume st) s = .next t ∧ let y := getStream t st.toNat
      y.ctx.ep = 0 ∧ y.ctx.holdRun = holdAfter (getStream s st.toNat).ctx w.conf ∧ y.ctx.curStep = w.stamp ∧ y.ctx.armed = false ∧
        y.hold = [] ∧ y.job = (getStream s st.toNat).job ∧ t.jobs = s.jobs := by
  obtain ⟨t, ht, hbut, hap⟩ := h.closes hruns (decideAct_unarmed h hep harm hlt) (by simp [actNeeds]) nofun nofun rfl h.streamIs
    h.state_ne h.clear h.revoked
  obtain ⟨hbep, hrun, hstep, hbarm, -, -, hhold, hjob⟩ := hbut.fields
  exact ⟨t, ht, hbep.trans hep, hrun, hstep, hbarm.trans harm, hhold.trans h.hold, hjob,
    hap.2.1.trans (atDecision_keeps s st.toNat w _).1.2.1⟩

/-- IDLE, armed, WAKE or more, one stage: a notification is held. -/
theorem decision_notifies (h : Deciding s st.toNat w) (hruns : Runs s) (hep : (getStream s st.toNat).ctx.ep = 0)
    (harm : (getStream s st.toNat).ctx.armed = true) (hwake : (stageOf (getStream s st.toNat).ctx 0).wake ≤ w.conf)
    (hn : (getStream s st.toNat).ctx.nstage = 1) :
    ∃ t r, exec (.deferredResume st) s = .next t ∧ let y := getStream t st.toNat
      y.ctx.ep = 0 ∧ y.ctx.armed = false ∧ y.hold = [r] ∧ r.stage = 0 ∧ r.status = 0 ∧ r.conf = w.conf ∧ r.cls = w.cls ∧
        r.stamp = w.stamp ∧ r.seq = (getStream s st.toNat).seq ∧ r.gen = (getStream s st.toNat).ctx.gen ∧ r.last = true ∧
        r.specf = false ∧ t.jobs = s.jobs := by
  obtain ⟨hy, hapart⟩ := h.streamIs.beginSingle h.state_ne hn w.stamp w.conf w.cls false
  obtain ⟨t, ht, hbut, hap⟩ := h.closes hruns (decideAct_wakes h hep harm hwake) (by simp [actNeeds, hn]) (fun _ _ => .inl hn)
    nofun rfl hy h.state_ne h.clear h.revoked
  obtain ⟨hbep, -, -, hbarm, -, -, hhold, -⟩ := hbut.fields
  refine ⟨t, noteOf (begun false (decided (decisionCtx (getStream s st.toNat) w) (getStream s st.toNat))) 0 w.stamp w.conf w.cls stOk, ht,
    hbep.trans hep, hbarm, ?_, rfl, rfl, rfl, rfl, rfl, rfl, rfl, ?_, rfl,
    (hap.2.1.trans hapart.2.1).trans (atDecision_keeps s st.toNat w _).1.2.1⟩
  · rw [hhold]
    show (getStream s st.toNat).hold ++ [_] = _
    rw [h.hold]
    rfl
  · show (0 + 1 == (getStream s st.toNat).ctx.nstage.toNat) = true
    rw [hn]
    rfl

/-- IDLE, armed, PREWAKE or more but below WAKE, several stages: a speculative episode begins on the lowest free buffer. -/
theorem decision_speculates (h : Deciding s st.toNat w) (hruns : Runs s) (hep : (getStream s st.toNat).ctx.ep = 0)
    (harm : (getStream s st.toNat).ctx.armed = true) (hwake : w.conf < (stageOf (getStream s st.toNat).ctx 0).wake)
    (hpre : (stageOf (getStream s st.toNat).ctx 0).prewake ≤ w.conf) (hspec : bitOf (reg s 0x08000) 2 = true)
    (hn : (getStream s st.toNat).ctx.nstage ≠ 1) (hline : s.snapWait = []) (hused : s.snaps.length < 1024) {b : Nat}
    (hb : freeSnap s = some b) :
    ∃ t, exec (.deferredResume st) s = .next t ∧ let y := getStream t st.toNat
      y.ctx.ep = 1 ∧ y.ctx.armed = false ∧ y.ctx.specStamp = w.stamp ∧ y.ctx.actStage = 1 ∧ y.hold = [] ∧
        y.job = some { stage := 1, stamp := w.stamp, gen := (getStream s st.toNat).ctx.gen, job := s.nextJob, buf := b } ∧
        smGet none t.snaps b = some st := by
  obtain ⟨hkeep, hview⟩ := atDecision_keeps s st.toNat w (decisionCtx (getStream s st.toNat) w)
  have hfree : freeSnap (atDecision s st.toNat w (decisionCtx (getStream s st.toNat) w)) = some b := by
    unfold freeSnap at hb ⊢
    rwa [hkeep.2.2]
  have havail : snapAvail (copyFrame s st.toNat) st.toNat = true := by
    simp [snapAvail, snapUsed, hline, hused]
  obtain ⟨hy, hsnaps⟩ := h.streamIs.beginSpec h.state_ne hn hfree w.stamp w.conf w.cls
  obtain ⟨t, ht, hbut, hap⟩ := h.closes hruns (decideAct_prewakes h hep harm hwake hpre hspec) (by simp only [actNeeds, hn, if_false, if_true]; decide) (fun _ _ => .inr havail)
    nofun rfl hy h.state_ne h.clear h.revoked
  obtain ⟨hbep, -, -, hbarm, hbspec, hbstage, hhold, hjob⟩ := hbut.fields
  refine ⟨t, ht, hbep, hbarm, hbspec, hbstage, hhold.trans h.hold, hjob.trans ?_, ?_⟩
  · rw [hview.2.2]
    rfl
  · rw [hap.2.2, applyAct, hsnaps, smGet_smSet_same _ _ (by simp)]
    simp

/-- SPEC, WAKE or more, no notification of stage 0: EP is ACTIVE. -/
theorem decision_promotes (h : Deciding s st.toNat w) (hruns : Runs s) (hep : (getStream s st.toNat).ctx.ep = 1)
    (hwake : (stageOf (getStream s st.toNat).ctx 0).wake ≤ w.conf) (hn : (stageOf (getStream s st.toNat).ctx 0).notify = false) :
    ∃ t, exec (.deferredResume st) s = .next t ∧ let y := getStream t st.toNat
      y.ctx.ep = 3 ∧ y.hold = [] ∧ y.job = (getStream s st.toNat).job := by
  have hy := h.streamIs.promote h.state_ne hn h.held w.stamp w.conf w.cls
  obtain ⟨t, ht, hbut, -⟩ := h.closes hruns (decideAct_promotes h hep hwake) (by simp [actNeeds, h.held, hn, b2n]) nofun
    nofun rfl hy h.state_ne h.clear h.revoked
  obtain ⟨hbep, -, -, -, -, -, hhold, hjob⟩ := hbut.fields
  exact ⟨t, ht, hbep, hhold.trans h.hold, hjob⟩

/-- SPEC, below WAKE, HOLD_RUN at HOLD_COUNT: EP is IDLE, with no job. -/
theorem decision_cancels (h : Deciding s st.toNat w) (hruns : Runs s) (hep : (getStream s st.toNat).ctx.ep = 1)
    (hwake : w.conf < (stageOf (getStream s st.toNat).ctx 0).wake)
    (hcount : (stageOf (getStream s st.toNat).ctx 0).holdCount ≤ holdAfter (getStream s st.toNat).ctx w.conf) :
    ∃ t, exec (.deferredResume st) s = .next t ∧ let y := getStream t st.toNat
      y.ctx.ep = 0 ∧ y.job = none ∧ y.hold = [] ∧ y.ctx.armed = true := by
  obtain ⟨z, hab, hz⟩ := h.streamIs.cancel h.state_ne
  have hone : b2n (owesReport (copyFrame s st.toNat) (getStream s st.toNat)) ≤ 2 := by unfold b2n; split <;> omega
  obtain ⟨t, ht, hbut, -⟩ := h.closes hruns (decideAct_cancels h hep hwake hcount) ⟨Nat.zero_le _, hone⟩ nofun nofun rfl hz
    (by rw [hab]; exact h.state_ne) (by rw [hab]; exact h.clear) (by rw [hab]; exact h.revoked)
  obtain ⟨hbep, -, -, hbarm, -, -, hhold, hjob⟩ := hbut.fields
  refine ⟨t, ht, hbep, hjob, ?_, hbarm.trans ?_⟩
  · rw [hhold, hab]
    exact h.hold
  · rw [hab]
    exact decide_eq_true (BitVec.le_def.mp hcount)

end

/-- Settles O27, by the act that each decision comes to, and by what the boundary after it leaves of the stream. -/
theorem stepDecisions : Obligations.StepDecisions := by
  unfold Obligations.StepDecisions
  intro s st w hruns _ x c e hr hwait hact hlat hheld hclr hrev hst hhold hrep hwake hpre hho hhc _ hline
  have h : Deciding s st.toNat w := ⟨hwait, hact, hlat, hheld, hclr, hrev, hst, hhold, hrep, hwake, hpre, hho, hhc⟩
  exact ⟨fun hep harm hlt => decision_nothing h hruns hep harm hlt,
    fun hep harm hw hn => decision_notifies h hruns hep harm hw hn,
    fun b hep harm hw hp hs hn hu hb => decision_speculates h hruns hep harm hw hp hs hn hline hu hb,
    fun hep hw hn => decision_promotes h hruns hep hw hn,
    fun hep hw hc => decision_cancels h hruns hep hw hc⟩

end Sys2Proof.Machine
end

section
/-! PROOFS. The protection tables through a revocation (R58, R106): what a commit does to streams leaves them. -/

namespace Sys2Proof.Machine

/-! ## Streams that close or are suspended -/

@[simp] theorem prot_removeJob (s : State) (jn : Nat) : (removeJob s jn).prot = s.prot := rfl

@[simp] theorem prot_foldl {α : Type} {f : State → α → State} (hf : ∀ t a, (f t a).prot = t.prot) (l : List α) (s : State) :
    (l.foldl f s).prot = s.prot :=
  foldl_keeps (P := fun t => t.prot = s.prot) (fun t a h => (hf t a).trans h) l s rfl

@[simp] theorem prot_withdrawJob (s : State) (st : Nat) (cancel : Bool) : (withdrawJob s st cancel).prot = s.prot := by
  unfold withdrawJob
  dsimp only
  repeat' split
  all_goals simp

@[simp] theorem prot_abandon (s : State) (st : Nat) : (abandon s st).prot = s.prot := by simp [abandon, countCancel]

@[simp] theorem prot_closeStream (s : State) (st : Nat) (drain : Bool) (desc : Option DescRef) :
    (closeStream s st drain desc).prot = s.prot := by simp [closeStream]

@[simp] theorem prot_closeNoDrain (s : State) (st : Nat) (desc : Option DescRef) : (closeNoDrain s st desc).prot = s.prot := by
  simp [closeNoDrain]

@[simp] theorem prot_suspendStream (s : State) (st : Nat) : (suspendStream s st).prot = s.prot := by
  unfold suspendStream
  dsimp only
  split <;> simp [endStreamOp]

@[simp] theorem prot_startClose (s : State) (st : Nat) (d : Option DescRef) : (startAct s st (.close d)).prot = s.prot := by
  simp [startAct, runAct]

@[simp] theorem prot_discardReports (s : State) (st : Nat) : (discardReports s st).prot = s.prot := by simp [discardReports]

@[simp] theorem prot_revokeStream (s : State) (st : Nat) : (revokeStream s st).prot = s.prot := by
  unfold revokeStream
  dsimp only
  repeat' split
  all_goals simp

/-! ## Ring pairs, events and conduits -/

theorem abortRing_keeps (s : State) (p : Nat) : (abortRing s p).streams = s.streams ∧ (abortRing s p).prot = s.prot := by
  have hjobs := foldl_keeps (P := fun t : State => t.streams = s.streams ∧ t.prot = s.prot)
    (f := fun t (e : Nat × DescRef) => finish (removeJob t e.1) e.2 (plain stAborted)) (fun t e h => by simpa using h) (queuedOf s p) s ⟨rfl, rfl⟩
  exact hjobs

theorem revokeRings_keeps (old s : State) : (revokeRings old s).streams = s.streams ∧ (revokeRings old s).prot = s.prot := by
  unfold revokeRings
  refine foldl_keeps (P := fun t => t.streams = s.streams ∧ t.prot = s.prot) (fun t p h => ?_) _ s ⟨rfl, rfl⟩
  dsimp only
  split
  · obtain ⟨hs, hp⟩ := abortRing_keeps t p
    exact ⟨hs.trans h.1, hp.trans h.2⟩
  · exact h

theorem revokeEvents_keeps (s : State) : (revokeEvents s).streams = s.streams ∧ (revokeEvents s).prot = s.prot := by
  unfold revokeEvents
  dsimp only
  exact foldl_keeps (P := fun t : State => t.streams = s.streams ∧ t.prot = s.prot) (fun t st h => by simpa using h) _ _ ⟨rfl, rfl⟩

theorem revokeConduit_keeps (s : State) (n : Nat) : (revokeConduit s n).streams = s.streams ∧ (revokeConduit s n).prot = s.prot := by
  unfold revokeConduit
  dsimp only
  split <;> simp [abortSend, conduitError, noRight]

/-! ## What a revocation makes of one stream -/

theorem StreamIs.moveIfIdle {s t : State} {st q : Nat} {y : Stream} (h : StreamIs s t st y) : StreamIs s (moveIfIdle t q) st y :=
  h.of_streams (by simp)

/-- A suspension changes its own stream only. -/
theorem StreamIs.suspendStream {s t : State} {st : Nat} {y : Stream} (h : StreamIs s t st y) :
    ∃ z, StreamIs s (suspendStream t st) st z := by
  obtain ⟨z, hz, -⟩ := (h.mod (fun x => { x with closeDesc := none, drain := false, ctx := { x.ctx with state := 3 } })
    (stream_ne_of_state (by simp))).dropIngests (by simp)
  unfold Machine.suspendStream
  dsimp only
  split
  · exact ⟨z, (hz.of_streams (by simp [endStreamOp])).moveIfIdle⟩
  · exact ⟨z, hz.moveIfIdle⟩

/-- A close without DRAIN changes its own stream only. -/
theorem StreamIs.closeNoDrain {s t : State} {st : Nat} {y : Stream} (h : StreamIs s t st y) (d : Option DescRef) :
    ∃ z, StreamIs s (closeNoDrain t st d) st z := by
  unfold Machine.closeNoDrain
  simp only [h.1]
  split
  · exact ⟨y, h⟩
  next h0 =>
    split
    · exact ⟨_, h.mod (fun x => { x with closeDesc := d }) (stream_ne_of_state h0)⟩
    · obtain ⟨z, hz, -⟩ := h.closeStream false d
      exact ⟨z, hz⟩

theorem runAct_close (s : State) (st : Nat) (d : Option DescRef) :
    runAct s st (.close d) = moveIfIdle (closeNoDrain (c32 s 0x9005C (heldRecords (getStream s st))) st d) st := rfl

/-- An act on a stream gives way to the one that waits, waits itself, or takes place. -/
theorem startAct_cases (s : State) (st : Nat) (a : StreamAct) :
    startAct s st a = s ∨ (∃ u, u.streams = s.streams ∧ startAct s st a = modStream u st (fun x => { x with act := some a })) ∨
      startAct s st a = runAct (modStream s st (fun x => { x with act := none })) st a := by
  have hcases : ∀ n : Nat,
      let t := if actRank a ≤ n then s
        else if actWaits s st = true then
          modStream (if (getStream s st).act.isSome = true then s else c32 s 0x0804C 1) st (fun x => { x with act := some a })
        else runAct (modStream s st (fun x => { x with act := none })) st a
      t = s ∨ (∃ u, u.streams = s.streams ∧ t = modStream u st (fun x => { x with act := some a })) ∨
        t = runAct (modStream s st (fun x => { x with act := none })) st a := by
    intro n
    dsimp only
    split
    · exact .inl rfl
    · split
      · exact .inr (.inl ⟨_, by split <;> rfl, rfl⟩)
      · exact .inr (.inr rfl)
  exact hcases _

/-- A close from without changes its own stream only. -/
theorem StreamIs.startClose {s t : State} {st : Nat} {y : Stream} (h : StreamIs s t st y) (hs : y.ctx.state ≠ 0) (d : Option DescRef) :
    ∃ z, StreamIs s (startAct t st (.close d)) st z := by
  rcases startAct_cases t st (.close d) with heq | ⟨u, hu, heq⟩ | heq
  · exact ⟨y, by rwa [heq]⟩
  · rw [heq]
    exact ⟨_, (h.of_streams hu).mod (fun x => { x with act := some (.close d) }) (stream_ne_of_state hs)⟩
  · rw [heq, runAct_close]
    obtain ⟨z, hz⟩ := ((h.mod (fun x => { x with act := none }) (stream_ne_of_state hs)).of_streams
      (u := c32 (modStream t st (fun x => { x with act := none })) 0x9005C _) rfl).closeNoDrain d
    exact ⟨z, hz.moveIfIdle⟩

/-- A stream whose reports may have been discarded (R106). -/
theorem StreamIs.discardReports {s t : State} {st : Nat} {y : Stream} (h : StreamIs s t st y) (hs : y.ctx.state ≠ 0) :
    ∃ l, StreamIs s (discardReports t st) st { y with reports := l } ∧ l.length ≤ y.reports.length := by
  unfold Machine.discardReports
  dsimp only
  split
  · exact ⟨_, h, Nat.le_refl _⟩
  · exact ⟨[], (h.of_streams (u := c32 t 0x9005C _) rfl).mod (fun x => { x with reports := [] }) (stream_ne_of_state hs), Nat.zero_le _⟩

/-- A commit does to a stream what it does, and nothing to the others. -/
theorem StreamIs.revokeStream {s t : State} {st : Nat} {y : Stream} (h : StreamIs s t st y) : ∃ z, StreamIs s (revokeStream t st) st z := by
  unfold Machine.revokeStream
  simp only [h.1]
  split
  · exact ⟨y, h⟩
  next hs =>
    obtain ⟨l, hl, -⟩ := h.discardReports hs
    split
    · exact hl.startClose hs _
    · split
      · exact ⟨_, hl⟩
      · split
        · exact hl.suspendStream
        · split
          · exact ⟨_, hl.mod (fun x => { x with useRevoked := true }) (stream_ne_of_state hs)⟩
          · exact ⟨_, hl⟩

/-- A stream closed by a commit. -/
def RevokedFrom (x y : Stream) : Prop := y.ctx.state = 2 ∧ y.ctx.gen = x.ctx.gen + 1 ∧ y.hold = []

/-- A close from without of a stream with room in its report hold, for which nothing waits. -/
theorem startClose_closes {s t : State} {st : Nat} {y : Stream} (h : StreamIs s t st y) (hs : y.ctx.state ≠ 0) (h2 : y.ctx.state ≠ 2)
    (hact : y.act = none) (hroom : reportRoom y = true) (d : Option DescRef) :
    ∃ z, StreamIs s (startAct t st (.close d)) st z ∧ RevokedFrom y z := by
  have hact' := (h.mod (fun x => { x with act := none }) (stream_ne_of_state hs)).of_streams
    (u := c32 (modStream t st (fun x => { x with act := none })) 0x9005C
      (heldRecords (getStream (modStream t st (fun x => { x with act := none })) st))) rfl
  obtain ⟨z, hz, hc⟩ := hact'.closeStream false d
  obtain ⟨hgen, -, -, hhold, -⟩ := hc.atOnce rfl
  refine ⟨z, ?_, hc.state, hgen, hhold⟩
  have hwaits : actWaits t st = false := by
    unfold actWaits
    simp only [h.1, hroom]
    simp
  have hclose : closeNoDrain (c32 (modStream t st (fun x => { x with act := none })) 0x9005C
      (heldRecords (getStream (modStream t st (fun x => { x with act := none })) st))) st d =
      closeStream (c32 (modStream t st (fun x => { x with act := none })) 0x9005C
        (heldRecords (getStream (modStream t st (fun x => { x with act := none })) st))) st false d := by
    unfold closeNoDrain
    simp only [hact'.1, hs, h2, false_and, if_false]
  have hrank : ¬ actRank (.close d) ≤ 0 := by simp [actRank]
  unfold startAct
  simp only [h.1, hact, hrank, if_false, hwaits, Bool.false_eq_true]
  rw [runAct_close, hclose]
  exact hz.moveIfIdle

/-- A stream whose owner no longer owns it is closed. -/
theorem revokeStream_closes {s t : State} {st : Nat} {y : Stream} (h : StreamIs s t st y) (hs : y.ctx.state ≠ 0) (h2 : y.ctx.state ≠ 2)
    (hact : y.act = none) (hroom : reportRoom y = true) (hown : ownsStream t y.ctx.owner.toNat st = false) :
    ∃ z, StreamIs s (revokeStream t st) st z ∧ RevokedFrom y z := by
  obtain ⟨l, hl, hlen⟩ := h.discardReports hs
  have hown' : ownsStream (discardReports t st) y.ctx.owner.toNat st = false := by
    unfold ownsStream protGet at hown ⊢
    rwa [prot_discardReports]
  have hroom' : reportRoom { y with reports := l } = true := by
    simp only [reportRoom, decide_eq_true_eq] at hroom ⊢
    omega
  unfold revokeStream
  simp only [h.1, hs, if_false, hown', Bool.not_false, if_true]
  exact startClose_closes hl hs h2 hact hroom' _

/-! ## All streams -/

/-- Streams other than those of a list stay. -/
theorem revokeStreams_others (l : List Nat) (s : State) {st : Nat} (h : st ∉ l) :
    getStream (l.foldl revokeStream s) st = getStream s st := by
  induction l generalizing s with
  | nil => rfl
  | cons q l ih =>
    rw [List.mem_cons, not_or] at h
    obtain ⟨z, hz⟩ := (StreamIs.refl s q).revokeStream
    exact (ih (revokeStream s q) h.2).trans (hz.2 st h.1)

/-- Of the streams listed, each once, every one with room whose owner no longer owns it is closed. -/
theorem revokeStreams_closes {l : List Nat} (hl : l.Nodup) (s : State) {st : Nat} (hmem : st ∈ l) (hs : (getStream s st).ctx.state ≠ 0)
    (h2 : (getStream s st).ctx.state ≠ 2) (hact : (getStream s st).act = none) (hroom : reportRoom (getStream s st) = true)
    (hown : ownsStream s (getStream s st).ctx.owner.toNat st = false) :
    RevokedFrom (getStream s st) (getStream (l.foldl revokeStream s) st) := by
  obtain ⟨l₁, l₂, rfl⟩ := List.append_of_mem hmem
  obtain ⟨-, hl₂, hne⟩ := List.nodup_append.mp hl
  have h₁ : st ∉ l₁ := fun hm => hne st hm st (List.mem_cons_self ..) rfl
  have h₂ : st ∉ l₂ := (List.nodup_cons.mp hl₂).1
  have hbefore := revokeStreams_others l₁ s h₁
  have hown' : ownsStream (l₁.foldl revokeStream s) (getStream s st).ctx.owner.toNat st = false := by
    unfold ownsStream protGet at hown ⊢
    rwa [prot_foldl prot_revokeStream]
  obtain ⟨z, hz, hrev⟩ := revokeStream_closes (StreamIs.refl (l₁.foldl revokeStream s) st) (by rwa [hbefore]) (by rwa [hbefore])
    (by rwa [hbefore]) (by rwa [hbefore]) (by rwa [hbefore])
  rw [List.foldl_append, List.foldl_cons, revokeStreams_others l₂ _ h₂, hz.1]
  rwa [hbefore] at hrev

end Sys2Proof.Machine
end

section
/-! PROOFS. O38: the shadow, its commit, and the end of a revocation (R104 to R107). -/

namespace Sys2Proof.Machine

theorem keys_nodup {α : Type} {m : SMap α} (h : SmSorted m) : (m.map (·.1)).Nodup :=
  (smSorted_keys h).imp (fun hlt => Nat.ne_of_lt hlt)

/-- The state as a commit begins: its tables are in force. -/
def committed (s : State) : State :=
  { s with prot := { s.prot with active := s.prot.shadow, old := s.prot.active, commits := s.prot.commits + 1, busy := true } }

theorem exec_protStage {s : State} (h : Reached s 0) : exec .protStage s = .next (protStage s) :=
  congrArg Host.Outcome.next (h.bar0 _)

theorem exec_protDiscard {s : State} (h : Reached s 0) : exec .protDiscard s = .next (protDiscard s) :=
  congrArg Host.Outcome.next (h.bar0 _)

theorem exec_protCommit {s : State} (h : Reached s 0) : exec .protCommit s = .next (protCommit s) :=
  congrArg Host.Outcome.next (h.bar0 _)

/-- Tables that do not conflict come into force, and what they no longer grant is revoked. -/
theorem protCommit_commits {s : State} (h : Reached s 0) (hb : s.prot.busy = false) (ht : tablesOk s.prot.shadow = true) :
    protCommit s = revokeAll s (committed s) := by
  obtain ⟨-, -, -, -, hsound⟩ := h
  unfold protCommit
  simp only [hb, ht, Bool.not_true, Bool.false_eq_true, if_false, useCtl_sound hsound]
  rfl

/-- The state when a commit comes to the streams. -/
def ringsRevoked (old s : State) : State := revokeRings old (markRevoked s)

theorem ringsRevoked_keeps (old s : State) : (ringsRevoked old s).streams = s.streams ∧ (ringsRevoked old s).prot = s.prot :=
  revokeRings_keeps old (markRevoked s)

/-- The state when a commit has come to the streams. -/
def streamsRevoked (old s : State) : State := ((ringsRevoked old s).streams.map (·.1)).foldl revokeStream (ringsRevoked old s)

/-- What a revocation does after the streams leaves them and the tables. -/
theorem revokeAll_keeps (old s : State) :
    (revokeAll old s).streams = (streamsRevoked old s).streams ∧ (revokeAll old s).prot = s.prot := by
  have hstreams : (streamsRevoked old s).prot = s.prot :=
    (prot_foldl prot_revokeStream _ _).trans (ringsRevoked_keeps old s).2
  obtain ⟨hev, hevp⟩ := revokeEvents_keeps (streamsRevoked old s)
  have hcnd := foldl_keeps (P := fun t : State => t.streams = (streamsRevoked old s).streams ∧ t.prot = s.prot) (f := revokeConduit)
    (fun t n h => ⟨(revokeConduit_keeps t n).1.trans h.1, (revokeConduit_keeps t n).2.trans h.2⟩)
    ((revokeEvents (streamsRevoked old s)).conduits.map (·.1)) (revokeEvents (streamsRevoked old s)) ⟨hev, hevp.trans hstreams⟩
  exact hcnd

/-- A commit closes each stream whose owner no longer owns it. -/
theorem protCommit_closes {s : State} (old : State) (hc : Canon {} s.streams) {st : Nat}
    (hs : (getStream s st).ctx.state = 1 ∨ (getStream s st).ctx.state = 3 ∨ (getStream s st).ctx.state = 4)
    (hroom : reportRoom (getStream s st) = true) (hact : (getStream s st).act = none)
    (hown : validOwner (protIn s.prot.shadow 0 st) (getStream s st).ctx.owner.toNat 6 = false) :
    RevokedFrom (getStream s st) (getStream (revokeAll old (committed s)) st) := by
  obtain ⟨hstreams, hprot⟩ := ringsRevoked_keeps old (committed s)
  have hsame : getStream (ringsRevoked old (committed s)) st = getStream s st := getStream_of_streams hstreams st
  have h0 : (getStream s st).ctx.state ≠ 0 := by rcases hs with h | h | h <;> rw [h] <;> decide
  have h2 : (getStream s st).ctx.state ≠ 2 := by rcases hs with h | h | h <;> rw [h] <;> decide
  have hlisted : (st, getStream s st) ∈ s.streams := smGet_listed (stream_ne_of_state h0)
  have hmem : st ∈ (ringsRevoked old (committed s)).streams.map (·.1) := by
    rw [hstreams]
    exact List.mem_map.mpr ⟨_, hlisted, rfl⟩
  have hnodup : ((ringsRevoked old (committed s)).streams.map (·.1)).Nodup := by
    rw [hstreams]
    exact keys_nodup (smWf_sorted hc)
  have hclosed := revokeStreams_closes hnodup (ringsRevoked old (committed s)) hmem (by rwa [hsame]) (by rwa [hsame])
    (by rwa [hsame]) (by rwa [hsame]) (by rw [hsame]; unfold ownsStream protGet; rw [hprot]; exact hown)
  rw [hsame] at hclosed
  rw [getStream_of_streams (revokeAll_keeps old (committed s)).1]
  exact hclosed

/-- A running job holds or has tried a revoked right, or a knot operation under one is on its way. -/
def holdsBusy (s : State) : Bool :=
  s.jobs.any (fun e => match e.2 with | some j => j.revoked | none => false) || s.knotOps.any (opRevoked s)

theorem exec_protCommitDone {s : State} (h : Runs s) :
    exec .protCommitDone s = .next (if holdsBusy s = true then s else { s with prot := { s.prot with busy := false, old := [] } }) := by
  obtain ⟨hf, hh, -, hb⟩ := h
  show execProtCommitDone s = _
  unfold execProtCommitDone
  rw [hostLive_runs hf hh hb]
  rfl

/-- Settles O38: a commit reaches each stream once, and what it does to the others leaves that stream as it is. -/
theorem protectionCommits : Obligations.ProtectionCommits := by
  unfold Obligations.ProtectionCommits
  refine fun s => ⟨fun h => ⟨fun hsel => ?_, fun hsel => ?_, exec_protDiscard h, fun hb => ?_, fun hb ht => ?_, fun hb ht hc => ?_⟩,
    fun h => ⟨fun hheld => ?_, fun hheld => ?_⟩⟩
  · rw [exec_protStage h]
    simp only [protStage, hsel, if_true]
    rfl
  · rw [exec_protStage h]
    simp only [protStage, hsel, Bool.false_eq_true, if_false]
  · rw [exec_protCommit h]
    simp only [protCommit, hb, if_true]
  · rw [exec_protCommit h]
    simp only [protCommit, hb, ht, Bool.not_false, Bool.false_eq_true, if_false, if_true]
  · refine ⟨revokeAll s (committed s), ?_, (revokeAll_keeps s (committed s)).2, fun st hs hroom hact hown => ?_⟩
    · rw [exec_protCommit h, protCommit_commits h hb ht]
    · exact protCommit_closes s hc hs hroom hact hown
  · rw [exec_protCommitDone h, if_pos (show holdsBusy s = true from hheld)]
  · rw [exec_protCommitDone h, if_neg (by rw [show holdsBusy s = false from hheld]; decide)]

end Sys2Proof.Machine
end

section
/-! PROOFS. The slot of each instruction of the Bobbin set, and the bundle that its command issues. -/

namespace Sys2Proof.Machine

/-- The slot of a bundle that an instruction takes; LI takes a whole bundle of FORM 1. -/
inductive SlotPos where
  | s
  | m
  | x
  | li

/-- The slots that the command of an instruction issues. -/
def aloneIn : SlotPos → SlotOp → List SlotOp
  | .s, o | .li, o => [o]
  | .m, o | .x, o => [nopSlot, o]

/-- The core, the slot and the effect of an instruction of the Bobbin set (R172, R175, R177). -/
def slotOf : Instr → Option (BitVec 8 × SlotPos × SlotOp)
  | .iAdd c d a b => some (c, .s, opAdd d a b)
  | .iSub c d a b => some (c, .s, opSub d a b)
  | .iAnd c d a b => some (c, .s, opAnd d a b)
  | .iOr c d a b => some (c, .s, opOr d a b)
  | .iXor c d a b => some (c, .s, opXor d a b)
  | .iShl c d a b => some (c, .s, opShl d a b)
  | .iShr c d a b => some (c, .s, opShr d a b)
  | .iSra c d a b => some (c, .s, opSra d a b)
  | .iSlt c d a b => some (c, .s, opSlt d a b)
  | .iSltu c d a b => some (c, .s, opSltu d a b)
  | .iMin c d a b => some (c, .s, opMin d a b)
  | .iMax c d a b => some (c, .s, opMax d a b)
  | .iMul c d a b => some (c, .s, opMul d a b)
  | .iMulh c d a b => some (c, .s, opMulh d a b)
  | .iAddi c d a i => some (c, .s, opAddi d a i)
  | .iShli c d a i => some (c, .s, opShli d a i)
  | .iShri c d a i => some (c, .s, opShri d a i)
  | .iSrai c d a i => some (c, .s, opSrai d a i)
  | .iMovi c d i => some (c, .s, opMovi d i)
  | .iLi c d i => some (c, .li, opLi d i)
  | .iLw c d a i => some (c, .s, opLw d a i)
  | .iSw c d a i => some (c, .s, opSw d a i)
  | .iLwp c d a i => some (c, .s, opLwp d a i)
  | .iSwp c d a i => some (c, .s, opSwp d a i)
  | .iVld c d a i => some (c, .s, opVld d a i)
  | .iVst c d a i => some (c, .s, opVst d a i)
  | .iVldp c d a i => some (c, .s, opVldp d a i)
  | .iVstp c d a i => some (c, .s, opVstp d a i)
  | .iVsplat c d a t => some (c, .s, opVsplat d a t)
  | .iVext c d a l => some (c, .s, opVext d a l)
  | .iBeqz c a off => some (c, .s, opBeqz a off)
  | .iBnez c a off => some (c, .s, opBnez a off)
  | .iBltz c a off => some (c, .s, opBltz a off)
  | .iBgez c a off => some (c, .s, opBgez a off)
  | .iJmp c off => some (c, .s, opJmp off)
  | .iCall c off => some (c, .s, opCall off)
  | .iJr c a => some (c, .s, opJr a)
  | .iLoop c a i => some (c, .s, opLoop a i)
  | .iCsrr c d i => some (c, .s, opCsrr d i)
  | .iCsrw c d i => some (c, .s, opCsrw d i)
  | .iSync c => some (c, .s, opSync)
  | .iEnd c => some (c, .s, opEnd)
  | .iMop c tile a b m => some (c, .m, opMop tile a b m)
  | .iMzero c tile => some (c, .m, opMzero tile)
  | .iMrd c d tile row half => some (c, .m, opMrd d tile row half)
  | .iMwr c tile a row half => some (c, .m, opMwr tile a row half)
  | .iVadd c d a b t => some (c, .m, opVadd d a b t)
  | .iVsub c d a b t => some (c, .m, opVsub d a b t)
  | .iVmul c d a b t => some (c, .m, opVmul d a b t)
  | .iVfma c d a b => some (c, .m, opVfma d a b)
  | .iVmin c d a b t => some (c, .m, opVmin d a b t)
  | .iVmax c d a b t => some (c, .m, opVmax d a b t)
  | .iVand c d a b => some (c, .m, opVand d a b)
  | .iVor c d a b => some (c, .m, opVor d a b)
  | .iVxor c d a b => some (c, .m, opVxor d a b)
  | .iVshr c d a b t => some (c, .m, opVshr d a b t)
  | .iVcvt c d a dst src => some (c, .m, opVcvt d a dst src)
  | .iVperm c d a b => some (c, .m, opVperm d a b)
  | .iVsum c d a fp => some (c, .m, opVsum d a fp)
  | .iVfn c d a fn => some (c, .m, opVfn d a fn)
  | .iVcmp c d a b t op => some (c, .m, opVcmp d a b t op)
  | .iPtb c buf a kind m => some (c, .m, opPtb buf a kind m)
  | .iPta c tile a m => some (c, .m, opPta tile a m)
  | .iCbld c cb a => some (c, .m, opCbld cb a)
  | .iDma c a ch => some (c, .x, opDma a ch)
  | .iDmaw c ch => some (c, .x, opDmaw ch)
  | .iSend c a b => some (c, .x, opSend a b)
  | .iRecv c a => some (c, .x, opRecv a)
  | .iRpop c => some (c, .x, opRpop)
  | .iKsig c a b => some (c, .x, opKsig a b)
  | .iKwait c a b => some (c, .x, opKwait a b)
  | .iEpeek c a => some (c, .x, opEpeek a)
  | .iEpop c => some (c, .x, opEpop)
  | _ => none

/-- The command of an instruction issues its slot, with a NOP in the S slot for an M or X slot. -/
theorem exec_slotOf {i : Instr} {c : BitVec 8} {p : SlotPos} {o : SlotOp} (h : slotOf i = some (c, p, o)) (s : State) :
    exec i s = .next (awake s fun s => issue s c.toNat (aloneIn p o)) := by
  cases i <;> simp only [slotOf, Option.some.injEq, Prod.mk.injEq, reduceCtorEq] at h <;> obtain ⟨rfl, rfl, rfl⟩ := h <;> rfl

/-- Every instruction that a bundle encodes has its slot, on the core of the bundle. -/
theorem slotOf_of_bundleOf {i : Instr} {c : BitVec 8} {w : Nat} (h : bundleOf i = some (c, w)) : ∃ p o, slotOf i = some (c, p, o) := by
  cases i <;> simp only [bundleOf, reduceCtorEq, Option.some.injEq, Prod.mk.injEq, Option.ite_none_left_eq_some,
    Option.ite_none_right_eq_some] at h <;> simp [slotOf, h]

end Sys2Proof.Machine
end

section
/-! PROOFS. O13: an instruction of a Bobbin program keeps the canonical form of memory and of the cores. -/

namespace Sys2Proof.Machine

/-- Memory and the cores are in canonical form, and `q` waits. -/
def Formed (q : List Instr) (s : State) : Prop := FormKept s ∧ s.pending = q

/-- A step leaves memory, its losses, the cores and the queue. -/
@[simp] abbrev SameForm (s t : State) : Prop := t.mem = s.mem ∧ t.lost = s.lost ∧ t.cores = s.cores ∧ t.pending = s.pending

theorem SameForm.refl (s : State) : SameForm s s := ⟨rfl, rfl, rfl, rfl⟩

theorem SameForm.trans {s t u : State} (h : SameForm s t) (h' : SameForm t u) : SameForm s u :=
  ⟨h'.1.trans h.1, h'.2.1.trans h.2.1, h'.2.2.1.trans h.2.2.1, h'.2.2.2.trans h.2.2.2⟩

theorem sameForm_foldl {α : Type} {f : State → α → State} (hf : ∀ t a, SameForm t (f t a)) (l : List α) (s : State) :
    SameForm s (l.foldl f s) :=
  foldl_keeps (P := SameForm s) (fun t a h => h.trans (hf t a)) l s (.refl s)

@[simp] theorem sameForm_c32 (s : State) (o n : Nat) : SameForm s (c32 s o n) := by simp
@[simp] theorem sameForm_c64 (s : State) (o n : Nat) : SameForm s (c64 s o n) := by simp
@[simp] theorem sameForm_modJob (s : State) (jn : Nat) (g : Job → Job) : SameForm s (modJob s jn g) := by simp
@[simp] theorem sameForm_sendKnotOp (s : State) (o : KnotOp) : SameForm s (sendKnotOp s o) := by simp
@[simp] theorem sameForm_winPass (s : State) (k n : Nat) : SameForm s (winPass s k n) := by simp
@[simp] theorem sameForm_takeFree (s : State) : SameForm s (takeFree s).2 := by simp

variable {q : List Instr} {s : State}

theorem Formed.same (h : Formed q s) {t : State} (ht : SameForm s t) : Formed q t := by
  obtain ⟨hm, hl, hc, hp⟩ := ht
  obtain ⟨⟨hw, hcan⟩, hq⟩ := h
  exact ⟨⟨(wf_of_mem hm hl).trans hw, by rw [hc]; exact hcan⟩, hp.trans hq⟩

theorem Formed.ite {p : Prop} [Decidable p] {t : State} (hs : Formed q s) (ht : Formed q t) : Formed q (if p then s else t) := by
  split
  · exact hs
  · exact ht

theorem Formed.foldl {α : Type} {f : State → α → State} (h : Formed q s) (hf : ∀ t a, Formed q t → Formed q (f t a)) (l : List α) :
    Formed q (l.foldl f s) := foldl_keeps hf l s h

/-! ## Cores and memory -/

theorem Formed.modCore (h : Formed q s) (c : Nat) (g : Core → Core) : Formed q (modCore s c g) :=
  ⟨⟨h.1.1, smWf_smSet _ _ h.1.2⟩, h.2⟩

theorem Formed.setS (h : Formed q s) (c : Nat) (i : BitVec 5) (v : U32) : Formed q (setS s c i v) := by
  unfold Machine.setS
  split
  · exact h
  · exact h.modCore ..

theorem Formed.setV (h : Formed q s) (c : Nat) (i : BitVec 4) (v : BitVec 512) : Formed q (setV s c i v) := h.modCore ..

theorem Formed.bump (h : Formed q s) (old : State) (c : Nat) (a : BitVec 5) (i : BitVec 6) (size : Nat) (post : Bool) :
    Formed q (bump old s c a i size post) := by
  unfold Machine.bump
  split
  · exact h.setS ..
  · exact h

/-- A store writes memory, or the job block of its core. -/
theorem Formed.localWrite (h : Formed q s) (c a : Nat) (bs : Bytes) : Formed q (localWrite s c a bs) := by
  unfold Machine.localWrite
  split
  · have hf : Formed q (clearFlaws s (mkey (spBobbin c) a) bs.length) := h.same ⟨rfl, rfl, rfl, rfl⟩
    rw [poke_eq]
    refine ⟨⟨?_, hf.1.2⟩, hf.2⟩
    rw [← poke_eq]
    exact wf_poke _ _ hf.1.1
  · exact h.modCore ..

theorem Formed.pushEq (h : Formed q s) (c : Nat) (e : Bytes) : Formed q (pushEq s c e) := by
  unfold Machine.pushEq
  split
  · exact (h.modCore ..).same (sameForm_c32 ..)
  · exact h.modCore ..

/-! ## Counters, jobs and messages -/

@[simp] theorem sameForm_failJob (s : State) (jn st : Nat) : SameForm s (failJob s jn st) := by simp [failJob]
@[simp] theorem sameForm_journalStep (s : State) (jn : Nat) (k : KnotId) : SameForm s (journalStep s jn k) := by simp [journalStep]

theorem sameForm_satEvent (s : State) (n jn : Nat) : SameForm s (satEvent s n jn) := by
  unfold satEvent
  dsimp only
  split
  · split <;> simp [driftLog]
  · simp

theorem sameForm_satElems (s : State) (jn n : Nat) (outs : Bool) (es : List Bool) : SameForm s (satElems s jn n outs es) := by
  refine sameForm_foldl (fun t ev => ?_) es s
  have he : SameForm t (if ev then satEvent t (satTarget s jn n) jn else t) := by
    split
    · exact sameForm_satEvent ..
    · exact .refl t
  dsimp only
  split
  · exact he.trans (by simp [satOutput])
  · exact he

theorem sameForm_coreSat (old s : State) (c : Nat) (outs : Bool) (es : List Bool) : SameForm s (coreSat old s c outs es) := by
  unfold coreSat
  dsimp only
  split
  · exact sameForm_satElems ..
  · exact .refl s

theorem sameForm_sendCopy (s : State) (c rank order : Nat) (h : U32) (payload : Bytes) : SameForm s (sendCopy s c rank order h payload) := by
  unfold sendCopy
  dsimp only
  split <;> exact ⟨rfl, rfl, rfl, rfl⟩

theorem sameForm_sramError (s : State) (c : Nat) (two : Bool) : SameForm s (sramError s c two) := by
  unfold sramError
  dsimp only
  split
  · simp
  · split <;> simp

theorem sameForm_sramEcc (s : State) (c a n : Nat) : SameForm s (sramEcc s c a n).2 := by
  unfold sramEcc
  dsimp only
  split
  · simp
  · refine SameForm.trans ?_ (sameForm_foldl (fun t e => sameForm_sramError ..) _ _)
    simp [meetFlaws]

/-! ## The end of a run -/

theorem Formed.haltCores (h : Formed q s) (jn : Nat) (st : CoreSt) : Formed q (haltCores s jn st) := by
  refine Formed.foldl ?_ (fun _ _ ht => ht.modCore ..) _
  exact h.same ⟨rfl, rfl, rfl, rfl⟩

theorem Formed.stopJob (h : Formed q s) (jn st : Nat) (cst : CoreSt) : Formed q (stopJob s jn st cst) :=
  Formed.haltCores (h.same (sameForm_failJob ..)) ..

theorem Formed.programFault (h : Formed q s) (c : Nat) (f : PFault) : Formed q (programFault s c f) := by
  unfold Machine.programFault
  split
  · exact h
  · refine Formed.modCore (Formed.stopJob (h.same ?_) ..) ..
    split <;> simp

theorem Formed.sramReads (h : Formed q s) (c : Nat) (rs : List (Nat × Nat)) : Formed q (sramReads s c rs).2 := by
  have hr : Formed q (rs.foldl (fun (ok, t) r => let (o, t) := sramEcc t c r.1 r.2; (ok && o, t)) (true, s)).2 :=
    foldl_keeps (P := fun b : Bool × State => Formed q b.2) (fun b r hb => Formed.same hb (sameForm_sramEcc b.2 c r.1 r.2)) rs _ h
  unfold Machine.sramReads
  dsimp only
  split
  · exact hr
  · split
    · exact hr.stopJob ..
    · exact hr

theorem Formed.advance (h : Formed q s) (c : Nat) (fl : Flow) : Formed q (advance s c fl) := by
  unfold Machine.advance
  have hb : Formed q (c64 (Machine.modCore s c (fun k => { k with lastPc := k.pc, st := if k.ending then 4 else 2 })) 0x30048 1) :=
    (h.modCore ..).same (sameForm_c64 ..)
  dsimp only
  split
  · exact hb
  · split
    · exact hb.programFault ..
    · split
      · exact hb.programFault ..
      · exact hb.modCore ..

/-- A change of every value keeps the canonical form: what becomes the default is listed no more. -/
theorem canon_smMap {α : Type} [DecidableEq α] {d : α} {m : SMap α} (f : Nat → α → α) (h : Canon d m) : Canon d (smMap d m f) := by
  have hs : SmSorted (smMap d m f) := smSorted_smMap f (smWf_sorted h)
  unfold Canon smWf
  rw [Bool.and_eq_true]
  refine ⟨?_, by simp [smMap]⟩
  cases hm : smMap d m f with
  | nil => rfl
  | cons x r => rw [hm] at hs; exact hs

/-- A fatal event ends all work, and leaves of every core its role (R402). -/
theorem Formed.fatalEvent (h : Formed q s) (cause : Nat) : Formed q (fatalEvent s cause) := by
  have hl : ∀ t i, SameForm t (sendLeaving t i) := fun t i => by
    obtain ⟨p, o, he⟩ := sendLeaving_only t i
    rw [he]
    exact ⟨rfl, rfl, rfl, rfl⟩
  have he : Formed q (endAllWork s) := ⟨⟨h.1.1, canon_smMap (fun _ k => quietCore k) h.1.2⟩, h.2⟩
  unfold Machine.fatalEvent
  split
  · exact h
  · have hf : Formed q ((List.range 4).foldl sendLeaving (endAllWork s)) := he.same (sameForm_foldl hl _ _)
    exact hf.same (by simp)

theorem Formed.ctlFatal (h : Formed q s) (met : List CtlWord) : Formed q (ctlFatal s met) := by
  unfold Machine.ctlFatal
  refine Formed.fatalEvent (Formed.foldl ?_ (fun t _ ht => ht.same (sameForm_c32 ..)) _) 1
  exact h.same ⟨rfl, rfl, rfl, rfl⟩

/-! ## Messages and knot operations -/

theorem Formed.bounceHere (h : Formed q s) (c : Nat) (w : U32) (payload : Bytes) : Formed q (bounceHere s c w payload) :=
  Formed.pushEq (h.same ((sameForm_c32 ..).trans (sameForm_c32 ..))) ..

theorem Formed.sendCoreOp (h : Formed q s) (c : Nat) (wait : Bool) (w amount : U32) : Formed q (sendCoreOp s c wait w amount) := by
  unfold Machine.sendCoreOp
  split
  · exact h
  split
  · exact h
  dsimp only
  split
  case h_1 => exact (h.modCore ..).same (sameForm_sendKnotOp ..)
  case h_2 => exact h.stopJob ..
  case h_3 =>
    refine (fun ht => .ite ht (ht.pushEq ..) : Formed q _ → _) ?_
    refine (fun ht => .ite (ht.same (sameForm_modJob ..)) ht : Formed q _ → _) ?_
    exact .ite ((h.same (sameForm_journalStep ..)).modCore ..) (h.same (sameForm_journalStep ..))

theorem Formed.flushKsigs (h : Formed q s) (c n : Nat) : Formed q (flushKsigs s c n) := by
  induction n generalizing s with
  | zero => exact h
  | succ n ih =>
    unfold Machine.flushKsigs
    dsimp only
    split
    · exact h
    · split
      · exact h
      · exact ih ((h.modCore ..).sendCoreOp ..)

/-! ## Slots -/

/-- What a slot does as its bundle issues, and as its bundle waits, keeps the form. -/
structure SlotKeeps (o : SlotOp) : Prop where
  run : ∀ {q : List Instr} {t : State} (old : State) (c : Nat), Formed q t → Formed q (o.run old t c)
  wait : ∀ {q : List Instr} {t : State} (c : Nat), Formed q t → Formed q (o.onWait t c)

/-- A slot that waits without an effect. -/
theorem SlotKeeps.of_run {o : SlotOp} (hw : o.onWait = fun s _ => s)
    (hr : ∀ (q : List Instr) (t old : State) (c : Nat), Formed q t → Formed q (o.run old t c)) : SlotKeeps o :=
  ⟨fun old c h => hr _ _ old c h, fun c h => by rw [hw]; exact h⟩

theorem Formed.issue {ops : List SlotOp} (h : Formed q s) (ho : ∀ o ∈ ops, SlotKeeps o) (c : Nat) : Formed q (issue s c ops) := by
  have hwait : Formed q (ops.foldl (fun t o => if o.ready s c then t else o.onWait t c) s) :=
    List.foldlRecOn ops _ h fun t ht o hmem => .ite ht ((ho o hmem).wait c ht)
  have hrun : ∀ t, Formed q t → Formed q (ops.foldl (fun t o => o.run s t c) t) := fun t ht =>
    List.foldlRecOn ops _ ht fun t ht o hmem => (ho o hmem).run s c ht
  have hread := h.sramReads c (ops.flatMap (fun o => o.sram s c))
  unfold Machine.issue
  split
  · exact h
  split
  · exact hwait.modCore ..
  split
  · exact h.programFault ..
  · dsimp only
    exact .ite (((hrun _ hread).same (sameForm_winPass ..)).advance ..) hread

/-! ## The slots of the instruction set -/

section
variable (d a b : BitVec 5) (va vb vd : BitVec 4) (i : BitVec 6) (t : BitVec 2)

@[simp] theorem slotKeeps_nop : SlotKeeps nopSlot := .of_run rfl fun _ _ _ _ h => h
@[simp] theorem slotKeeps_illegal : SlotKeeps illegalSlot := .of_run rfl fun _ _ _ _ h => h
@[simp] theorem slotKeeps_rr (f : U32 → U32 → U32) : SlotKeeps (rrSlot d a b f) := .of_run rfl fun _ _ _ _ h => h.setS ..
@[simp] theorem slotKeeps_ri (f : U32 → U32) : SlotKeeps (riSlot d a f) := .of_run rfl fun _ _ _ _ h => h.setS ..

@[simp] theorem slotKeeps_shift (f : U32 → Nat → U32) : SlotKeeps (shiftSlot d a i f) := by
  unfold shiftSlot
  split <;> simp

@[simp] theorem slotKeeps_movi (j : BitVec 11) : SlotKeeps (opMovi d j) := .of_run rfl fun _ _ _ _ h => h.setS ..
@[simp] theorem slotKeeps_li (j : U32) : SlotKeeps (opLi d j) := .of_run rfl fun _ _ _ _ h => h.setS ..

theorem slotKeeps_load (dest : List (BitVec 5)) (size : Nat) (post : Bool) {put : State → Nat → Nat → State}
    (hp : ∀ q t c v, Formed q t → Formed q (put t c v)) : SlotKeeps (loadSlot dest a i size post put) :=
  .of_run rfl fun _ _ _ _ h => Formed.bump (hp _ _ _ _ (h.same (sameForm_takeFree _))) ..

@[simp] theorem slotKeeps_loadWord (dest : List (BitVec 5)) (size : Nat) (post : Bool) : SlotKeeps (loadSlot dest a i size post (putWord d)) :=
  slotKeeps_load a i dest size post fun _ _ _ _ h => h.setS ..
@[simp] theorem slotKeeps_loadVec (dest : List (BitVec 5)) (size : Nat) (post : Bool) : SlotKeeps (loadSlot dest a i size post (putVec vd)) :=
  slotKeeps_load a i dest size post fun _ _ _ _ h => h.setV ..

@[simp] theorem slotKeeps_store (dest : List (BitVec 5)) (size : Nat) (post : Bool) (get : Core → Nat) :
    SlotKeeps (storeSlot dest a i size post get) := .of_run rfl fun _ _ _ _ h => Formed.bump (h.localWrite ..) ..

@[simp] theorem slotKeeps_vsplat : SlotKeeps (opVsplat vd a t) := .of_run rfl fun _ _ _ _ h => h.setV ..
@[simp] theorem slotKeeps_vext : SlotKeeps (opVext d va vb) := .of_run rfl fun _ _ _ _ h => h.setS ..
@[simp] theorem slotKeeps_branch (off : BitVec 11) (p : U32 → Bool) : SlotKeeps (branchSlot a off p) := .of_run rfl fun _ _ _ _ h => h
@[simp] theorem slotKeeps_jmp (off : BitVec 11) : SlotKeeps (opJmp off) := .of_run rfl fun _ _ _ _ h => h
@[simp] theorem slotKeeps_call (off : BitVec 11) : SlotKeeps (opCall off) := .of_run rfl fun _ _ _ _ h => h.setS ..
@[simp] theorem slotKeeps_jr : SlotKeeps (opJr a) := .of_run rfl fun _ _ _ _ h => h

@[simp] theorem slotKeeps_loop : SlotKeeps (opLoop a i) := by
  unfold opLoop
  split
  · simp
  · exact .of_run rfl fun _ _ _ _ h => h

@[simp] theorem slotKeeps_csrr (j : BitVec 11) : SlotKeeps (opCsrr d j) := .of_run rfl fun _ _ _ _ h =>
  .ite (Formed.setS (Formed.modCore ((h.same (sameForm_takeFree _)).same (sameForm_takeFree _)) ..) ..) (h.setS ..)
@[simp] theorem slotKeeps_csrw (j : BitVec 11) : SlotKeeps (opCsrw d j) := .of_run rfl fun _ _ _ _ h =>
  .ite (h.modCore ..) (.ite (h.modCore ..) h)
@[simp] theorem slotKeeps_sync : SlotKeeps opSync := .of_run rfl fun _ _ _ _ h => h
@[simp] theorem slotKeeps_end : SlotKeeps opEnd := .of_run rfl fun _ _ _ _ h => h.modCore ..

/-! ### The M slot -/

@[simp] theorem slotKeeps_mop (tile : BitVec 3) (m : BitVec 4) : SlotKeeps (opMop tile va vb m) := .of_run rfl fun _ _ _ _ h =>
  Formed.modCore (h.same ((sameForm_c32 ..).trans (sameForm_c64 ..))) ..
@[simp] theorem slotKeeps_mzero (tile : BitVec 3) : SlotKeeps (opMzero tile) := .of_run rfl fun _ _ _ _ h => h.modCore ..
@[simp] theorem slotKeeps_mrd (tile : BitVec 3) (half : Bool) : SlotKeeps (opMrd vd tile a half) := .of_run rfl fun _ _ _ _ h => h.setV ..
@[simp] theorem slotKeeps_mwr (tile : BitVec 3) (half : Bool) : SlotKeeps (opMwr tile va a half) := .of_run rfl fun _ _ _ _ h => h.modCore ..

@[simp] theorem slotKeeps_lane (fi : Int → Int → Int) (ff : U32 → U32 → U32) : SlotKeeps (laneSlot vd va vb t fi ff) :=
  .of_run rfl fun _ _ _ _ h => .ite (h.setV ..) (Formed.setV (h.same (sameForm_coreSat ..)) ..)

@[simp] theorem slotKeeps_vfma : SlotKeeps (opVfma vd va vb) := .of_run rfl fun _ _ _ _ h => h.setV ..
@[simp] theorem slotKeeps_bit (f : BitVec 512 → BitVec 512 → BitVec 512) : SlotKeeps (bitSlot vd va vb f) :=
  .of_run rfl fun _ _ _ _ h => h.setV ..

@[simp] theorem slotKeeps_vcvt (dst src : BitVec 4) : SlotKeeps (opVcvt vd va dst src) := by
  unfold opVcvt
  split
  · simp
  · exact .of_run rfl fun _ _ _ _ h => Formed.setV (h.same (sameForm_coreSat ..)) ..

@[simp] theorem slotKeeps_vperm : SlotKeeps (opVperm vd va vb) := .of_run rfl fun _ _ _ _ h => h.setV ..
@[simp] theorem slotKeeps_vsum (fp : Bool) : SlotKeeps (opVsum vd va fp) := .of_run rfl fun _ _ _ _ h =>
  .ite (h.setV ..) (Formed.setV (h.same (sameForm_coreSat ..)) ..)
@[simp] theorem slotKeeps_vfn : SlotKeeps (opVfn vd va t) := .of_run rfl fun _ _ _ _ h => h.setV ..

@[simp] theorem slotKeeps_vcmp (op : BitVec 2) : SlotKeeps (opVcmp vd va vb t op) := by
  unfold opVcmp
  split
  · simp
  · exact .of_run rfl fun _ _ _ _ h => h.setV ..

@[simp] theorem slotKeeps_ptb (buf : Bool) : SlotKeeps (opPtb buf va vb t) := .of_run rfl fun _ _ _ _ h => by
  unfold opPtb
  dsimp only
  split
  · exact h
  · exact h.modCore ..

@[simp] theorem slotKeeps_pta (tile : BitVec 3) : SlotKeeps (opPta tile va t) := .of_run rfl fun _ _ _ _ h =>
  Formed.modCore (h.same ((sameForm_c32 ..).trans (sameForm_c64 ..))) ..
@[simp] theorem slotKeeps_cbld : SlotKeeps (opCbld t va) := .of_run rfl fun _ _ _ _ h => h.modCore ..

/-! ### The X slot -/

@[simp] theorem slotKeeps_dma : SlotKeeps (opDma a t) := .of_run rfl fun _ _ _ _ h => by
  unfold opDma
  dsimp only
  split
  · exact h
  · exact h.modCore ..

@[simp] theorem slotKeeps_dmaw : SlotKeeps (opDmaw t) := .of_run rfl fun _ _ _ _ h => h

@[simp] theorem slotKeeps_send : SlotKeeps (opSend a b) := .of_run rfl fun _ _ _ _ h =>
  .ite (Formed.modCore (h.same (sameForm_foldl (fun _ _ => sameForm_sendCopy ..) _ _)) ..)
    (.ite (h.bounceHere ..) (Formed.modCore (h.same (sameForm_sendCopy ..)) ..))

@[simp] theorem slotKeeps_recv : SlotKeeps (opRecv a) := .of_run rfl fun _ _ _ _ h => h.setS ..
@[simp] theorem slotKeeps_rpop : SlotKeeps opRpop := .of_run rfl fun _ _ _ _ h => h.modCore ..
@[simp] theorem slotKeeps_epeek : SlotKeeps (opEpeek a) := .of_run rfl fun _ _ _ _ h => h.setS ..
@[simp] theorem slotKeeps_epop : SlotKeeps opEpop := .of_run rfl fun _ _ _ _ h => h.modCore ..
@[simp] theorem slotKeeps_ksig : SlotKeeps (opKsig a b) := .of_run rfl fun _ _ _ _ h => Formed.flushKsigs (h.modCore ..) ..
@[simp] theorem slotKeeps_kwait : SlotKeeps (opKwait a b) := ⟨fun _ _ h => h.modCore .., fun _ h => .ite h (h.sendCoreOp ..)⟩

end

/-- The slot of every instruction keeps the form. -/
theorem slotKeeps_of_slotOf {i : Instr} {c : BitVec 8} {p : SlotPos} {o : SlotOp} (h : slotOf i = some (c, p, o)) : SlotKeeps o := by
  cases i <;> simp only [slotOf, Option.some.injEq, Prod.mk.injEq, reduceCtorEq] at h <;> obtain ⟨-, -, rfl⟩ := h <;>
    simp [opAdd, opSub, opAnd, opOr, opXor, opShl, opShr, opSra, opSlt, opSltu, opMin, opMax, opMul, opMulh, opAddi, opShli, opShri, opSrai,
      opLw, opLwp, opSw, opSwp, opVld, opVldp, opVst, opVstp, opBeqz, opBnez, opBltz, opBgez, opVadd, opVsub, opVmul, opVmin, opVmax,
      opVand, opVor, opVxor, opVshr]

theorem slotKeeps_aloneIn {o : SlotOp} (h : SlotKeeps o) (p : SlotPos) : ∀ x ∈ aloneIn p o, SlotKeeps x := by
  cases p <;> simp [aloneIn, h]

/-- Settles O13: each instruction is the bundle of its slot, and what a slot does keeps the form. -/
theorem programsKeepForm : Obligations.ProgramsKeepForm := by
  unfold Obligations.ProgramsKeepForm
  intro s t i rest c w hb hp hk hs
  obtain ⟨p, o, ho⟩ := slotOf_of_bundleOf hb
  have hf : Formed rest { s with pending := rest } := ⟨hk, rfl⟩
  have ht : exec i { s with pending := rest } = .next t := by
    rw [← hs]
    unfold step
    rw [hp]
  rw [exec_slotOf ho] at ht
  obtain rfl := Host.Outcome.next.inj ht
  exact awake_keeps (P := Formed rest) hf (hf.issue (slotKeeps_aloneIn (slotKeeps_of_slotOf ho) p) _) fun m => hf.ctlFatal m

end Sys2Proof.Machine
end

section
/-! PROOFS. O12: the bundle that encodes an instruction alone decodes to its slot, with NOPs beside it (R167, R168). -/

namespace Sys2Proof.Machine

/-- The bundle that holds a slot alone. -/
def bundleIn : SlotPos → SlotOp → List SlotOp
  | .s, o => [o, nopSlot, nopSlot]
  | .m, o => [nopSlot, o, nopSlot]
  | .x, o => [nopSlot, nopSlot, o]
  | .li, o => [o]

/-- The NOPs beside a slot do nothing. -/
theorem issue_bundleIn (s : State) (c : Nat) (p : SlotPos) (o : SlotOp) : issue s c (bundleIn p o) = issue s c (aloneIn p o) := by
  cases p
  case s => exact issue_slot_s s c o
  case m => exact issue_slot_m s c o
  case x => exact issue_slot_x s c o
  case li => rfl

/-- The word of the slot at its place in a bundle decodes to the slot. -/
def Encodes (w : Nat) (o : SlotOp) : SlotPos → Prop
  | .s => w < 2 ^ 22 ∧ decodeS w = some o
  | .m => ∃ v, w = v * 2 ^ 22 ∧ v < 2 ^ 22 ∧ decodeM v = some o
  | .x => ∃ v, w = v * 2 ^ 44 ∧ v < 2 ^ 18 ∧ decodeX v = some o
  | .li => fld w 62 2 = 1 ∧ decodeLi w = some o

theorem decodeBundle_of_encodes {w : Nat} {o : SlotOp} {p : SlotPos} (h : Encodes w o p) : decodeBundle w = some (bundleIn p o) := by
  cases p
  case s => exact decodeBundle_s h.1 h.2
  case m =>
    obtain ⟨v, rfl, hv, hd⟩ := h
    exact decodeBundle_m hv hd
  case x =>
    obtain ⟨v, rfl, hv, hd⟩ := h
    exact decodeBundle_x hv hd
  case li =>
    obtain ⟨hw, hd⟩ := h
    simp [decodeBundle, hw, hd, bundleIn]

/-! ## The immediates of S words -/

theorem ofNat_sRI (op d a : Nat) {n : Nat} (hn : n ≤ 6) (i : BitVec n) : BitVec.ofNat n (sRI op d a i.toNat) = i := by
  refine ofNat_of_mod i ?_
  have e : sRI op d a i.toNat = 2 ^ n * (2 ^ (6 - n) * (op * 2 ^ 10 + d * 2 ^ 5 + a)) + i.toNat := by
    rw [← Nat.mul_assoc, ← Nat.pow_add, Nat.add_sub_cancel' hn]
    unfold sRI
    ring
  rw [e, Nat.mul_add_mod, Nat.mod_eq_of_lt i.isLt]

theorem ofNat_sI (op d : Nat) (i : BitVec 11) : BitVec.ofNat 11 (sI op d i.toNat) = i := by
  refine ofNat_of_mod i ?_
  have := i.isLt
  unfold sI
  omega

theorem b2n_bit (b : Bool) : decide (b2n b % 2 = 1) = b := by cases b <;> rfl

theorem bv2_lt (x : BitVec 2) : x.toNat < 4 := x.isLt
theorem bv3_lt (x : BitVec 3) : x.toNat < 8 := x.isLt
theorem bv4_lt (x : BitVec 4) : x.toNat < 16 := x.isLt

/-! ## Words of the M and X slots -/

/-- An M word (R168). -/
def mNum (op d a b m : Nat) : Nat := op * 2 ^ 16 + d * 2 ^ 12 + a * 2 ^ 8 + b * 2 ^ 4 + m

theorem mNum_fields {op d a b m : Nat} (h0 : op < 64) (h1 : d < 16) (h2 : a < 16) (h3 : b < 16) (h4 : m < 16) :
    fld (mNum op d a b m) 16 6 = op ∧ fld (mNum op d a b m) 12 4 = d ∧ fld (mNum op d a b m) 8 4 = a ∧ fld (mNum op d a b m) 4 4 = b ∧
    fld (mNum op d a b m) 0 4 = m ∧ fld (mNum op d a b m) 0 12 = a * 256 + b * 16 + m ∧ fld (mNum op d a b m) 0 2 = m % 4 ∧
    fld (mNum op d a b m) 3 5 = b * 2 + m / 8 ∧ bitOf (mNum op d a b m) 2 = decide (m / 4 % 2 = 1) ∧
    bitOf (mNum op d a b m) 12 = decide (d % 2 = 1) ∧ mNum op d a b m < 2 ^ 22 := mWord_fields h0 h1 h2 h3 h4

/-- An M word decodes at its place. -/
theorem encodes_m {op d a b m : Nat} {o : SlotOp} (h0 : op < 64) (h1 : d < 16) (h2 : a < 16) (h3 : b < 16) (h4 : m < 16)
    (hd : decodeM (mNum op d a b m) = some o) : Encodes (mWord op d a b m) o .m :=
  ⟨mNum op d a b m, rfl, by unfold mNum; omega, hd⟩

/-- The words of MRD and MWR, whose row and half stand in the low bits. -/
theorem rowWord (op d a : Nat) (row : BitVec 5) (half : Bool) :
    mWord op d a 0 0 + (row.toNat * 8 + b2n half * 4) * 2 ^ 22 = mWord op d a (row.toNat / 2) (row.toNat % 2 * 8 + b2n half * 4) := by
  unfold mWord
  omega

/-- An X word (R168). -/
def xNum (op a b c : Nat) : Nat := op * 2 ^ 12 + a * 2 ^ 7 + b * 2 ^ 2 + c

theorem xNum_fields {op a b c : Nat} (h0 : op < 64) (h2 : a < 32) (h3 : b < 32) (h4 : c < 4) :
    fld (xNum op a b c) 12 6 = op ∧ fld (xNum op a b c) 7 5 = a ∧ fld (xNum op a b c) 2 5 = b ∧ xNum op a b c % 4 = c ∧ xNum op a b c < 2 ^ 18 :=
  xWord_fields h0 h2 h3 h4

theorem ofNat_xNum (op a b : Nat) (ch : BitVec 2) : BitVec.ofNat 2 (xNum op a b ch.toNat) = ch := by
  refine ofNat_of_mod ch ?_
  have := ch.isLt
  unfold xNum
  omega

theorem ofNat_xNum_zero (op a b : Nat) : BitVec.ofNat 2 (xNum op a b 0) = 0 := ofNat_xNum op a b 0

/-- An X word decodes at its place. -/
theorem encodes_x {op a b c : Nat} {o : SlotOp} (h0 : op < 64) (h2 : a < 32) (h3 : b < 32) (h4 : c < 4)
    (hd : decodeX (xNum op a b c) = some o) : Encodes (xWord op a b c) o .x :=
  ⟨xNum op a b c, rfl, by unfold xNum; omega, hd⟩

/-! ## Words of the S slot -/

theorem encodes_rr {op d a b : Nat} {o : SlotOp} (h0 : op < 64) (h1 : d < 32) (h2 : a < 32) (h3 : b < 32)
    (hd : decodeS (sRR op d a b) = some o) : Encodes (sRR op d a b) o .s := ⟨by unfold sRR; omega, hd⟩

theorem encodes_ri {op d a i : Nat} {o : SlotOp} (h0 : op < 64) (h1 : d < 32) (h2 : a < 32) (h3 : i < 64)
    (hd : decodeS (sRI op d a i) = some o) : Encodes (sRI op d a i) o .s := ⟨by unfold sRI; omega, hd⟩

theorem encodes_i {op d i : Nat} {o : SlotOp} (h0 : op < 64) (h1 : d < 32) (h2 : i < 2048)
    (hd : decodeS (sI op d i) = some o) : Encodes (sI op d i) o .s := ⟨by unfold sI; omega, hd⟩

/-- LI fills a bundle of FORM 1. -/
theorem encodes_li (d : BitVec 5) (i : U32) : Encodes (2 ^ 62 + i.toNat * 2 ^ 22 + sI 0x15 d.toNat 0) (opLi d i) .li := by
  have hi := i.isLt
  have hd := d.isLt
  obtain ⟨hform, hword, hrest, himm⟩ : fld (2 ^ 62 + i.toNat * 2 ^ 22 + sI 0x15 d.toNat 0) 62 2 = 1 ∧
      fld (2 ^ 62 + i.toNat * 2 ^ 22 + sI 0x15 d.toNat 0) 0 22 = sI 0x15 d.toNat 0 ∧
      fld (2 ^ 62 + i.toNat * 2 ^ 22 + sI 0x15 d.toNat 0) 54 8 = 0 ∧
      fld (2 ^ 62 + i.toNat * 2 ^ 22 + sI 0x15 d.toNat 0) 22 32 = i.toNat := by
    unfold fld sI
    simp only [Nat.shiftRight_eq_div_pow]
    omega
  have hlow : fld (sI 0x15 d.toNat 0) 0 11 = 0 := by
    unfold fld sI
    simp only [Nat.shiftRight_eq_div_pow]
    omega
  generalize 2 ^ 62 + i.toNat * 2 ^ 22 + sI 0x15 d.toNat 0 = w at *
  refine ⟨hform, ?_⟩
  unfold decodeLi
  simp (disch := omega) [hword, hrest, himm, hlow, sI_fields]

/-- The bundle of an instruction holds the word of its slot. -/
theorem encodes_bundleOf {i : Instr} {c : BitVec 8} {w : Nat} {p : SlotPos} {o : SlotOp} (hb : bundleOf i = some (c, w))
    (hs : slotOf i = some (c, p, o)) : Encodes w o p := by
  cases i <;> simp only [bundleOf, slotOf, reduceCtorEq, Option.some.injEq, Prod.mk.injEq, Option.ite_none_left_eq_some,
    Option.ite_none_right_eq_some] at hb hs
  case iAdd | iSub | iAnd | iOr | iXor | iShl | iShr | iSra | iSlt | iSltu | iMin | iMax | iMul | iMulh =>
    obtain ⟨-, rfl⟩ := hb
    obtain ⟨-, rfl, rfl⟩ := hs
    exact encodes_rr (by omega) (by omega) (by omega) (by omega) (by simp (disch := omega) [decodeS, sRR_fields])
  case iAddi | iLw | iSw | iLwp | iSwp =>
    obtain ⟨-, rfl⟩ := hb
    obtain ⟨-, rfl, rfl⟩ := hs
    exact encodes_ri (by omega) (by omega) (by omega) (by omega) (by simp (disch := omega) [decodeS, sRI_fields, ofNat_sRI])
  case iShli | iShri | iSrai =>
    obtain ⟨hi, -, rfl⟩ := hb
    obtain ⟨-, rfl, rfl⟩ := hs
    exact encodes_ri (by omega) (by omega) (by omega) (by omega) (by simp (disch := omega) [decodeS, sRI_fields, ofNat_sRI, hi])
  case iVld | iVst | iVldp | iVstp =>
    obtain ⟨-, rfl⟩ := hb
    obtain ⟨-, rfl, rfl⟩ := hs
    exact encodes_ri (by omega) (by omega) (by omega) (by omega) (by simp (disch := omega) [decodeS, sRI_fields, ofNat_sRI, bv4_lt])
  case iVsplat | iVext =>
    obtain ⟨-, rfl⟩ := hb
    obtain ⟨-, rfl, rfl⟩ := hs
    exact encodes_ri (by omega) (by omega) (by omega) (by omega)
      (by simp (disch := omega) [decodeS, sRI_fields, ofNat_sRI, bv4_lt, bv2_lt])
  case iMovi | iBeqz | iBnez | iBltz | iBgez | iJmp | iCall | iCsrr | iCsrw | iSync | iEnd =>
    obtain ⟨-, rfl⟩ := hb
    obtain ⟨-, rfl, rfl⟩ := hs
    exact encodes_i (by omega) (by omega) (by omega) (by simp (disch := omega) [decodeS, sI_fields, ofNat_sI])
  case iJr =>
    obtain ⟨-, rfl⟩ := hb
    obtain ⟨-, rfl, rfl⟩ := hs
    exact encodes_ri (by omega) (by omega) (by omega) (by omega) (by simp (disch := omega) [decodeS, sRI_fields])
  case iLoop =>
    obtain ⟨hi, -, rfl⟩ := hb
    obtain ⟨-, rfl, rfl⟩ := hs
    exact encodes_ri (by omega) (by omega) (by omega) (by omega) (by simpa (disch := omega) [decodeS, sRI_fields, ofNat_sRI] using hi)
  case iLi =>
    obtain ⟨-, rfl⟩ := hb
    obtain ⟨-, rfl, rfl⟩ := hs
    exact encodes_li ..
  case iMop | iMzero | iVadd | iVsub | iVmul | iVfma | iVmin | iVmax | iVand | iVor | iVxor | iVshr | iVperm | iPta | iCbld =>
    obtain ⟨-, rfl⟩ := hb
    obtain ⟨-, rfl, rfl⟩ := hs
    exact encodes_m (by omega) (by omega) (by omega) (by omega) (by omega)
      (by simp (disch := omega) [decodeM, mNum_fields, bv3_lt, bv2_lt])
  case iVcvt =>
    obtain ⟨hi, -, rfl⟩ := hb
    obtain ⟨-, rfl, rfl⟩ := hs
    exact encodes_m (by omega) (by omega) (by omega) (by omega) (by omega)
      (by simpa (disch := omega) [decodeM, mNum_fields, ← BitVec.toNat_inj] using hi)
  case iMrd row half | iMwr row half =>
    obtain ⟨-, rfl⟩ := hb
    obtain ⟨-, rfl, rfl⟩ := hs
    rw [rowWord]
    have hle := Laws.BundleFits.b2n_le half
    have hlow : row.toNat % 2 * 8 % 4 = 0 := by omega
    have hrow : BitVec.ofNat 5 (row.toNat / 2 * 2 + (row.toNat % 2 * 8 + b2n half * 4) / 8) = row := ofNat_of_mod row (by omega)
    have hhalf : (row.toNat % 2 * 8 + b2n half * 4) / 4 % 2 = b2n half % 2 := by omega
    exact encodes_m (by omega) (by omega) (by omega) (by omega) (by omega)
      (by simp (disch := omega) [decodeM, mNum_fields, bv3_lt, hlow, hrow, hhalf, b2n_bit])
  case iVsum fp =>
    obtain ⟨-, rfl⟩ := hb
    obtain ⟨-, rfl, rfl⟩ := hs
    cases fp <;> exact encodes_m (by omega) (by omega) (by omega) (by omega) (by decide)
      (by simp (disch := omega) [decodeM, mNum_fields, b2n])
  case iVfn fn =>
    obtain ⟨-, rfl⟩ := hb
    obtain ⟨-, rfl, rfl⟩ := hs
    have hfn : (4 * fn.toNat + 3) / 4 = fn.toNat := by omega
    exact encodes_m (by omega) (by omega) (by omega) (by omega) (by omega) (by simp (disch := omega) [decodeM, mNum_fields, hfn])
  case iVcmp t op =>
    obtain ⟨hi, -, rfl⟩ := hb
    obtain ⟨-, rfl, rfl⟩ := hs
    have hop : (4 * op.toNat + t.toNat) / 4 = op.toNat := by omega
    have ht : BitVec.ofNat 2 (4 * op.toNat + t.toNat) = t := ofNat_of_mod t (by omega)
    exact encodes_m (by omega) (by omega) (by omega) (by omega) (by omega)
      (by simpa (disch := omega) [decodeM, mNum_fields, hop, ht, ← BitVec.toNat_inj] using hi)
  case iPtb buf a kind m =>
    obtain ⟨hi, -, rfl⟩ := hb
    obtain ⟨-, rfl, rfl⟩ := hs
    have hle := Laws.BundleFits.b2n_le buf
    have hkind : kind.toNat = 0 ∨ kind.toNat = 2 ∨ kind.toNat = 3 ∨ kind.toNat = 4 ∨ 8 ≤ kind.toNat := by
      have hone : kind.toNat ≠ 1 := fun h => hi (.inl (BitVec.eq_of_toNat_eq h))
      omega
    exact encodes_m (by omega) (by omega) (by omega) (by omega) (by omega)
      (by simp (disch := omega) [decodeM, mNum_fields, hle, hkind, bv2_lt, b2n_bit])
  case iDma | iDmaw =>
    obtain ⟨-, rfl⟩ := hb
    obtain ⟨-, rfl, rfl⟩ := hs
    exact encodes_x (by omega) (by omega) (by omega) (by omega) (by simp (disch := omega) [decodeX, xNum_fields, ofNat_xNum])
  case iSend | iRecv | iRpop | iKsig | iKwait | iEpeek | iEpop =>
    obtain ⟨-, rfl⟩ := hb
    obtain ⟨-, rfl, rfl⟩ := hs
    exact encodes_x (by omega) (by omega) (by omega) (by omega) (by simp (disch := omega) [decodeX, xNum_fields, ofNat_xNum_zero])

/-- Settles O12: the bundle decodes to the one slot that the instruction's command issues, beside NOPs that do nothing. -/
theorem bundleIsInstruction : Obligations.BundleIsInstruction := by
  intro i c w s hb hw hf hs
  obtain ⟨p, o, hp⟩ := slotOf_of_bundleOf hb
  refine ⟨fun hr hi => ?_, fun hn => ⟨bundleIssue_off hs hn, ?_⟩⟩
  · have hd : decodeBundle (fetchBundle s c.toNat) = some (bundleIn p o) := hw ▸ decodeBundle_of_encodes (encodes_bundleOf hb hp)
    have hr' : Awake (sramRead s c.toNat) := by
      unfold sramRead
      obtain ⟨x, hx⟩ := winPass_eq s (winKey 0x13 (physCore s c.toNat)) 1
      rw [hx]
      exact hr
    rw [bundleIssue_ops hr hi hf hd, issue_bundleIn, exec_slotOf hp, awake_runs hr']
    rfl
  · rw [exec_slotOf hp, issue_off hs hn]

end Sys2Proof.Machine
end

section
/-! PROOFS. O2: the loads and stores of the S slot on the core's SRAM (R172, R178). -/

namespace Sys2Proof.Machine

/-! ## A core as a slot leaves it -/

/-- Nothing that decides how a bundle goes on differs. -/
def SameRun (k' k : Core) : Prop := k'.job = k.job ∧ k'.ending = k.ending ∧ k'.pc = k.pc ∧ k'.loops = k.loops

theorem SameRun.refl (k : Core) : SameRun k k := ⟨rfl, rfl, rfl, rfl⟩

theorem SameRun.trans {k₁ k₂ k₃ : Core} (h : SameRun k₁ k₂) (g : SameRun k₂ k₃) : SameRun k₁ k₃ := by
  obtain ⟨h1, h2, h3, h4⟩ := h
  obtain ⟨g1, g2, g3, g4⟩ := g
  exact ⟨h1.trans g1, h2.trans g2, h3.trans g3, h4.trans g4⟩

@[simp] theorem sameRun_putS (k : Core) (d : BitVec 5) (v : U32) : SameRun (putS k d v) k :=
  ⟨putS_job k d v, putS_ending k d v, putS_pc k d v, putS_loops k d v⟩

@[simp] theorem sameRun_putV (k : Core) (d : BitVec 4) (v : BitVec 512) : SameRun (putV k d v) k := ⟨rfl, rfl, rfl, rfl⟩

theorem SameRun.job_isSome {k' k : Core} (h : SameRun k' k) (hj : k.job.isSome = true) : k'.job.isSome = true := h.1 ▸ hj

theorem Straight.job {s : State} {c : Nat} (h : Straight s c) : (getCore s c).job.isSome = true := (canIssue_job h.2.1).1

/-- A bundle with one slot, in sequence, that leaves the core's run as it is. -/
theorem issueOne_goes {s w u : State} {c : BitVec 8} {o : SlotOp} {k : Core} (h : Straight s c.toNat)
    (hr : o.ready s c.toNat = true) (hf : o.fault s c.toNat = none) (hs : sramReads s c.toNat (o.sram s c.toNat) = (true, w))
    (hrun : SlotRuns s u c.toNat k (o.run s w c.toNat)) (hk : SameRun k (getCore s c.toNat))
    (hfl : o.flow (getCore s c.toNat) = .seq) :
    ∃ t, issueOne c o s = .next t ∧ CoreGoes s u t c.toNat k ((getCore s c.toNat).pc.toNat + 1) [] := by
  obtain ⟨hjob, hend, hpc, hloops⟩ := hk
  exact issueOne_step h hr hf hs hrun hjob (hend.trans (canIssue_job h.2.1).2) hpc (hloops.trans h.2.2.1) hfl

/-- The same for an M or X slot. -/
theorem issueMX_goes {s w u : State} {c : BitVec 8} {o : SlotOp} {k : Core} (h : Straight s c.toNat)
    (hr : o.ready s c.toNat = true) (hf : o.fault s c.toNat = none) (hs : sramReads s c.toNat (o.sram s c.toNat) = (true, w))
    (hrun : SlotRuns s u c.toNat k (o.run s w c.toNat)) (hk : SameRun k (getCore s c.toNat)) :
    ∃ t, issueMX c o s = .next t ∧ CoreGoes s u t c.toNat k ((getCore s c.toNat).pc.toNat + 1) [] := by
  obtain ⟨hjob, hend, hpc, hloops⟩ := hk
  exact issueMX_step h hr hf hs hrun hjob (hend.trans (canIssue_job h.2.1).2) hpc (hloops.trans h.2.2.1)

/-- What does not touch the cores leaves them. -/
theorem slotRuns_of_cores {s t : State} (c : Nat) (h : t.cores = s.cores) : SlotRuns s t c (getCore s c) t :=
  ⟨getCore_of_cores h c, fun q _ => getCore_of_cores h q, rfl⟩

/-- A further write of the core. -/
theorem SlotRuns.mod {s u t : State} {c : Nat} {k : Core} {g : Core → Core} (h : SlotRuns s u c k t)
    (hj : (g k).job.isSome = true) : SlotRuns s u c (g k) (modCore t c g) := by
  obtain ⟨hc, hq, ht⟩ := h
  subst hc
  refine ⟨getCore_modCore hj, fun q hne => (getCore_modCore_ne hj hne).trans (hq q hne), ?_⟩
  rw [ht]
  rfl

theorem SlotRuns.setS {s u t : State} {c : Nat} {k : Core} (h : SlotRuns s u c k t) (hj : k.job.isSome = true)
    (d : BitVec 5) (v : U32) : SlotRuns s u c (putS k d v) (setS t c d v) := by
  unfold Machine.setS putS
  split
  · exact h
  · exact h.mod (g := fun k => { k with s := smSet 0 k.s d.toNat v }) hj

theorem SlotRuns.setV {s u t : State} {c : Nat} {k : Core} (h : SlotRuns s u c k t) (hj : k.job.isSome = true)
    (d : BitVec 4) (v : BitVec 512) : SlotRuns s u c (putV k d v) (setV t c d v) :=
  h.mod (g := fun k => { k with v := smSet 0 k.v d.toNat v }) hj

/-! ## The address and the post-increment -/

/-- The core after the post-increment. -/
def bumped (old k : Core) (a : BitVec 5) (i : BitVec 6) (size : Nat) (post : Bool) : Core :=
  if post then putS k a (sReg old a + BitVec.ofInt 32 (i.toInt * size)) else k

theorem sameRun_bumped (old k : Core) (a : BitVec 5) (i : BitVec 6) (size : Nat) (post : Bool) :
    SameRun (bumped old k a i size post) k := by
  unfold bumped
  split
  · exact sameRun_putS ..
  · exact .refl k

theorem SlotRuns.bump {s u t : State} {c : Nat} {k : Core} (h : SlotRuns s u c k t) (hj : k.job.isSome = true)
    (a : BitVec 5) (i : BitVec 6) (size : Nat) (post : Bool) :
    SlotRuns s u c (bumped (getCore s c) k a i size post) (bump s t c a i size post) := by
  unfold bumped Machine.bump
  split
  · exact h.setS hj ..
  · exact h

/-- An aligned access within the SRAM is no fault. -/
theorem accessFault_sram {p n : Nat} (wr : Bool) (ha : p % n = 0) (hp : p < 0x100000) : accessFault p n wr = none := by
  have hlt : p < sramSize := hp
  simp [accessFault, ha, localOk, hlt]

/-- An aligned read within the SRAM ends within it. -/
theorem aligned_end {p n i : Nat} (hn : n ∣ 0x100000) (ha : p % n = 0) (hp : p < 0x100000) (hi : i < n) : p + i < 0x100000 := by
  obtain ⟨x, hx⟩ := hn
  obtain ⟨y, rfl⟩ := Nat.dvd_of_mod_eq_zero ha
  have hy : y < x := Nat.lt_of_mul_lt_mul_left (hx ▸ hp)
  have := Nat.mul_le_mul_left n (Nat.succ_le_of_lt hy)
  rw [Nat.mul_succ] at this
  omega

/-- The bytes that stand in a row are those read one by one. -/
theorem peek_eq_map (s : State) (k n : Nat) : peek s k n = (List.range n).map (fun i => peek1 s (k + i)) := by
  induction n generalizing k with
  | zero => rfl
  | succ n ih =>
    rw [peek, ih, List.range_succ_eq_map, List.map_cons, List.map_map]
    congr 1
    exact List.map_congr_left fun i _ => by simp only [Function.comp]; congr 1; omega

/-- An aligned read within the SRAM gives the bytes there, and takes one free value. -/
theorem localRead_sram {s w : State} {c p n : Nat} (hn : n ∣ 0x100000) (ha : p % n = 0) (hp : p < 0x100000) :
    localRead s w c p n = (peek s (mkey (spBobbin c) p) n, { w with freeCtr := w.freeCtr + 1 }) := by
  unfold localRead
  rw [peek_eq_map]
  simp only [takeFree]
  congr 1
  refine List.map_congr_left fun i hi => ?_
  have hlt : p + i < sramSize := aligned_end hn ha hp (List.mem_range.mp hi)
  unfold localByte
  rw [if_pos hlt, mkey, mkey, Nat.add_assoc]

/-! ## Loads -/

/-- `put` takes a value to the core that `g` describes, and leaves the core's run. -/
structure Puts (put : State → Nat → Nat → State) (g : Core → Nat → Core) : Prop where
  runs : ∀ {s u t : State} {c : Nat} {k : Core} (v : Nat), SlotRuns s u c k t → k.job.isSome = true → SlotRuns s u c (g k v) (put t c v)
  sameRun : ∀ k v, SameRun (g k v) k

theorem puts_putWord (d : BitVec 5) : Puts (putWord d) (fun k v => putS k d (BitVec.ofNat 32 v)) :=
  ⟨fun _ h hj => h.setS hj .., fun _ _ => sameRun_putS ..⟩

theorem puts_putVec (d : BitVec 4) : Puts (putVec d) (fun k v => putV k d (BitVec.ofNat 512 v)) :=
  ⟨fun _ h hj => h.setV hj .., fun _ _ => sameRun_putV ..⟩

/-- What a load leaves: `g` takes the bytes at the address to the core. -/
theorem loadSlot_goes {s : State} {c : BitVec 8} {dest : List (BitVec 5)} {a : BitVec 5} {i : BitVec 6} {size : Nat} {post : Bool}
    {put : State → Nat → Nat → State} {g : Core → Nat → Core} (h : Straight s c.toNat) (hfl : s.flaws = []) (hput : Puts put g)
    (hn : size ∣ 0x100000) (ha : (memAddr (getCore s c.toNat) a i size post).toNat % size = 0)
    (hp : (memAddr (getCore s c.toNat) a i size post).toNat < 0x100000) :
    ∃ t, issueOne c (loadSlot dest a i size post put) s = .next t ∧
      CoreGoes s { sramRead s c.toNat with freeCtr := s.freeCtr + 1 } t c.toNat
        (bumped (getCore s c.toNat) (g (getCore s c.toNat)
          (leNat (peek s (mkey (spBobbin c.toNat) (memAddr (getCore s c.toNat) a i size post).toNat) size))) a i size post)
        ((getCore s c.toNat).pc.toNat + 1) [] := by
  have hlt : (memAddr (getCore s c.toNat) a i size post).toNat < sramSize := hp
  have hk := hput.sameRun (getCore s c.toNat)
  refine issueOne_goes h rfl (accessFault_sram false ha hp) (w := sramRead s c.toNat) ?_ ?_ ((sameRun_bumped ..).trans (hk _)) rfl
  · simp only [loadSlot, hlt, if_true]
    exact sramReads_one hfl
  · simp only [loadSlot, localRead_sram hn ha hp]
    have hcores : { sramRead s c.toNat with freeCtr := (sramRead s c.toNat).freeCtr + 1 }.cores = s.cores := winPass_cores ..
    have hctr : (sramRead s c.toNat).freeCtr = s.freeCtr := by
      obtain ⟨x, hx⟩ := winPass_eq s (winKey 0x13 (physCore s c.toNat)) 1
      rw [sramRead, hx]
    rw [← hctr]
    exact (hput.runs _ (slotRuns_of_cores c.toNat hcores) h.job).bump ((hk _).job_isSome h.job) ..

/-! ## Stores -/

/-- An aligned store of 4 bytes writes a part of one word. -/
theorem partWords_four {p : Nat} (ha : p % 4 = 0) : partWords 8 p 4 = [(p / 8 * 8, 8)] := by
  unfold partWords
  by_cases h8 : p % 8 = 0
  · have hend : (p + 4) / 8 * 8 = p / 8 * 8 := by omega
    simp [hend]
  · have hend : (p + 4) / 8 * 8 ≠ p / 8 * 8 := by omega
    have hrest : (p + 4) % 8 = 0 := by omega
    simp [h8, hrest]

/-- An aligned store of 64 bytes writes whole words. -/
theorem partWords_vector {p : Nat} (ha : p % 64 = 0) : partWords 8 p 64 = [(p / 8 * 8, 0)] := by
  have hend : (p + 64) / 8 * 8 ≠ p / 8 * 8 := by omega
  have hrest : (p + 64) % 8 = 0 := by omega
  have hhead : p % 8 = 0 := by omega
  simp [partWords, hend, hrest, hhead]

/-- Without an error in any word, a store to SRAM only writes its bytes. -/
theorem localWrite_sram {s : State} {c p : Nat} (bs : Bytes) (hfl : s.flaws = []) (hp : p < 0x100000) :
    localWrite s c p bs = poke s (mkey (spBobbin c) p) bs := by
  have hlt : p < sramSize := hp
  have hc : clearFlaws s (mkey (spBobbin c) p) bs.length = s := by
    unfold clearFlaws
    rw [hfl, List.filter_nil, ← hfl]
  unfold localWrite
  rw [if_pos hlt, hc]

/-- What a store leaves: its bytes in memory, and the address bumped. -/
theorem storeSlot_goes {s : State} {c : BitVec 8} {dest : List (BitVec 5)} {a : BitVec 5} {i : BitVec 6} {size n : Nat} {post : Bool}
    {get : Core → Nat} (h : Straight s c.toNat) (hfl : s.flaws = [])
    (hw : ∀ p, p % size = 0 → partWords 8 p size = [(p / 8 * 8, n)]) (ha : (memAddr (getCore s c.toNat) a i size post).toNat % size = 0)
    (hp : (memAddr (getCore s c.toNat) a i size post).toNat < 0x100000) :
    ∃ t, issueOne c (storeSlot dest a i size post get) s = .next t ∧
      CoreGoes s (poke (sramRead s c.toNat) (mkey (spBobbin c.toNat) (memAddr (getCore s c.toNat) a i size post).toNat)
          (natLE size (get (getCore s c.toNat)))) t c.toNat (bumped (getCore s c.toNat) (getCore s c.toNat) a i size post)
        ((getCore s c.toNat).pc.toNat + 1) [] := by
  have hlt : (memAddr (getCore s c.toNat) a i size post).toNat < sramSize := hp
  refine issueOne_goes h rfl (accessFault_sram true ha hp) (w := sramRead s c.toNat) ?_ ?_ (sameRun_bumped ..) rfl
  · simp only [storeSlot, storeReads, hlt, if_true, hw _ ha]
    exact sramReads_one hfl
  · have hclean : (sramRead s c.toNat).flaws = [] := by simp [sramRead, hfl]
    simp only [storeSlot, localWrite_sram _ hclean hp]
    refine SlotRuns.bump (slotRuns_of_cores _ ?_) h.job ..
    rw [poke_eq]
    exact winPass_cores ..

/-- The bytes of a store, and those it leaves. -/
theorem stored_bytes {s t : State} {c p size v : Nat} {k : Core} {pc : Nat} {ls : List LoopFrame}
    (h : CoreGoes s (poke (sramRead s c) (mkey (spBobbin c) p) (natLE size v)) t c k pc ls) :
    CoreGoes s { sramRead s c with mem := t.mem } t c k pc ls ∧
    (∀ q, (q < mkey (spBobbin c) p ∨ mkey (spBobbin c) p + size ≤ q) → Memory.wf s = true → peek1 t q = peek1 s q) ∧
    (Memory.wf s = true → peek t (mkey (spBobbin c) p) size = natLE size v) := by
  obtain ⟨hc, hq, ht⟩ := h
  have hmem : t.mem = (poke (sramRead s c) (mkey (spBobbin c) p) (natLE size v)).mem := by rw [ht]; simp
  have hlost : t.lost = (poke (sramRead s c) (mkey (spBobbin c) p) (natLE size v)).lost := by rw [ht]; simp
  have hread : (sramRead s c).mem = s.mem ∧ (sramRead s c).lost = s.lost := by simp [sramRead]
  obtain ⟨hrm, hrl⟩ := hread
  refine ⟨⟨hc, hq, ?_⟩, fun q hout hwf => ?_, fun hwf => ?_⟩
  · rw [hmem, ← poke_eq]
    exact ht
  · rw [peek1_of_mem hmem hlost, peek1_poke_out ((wf_of_mem hrm hrl).trans hwf) (by simpa using hout), peek1_of_mem hrm hrl]
  · have hback := peek_poke (mkey (spBobbin c) p) (natLE size v) ((wf_of_mem hrm hrl).trans hwf)
    rw [natLE_length] at hback
    rw [peek_of_mem hmem hlost, hback]

/-- Settles O2: every load and store is its slot, which reads or writes the bytes at its address. -/
theorem loadsAndStores : Obligations.LoadsAndStores := by
  intro s c a i h hfl
  refine ⟨fun d hok => ?_, fun d hok => ?_, fun d hok => ?_, fun d hok => ?_, fun d hok => ?_, fun d hok => ?_, fun d hok => ?_,
    fun d hok => ?_⟩
  case refine_1 => exact loadSlot_goes h hfl (puts_putWord d) (by norm_num) hok.1 hok.2
  case refine_2 => exact loadSlot_goes h hfl (puts_putWord d) (by norm_num) hok.1 hok.2
  case refine_3 =>
    obtain ⟨t, ht, hg⟩ := loadSlot_goes h hfl (puts_putVec d) (by norm_num) hok.1 hok.2
    exact ⟨t, ht, hg⟩
  case refine_4 =>
    obtain ⟨t, ht, hg⟩ := loadSlot_goes h hfl (puts_putVec d) (by norm_num) hok.1 hok.2
    exact ⟨t, ht, hg⟩
  case refine_5 =>
    obtain ⟨t, ht, hg⟩ := storeSlot_goes h hfl (fun _ => partWords_four) hok.1 hok.2
    exact ⟨t, ht, stored_bytes hg⟩
  case refine_6 =>
    obtain ⟨t, ht, hg⟩ := storeSlot_goes h hfl (fun _ => partWords_four) hok.1 hok.2
    exact ⟨t, ht, stored_bytes hg⟩
  case refine_7 =>
    obtain ⟨t, ht, hg⟩ := storeSlot_goes h hfl (fun _ => partWords_vector) hok.1 hok.2
    exact ⟨t, ht, stored_bytes hg⟩
  case refine_8 =>
    obtain ⟨t, ht, hg⟩ := storeSlot_goes h hfl (fun _ => partWords_vector) hok.1 hok.2
    exact ⟨t, ht, stored_bytes hg⟩

end Sys2Proof.Machine
end

section
/-! PROOFS. What a sparse map holds after a row of writes, and after a whole tile is written (R175). -/

namespace Sys2Proof

variable {α β : Type}

/-- A key that no write of a row names keeps its value. -/
theorem smGet_writes_out [DecidableEq α] {d : α} {q : Nat} (f : β → Nat) (g : β → α) (xs : List β) {m : SMap α} (h : SmSorted m)
    (hq : ∀ x ∈ xs, q ≠ f x) : smGet d (xs.foldl (fun t x => smSet d t (f x) (g x)) m) q = smGet d m q := by
  induction xs generalizing m with
  | nil => rfl
  | cons x xs ih =>
    rw [List.foldl_cons, ih (smSorted_smSet _ h) fun y hy => hq y (List.mem_cons_of_mem _ hy), smGet_smSet_sorted _ h,
      if_neg (hq x List.mem_cons_self)]

/-- A key that a row of writes names, with one value wherever it does, holds that value. -/
theorem smGet_writes_in [DecidableEq α] {d v : α} {q : Nat} (f : β → Nat) (g : β → α) (xs : List β) {m : SMap α} (h : SmSorted m)
    (hv : ∀ x ∈ xs, f x = q → g x = v) (hq : smGet d m q = v ∨ ∃ x ∈ xs, f x = q) :
    smGet d (xs.foldl (fun t x => smSet d t (f x) (g x)) m) q = v := by
  induction xs generalizing m with
  | nil => simpa using hq
  | cons x xs ih =>
    refine ih (smSorted_smSet _ h) (fun y hy => hv y (List.mem_cons_of_mem _ hy)) ?_
    rw [smGet_smSet_sorted _ h]
    by_cases hx : q = f x
    · exact .inl (by rw [if_pos hx, hv x List.mem_cons_self hx.symm])
    · rw [if_neg hx]
      refine hq.imp_right ?_
      rintro ⟨y, hy, he⟩
      rcases List.mem_cons.mp hy with rfl | hy
      · exact absurd he.symm hx
      · exact ⟨y, hy, he⟩

/-- A map lists nothing for a key below all of its keys. -/
theorem smGet_below {d : α} {q : Nat} {m : SMap α} (h : ∀ e ∈ m, q < e.1) : smGet d m q = d := by
  cases m with
  | nil => rfl
  | cons e r =>
    have he : q < e.1 := h e List.mem_cons_self
    simp [smGet, he, he.ne]

theorem smGet_append_left {d : α} {q : Nat} (m : SMap α) {r : SMap α} (h : ∀ e ∈ r, q < e.1) : smGet d (m ++ r) q = smGet d m q := by
  induction m with
  | nil => exact smGet_below h
  | cons e m ih => simp only [List.cons_append, smGet, ih]

theorem smGet_append_right {d : α} {q : Nat} {m : SMap α} (r : SMap α) (h : ∀ e ∈ m, e.1 < q) : smGet d (m ++ r) q = smGet d r q := by
  induction m with
  | nil => rfl
  | cons e m ih =>
    have he : e.1 < q := h e List.mem_cons_self
    rw [List.cons_append, smGet, if_neg he.ne', if_neg he.not_gt, ih fun x hx => h x (List.mem_cons_of_mem _ hx)]

/-- A map of which the keys with `p` are kept. -/
theorem smGet_filter_sorted {d : α} {m : SMap α} (p : Nat → Bool) (h : SmSorted m) (q : Nat) :
    smGet d (m.filter (fun e => p e.1)) q = if p q then smGet d m q else d := by
  rw [Machine.smGet_eq_find, Machine.smFind_filter_sorted p h, Machine.smGet_eq_find]
  split <;> rfl

/-- Values as they are listed from key `k` on, but for those that an unlisted key reads as. -/
def listFrom [DecidableEq α] (d : α) (base n : Nat) (vs : List α) : SMap α :=
  (vs.zipIdx n).filterMap (fun (v, i) => if v = d then none else some (base + i, v))

theorem listFrom_cons [DecidableEq α] (d : α) (base n : Nat) (v : α) (vs : List α) :
    listFrom d base n (v :: vs) = if v = d then listFrom d base (n + 1) vs else (base + n, v) :: listFrom d base (n + 1) vs := by
  by_cases h : v = d <;> simp [listFrom, h]

theorem mem_listFrom [DecidableEq α] {d : α} {base n : Nat} {vs : List α} {e : Nat × α} (h : e ∈ listFrom d base n vs) :
    base + n ≤ e.1 ∧ e.1 < base + n + vs.length := by
  obtain ⟨⟨v, i⟩, hi, he⟩ := List.mem_filterMap.mp h
  obtain ⟨h1, h2, -⟩ := List.mem_zipIdx hi
  by_cases hv : v = d
  · simp [hv] at he
  · simp only [hv, if_false, Option.some.injEq] at he
    subst he
    exact ⟨by omega, by omega⟩

theorem smGet_listFrom [DecidableEq α] (d : α) (base n j : Nat) (vs : List α) :
    smGet d (listFrom d base n vs) (base + n + j) = vs[j]?.getD d := by
  induction vs generalizing n j with
  | nil => rfl
  | cons v vs ih =>
    rw [listFrom_cons]
    cases j with
    | zero =>
      have hbelow : smGet d (listFrom d base (n + 1) vs) (base + n) = d := smGet_below fun e he => by
        have := (mem_listFrom he).1
        omega
      by_cases hv : v = d
      · simp [hv, hbelow]
      · simp [hv, smGet]
    | succ j =>
      have hnext : base + n + (j + 1) = base + (n + 1) + j := by omega
      have hne : base + (n + 1) + j ≠ base + n := by omega
      have hge : ¬ base + (n + 1) + j < base + n := by omega
      by_cases hv : v = d
      · simp [hv, hnext, ih]
      · simp [hv, hnext, ih, smGet, hne, hge]

end Sys2Proof
end

section
/-! PROOFS. O5: the moves between registers, tiles and codebooks (R175, R184). -/

namespace Sys2Proof.Machine

/-! ## A tile written as a whole -/

/-- A tile written as a whole reads as its elements, and the other tiles keep theirs. -/
theorem smGet_setTile {acc : SMap U32} {vs : List U32} (tile q : Nat) (h : SmSorted acc) (hv : vs.length ≤ 1024) :
    smGet 0 (setTile acc tile vs) q = if q / 1024 = tile then vs[q % 1024]?.getD 0 else smGet 0 acc q := by
  have hrow : ∀ e ∈ listFrom 0 (tile * 1024) 0 vs, tile * 1024 ≤ e.1 ∧ e.1 < (tile + 1) * 1024 := fun e he => by
    obtain ⟨h1, h2⟩ := mem_listFrom he
    omega
  have hlow : ∀ e ∈ acc.filter (fun e => decide (e.1 < tile * 1024)), e.1 < tile * 1024 := fun e he =>
    of_decide_eq_true (List.mem_filter.mp he).2
  have hhigh : ∀ e ∈ acc.filter (fun e => decide ((tile + 1) * 1024 ≤ e.1)), (tile + 1) * 1024 ≤ e.1 := fun e he =>
    of_decide_eq_true (List.mem_filter.mp he).2
  show smGet 0 (acc.filter (fun e => decide (e.1 < tile * 1024)) ++ listFrom 0 (tile * 1024) 0 vs ++
    acc.filter (fun e => decide ((tile + 1) * 1024 ≤ e.1))) q = _
  rcases Nat.lt_or_ge q (tile * 1024) with hq | hq
  · rw [smGet_append_left _ fun e he => by have := hhigh e he; omega, smGet_append_left _ fun e he => by have := hrow e he; omega,
      smGet_filter_sorted (fun n => decide (n < tile * 1024)) h, if_pos (by simpa using hq), if_neg (by omega)]
  · rcases Nat.lt_or_ge q ((tile + 1) * 1024) with hq' | hq'
    · rw [smGet_append_left _ fun e he => by have := hhigh e he; omega, smGet_append_right _ fun e he => by have := hlow e he; omega,
        if_pos (by omega)]
      have hkey : q = tile * 1024 + 0 + q % 1024 := by omega
      conv_lhs => rw [hkey]
      exact smGet_listFrom ..
    · rw [smGet_append_right, smGet_filter_sorted (fun n => decide ((tile + 1) * 1024 ≤ n)) h, if_pos (by simpa using hq'),
        if_neg (by omega)]
      intro e he
      rcases List.mem_append.mp he with he | he
      · have := hlow e he
        omega
      · have := hrow e he
        omega

/-! ## Slots that only write their core -/

/-- An M or X slot that is ready, does not fault and reads no memory. -/
theorem issueMX_plain {s u : State} {c : BitVec 8} {o : SlotOp} {k : Core} (h : Straight s c.toNat) (hr : o.ready s c.toNat = true)
    (hf : o.fault s c.toNat = none) (hs : o.sram s c.toNat = []) (hrun : SlotRuns s u c.toNat k (o.run s s c.toNat))
    (hk : SameRun k (getCore s c.toNat)) : ∃ t, issueMX c o s = .next t ∧ CoreGoes s u t c.toNat k ((getCore s c.toNat).pc.toNat + 1) [] :=
  issueMX_goes h hr hf (by rw [hs]; exact sramReads_nil ..) hrun hk

/-- The same of a slot of the S slot, in sequence. -/
theorem issueOne_plain {s u : State} {c : BitVec 8} {o : SlotOp} {k : Core} (h : Straight s c.toNat) (hr : o.ready s c.toNat = true)
    (hf : o.fault s c.toNat = none) (hs : o.sram s c.toNat = []) (hrun : SlotRuns s u c.toNat k (o.run s s c.toNat))
    (hk : SameRun k (getCore s c.toNat)) (hfl : o.flow (getCore s c.toNat) = .seq) :
    ∃ t, issueOne c o s = .next t ∧ CoreGoes s u t c.toNat k ((getCore s c.toNat).pc.toNat + 1) [] :=
  issueOne_goes h hr hf (by rw [hs]; exact sramReads_nil ..) hrun hk hfl

/-- An M or X slot that writes vector register `d`. -/
theorem issueMX_setV {s : State} {c : BitVec 8} {d : BitVec 4} {v : BitVec 512} {o : SlotOp} (h : Straight s c.toNat)
    (hr : o.ready s c.toNat = true) (hf : o.fault s c.toNat = none) (hs : o.sram s c.toNat = [])
    (hrun : o.run s s c.toNat = setV s c.toNat d v) :
    ∃ t, issueMX c o s = .next t ∧ CoreStep s t c.toNat (putV (getCore s c.toNat) d v) :=
  issueMX_plain h hr hf hs (hrun ▸ slotRuns_setV d v h.job) (sameRun_putV ..)

/-- A slot of the S slot that writes scalar register `d`. -/
theorem issueOne_setS {s : State} {c : BitVec 8} {d : BitVec 5} {v : U32} {o : SlotOp} (h : Straight s c.toNat)
    (hr : o.ready s c.toNat = true) (hf : o.fault s c.toNat = none) (hs : o.sram s c.toNat = [])
    (hrun : o.run s s c.toNat = setS s c.toNat d v) (hfl : o.flow (getCore s c.toNat) = .seq) :
    ∃ t, issueOne c o s = .next t ∧ CoreStep s t c.toNat (putS (getCore s c.toNat) d v) :=
  issueOne_plain h hr hf hs (hrun ▸ slotRuns_setS d v h.job) (sameRun_putS ..) hfl

/-! ## The lanes of the moves -/

/-- The lanes of a type fill a register. -/
theorem laneBits_dvd (t : BitVec 2) : laneBits t * (512 / laneBits t) = 512 := by
  unfold laneBits
  split
  · rfl
  · split <;> rfl

/-- The lanes of a register that is made of `512 / w` values. -/
theorem lane_ofLanes_map {α : Type} {w i : Nat} {ls : List α} (f : α → Nat) (hl : w * ls.length ≤ 512) (hi : i < ls.length) :
    lane w (ofLanes w (ls.map f)) i = f ls[i] % 2 ^ w := by
  rw [lane_ofLanes (by simpa using hl)]
  simp [hi]

theorem lanesOf_get {w i : Nat} {v : BitVec 512} (hi : i < (lanesOf w v).length) : (lanesOf w v)[i] = lane w v i := by
  simp [lanesOf, lane]

/-- The lanes of 32 bits with their numbers. -/
theorem mem_zipIdx_lanesOf {v : BitVec 512} {e : Nat × Nat} (h : e ∈ (lanesOf 32 v).zipIdx) : e.2 < 16 ∧ e.1 = lane 32 v e.2 := by
  obtain ⟨-, hlt, he⟩ := List.mem_zipIdx (k := 0) (x := e.1) (i := e.2) h
  simp only [lanesOf_length, Nat.zero_add] at hlt
  exact ⟨hlt, he.trans (lanesOf_get _)⟩

theorem lanesOf_zipIdx_mem {v : BitVec 512} {i : Nat} (h : i < 16) : (lane 32 v i, i) ∈ (lanesOf 32 v).zipIdx :=
  List.mem_zipIdx_iff_getElem?.mpr (lanesOf_getElem (w := 32) h)

theorem accKey_inj {tile row n i j : Nat} : accKey tile row (n + i) = accKey tile row (n + j) ↔ i = j := by
  unfold accKey
  omega

/-- The value that VPERM writes to a byte of which the selector is `n`. -/
theorem permByte {n : Nat} (va : BitVec 512) (hn : n < 256) :
    (if bitOf n 7 then 0 else fld va.toNat (8 * (n % 64)) 8) % 2 ^ 8 = if n < 128 then lane 8 va (n % 64) else 0 := by
  have hbit : bitOf n 7 = decide (128 ≤ n) := by
    rw [bitOf, Nat.testBit_eq_decide_div_mod_eq, decide_eq_decide]
    omega
  rw [hbit]
  by_cases h : n < 128
  · simp only [h, if_true, show ¬ 128 ≤ n by omega, decide_false, Bool.false_eq_true, if_false]
    exact Nat.mod_eq_of_lt (lane_lt 8 va (n % 64))
  · simp [h, show 128 ≤ n by omega]

/-- Settles O5: each move is one write of its core, whose lanes or elements read back. -/
theorem registerMoves : Obligations.RegisterMoves := by
  intro s c d a b h
  refine ⟨issueMX_setV h rfl rfl rfl rfl, issueMX_setV h rfl rfl rfl rfl, issueMX_setV h rfl rfl rfl rfl, fun sd l => ?_,
    fun sa ty => ?_, ?_, fun tile row half => ⟨?_, ?_, ?_⟩, fun cb => ?_⟩
  case refine_1 => exact issueOne_setS h rfl rfl rfl rfl rfl
  case refine_2 =>
    refine ⟨_, issueOne_plain h rfl rfl rfl (slotRuns_setV _ _ h.job) (sameRun_putV ..) rfl, fun i hi => ?_⟩
    rw [lane_ofLanes (by rw [List.length_replicate, laneBits_dvd ty])]
    simp [hi]
  case refine_3 =>
    refine ⟨_, issueMX_setV h rfl rfl rfl rfl, fun i hi => ?_⟩
    have hi' : i < (lanesOf 8 (vReg (getCore s c.toNat) b)).length := by simpa using hi
    rw [lane_ofLanes_map _ (by simp) hi', lanesOf_get]
    exact permByte _ (lane_lt 8 _ i)
  case refine_4 =>
    refine ⟨_, issueMX_setV h rfl rfl rfl rfl, fun i hi => ?_⟩
    rw [lane_ofLanes_map _ (by simp) (by simpa using hi), List.getElem_range]
    exact Nat.mod_eq_of_lt (accGet ..).isLt
  case refine_5 =>
    refine ⟨_, issueMX_plain h rfl rfl rfl (slotRuns_mod (g := fun k => { k with acc := _ }) h.job) ⟨rfl, rfl, rfl, rfl⟩,
      fun hwf => ⟨fun i hi => ?_, fun q hq => ?_⟩⟩
    · refine smGet_writes_in _ _ _ (smWf_sorted hwf) (fun e he hk => ?_) (.inr ⟨_, lanesOf_zipIdx_mem hi, rfl⟩)
      obtain ⟨-, hv⟩ := mem_zipIdx_lanesOf he
      rw [hv, accKey_inj.mp hk]
    · exact smGet_writes_out _ _ _ (smWf_sorted hwf) fun e he => hq e.2 (mem_zipIdx_lanesOf he).1
  case refine_6 =>
    refine ⟨_, issueMX_plain h rfl rfl rfl (slotRuns_mod (g := fun k => { k with acc := setTile k.acc tile.toNat [] }) h.job)
      ⟨rfl, rfl, rfl, rfl⟩, fun hwf q => ?_⟩
    rw [smGet_setTile _ _ (smWf_sorted hwf) (by simp)]
    rfl
  case refine_7 =>
    exact issueMX_plain h rfl rfl rfl (slotRuns_mod (g := fun k => { k with
      cb := smSet 0 k.cb cb.toNat (BitVec.ofNat 128 (vReg (getCore s c.toNat) a).toNat) }) h.job) ⟨rfl, rfl, rfl, rfl⟩

end Sys2Proof.Machine
end

section
/-! PROOFS. O6: the integer lanes of the M slot, which saturate and count (R165, R166, R175, R254). -/

namespace Sys2Proof.Machine

/-! ## Lanes of two registers side by side -/

theorem zip_lanesOf {w j : Nat} (x y : BitVec 512) (hj : j < 512 / w) :
    ((lanesOf w x).zip (lanesOf w y))[j]? = some (lane w x j, lane w y j) := by
  simp [List.getElem?_zip_eq_some, lanesOf_getElem hj]

theorem lane_ofLanes_some {w j x : Nat} {ls : List Nat} (hl : w * ls.length ≤ 512) (hj : ls[j]? = some x) :
    lane w (ofLanes w ls) j = x % 2 ^ w := by
  rw [lane_ofLanes hl, hj]
  rfl

theorem laneBits_cases {t : BitVec 2} : laneBits t = 8 ∨ laneBits t = 16 ∨ laneBits t = 32 := by
  unfold laneBits
  split
  · exact .inl rfl
  · split
    · exact .inr (.inl rfl)
    · exact .inr (.inr rfl)

theorem twos_lt (w : Nat) (e : Int) : twos w e < 2 ^ w := by
  have hpos : (0 : Int) < (2 ^ w : Nat) := by positivity
  have := Int.emod_lt_of_pos e hpos
  have := Int.emod_nonneg e hpos.ne'
  unfold twos
  omega

/-- Counting saturations leaves the cores. -/
theorem slotRuns_coreSat_setV {s : State} {c : Nat} (outs : Bool) (evs : List Bool) (d : BitVec 4) (v : BitVec 512)
    (hj : (getCore s c).job.isSome = true) :
    SlotRuns s (coreSat s s c outs evs) c (putV (getCore s c) d v) (setV (coreSat s s c outs evs) c d v) := by
  obtain ⟨-, -, hcores, -⟩ := sameForm_coreSat s s c outs evs
  exact (slotRuns_of_cores c hcores).setV hj d v

/-! ## Saturating lanes -/

/-- The exact result of lane `j`. -/
def laneExact (k : Core) (a b : BitVec 4) (t : BitVec 2) (f : Int → Int → Int) (j : Nat) : Int :=
  f (sext (laneBits t) (lane (laneBits t) (vReg k a) j)) (sext (laneBits t) (lane (laneBits t) (vReg k b) j))

/-- A lane's result clamped to its type. -/
def laneClamp (w : Nat) (e : Int) : Int := clampI (laneMin w) (laneMax w) e

/-- The event of an element is that it differs from what it is clamped to. -/
theorem clampEvents_get (f : Int → Int) {es : List Int} {j : Nat} {e : Int} (h : es[j]? = some e) :
    ((es.zip (es.map f)).map (fun (e, r) => e != r))[j]? = some (decide (e ≠ f e)) := by
  rw [List.getElem?_map, (List.getElem?_zip_eq_some (z := (e, f e))).mpr ⟨h, by rw [List.getElem?_map, h]; rfl⟩]
  by_cases he : e = f e
  · simp [← he]
  · simp [he]

/-- Every lane is the clamped exact result, and counts an event where that differs. -/
theorem laneSlot_int {s : State} {c : BitVec 8} {d a b : BitVec 4} {ty : BitVec 2} (fi : Int → Int → Int) (ff : U32 → U32 → U32)
    (h : Straight s c.toNat) (ht : ty ≠ 3) : ∃ t v evs, issueMX c (laneSlot d a b ty fi ff) s = .next t ∧
      (∀ j, j < 512 / laneBits ty →
        lane (laneBits ty) v j = twos (laneBits ty) (laneClamp (laneBits ty) (laneExact (getCore s c.toNat) a b ty fi j)) ∧
        evs[j]? = some (decide (laneExact (getCore s c.toNat) a b ty fi j ≠
          laneClamp (laneBits ty) (laneExact (getCore s c.toNat) a b ty fi j)))) ∧
      evs.length = 512 / laneBits ty ∧
      CoreGoes s (coreSat s s c.toNat false evs) t c.toNat (putV (getCore s c.toNat) d v) ((getCore s c.toNat).pc.toNat + 1) [] := by
  have hrun := slotRuns_coreSat_setV (s := s) (c := c.toNat) false
  obtain ⟨t, hex, hgo⟩ := issueMX_plain (o := laneSlot d a b ty fi ff) h rfl rfl rfl
    (by simp only [laneSlot, ht, if_false]; exact hrun _ _ _ h.job) (sameRun_putV ..)
  refine ⟨t, _, _, hex, fun j hj => ?_, by simp, hgo⟩
  have hz := zip_lanesOf (vReg (getCore s c.toNat) a) (vReg (getCore s c.toNat) b) hj
  refine ⟨?_, clampEvents_get _ (by rw [List.getElem?_map, hz]; rfl)⟩
  rw [lane_ofLanes_some (by simp [laneBits_dvd]) (by simp only [List.getElem?_map, hz, Option.map_some]; rfl)]
  exact Nat.mod_eq_of_lt (twos_lt ..)

/-! ## The shift amount that is cut off -/

theorem clampI_above {lo hi e : Int} (hle : lo ≤ hi) (h : hi < e) : clampI lo hi e = hi := by
  unfold clampI
  rw [if_neg (by omega), if_pos h]

theorem clampI_below {lo hi e : Int} (h : e < lo) : clampI lo hi e = lo := if_pos h

/-- Two exact results that a lane type does not tell apart: they clamp alike, and both lie outside or neither does. -/
def SameClamp (lo hi e e' : Int) : Prop := clampI lo hi e = clampI lo hi e' ∧ (e = clampI lo hi e ↔ e' = clampI lo hi e')

theorem sameClamp_above {lo hi e e' : Int} (hle : lo ≤ hi) (h : hi < e) (h' : hi < e') : SameClamp lo hi e e' := by
  refine ⟨by rw [clampI_above hle h, clampI_above hle h'], ?_⟩
  rw [clampI_above hle h, clampI_above hle h']
  omega

theorem sameClamp_below {lo hi e e' : Int} (h : e < lo) (h' : e' < lo) : SameClamp lo hi e e' := by
  refine ⟨by rw [clampI_below h, clampI_below h'], ?_⟩
  rw [clampI_below h, clampI_below h']
  omega

/-- A lane shifted left by 64 places or more lies outside its type, unless it is 0. -/
theorem shiftLeft_outside {x : Int} {m : Nat} (hm : 64 ≤ m) : (0 < x → 2 ^ 64 ≤ x * 2 ^ m) ∧ (x < 0 → x * 2 ^ m ≤ -2 ^ 64) := by
  have hpow : (2 ^ 64 : Int) ≤ 2 ^ m := pow_le_pow_right₀ (by norm_num) hm
  constructor <;> intro hx <;> nlinarith

/-- A lane shifted right by 64 places or more rounds to 0. -/
theorem rneShift_far {x : Int} {m : Nat} (hx : -2 ^ 31 ≤ x ∧ x < 2 ^ 31) (hm : 64 ≤ m) : rneShift x m = 0 := by
  have hpow : (2 ^ 64 : Int) ≤ 2 ^ m := pow_le_pow_right₀ (by norm_num) hm
  unfold rneShift
  generalize (2 ^ m : Int) = p at hpow
  obtain ⟨hlo, hhi⟩ := hx
  by_cases hneg : x < 0
  · have hq : x / p = -1 := by rw [Int.ediv_eq_iff_of_pos (by omega)]; omega
    have hr : x % p = x + p := by rw [Int.emod_def, hq]; ring
    simp only [hq, hr]
    rw [if_neg (by omega), if_pos (by omega)]
    rfl
  · have hq : x / p = 0 := Int.ediv_eq_zero_of_lt (by omega) (by omega)
    have hr : x % p = x := Int.emod_eq_of_lt (by omega) (by omega)
    simp only [hq, hr]
    rw [if_pos (by omega)]

/-- The amount of a shift may be cut off at 64 places. -/
theorem shiftLaneCut_sameClamp {lo hi x : Int} (n : Int) (hx : -2 ^ 31 ≤ x ∧ x < 2 ^ 31) (hlo : -2 ^ 31 ≤ lo) (hle : lo ≤ hi)
    (hhi : hi < 2 ^ 31) : SameClamp lo hi (shiftLaneCut x n) (shiftLane x n) := by
  unfold shiftLaneCut
  by_cases hneg : n < -64
  · have hcut : clampI (-64) 64 n = -64 := clampI_below hneg
    obtain ⟨m, hm, he⟩ : ∃ m, 64 ≤ m ∧ shiftLane x n = x * 2 ^ m := ⟨(-n).toNat, by omega, if_neg (by omega)⟩
    have he' : shiftLane x (-64) = x * 2 ^ 64 := rfl
    rw [hcut, he, he']
    obtain ⟨hpos, hneg⟩ := shiftLeft_outside (x := x) hm
    obtain ⟨hpos', hneg'⟩ := shiftLeft_outside (x := x) (le_refl 64)
    rcases lt_trichotomy x 0 with h0 | rfl | h0
    · exact sameClamp_below (by have := hneg' h0; omega) (by have := hneg h0; omega)
    · simp [SameClamp]
    · exact sameClamp_above hle (by have := hpos' h0; omega) (by have := hpos h0; omega)
  · by_cases hfar : 64 < n
    · have hcut : clampI (-64) 64 n = 64 := clampI_above (by norm_num) hfar
      have he : shiftLane x n = 0 := by
        unfold shiftLane
        rw [if_pos (by omega)]
        exact rneShift_far hx (by omega)
      have he' : shiftLane x 64 = 0 := rneShift_far hx (le_refl 64)
      rw [hcut, he, he']
      exact ⟨rfl, .rfl⟩
    · have hcut : clampI (-64) 64 n = n := by
        unfold clampI
        rw [if_neg hneg, if_neg hfar]
      rw [hcut]
      exact ⟨rfl, .rfl⟩

theorem sext_bounds (t : BitVec 2) (v : Nat) : -2 ^ 31 ≤ sext (laneBits t) v ∧ sext (laneBits t) v < 2 ^ 31 := by
  unfold sext
  rcases laneBits_cases (t := t) with h | h | h <;> rw [h] <;> split <;> omega

theorem laneRange (t : BitVec 2) : -2 ^ 31 ≤ laneMin (laneBits t) ∧ laneMin (laneBits t) ≤ laneMax (laneBits t) ∧ laneMax (laneBits t) < 2 ^ 31 := by
  unfold laneMin laneMax
  rcases laneBits_cases (t := t) with h | h | h <;> rw [h] <;> decide

/-- What VCMP finds of two lanes. -/
def cmpLane (ty op : BitVec 2) (x y : Nat) : Bool :=
  if ty = 3 then cmpFp op (BitVec.ofNat 32 x) (BitVec.ofNat 32 y) else cmpInt op (sext (laneBits ty) x) (sext (laneBits ty) y)

/-- VCMP writes all ones or 0 to each lane. -/
theorem vcmp_goes {s : State} {c : BitVec 8} {d a b : BitVec 4} {ty op : BitVec 2} (h : Straight s c.toNat) (hop : op ≠ 3) :
    ∃ t v, exec (.iVcmp c d a b ty op) s = .next t ∧ CoreStep s t c.toNat (putV (getCore s c.toNat) d v) ∧
      ∀ j, j < 512 / laneBits ty → lane (laneBits ty) v j =
        if cmpLane ty op (lane (laneBits ty) (vReg (getCore s c.toNat) a) j) (lane (laneBits ty) (vReg (getCore s c.toNat) b) j) = true
        then 2 ^ laneBits ty - 1 else 0 := by
  have hslot : opVcmp d a b ty op = { run := fun old s c => setV s c d (ofLanes (laneBits ty)
      (((lanesOf (laneBits ty) (vReg (getCore old c) a)).zip (lanesOf (laneBits ty) (vReg (getCore old c) b))).map (fun (x, y) =>
        if cmpLane ty op x y = true then 2 ^ laneBits ty - 1 else 0))) } := if_neg hop
  obtain ⟨t, hex, hgo⟩ := issueMX_setV (c := c) (o := opVcmp d a b ty op) h (by rw [hslot]) (by rw [hslot]) (by rw [hslot]) (by rw [hslot])
  refine ⟨t, _, hex, hgo, fun j hj => ?_⟩
  rw [lane_ofLanes_some (by simp [laneBits_dvd]) (by rw [List.getElem?_map, zip_lanesOf _ _ hj]; rfl)]
  have hpos : 0 < 2 ^ laneBits ty := by positivity
  refine Nat.mod_eq_of_lt ?_
  show (if _ then _ else _) < _
  split
  · exact Nat.sub_lt hpos one_pos
  · exact hpos

/-- The integer lanes that VCMP sets. -/
theorem cmpInt_iff {op : BitVec 2} (hop : op ≠ 3) (x y : Int) :
    cmpInt op x y = true ↔ (op = 0 ∧ x = y) ∨ (op = 1 ∧ x < y) ∨ (op = 2 ∧ x ≤ y) := by
  have hcases : op = 0 ∨ op = 1 ∨ op = 2 := by
    have : op.toNat < 4 := op.isLt
    have hne : op.toNat ≠ 3 := fun he => hop (BitVec.eq_of_toNat_eq he)
    simp only [← BitVec.toNat_inj]
    show op.toNat = 0 ∨ op.toNat = 1 ∨ op.toNat = 2
    omega
  rcases hcases with rfl | rfl | rfl <;> simp [cmpInt]

/-- The integer VSUM. -/
theorem vsum_goes {s : State} {c : BitVec 8} {d a : BitVec 4} (h : Straight s c.toNat) :
    ∃ t v, exec (.iVsum c d a false) s = .next t ∧
      lane 32 v 0 = twos 32 (satInt32 ((List.range 16).map (fun i => sext 32 (lane 32 (vReg (getCore s c.toNat) a) i))).sum) ∧
      (∀ j, 0 < j → j < 16 → lane 32 v j = 0) ∧
      CoreGoes s (coreSat s s c.toNat false
          [decide (satInt32 ((List.range 16).map (fun i => sext 32 (lane 32 (vReg (getCore s c.toNat) a) i))).sum ≠
            ((List.range 16).map (fun i => sext 32 (lane 32 (vReg (getCore s c.toNat) a) i))).sum)])
        t c.toNat (putV (getCore s c.toNat) d v) ((getCore s c.toNat).pc.toNat + 1) [] := by
  have hsum : (lanesOf 32 (vReg (getCore s c.toNat) a)).foldl (fun t x => t + sext 32 x) 0 =
      ((List.range 16).map (fun i => sext 32 (lane 32 (vReg (getCore s c.toNat) a) i))).sum := by
    rw [← List.foldl_map (f := sext 32) (g := (· + ·)), List.sum_eq_foldl]
    rw [lanesOf, List.map_map]
    rfl
  have hrun := slotRuns_coreSat_setV (s := s) (c := c.toNat) false
    [satInt32 ((List.range 16).map (fun i => sext 32 (lane 32 (vReg (getCore s c.toNat) a) i))).sum !=
      ((List.range 16).map (fun i => sext 32 (lane 32 (vReg (getCore s c.toNat) a) i))).sum] d
  obtain ⟨t, hex, hgo⟩ := issueMX_plain (o := opVsum d a false) h rfl rfl rfl
    (by simp only [opVsum, Bool.false_eq_true, if_false, hsum]; exact hrun _ h.job) (sameRun_putV ..)
  refine ⟨t, _, hex, ?_, fun j h0 hj => ?_, by simpa only [bne, beq_eq_decide, decide_not] using hgo⟩
  · rw [lane_ofLanes_some (by simp) rfl]
    exact Nat.mod_eq_of_lt (twos_lt ..)
  · rw [lane_ofLanes (by simp)]
    simp [h0.ne']

theorem opVmin_lanes (d a b : BitVec 4) (t : BitVec 2) :
    opVmin d a b t = laneSlot d a b t (fun x y => if x ≤ y then x else y) (fpMinMax false) :=
  congrArg (laneSlot d a b t · (fpMinMax false)) (funext₂ min_def)

theorem opVmax_lanes (d a b : BitVec 4) (t : BitVec 2) :
    opVmax d a b t = laneSlot d a b t (fun x y => if x ≤ y then y else x) (fpMinMax true) :=
  congrArg (laneSlot d a b t · (fpMinMax true)) (funext₂ max_def)

/-- Settles O6: the lanes of each instruction are exact results, clamped and counted. -/
theorem integerLanes : Obligations.IntegerLanes := by
  intro s c d a b ty h ht
  refine ⟨laneSlot_int _ _ h ht, laneSlot_int _ _ h ht, laneSlot_int _ _ h ht, ?_, ?_, ?_, fun op hop => ?_, vsum_goes h⟩
  case refine_1 =>
    have hlanes := laneSlot_int (d := d) (a := a) (b := b) (fun x y => if x ≤ y then x else y) (fpMinMax false) h ht
    rw [← opVmin_lanes] at hlanes
    exact hlanes
  case refine_2 =>
    have hlanes := laneSlot_int (d := d) (a := a) (b := b) (fun x y => if x ≤ y then y else x) (fpMinMax true) h ht
    rw [← opVmax_lanes] at hlanes
    exact hlanes
  case refine_3 =>
    obtain ⟨t, v, evs, hex, hlanes, hlen, hgo⟩ := laneSlot_int (d := d) (a := a) (b := b) shiftLaneCut shiftFpCut h ht
    refine ⟨t, v, evs, hex, fun j hj => ?_, hlen, hgo⟩
    obtain ⟨hlane, hev⟩ := hlanes j hj
    obtain ⟨hlo, hle, hhi⟩ := laneRange ty
    obtain ⟨hclamp, hout⟩ := shiftLaneCut_sameClamp (sext (laneBits ty) (lane (laneBits ty) (vReg (getCore s c.toNat) b) j))
      (sext_bounds ty (lane (laneBits ty) (vReg (getCore s c.toNat) a) j)) hlo hle hhi
    refine ⟨hlane.trans (congrArg _ hclamp), hev.trans (congrArg some ?_)⟩
    exact decide_eq_decide.mpr (not_congr hout)
  case refine_4 =>
    obtain ⟨t, v, hex, hgo, hlanes⟩ := vcmp_goes (d := d) (a := a) (b := b) (ty := ty) h hop
    refine ⟨t, v, hex, hgo, fun j hj => ?_⟩
    rw [hlanes j hj, cmpLane, if_neg ht]
    simp only [cmpInt_iff hop]

end Sys2Proof.Machine
end

section
/-! PROOFS. O7: the FP32 lanes of the M slot, and VCVT (R165, R166, R175, R176). -/

namespace Sys2Proof.Machine

/-- Lane `j` of a register as an FP32 value. -/
def laneFp (k : Core) (a : BitVec 4) (j : Nat) : U32 := BitVec.ofNat 32 (lane 32 (vReg k a) j)

/-- A register made of 16 FP32 values. -/
theorem lane_ofLanes_fp {j : Nat} {ls : List Nat} {r : U32} (hl : 32 * ls.length ≤ 512) (hj : ls[j]? = some r.toNat) :
    lane 32 (ofLanes 32 ls) j = r.toNat := by
  rw [lane_ofLanes_some hl hj]
  exact Nat.mod_eq_of_lt r.isLt

/-- Every FP32 lane is the result on the lanes of vA and vB. -/
theorem laneSlot_fp {s : State} {c : BitVec 8} {d a b : BitVec 4} (fi : Int → Int → Int) (ff : U32 → U32 → U32)
    (h : Straight s c.toNat) : ∃ t v, issueMX c (laneSlot d a b 3 fi ff) s = .next t ∧
      CoreStep s t c.toNat (putV (getCore s c.toNat) d v) ∧
      ∀ j, j < 16 → lane 32 v j = (ff (laneFp (getCore s c.toNat) a j) (laneFp (getCore s c.toNat) b j)).toNat := by
  obtain ⟨t, hex, hgo⟩ := issueMX_setV (d := d) (o := laneSlot d a b 3 fi ff) h rfl rfl rfl rfl
  refine ⟨t, _, hex, hgo, fun j hj => lane_ofLanes_fp (by simp [laneBits]) ?_⟩
  rw [List.getElem?_map]
  exact congrArg _ (zip_lanesOf (w := 32) _ _ hj)

/-- The sum tree halves its list at each level. -/
theorem pairSum_length (l : List U32) : (pairSum l).length = (l.length + 1) / 2 := by
  fun_induction pairSum l with
  | case1 x y r ih =>
    simp only [List.length_cons, ih]
    omega
  | case2 l hl =>
    match l, hl with
    | [], _ => rfl
    | [x], _ => simp
    | x :: y :: r, hl => exact absurd rfl (hl x y r)

theorem sumLeaves_length (ls : List Nat) : (sumLeaves ls).length = 16 := by
  unfold sumLeaves
  simp only [List.length_map]
  split <;> simp

/-- The tree of 16 leaves has one root. -/
theorem sumTree_root (ls : List Nat) : ∃ r, pairSum (pairSum (pairSum (pairSum (sumLeaves ls)))) = [r] :=
  List.length_eq_one_iff.mp (by simp only [pairSum_length, sumLeaves_length])

theorem fmtBits_le (f : Nat) : fmtBits f ≤ 32 := by
  have hall : ∀ n ∈ [2, 2, 4, 4, 4, 8, 8, 8, 8, 16, 16, 16, 24, 32, 32, 4], n ≤ 32 := by decide
  unfold fmtBits
  rw [List.getD_eq_getElem?_getD]
  rcases Nat.lt_or_ge f 16 with hf | hf
  · rw [List.getElem?_eq_getElem (by simpa using hf)]
    exact hall _ (List.getElem_mem _)
  · rw [List.getElem?_eq_none (by simpa using hf)]
    exact Nat.zero_le _

/-- The element that VCVT writes at place `j`, and its event. -/
def cvtElem (k : Core) (a dst src : BitVec 4) (j : Nat) : Nat × Bool :=
  cvt dst.toNat (elemVal src.toNat (fld (vReg k a).toNat (fmtBits src.toNat * j) (fmtBits src.toNat)))

/-- VCVT packs its elements from byte 0 on and counts each of them. -/
theorem vcvt_goes {s : State} {c : BitVec 8} {d a dst src : BitVec 4} (h : Straight s c.toNat) (hdst : dst ≠ 1) (hsrc : src ≠ 1) :
    ∃ t v evs, exec (.iVcvt c d a dst src) s = .next t ∧ evs.length = 16 ∧
      CoreGoes s (coreSat s s c.toNat true evs) t c.toNat (putV (getCore s c.toNat) d v) ((getCore s c.toNat).pc.toNat + 1) [] ∧
      v.toNat < 2 ^ (16 * fmtBits dst.toNat) ∧
      ∀ j, j < 16 →
        fld v.toNat (fmtBits dst.toNat * j) (fmtBits dst.toNat) = (cvtElem (getCore s c.toNat) a dst src j).1 % 2 ^ fmtBits dst.toNat ∧
        evs[j]? = some (cvtElem (getCore s c.toNat) a dst src j).2 := by
  have hslot : opVcvt d a dst src =
      { run := fun old s c =>
          setV (coreSat old s c true (((List.range 16).map (cvtElem (getCore old c) a dst src)).map (·.2))) c d
            (ofLanes (fmtBits dst.toNat) (((List.range 16).map (cvtElem (getCore old c) a dst src)).map (·.1))) } :=
    if_neg (not_or.mpr ⟨hdst, hsrc⟩)
  obtain ⟨t, hex, hgo⟩ := issueMX_plain (c := c) (o := opVcvt d a dst src) h (by rw [hslot]) (by rw [hslot]) (by rw [hslot])
    (by rw [hslot]; exact slotRuns_coreSat_setV true _ d _ h.job) (sameRun_putV ..)
  have hle := fmtBits_le dst.toNat
  refine ⟨t, _, _, hex, by simp, hgo, ?_, fun j hj => ⟨?_, by simp [hj]⟩⟩
  · refine Nat.lt_of_le_of_lt (Nat.mod_le ..) (Nat.lt_of_lt_of_eq (laneNum_lt _ _) ?_)
    rw [List.length_map, List.length_map, List.length_range, Nat.mul_comm]
  · refine (lane_ofLanes_some (x := (cvtElem (getCore s c.toNat) a dst src j).1) ?_ (by simp [hj])).trans rfl
    rw [List.length_map, List.length_map, List.length_range]
    omega

/-- Settles O7: each instruction writes its FP32 result to every lane. -/
theorem floatLanes : Obligations.FloatLanes := by
  intro s c d a b h
  refine ⟨laneSlot_fp _ _ h, laneSlot_fp _ _ h, laneSlot_fp _ _ h, ?_, laneSlot_fp _ _ h, laneSlot_fp _ _ h, laneSlot_fp _ _ h,
    fun op hop => ?_, fun fn => ?_, ?_, fun dst src hdst hsrc => vcvt_goes h hdst hsrc⟩
  case refine_1 =>
    obtain ⟨t, hex, hgo⟩ := issueMX_setV (d := d) (o := opVfma d a b) h rfl rfl rfl rfl
    refine ⟨t, _, hex, hgo, fun j hj => lane_ofLanes_fp (by simp) ?_⟩
    have hzx := zip_lanesOf (w := 32) (vReg (getCore s c.toNat) d) (vReg (getCore s c.toNat) a) hj
    have hy := lanesOf_getElem (w := 32) (v := vReg (getCore s c.toNat) b) hj
    have hzxy := (List.getElem?_zip_eq_some (z := ((_, _), _))).mpr ⟨hzx, hy⟩
    rw [List.getElem?_map, hzxy]
    rfl
  case refine_2 =>
    obtain ⟨t, v, hex, hgo, hlanes⟩ := vcmp_goes (d := d) (a := a) (b := b) (ty := 3) h hop
    refine ⟨t, v, hex, hgo, fun j hj => (hlanes j hj).trans ?_⟩
    show (if cmpFp op (laneFp (getCore s c.toNat) a j) (laneFp (getCore s c.toNat) b j) = true then 2 ^ 32 - 1 else 0) =
      BitVec.toNat (if cmpFp op (laneFp (getCore s c.toNat) a j) (laneFp (getCore s c.toNat) b j) = true then 0xFFFFFFFF else 0)
    split <;> rfl
  case refine_3 =>
    obtain ⟨t, hex, hgo⟩ := issueMX_setV (d := d) (o := opVfn d a fn) h rfl rfl rfl rfl
    refine ⟨t, _, hex, hgo, fun j hj => lane_ofLanes_fp (by simp) ?_⟩
    rw [List.getElem?_map, lanesOf_getElem (w := 32) hj]
    rfl
  case refine_4 =>
    have hleaves : (List.range 16).map (fun i => (laneFp (getCore s c.toNat) a i).toNat) = lanesOf 32 (vReg (getCore s c.toNat) a) :=
      List.map_congr_left fun i _ => Nat.mod_eq_of_lt (lane_lt 32 _ i)
    obtain ⟨r, hr⟩ := sumTree_root (lanesOf 32 (vReg (getCore s c.toNat) a))
    refine ⟨r, (congrArg (fun l => pairSum (pairSum (pairSum (pairSum (sumLeaves l))))) hleaves).trans hr, ?_⟩
    obtain ⟨t, hex, hgo⟩ := issueMX_setV (d := d) (v := ofLanes 32 [r.toNat]) (o := opVsum d a true) h rfl rfl rfl
      (by simp [opVsum, hr])
    refine ⟨t, _, hex, hgo, fun j hj => ?_⟩
    rw [lane_ofLanes (by simp)]
    cases j with
    | zero => exact Nat.mod_eq_of_lt r.isLt
    | succ j => simp

end Sys2Proof.Machine
end

section
/-! PROOFS. O8: the micro-array and the product-table unit (R175, R184, R185). -/

namespace Sys2Proof.Machine

/-! ## Lists of elements by number -/

theorem zipIdx_map_range {α : Type} (f : Nat → α) (n : Nat) : ((List.range n).map f).zipIdx = (List.range n).map (fun i => (f i, i)) := by
  refine List.ext_getElem (by simp) fun i h1 h2 => ?_
  simp

/-- Rows of `n` elements, one after the other, are numbered through. -/
theorem flatMap_range {α : Type} (g : Nat → Nat → α) (m n : Nat) (hn : 0 < n) :
    (List.range m).flatMap (fun i => (List.range n).map (g i)) = (List.range (m * n)).map (fun q => g (q / n) (q % n)) := by
  induction m with
  | zero => simp
  | succ m ih =>
    rw [List.range_succ, List.flatMap_append, ih, Nat.succ_mul, List.range_add, List.map_append, List.map_map]
    congr 1
    simp only [List.flatMap_cons, List.flatMap_nil, List.append_nil]
    refine List.map_congr_left fun j hj => ?_
    have hlt : j < n := List.mem_range.mp hj
    simp only [Function.comp]
    rw [Nat.mul_comm m n, Nat.mul_add_div hn, Nat.div_eq_of_lt hlt, Nat.add_zero, Nat.mul_add_mod, Nat.mod_eq_of_lt hlt]

/-- How many of `n` results differ from what they saturate to. -/
def satCount (n : Nat) (e : Nat → Int) : Nat := ((List.range n).filter (fun q => decide (satInt32 (e q) ≠ e q))).length

theorem satCount_map (n : Nat) (e : Nat → Int) : (((List.range n).map e).filter (fun x => satInt32 x != x)).length = satCount n e := by
  rw [List.filter_map, List.length_map, satCount]
  congr 2
  funext q
  simp [bne, beq_eq_decide]

/-! ## MOP -/

/-- Element `i` of half `half` of a register. -/
def halfElem (v : BitVec 512) (half unsigned : Bool) (i : Nat) : Int :=
  if unsigned then (lane 8 v (i + 32 * b2n half) : Int) else sext 8 (lane 8 v (i + 32 * b2n half))

theorem halfElems_eq (v : BitVec 512) (half unsigned : Bool) :
    halfElems v half unsigned = (List.range 32).map (halfElem v half unsigned) := rfl

/-- The exact result of element `i`, `j` of the tile of MOP. -/
def mopElem (k : Core) (tile : BitVec 3) (a b m : BitVec 4) (i j : Nat) : Int :=
  (accGet k tile.toNat i j).toInt +
    halfElem (vReg k a) (m.getLsbD 0) (m.getLsbD 2) i * halfElem (vReg k b) (m.getLsbD 1) (m.getLsbD 3) j

/-- The elements of MOP in row order. -/
theorem mop_elems (k : Core) (tile : BitVec 3) (a b m : BitVec 4) :
    ((halfElems (vReg k a) (m.getLsbD 0) (m.getLsbD 2)).zipIdx).flatMap (fun (x, i) =>
      ((halfElems (vReg k b) (m.getLsbD 1) (m.getLsbD 3)).zipIdx).map (fun (y, j) => (accGet k tile.toNat i j).toInt + x * y)) =
    (List.range 1024).map (fun q => mopElem k tile a b m (q / 32) (q % 32)) := by
  rw [halfElems_eq, halfElems_eq, zipIdx_map_range, zipIdx_map_range, List.flatMap_map]
  simp only [List.map_map]
  exact flatMap_range (mopElem k tile a b m) 32 32 (by norm_num)

/-- The tile that MOP leaves. -/
def mopTile (k : Core) (tile : BitVec 3) (a b m : BitVec 4) : SMap U32 :=
  setTile k.acc tile.toNat (((List.range 1024).map (fun q => mopElem k tile a b m (q / 32) (q % 32))).map (fun e => BitVec.ofInt 32 (satInt32 e)))

/-- Counting leaves the cores, of which one is written. -/
theorem slotRuns_counted {s u : State} {c : Nat} {g : Core → Core} (hu : u.cores = s.cores) (hj : (g (getCore s c)).job.isSome = true) :
    SlotRuns s u c (g (getCore s c)) (modCore u c g) := (slotRuns_of_cores c hu).mod hj

theorem mop_goes {s : State} {c : BitVec 8} (tile : BitVec 3) (a b m : BitVec 4) (h : Straight s c.toNat) :
    ∃ t, exec (.iMop c tile a b m) s = .next t ∧
      CoreGoes s (c64 (c32 s 0x3006C (satCount 1024 (fun q => mopElem (getCore s c.toNat) tile a b m (q / 32) (q % 32)))) 0x30050 1) t
        c.toNat { getCore s c.toNat with acc := mopTile (getCore s c.toNat) tile a b m } ((getCore s c.toNat).pc.toNat + 1) [] := by
  refine issueMX_plain (o := opMop tile a b m) h rfl rfl rfl ?_ ⟨rfl, rfl, rfl, rfl⟩
  simp only [opMop, mop_elems, satCount_map]
  refine slotRuns_counted (g := fun k => { k with acc := setTile k.acc tile.toNat (((List.range 1024).map
    (fun q => mopElem (getCore s c.toNat) tile a b m (q / 32) (q % 32))).map (fun e => BitVec.ofInt 32 (satInt32 e))) }) ?_ h.job
  simp

theorem accKey_tile {tile i j : Nat} (hi : i < 32) (hj : j < 32) : accKey tile i j / 1024 = tile := by
  unfold accKey
  omega

theorem accKey_elem {tile i j : Nat} (hi : i < 32) (hj : j < 32) : accKey tile i j % 1024 = i * 32 + j := by
  unfold accKey
  omega

theorem smGet_mopTile {k : Core} (tile : BitVec 3) (a b m : BitVec 4) (hk : smWf (fun _ => 0) k.acc = true) (q : Nat) :
    smGet 0 (mopTile k tile a b m) q = if q / 1024 = tile.toNat
      then BitVec.ofInt 32 (satInt32 (mopElem k tile a b m (q % 1024 / 32) (q % 1024 % 32))) else smGet 0 k.acc q := by
  rw [mopTile, smGet_setTile _ _ (smWf_sorted hk) (by simp)]
  have hlt : q % 1024 < 1024 := Nat.mod_lt _ (by norm_num)
  refine if_congr .rfl ?_ rfl
  rw [List.map_map, List.getElem?_map, List.getElem?_range hlt]
  rfl

/-! ## PTB -/

/-- A codebook has at most 16 entries. -/
theorem codebook_length {k : Core} {kind : Nat} {cb : List Int} (h : codebook k kind = some cb) : cb.length ≤ 16 := by
  unfold codebook at h
  split_ifs at h <;> simp only [Option.some.injEq] at h <;> subst h <;> simp

/-- The entries that PTB writes: activations and codebook values, each with its number. -/
def ptbWrites (k : Core) (a : BitVec 4) (m : BitVec 2) (cb : List Int) : List ((Int × Nat) × (Int × Nat)) :=
  ((List.range 32).map (fun j => (halfElem (vReg k a) (m.getLsbD 0) (m.getLsbD 1) j, j))).flatMap (fun x => cb.zipIdx.map (fun v => (x, v)))

/-- The tables that PTB leaves. -/
def ptbTable (k : Core) (buf : Bool) (a : BitVec 4) (m : BitVec 2) (cb : List Int) : SMap (BitVec 16) :=
  (ptbWrites k a m cb).foldl (fun t w => smSet 0 t (512 * b2n buf + 16 * w.1.2 + w.2.2) (BitVec.ofInt 16 (w.1.1 * w.2.1))) k.pt

theorem ptb_table (k : Core) (buf : Bool) (a : BitVec 4) (m : BitVec 2) (cb : List Int) :
    ((halfElems (vReg k a) (m.getLsbD 0) (m.getLsbD 1)).zipIdx).foldl (fun t (x, j) => (cb.zipIdx).foldl (fun t (v, e) =>
      smSet 0 t (512 * b2n buf + 16 * j + e) (BitVec.ofInt 16 (x * v))) t) k.pt = ptbTable k buf a m cb := by
  rw [halfElems_eq, zipIdx_map_range, ptbTable, ptbWrites, List.foldl_flatMap]
  simp only [List.foldl_map]

theorem mem_ptbWrites {k : Core} {a : BitVec 4} {m : BitVec 2} {cb : List Int} {w : (Int × Nat) × (Int × Nat)} :
    w ∈ ptbWrites k a m cb ↔
      w.1.2 < 32 ∧ w.1.1 = halfElem (vReg k a) (m.getLsbD 0) (m.getLsbD 1) w.1.2 ∧ cb[w.2.2]? = some w.2.1 := by
  obtain ⟨⟨x, j⟩, ⟨v, e⟩⟩ := w
  simp only [ptbWrites, List.mem_flatMap, List.mem_map, List.mem_range, Prod.mk.injEq]
  constructor
  · rintro ⟨_, ⟨j', hj, rfl⟩, _, hv, hx, rfl⟩
    obtain ⟨rfl, rfl⟩ := Prod.mk.inj hx
    exact ⟨hj, rfl, List.mk_mem_zipIdx_iff_getElem?.mp hv⟩
  · rintro ⟨hj, rfl, hv⟩
    exact ⟨_, ⟨j, hj, rfl⟩, (v, e), List.mk_mem_zipIdx_iff_getElem?.mpr hv, rfl, rfl⟩

theorem ptb_goes {s : State} {c : BitVec 8} (buf : Bool) (a kind : BitVec 4) (m : BitVec 2) {cb : List Int} (h : Straight s c.toNat)
    (hcb : codebook (getCore s c.toNat) kind.toNat = some cb) :
    ∃ t, exec (.iPtb c buf a kind m) s = .next t ∧
      CoreStep s t c.toNat { getCore s c.toNat with pt := ptbTable (getCore s c.toNat) buf a m cb } := by
  refine issueMX_plain (o := opPtb buf a kind m) h rfl (by simp [opPtb, hcb]) rfl ?_ ⟨rfl, rfl, rfl, rfl⟩
  simp only [opPtb, hcb]
  rw [← ptb_table]
  exact slotRuns_mod (g := fun k => { k with
    pt := (halfElems (vReg (getCore s c.toNat) a) (m.getLsbD 0) (m.getLsbD 1)).zipIdx.foldl (fun t (x, j) =>
      (cb.zipIdx).foldl (fun t (v, e) => smSet 0 t (512 * b2n buf + 16 * j + e) (BitVec.ofInt 16 (x * v))) t) k.pt }) h.job

/-- The entries that PTB names hold their products. -/
theorem smGet_ptbTable_in {k : Core} (buf : Bool) (a : BitVec 4) (m : BitVec 2) {cb : List Int} {j e : Nat} {v : Int}
    (hk : smWf (fun _ => 0) k.pt = true) (hcb : cb.length ≤ 16) (hj : j < 32) (hv : cb[e]? = some v) :
    smGet 0 (ptbTable k buf a m cb) (512 * b2n buf + 16 * j + e) =
      BitVec.ofInt 16 (halfElem (vReg k a) (m.getLsbD 0) (m.getLsbD 1) j * v) := by
  have hlt : ∀ {e v}, cb[e]? = some v → e < 16 := fun h => Nat.lt_of_lt_of_le (List.getElem?_eq_some_iff.mp h).1 hcb
  refine smGet_writes_in _ _ _ (smWf_sorted hk) (fun w hw hkey => ?_) (.inr ?_)
  · obtain ⟨-, hx, hv'⟩ := mem_ptbWrites.mp hw
    have he := hlt hv
    have he' := hlt hv'
    have hnum : w.2.2 = e := by omega
    have hact : w.1.2 = j := by omega
    rw [hnum, hv, Option.some.injEq] at hv'
    rw [hx, hact, hv']
  · exact ⟨((halfElem (vReg k a) (m.getLsbD 0) (m.getLsbD 1) j, j), (v, e)), mem_ptbWrites.mpr ⟨hj, rfl, hv⟩, rfl⟩

/-- The entries that PTB does not name keep theirs. -/
theorem smGet_ptbTable_out {k : Core} (buf : Bool) (a : BitVec 4) (m : BitVec 2) {cb : List Int} {q : Nat}
    (hk : smWf (fun _ => 0) k.pt = true) (hq : ∀ j e, j < 32 → e < cb.length → q ≠ 512 * b2n buf + 16 * j + e) :
    smGet 0 (ptbTable k buf a m cb) q = smGet 0 k.pt q := by
  refine smGet_writes_out _ _ _ (smWf_sorted hk) fun w hw => ?_
  obtain ⟨hj, -, hv⟩ := mem_ptbWrites.mp hw
  exact hq _ _ hj (List.getElem?_eq_some_iff.mp hv).1

/-! ## PTA -/

/-- Outputs of PTA, and bits of a code. -/
def ptaOuts (m : BitVec 2) : Nat := if m.getLsbD 1 then 8 else 4
def ptaBits (m : BitVec 2) : Nat := if m.getLsbD 1 then 2 else 4

/-- The exact result of output `o` of PTA. -/
def ptaElem (k : Core) (tile : BitVec 3) (a : BitVec 4) (m : BitVec 2) (o : Nat) : Int :=
  (accGet k tile.toNat k.ptpRow.toNat (k.ptpCol.toNat + o)).toInt + ((List.range 32).map (fun j =>
    (smGet 0 k.pt (512 * b2n (m.getLsbD 0) + 16 * j + fld (vReg k a).toNat (32 * ptaBits m * o + ptaBits m * j) (ptaBits m))).toInt)).sum

/-- The tile that PTA leaves. -/
def ptaTile (k : Core) (tile : BitVec 3) (a : BitVec 4) (m : BitVec 2) : SMap U32 :=
  (List.range (ptaOuts m)).foldl (fun t o =>
    smSet 0 t (accKey tile.toNat k.ptpRow.toNat (k.ptpCol.toNat + o)) (BitVec.ofInt 32 (satInt32 (ptaElem k tile a m o)))) k.acc

/-- The results of PTA with their numbers. -/
theorem pta_elems (k : Core) (tile : BitVec 3) (a : BitVec 4) (m : BitVec 2) :
    (((List.range (ptaOuts m)).map (fun o => (List.range 32).foldl (fun t j =>
        t + (smGet 0 k.pt (512 * b2n (m.getLsbD 0) + 16 * j + ptCode (vReg k a).toNat o j (ptaBits m))).toInt) 0)).zipIdx).map
      (fun (e, o) => (o, (accGet k tile.toNat k.ptpRow.toNat (k.ptpCol.toNat + o)).toInt + e)) =
    (List.range (ptaOuts m)).map (fun o => (o, ptaElem k tile a m o)) := by
  rw [zipIdx_map_range, List.map_map]
  refine List.map_congr_left fun o _ => ?_
  simp only [Function.comp, ptaElem, List.sum_eq_foldl, List.foldl_map, ptCode]

/-- The pointer that PTA leaves. -/
def ptaNext (k : Core) (m : BitVec 2) (acc : SMap U32) : Core :=
  { k with
    acc := acc
    ptpCol := if k.ptpCol.toNat + ptaOuts m = 32 then 0 else BitVec.ofNat 5 (k.ptpCol.toNat + ptaOuts m)
    ptpRow := if k.ptpCol.toNat + ptaOuts m = 32 then k.ptpRow + 1 else k.ptpRow }

/-- PTA in terms of its exact results. -/
theorem opPta_run (s : State) (c : Nat) (tile : BitVec 3) (a : BitVec 4) (m : BitVec 2) :
    (opPta tile a m).run s s c =
      modCore (c64 (c32 s 0x3006C ((((List.range (ptaOuts m)).map (fun o => (o, ptaElem (getCore s c) tile a m o))).filter
        (fun e => satInt32 e.2 != e.2)).length)) 0x30058 1) c (fun q => { q with
          acc := ((List.range (ptaOuts m)).map (fun o => (o, ptaElem (getCore s c) tile a m o))).foldl (fun t e =>
            smSet 0 t (accKey tile.toNat (getCore s c).ptpRow.toNat ((getCore s c).ptpCol.toNat + e.1)) (BitVec.ofInt 32 (satInt32 e.2))) q.acc
          ptpCol := if 32 ≤ (getCore s c).ptpCol.toNat + ptaOuts m then 0 else BitVec.ofNat 5 ((getCore s c).ptpCol.toNat + ptaOuts m)
          ptpRow := if 32 ≤ (getCore s c).ptpCol.toNat + ptaOuts m then (getCore s c).ptpRow + 1 else (getCore s c).ptpRow }) := by
  rw [← pta_elems]
  rfl

theorem ptaCount (k : Core) (tile : BitVec 3) (a : BitVec 4) (m : BitVec 2) :
    (((List.range (ptaOuts m)).map (fun o => (o, ptaElem k tile a m o))).filter (fun e => satInt32 e.2 != e.2)).length =
      satCount (ptaOuts m) (ptaElem k tile a m) := by
  rw [← satCount_map, List.filter_map, List.filter_map, List.length_map, List.length_map]
  rfl

/-- A row of a tile is done where its last column is. -/
theorem ptaRow_done {k : Core} {m : BitVec 2} (h : k.ptpCol.toNat % ptaOuts m = 0) :
    32 ≤ k.ptpCol.toNat + ptaOuts m ↔ k.ptpCol.toNat + ptaOuts m = 32 := by
  have hcol := k.ptpCol.isLt
  have houts : ptaOuts m = 8 ∨ ptaOuts m = 4 := by
    unfold ptaOuts
    split
    · exact .inl rfl
    · exact .inr rfl
  rcases houts with houts | houts <;> rw [houts] at h ⊢ <;> omega

theorem pta_goes {s : State} {c : BitVec 8} (tile : BitVec 3) (a : BitVec 4) (m : BitVec 2) (h : Straight s c.toNat)
    (hcol : (getCore s c.toNat).ptpCol.toNat % ptaOuts m = 0) :
    ∃ t, exec (.iPta c tile a m) s = .next t ∧
      CoreGoes s (c64 (c32 s 0x3006C (satCount (ptaOuts m) (ptaElem (getCore s c.toNat) tile a m))) 0x30058 1) t c.toNat
        (ptaNext (getCore s c.toNat) m (ptaTile (getCore s c.toNat) tile a m)) ((getCore s c.toNat).pc.toNat + 1) [] := by
  refine issueMX_plain (o := opPta tile a m) h rfl (by simp only [opPta]; exact if_neg (not_not.mpr hcol)) rfl ?_ ⟨rfl, rfl, rfl, rfl⟩
  rw [opPta_run, ptaCount]
  simp only [List.foldl_map, ptaRow_done hcol]
  exact (slotRuns_of_cores _ (by simp)).mod (g := fun q => { q with
    acc := (List.range (ptaOuts m)).foldl (fun t o =>
      smSet 0 t (accKey tile.toNat (getCore s c.toNat).ptpRow.toNat ((getCore s c.toNat).ptpCol.toNat + o))
        (BitVec.ofInt 32 (satInt32 (ptaElem (getCore s c.toNat) tile a m o)))) q.acc
    ptpCol := _
    ptpRow := _ }) h.job

/-- Settles O8: MOP, PTB and PTA are one write of their core each, whose elements and entries read back. -/
theorem microArray : Obligations.MicroArray := by
  intro s c a b h k hacc hpt el
  refine ⟨fun tile m => ?_, fun buf kind m cb hcb => ?_, fun tile m => ?_⟩
  case refine_1 =>
    obtain ⟨t, hex, hgo⟩ := mop_goes tile a b m h
    refine ⟨t, _, hex, hgo, fun i j hi hj => ?_, fun q hq => ?_⟩
    · rw [smGet_mopTile tile a b m hacc]
      rw [accKey_tile hi hj, accKey_elem hi hj, if_pos rfl]
      have hrow : (i * 32 + j) / 32 = i := by omega
      have hcol : (i * 32 + j) % 32 = j := by omega
      rw [hrow, hcol]
      rfl
    · rw [smGet_mopTile tile a b m hacc, if_neg hq]
  case refine_2 =>
    obtain ⟨t, hex, hgo⟩ := ptb_goes buf a kind m h hcb
    exact ⟨t, _, hex, hgo, fun j e v hj hv => smGet_ptbTable_in buf a m hpt (codebook_length hcb) hj hv,
      fun q hq => smGet_ptbTable_out buf a m hpt hq⟩
  case refine_3 =>
    intro w outs col row sum e n hcol
    obtain ⟨t, hex, hgo⟩ := pta_goes tile a m h hcol
    refine ⟨t, _, hex, hgo, fun o ho => ?_, fun q hq => ?_⟩
    · exact smGet_writes_in _ _ _ (smWf_sorted hacc) (fun o' _ hkey => by rw [accKey_inj.mp hkey]; rfl) (.inr ⟨o, List.mem_range.mpr ho, rfl⟩)
    · exact smGet_writes_out _ _ _ (smWf_sorted hacc) fun o ho => hq o (List.mem_range.mp ho)

end Sys2Proof.Machine
end

section
/-! PROOFS. O54: repair commands and the ends of repairView (R198, R411 to R414, R425). -/

namespace Sys2Proof.Machine

/-! ## What repairView read and write -/

/-- The jobs, the map of units and the retired ones, and the repairView and their command. -/
structure RepairView where
  jobs : SMap (Option Job)
  map : SMap Nat
  retired : SMap Bool
  repair : Option Repair
  queue : List Repair
  busy : Bool
  status : U8

def repairView (s : State) : RepairView :=
  { jobs := s.jobs, map := s.flt.map, retired := s.flt.retired, repair := s.flt.repair, queue := s.flt.repairQ, busy := s.flt.cmdBusy
    status := s.flt.cmdStatus }

theorem repairView_of_frame {s t : State} (hj : t.jobs = s.jobs) (hf : t.flt = s.flt) : repairView t = repairView s := by
  unfold repairView
  rw [hj, hf]

theorem repairView_foldl {α : Type} {f : State → α → State} (hf : ∀ t a, repairView (f t a) = repairView t) (l : List α) (s : State) :
    repairView (l.foldl f s) = repairView s :=
  foldl_keeps (P := fun t => repairView t = repairView s) (fun t a h => (hf t a).trans h) l s rfl

@[simp] theorem repairView_c32 (s : State) (o n : Nat) : repairView (c32 s o n) = repairView s := repairView_of_frame (by simp) (by simp)

@[simp] theorem repairView_logRec (s : State) (code k : Nat) (i : LogInfo) : repairView (logRec s code k i) = repairView s := by
  unfold repairView
  rw [logRec_flt]
  unfold logPut
  split <;> simp

@[simp] theorem repairView_winCount (s : State) (key len : Nat) : repairView (winCount s key len).2 = repairView s := rfl

@[simp] theorem repairView_addVerdict (s : State) (v : Verdict) : repairView (addVerdict s v) = repairView s := by
  unfold addVerdict
  split <;> rfl

@[simp] theorem repairView_poisonWord (s : State) (mem k n : Nat) (scrub : Bool) : repairView (poisonWord s mem k n scrub) = repairView s := by
  unfold poisonWord
  rw [repairView_logRec]
  exact repairView_of_frame (by simp [setPoison]) (by simp [setPoison])

@[simp] theorem repairView_ite {p : Prop} [Decidable p] (s t : State) : repairView (if p then s else t) = if p then repairView s else repairView t :=
  apply_ite repairView p s t

@[simp] theorem repairView_memError (s : State) (k : Nat) (two scrub : Bool) : repairView (memError s k two scrub) = repairView s := by
  unfold memError galError dramError
  cases two <;> simp

theorem repairView_eccRead (s : State) (k n : Nat) (scrub : Bool) : repairView (eccRead s k n scrub) = repairView s := by
  unfold eccRead
  split
  · rfl
  · exact (repairView_foldl (fun t e => repairView_memError ..) _ _).trans rfl

theorem repairView_memRd (s : State) (sp off n : Nat) : repairView (memRd s sp off n).2 = repairView s := by
  have hcnt : ∀ t, repairView (cntRd t sp n) = repairView t := fun t => repairView_of_frame (by simp) (by simp)
  have hops : ∀ t, repairView (memOps t sp off n) = repairView t := fun t => by
    unfold memOps
    split <;> rfl
  exact (hcnt _).trans ((hops _).trans (repairView_eccRead ..))

theorem repairView_poisonRead (s : State) (row k : Nat) (fn : Option Nat) (status : Nat) :
    repairView (poisonRead s row k fn status) = repairView s := by
  unfold poisonRead
  dsimp only
  rw [repairView_logRec, repairView_c32, repairView_eccRead]

theorem repairView_restoreBlob (s : State) (k so n : Nat) : repairView (restoreBlob s k so n) = repairView s := by
  have hwrite : ∀ t bs, repairView (pokeEcc t k bs) = repairView t := fun t bs => repairView_of_frame (by simp) (by simp)
  unfold restoreBlob
  dsimp only
  refine Eq.trans (b := repairView (pokeEcc _ _ _)) rfl ?_
  rw [hwrite, repairView_memRd]
  split
  · exact repairView_poisonRead ..
  · rfl

theorem repairView_rewriteCore (s : State) (c : Nat) : repairView (rewriteCore s c) = repairView s := by
  unfold rewriteCore
  dsimp only
  split
  · rfl
  · refine repairView_foldl (fun t b => ?_) _ s
    split
    · exact repairView_restoreBlob ..
    · rfl

theorem repairView_rewriteEngine (s : State) (e : Nat) : repairView (rewriteEngine s e) = repairView s := by
  refine repairView_foldl (fun t q => ?_) _ s
  split
  · rfl
  · refine repairView_foldl (fun t b => ?_) _ t
    split
    · refine repairView_foldl (fun t b => ?_) _ t
      split
      · exact repairView_restoreBlob ..
      · rfl
    · rfl

theorem repairView_holdMoves (s : State) (core : Nat) (v : Bool) : repairView (holdMoves s core v) = repairView s :=
  repairView_foldl (fun _ _ => repairView_of_frame (by simp) (by simp)) _ s

/-! ## The map of units -/

theorem physOf_of_repairs {s t : State} (h : repairView t = repairView s) (a b : Nat) : physOf t a b = physOf s a b := by
  unfold physOf
  rw [show t.flt.map = s.flt.map from congrArg RepairView.map h]

/-- The unit's number maps to the spare, and nothing else changes of what repairView read. -/
theorem repairView_switchMap (s : State) (r : Repair) :
    repairView (switchMap s r) = { repairView s with map := smPut s.flt.map (r.utype.toNat * 4096 + r.unit.toNat) r.spare } := by
  unfold switchMap
  dsimp only
  rw [repairView_logRec]
  rfl

theorem physOf_switchMap (s : State) (r : Repair) (a b : Nat) :
    physOf (switchMap s r) a b = if a * 4096 + b = r.utype.toNat * 4096 + r.unit.toNat then r.spare else physOf s a b := by
  unfold physOf
  rw [show (switchMap s r).flt.map = _ from congrArg RepairView.map (repairView_switchMap s r), smFind_smPut]
  split <;> rfl

/-! ## The end of a repair -/

/-- What holds once repair `r` of `s` is over, without a next one. -/
def RepairEnded (s : State) (r : Repair) (t : State) : Prop :=
  t.flt.repair = none ∧ t.jobs = s.jobs ∧
  (∀ a b, physOf t a b = if r.restore = false ∧ a * 4096 + b = r.utype.toNat * 4096 + r.unit.toNat then r.spare else physOf s a b) ∧
  (r.cmd = true → t.flt.cmdBusy = false ∧ t.flt.cmdStatus = 0x00) ∧
  (r.cmd = false → t.flt.cmdBusy = s.flt.cmdBusy ∧ t.flt.cmdStatus = s.flt.cmdStatus)

/-- Jobs in their first attempt wait for no repair. -/
theorem wakeJobs_first {s : State} (h : ∀ e ∈ s.jobs, ∀ j, e.2 = some j → j.attempt ≤ 1) (ut u : Nat) : wakeJobs s ut u = s := by
  unfold wakeJobs
  refine foldl_keeps (P := (· = s)) (fun t e ht => ?_) s.jobs s rfl
  subst ht
  split
  · rename_i j hj
    have hmem : (e.1, some j) ∈ t.jobs := hj ▸ smGet_listed (d := none) (by rw [show smGet none t.jobs e.1 = some j from hj]; simp)
    have hfirst := h _ hmem j rfl
    rw [if_neg (by omega)]
  · rfl

/-- The repair is over where none waits. -/
theorem endRepair_last {t : State} (r : Repair) (hq : t.flt.repairQ = []) (hj : ∀ e ∈ t.jobs, ∀ j, e.2 = some j → j.attempt ≤ 1) :
    endRepair t r = endCmd { t with flt := { t.flt with repair := none } } r stOk := by
  have hjobs : (endCmd { t with flt := { t.flt with repair := none } } r stOk).jobs = t.jobs := by
    unfold endCmd
    split <;> rfl
  have hqueue : (endCmd { t with flt := { t.flt with repair := none } } r stOk).flt.repairQ = [] := by
    unfold endCmd
    split <;> exact hq
  unfold endRepair
  dsimp only
  rw [wakeJobs_first (by rw [hjobs]; exact hj), hqueue]
  rfl

/-- A repair ends as R411 says from a state that differs in the map of units alone. -/
theorem repairEnded {s t : State} {r : Repair} (hq : s.flt.repairQ = []) (hj : ∀ e ∈ s.jobs, ∀ j, e.2 = some j → j.attempt ≤ 1)
    (ht : { repairView t with map := [] } = { repairView s with map := [] })
    (hmap : ∀ a b, physOf t a b = if r.restore = false ∧ a * 4096 + b = r.utype.toNat * 4096 + r.unit.toNat then r.spare else physOf s a b) :
    RepairEnded s r (endRepair t r) := by
  obtain ⟨hjobs, -, -, -, hqueue, hbusy, hstatus⟩ := RepairView.mk.inj ht
  have hjobs' : t.jobs = s.jobs := hjobs
  rw [endRepair_last r (hqueue.trans hq) (hjobs' ▸ hj)]
  unfold endCmd
  cases hc : r.cmd
  · exact ⟨rfl, hjobs, hmap, by simp [hc], fun _ => ⟨hbusy, hstatus⟩⟩
  · exact ⟨rfl, hjobs, hmap, fun _ => ⟨rfl, rfl⟩, by simp [hc]⟩

/-- A RESTORE ends with the map as it was. -/
theorem restore_ends {s t : State} {r : Repair} (hq : s.flt.repairQ = []) (hj : ∀ e ∈ s.jobs, ∀ j, e.2 = some j → j.attempt ≤ 1)
    (hr : r.restore = true) (ht : repairView t = repairView s) : RepairEnded s r (endRepair t r) :=
  repairEnded hq hj (by rw [ht]) fun a b => by rw [physOf_of_repairs ht, if_neg (by simp [hr])]

/-- A repair with a spare ends with the unit mapped to it. -/
theorem move_ends {s t u : State} {r : Repair} (hq : s.flt.repairQ = []) (hj : ∀ e ∈ s.jobs, ∀ j, e.2 = some j → j.attempt ≤ 1)
    (hr : r.restore = false) (ht : repairView t = repairView s) (hu : repairView u = repairView (switchMap t r)) : RepairEnded s r (endRepair u r) :=
  repairEnded hq hj (by rw [hu, repairView_switchMap, ht]) fun a b => by
    rw [physOf_of_repairs hu, physOf_switchMap, physOf_of_repairs ht]
    simp [hr]

/-! ## The choice of a spare -/

/-- The nearer of two spares is one of them. -/
theorem nearest_mem (p : Nat) (qs : List Nat) (m : Option Nat) {b : Nat}
    (h : qs.foldl (fun (m : Option Nat) q => match m with
      | none => some q
      | some b => if meshDist p q < meshDist p b then some q else some b) m = some b) : m = some b ∨ b ∈ qs := by
  induction qs generalizing m with
  | nil => exact .inl h
  | cons q qs ih =>
    rcases ih _ h with hm | hb
    · cases m with
      | none => exact .inr (by simp_all)
      | some a =>
        dsimp only at hm
        split at hm
        · exact .inr (by simp_all)
        · exact .inl hm
    · exact .inr (List.mem_cons_of_mem _ hb)

theorem nearest_isSome (p : Nat) (qs : List Nat) (b : Nat) :
    (qs.foldl (fun (m : Option Nat) q => match m with
      | none => some q
      | some b => if meshDist p q < meshDist p b then some q else some b) (some b)).isSome = true := by
  induction qs generalizing b with
  | nil => rfl
  | cons q qs ih =>
    rw [List.foldl_cons]
    dsimp only
    split
    · exact ih q
    · exact ih b

theorem pickSpare_mem {s : State} {ut u p : Nat} (h : pickSpare s ut u = some p) : p ∈ freeSpares s ut := by
  unfold pickSpare at h
  dsimp only at h
  split at h
  · rcases nearest_mem _ _ _ h with h | h
    · exact absurd h (by simp)
    · exact h
  · exact List.mem_of_head? h

/-- Where a spare is free, one is chosen. -/
theorem pickSpare_of_mem {s : State} {ut q : Nat} (u : Nat) (h : q ∈ freeSpares s ut) : ∃ p, pickSpare s ut u = some p := by
  unfold pickSpare
  dsimp only
  cases hfree : freeSpares s ut with
  | nil => simp [hfree] at h
  | cons x xs =>
    split
    · exact Option.isSome_iff_exists.mp (nearest_isSome _ xs x)
    · exact ⟨x, rfl⟩

/-- A unit that has been retired is no free spare any more. -/
theorem mem_freeSpares_retired {s t : State} {ut p q : Nat} (hm : t.flt.map = s.flt.map)
    (hr : t.flt.retired = smSet false s.flt.retired (ut * 4096 + p) true) :
    q ∈ freeSpares t ut ↔ q ∈ freeSpares s ut ∧ q ≠ p := by
  have hused : unitUsed t ut q = (unitUsed s ut q || q == p) := by
    unfold unitUsed
    rw [hm, hr]
    by_cases hq : q = p
    · subst hq
      rw [smGet_smSet_same _ _ (by decide)]
      simp
    · rw [smGet_smSet_ne _ (by decide) (by omega)]
      simp [hq]
  unfold freeSpares
  simp only [List.mem_filter, hused, Bool.not_or, Bool.and_eq_true, Bool.not_eq_true', beq_eq_false_iff_ne, and_assoc]

/-! ## Commands -/

/-- A repair that is queued where none waits begins at once. -/
theorem queueRepair_first {s : State} {r : Repair} (hq : s.flt.repairQ = []) :
    queueRepair s r = nextRepair { s with flt := { s.flt with repairQ := [r] } } 1 := by
  unfold queueRepair
  simp only [hq, List.nil_append]
  rfl

/-- RESTORE begins a repair without a spare. -/
theorem queueRepair_restore {s : State} {r : Repair} (hn : s.flt.repair = none) (hq : s.flt.repairQ = []) (hr : r.restore = true) :
    queueRepair s r = { s with flt := { s.flt with repair := some r } } := by
  rw [queueRepair_first hq]
  simp only [nextRepair, hn, hr, if_true]
  rw [← hq]

theorem holdMoves_flt (s : State) (core : Nat) (v : Bool) : (holdMoves s core v).flt = s.flt :=
  foldl_keeps (P := fun t : State => t.flt = s.flt) (fun t st h => by simpa using h) _ s rfl

/-- A repair with a spare begins. -/
theorem queueRepair_spare {s : State} {r : Repair} {p : Nat} (hn : s.flt.repair = none) (hq : s.flt.repairQ = []) (hr : r.restore = false)
    (hp : pickSpare s r.utype.toNat r.unit.toNat = some p) :
    (queueRepair s r).flt = { s.flt with repairQ := [], repair := some { r with spare := p } } := by
  rw [queueRepair_first hq]
  simp only [nextRepair, hn, hr, Bool.false_eq_true, if_false]
  split
  next hnone => exact absurd (hp.symm.trans hnone) (by simp)
  next p' hsome =>
    obtain rfl : p = p' := Option.some.inj (hp.symm.trans hsome)
    split
    · exact holdMoves_flt ..
    · rfl

/-- What FLT_REPAIR_CMD takes. -/
def TakesRepair (s : State) (ut u op : Nat) : Prop :=
  s.flt.cmdBusy = false ∧ s.flt.repair = none ∧ repairable ut u = true ∧ (op = 1 ∨ op = 2 ∧ (ut = 3 ∨ ut = 4))

theorem repairCmd_eq (s : State) (ut u op : Nat) [Decidable (TakesRepair s ut u op)] :
    repairCmd s ut u op = if TakesRepair s ut u op then
      (if op = 1 then retireUnit { setReg s 0x900A0 (ut + u * 16 + op * 2 ^ 16) with flt := { s.flt with cmdBusy := true } } ut u 0 0 true
       else queueRepair { setReg s 0x900A0 (ut + u * 16 + op * 2 ^ 16) with flt := { s.flt with cmdBusy := true } }
        { utype := BitVec.ofNat 4 ut, unit := BitVec.ofNat 12 u, restore := true, spare := 0, cmd := true })
    else { setReg s 0x900A0 (ut + u * 16 + op * 2 ^ 16) with flt := { s.flt with cmdStatus := 0x09 } } := by
  have hcond : (s.flt.cmdBusy ∨ s.flt.repair.isSome ∨ !repairable ut u ∨ !(op == 1 || (op == 2 && (ut == 3 || ut == 4)))) ↔
      ¬ TakesRepair s ut u op := by
    unfold TakesRepair
    simp only [Bool.not_eq_true', ← Bool.not_eq_true, ← Option.not_isSome_iff_eq_none, Bool.or_eq_true, Bool.and_eq_true, beq_iff_eq]
    tauto
  unfold repairCmd putRepairCmd
  by_cases h : TakesRepair s ut u op
  · rw [if_pos h]
    exact if_neg (fun hc => hcond.mp hc h)
  · rw [if_neg h]
    exact if_pos (hcond.mpr h)

/-- RETIRE marks the physical unit and begins the repair with a free spare. -/
theorem retireUnit_begins {s : State} {ut : BitVec 4} {u : BitVec 12} {q : Nat} (hn : s.flt.repair = none) (hq : s.flt.repairQ = [])
    (hfree : q ∈ freeSpares s ut.toNat) (hne : q ≠ physOf s ut.toNat u.toNat) :
    ∃ p, p ∈ freeSpares s ut.toNat ∧ p ≠ physOf s ut.toNat u.toNat ∧
      (retireUnit s ut.toNat u.toNat 0 0 true).flt.repair = some { utype := ut, unit := u, restore := false, spare := p, cmd := true } ∧
      (retireUnit s ut.toNat u.toNat 0 0 true).flt.repairQ = [] ∧
      (retireUnit s ut.toNat u.toNat 0 0 true).flt.cmdBusy = s.flt.cmdBusy ∧
      smGet false (retireUnit s ut.toNat u.toNat 0 0 true).flt.retired (ut.toNat * 4096 + physOf s ut.toNat u.toNat) = true := by
  have hlog : repairView (c32 (logRec s 0x0B 0 { utype := ut.toNat, unit := physOf s ut.toNat u.toNat, aux := u.toNat }) 0x90058 1) =
      repairView s := by rw [repairView_c32, repairView_logRec]
  unfold retireUnit
  dsimp only
  generalize c32 (logRec s 0x0B 0 { utype := ut.toNat, unit := physOf s ut.toNat u.toNat, aux := u.toNat }) 0x90058 1 = t at hlog ⊢
  obtain ⟨-, hmap, hret, hrep, hqueue, hbusy, -⟩ := RepairView.mk.inj hlog
  generalize ht : ({ t with flt := { t.flt with
    retired := smSet false t.flt.retired (ut.toNat * 4096 + physOf s ut.toNat u.toNat) true
    wins := t.flt.wins.filter (fun e => !(e.1 / 2 ^ 40 % 16 == ut.toNat && e.1 % 2 ^ 40 == physOf s ut.toNat u.toNat)) } } : State) = v
  have hmem : ∀ p, p ∈ freeSpares v ut.toNat ↔ p ∈ freeSpares s ut.toNat ∧ p ≠ physOf s ut.toNat u.toNat := fun p =>
    mem_freeSpares_retired (by rw [← ht]; exact hmap) (by rw [← ht]; exact congrArg (smSet false · _ true) hret)
  obtain ⟨p, hp⟩ := pickSpare_of_mem u.toNat ((hmem q).mpr ⟨hfree, hne⟩)
  obtain ⟨hin, hout⟩ := (hmem p).mp (pickSpare_mem hp)
  have hbegin := queueRepair_spare (s := v) (p := p)
    (r := { utype := BitVec.ofNat 4 ut.toNat, unit := BitVec.ofNat 12 u.toNat, restore := false, spare := 0, cmd := true })
    (by rw [← ht]; exact hrep.trans hn) (by rw [← ht]; exact hqueue.trans hq) rfl (by simpa using hp)
  refine ⟨p, hin, hout, ?_⟩
  rw [hbegin, ← ht]
  exact ⟨by simp, rfl, hbusy, smGet_smSet_same _ _ (by decide)⟩

/-! ## The ends of copies and bring-ups -/

/-- Without a repair in progress, nothing ends. -/
theorem repairEnds_none {s : State} (hr : Runs s) (hn : s.flt.repair = none) :
    exec .spareBringupDone s = .next s ∧ exec .picotCoreMove s = .next s ∧ exec .bankCopyDone s = .next s := by
  refine ⟨?_, ?_, ?_⟩ <;> refine congrArg Host.Outcome.next ((live_runs hr _).trans ?_) <;> rw [hn]

theorem spareBringupDone_eq {s : State} {r : Repair} (hr : Runs s) (hrep : s.flt.repair = some r) :
    exec .spareBringupDone s = .next (
      if (r.utype ≠ 3 ∧ r.utype ≠ 4) ∨ !unitFree s r then s
      else if r.restore then endRepair (if r.utype = 3 then rewriteCore s r.unit.toNat else rewriteEngine s r.unit.toNat) r
      else if r.utype = 3 then endRepair (moveCore s r) r
      else endRepair (moveEngine s r) r) := by
  refine congrArg Host.Outcome.next ((live_runs hr _).trans ?_)
  rw [hrep]

theorem picotCoreMove_eq {s : State} {r : Repair} (hr : Runs s) (hrep : s.flt.repair = some r) :
    exec .picotCoreMove s = .next (
      if r.utype ≠ 2 ∨ !coreSettled s r.unit.toNat then s
      else if (copyCore s r.unit.toNat).1 then endRepair (holdMoves (switchMap (copyCore s r.unit.toNat).2 r) r.unit.toNat false) r
      else
        let t := noSpare { holdMoves (copyCore s r.unit.toNat).2 r.unit.toNat false with
          flt := { (copyCore s r.unit.toNat).2.flt with repair := none } } r
        nextRepair t t.flt.repairQ.length) := by
  refine congrArg Host.Outcome.next ((live_runs hr _).trans ?_)
  rw [hrep]

theorem bankCopyDone_eq {s : State} {r : Repair} (hr : Runs s) (hrep : s.flt.repair = some r) :
    exec .bankCopyDone s = .next (if r.utype ≠ 6 then s else endRepair (switchMap s r) r) := by
  refine congrArg Host.Outcome.next ((live_runs hr _).trans ?_)
  rw [hrep]

/-- A move writes memory and, of a core, the epochs, and then switches the map. -/
theorem moveEngine_switches (s : State) (r : Repair) : ∃ t, moveEngine s r = switchMap t r ∧ repairView t = repairView s :=
  ⟨_, rfl, (repairView_rewriteEngine ..).trans rfl⟩

theorem moveCore_switches (s : State) (r : Repair) : ∃ t, moveCore s r = switchMap t r ∧ repairView t = repairView s := by
  refine ⟨_, rfl, ?_⟩
  refine Eq.trans (b := repairView (rewriteCore (zeroRegion s (spBobbin r.unit.toNat)) r.unit.toNat)) rfl ?_
  exact (repairView_rewriteCore ..).trans rfl

/-- The bring-up of a core or an engine ends its repair. -/
theorem spareBringup_ends {s : State} {r : Repair} (hr : Runs s) (hrep : s.flt.repair = some r) (hty : r.utype = 3 ∨ r.utype = 4)
    (hfree : unitFree s r = true) (hq : s.flt.repairQ = []) (hj : ∀ e ∈ s.jobs, ∀ j, e.2 = some j → j.attempt ≤ 1) :
    ∃ t, exec .spareBringupDone s = .next t ∧ RepairEnded s r t := by
  have htake : ¬ ((r.utype ≠ 3 ∧ r.utype ≠ 4) ∨ (!unitFree s r) = true) := by
    simp only [hfree, Bool.not_true, Bool.false_eq_true, or_false]
    tauto
  refine ⟨_, spareBringupDone_eq hr hrep, ?_⟩
  rw [if_neg htake]
  rcases Bool.eq_false_or_eq_true r.restore with hre | hre
  · rw [if_pos hre]
    refine restore_ends hq hj hre ?_
    split
    · exact repairView_rewriteCore ..
    · exact repairView_rewriteEngine ..
  · rw [if_neg (by simp [hre])]
    split
    · obtain ⟨t, ht, hview⟩ := moveCore_switches s r
      rw [ht]
      exact move_ends hq hj hre hview rfl
    · obtain ⟨t, ht, hview⟩ := moveEngine_switches s r
      rw [ht]
      exact move_ends hq hj hre hview rfl

/-- A core without an error in any word is copied as it is. -/
theorem copyCore_clean {s : State} (h : s.flaws = []) (u : Nat) : copyCore s u = (true, s) := by
  have hmend : mendPicot s u = s := by
    unfold mendPicot
    rw [h]
    rfl
  unfold copyCore
  dsimp only
  rw [hmend, h]
  rfl

theorem endRepair_mem {t : State} (r : Repair) (hq : t.flt.repairQ = []) (hj : ∀ e ∈ t.jobs, ∀ j, e.2 = some j → j.attempt ≤ 1) :
    (endRepair t r).mem = t.mem := by
  rw [endRepair_last r hq hj]
  unfold endCmd
  split <;> rfl

/-- The copy of a bank ends its repair, and changes no byte of memory. -/
theorem bankCopy_ends {s : State} {r : Repair} (hre : r.restore = false) (hq : s.flt.repairQ = [])
    (hj : ∀ e ∈ s.jobs, ∀ j, e.2 = some j → j.attempt ≤ 1) :
    RepairEnded s r (endRepair (switchMap s r) r) ∧ (endRepair (switchMap s r) r).mem = s.mem := by
  have hview := repairView_switchMap s r
  have hq' : (switchMap s r).flt.repairQ = [] := (congrArg RepairView.queue hview).trans hq
  have hj' : (switchMap s r).jobs = s.jobs := congrArg RepairView.jobs hview
  refine ⟨move_ends hq hj hre rfl rfl, (endRepair_mem r hq' (by rw [hj']; exact hj)).trans ?_⟩
  simp [switchMap]

/-- Settles O54: a command that is taken begins a repair, and the end of a repair of its kind switches the map. -/
theorem repairs : Obligations.Repairs := by
  classical
  intro s ut u put refused
  refine ⟨fun hreach => ?_, fun hr => ⟨repairEnds_none hr, fun r hrep => ⟨fun h => ?_, fun h => ?_, fun h => ?_, fun hq hj => ?_⟩⟩⟩
  case refine_1 =>
    have hretire : exec (.fltRetire ut u) s = .next (repairCmd s ut.toNat u.toNat 1) := congrArg _ (hreach.bar0 _)
    have hrestore : exec (.fltRestore ut u) s = .next (repairCmd s ut.toNat u.toNat 2) := congrArg _ (hreach.bar0 _)
    rw [hretire, hrestore, repairCmd_eq, repairCmd_eq]
    refine ⟨fun h => ?_, fun h => ?_, fun hb hn hq hu => ⟨fun q hfree hne => ?_, fun hop => ?_⟩⟩
    · rw [if_neg]
      rintro ⟨hb, hn, hu, -⟩
      simp [hb, hn, hu] at h
    · rw [if_neg]
      rintro ⟨hb, hn, hu, hop⟩
      have hcases : ut = 3 ∨ ut = 4 := by
        rcases hop with hop | ⟨-, hop | hop⟩
        · omega
        · exact .inl (BitVec.eq_of_toNat_eq hop)
        · exact .inr (BitVec.eq_of_toNat_eq hop)
      rcases h with h | h | h | ⟨h3, h4⟩
      · exact absurd (hb.symm.trans h) (by decide)
      · simp [hn] at h
      · exact absurd (hu.symm.trans h) (by decide)
      · exact hcases.elim h3 h4
    · rw [if_pos ⟨hb, hn, hu, .inl rfl⟩, if_pos rfl]
      obtain ⟨p, hin, hout, hrest⟩ := retireUnit_begins (s := { put 1 with flt := { s.flt with cmdBusy := true } }) hn hq hfree hne
      exact ⟨_, p, rfl, hin, hout, hrest⟩
    · have hop' : ut.toNat = 3 ∨ ut.toNat = 4 := hop.imp (congrArg BitVec.toNat) (congrArg BitVec.toNat)
      rw [if_pos ⟨hb, hn, hu, .inr ⟨rfl, hop'⟩⟩, if_neg (by decide), BitVec.ofNat_toNat, BitVec.ofNat_toNat]
      exact congrArg Host.Outcome.next (queueRepair_restore (s := { put 2 with flt := { s.flt with cmdBusy := true } }) hn hq rfl)
  case refine_2 =>
    rw [spareBringupDone_eq hr hrep, if_pos]
    simpa using h
  case refine_3 =>
    rw [picotCoreMove_eq hr hrep, if_pos]
    simpa using h
  case refine_4 => rw [bankCopyDone_eq hr hrep, if_pos h]
  case refine_5 =>
    refine ⟨fun hty hfree => spareBringup_ends hr hrep hty hfree hq hj, fun hty hre hset hfl => ?_, fun hty hre => ?_⟩
    · refine ⟨_, picotCoreMove_eq hr hrep, ?_⟩
      rw [if_neg (by simp [hty, hset]), copyCore_clean hfl, if_pos rfl]
      exact move_ends hq hj hre rfl (repairView_holdMoves ..)
    · refine ⟨_, bankCopyDone_eq hr hrep, ?_⟩
      rw [if_neg (not_not.mpr hty)]
      exact bankCopy_ends hre hq hj

end Sys2Proof.Machine
end

section
/-! PROOFS. O1: the scalar arithmetic of the S slot, and the scalar registers (R164, R172). -/

namespace Sys2Proof.Machine

section
variable {s : State} {c : BitVec 8}

/-- An instruction on sA and sB writes its result to sD. -/
theorem rrSlot_gives {d a b : BitVec 5} {f : U32 → U32 → U32} {v : U32} (h : Straight s c.toNat)
    (hv : f (sReg (getCore s c.toNat) a) (sReg (getCore s c.toNat) b) = v) :
    ∃ t, issueOne c (rrSlot d a b f) s = .next t ∧ CoreStep s t c.toNat (putS (getCore s c.toNat) d v) :=
  issueOne_setS h rfl rfl rfl (hv ▸ rfl) rfl

/-- An instruction on sA writes its result to sD. -/
theorem riSlot_gives {d a : BitVec 5} {f : U32 → U32} {v : U32} (h : Straight s c.toNat) (hv : f (sReg (getCore s c.toNat) a) = v) :
    ∃ t, issueOne c (riSlot d a f) s = .next t ∧ CoreStep s t c.toNat (putS (getCore s c.toNat) d v) :=
  issueOne_setS h rfl rfl rfl (hv ▸ rfl) rfl

/-- A shift by fewer than 32 places writes its result to sD. -/
theorem shiftSlot_gives {d a : BitVec 5} {i : BitVec 6} (f : U32 → Nat → U32) (h : Straight s c.toNat) (hi : i.toNat < 32) :
    ∃ t, issueOne c (shiftSlot d a i f) s = .next t ∧
      CoreStep s t c.toNat (putS (getCore s c.toNat) d (f (sReg (getCore s c.toNat) a) i.toNat)) := by
  unfold shiftSlot
  rw [if_pos hi]
  exact riSlot_gives h rfl

end

/-- The signed comparison of two words, by their values. -/
theorem ite_slt {α : Type} (x y : U32) (u v : α) : (if x.slt y then u else v) = if x.toInt < y.toInt then u else v := by
  simp only [BitVec.slt_eq_decide, decide_eq_true_eq]

/-! ## The scalar registers -/

theorem sReg_zero (k : Core) : sReg k 0 = 0 := rfl

theorem putS_zero (k : Core) (v : U32) : putS k 0 v = k := rfl

theorem putS_s {k : Core} {i : BitVec 5} (v : U32) (hi : i ≠ 0) : (putS k i v).s = smSet 0 k.s i.toNat v := by
  unfold putS
  rw [if_neg hi]

/-- A scalar register other than s0 that has been written reads back, and the others keep their values. -/
theorem sReg_putS {k : Core} {i : BitVec 5} (j : BitVec 5) (v : U32) (hk : SmSorted k.s) (hi : i ≠ 0) :
    sReg (putS k i v) j = if j = i then v else sReg k j := by
  by_cases hj : j = 0
  · rw [hj, if_neg (Ne.symm hi), sReg_zero, sReg_zero]
  · unfold sReg
    rw [if_neg hj, if_neg hj, putS_s v hi, smGet_smSet_sorted v hk]
    exact if_congr BitVec.toNat_inj rfl rfl

/-- Settles O1: each instruction is one write of sD, and the registers read as they were written. -/
theorem scalarArithmetic : Obligations.ScalarArithmetic := by
  intro s c d a b h
  refine ⟨rrSlot_gives h rfl, rrSlot_gives h rfl, rrSlot_gives h rfl, rrSlot_gives h rfl, rrSlot_gives h rfl, rrSlot_gives h rfl,
    rrSlot_gives h rfl, rrSlot_gives h rfl, rrSlot_gives h (ite_slt ..), rrSlot_gives h rfl, rrSlot_gives h (ite_slt ..),
    rrSlot_gives h (ite_slt ..), rrSlot_gives h ?_, rrSlot_gives h rfl, fun i => riSlot_gives h ?_,
    fun i hi => ⟨shiftSlot_gives _ h hi, shiftSlot_gives _ h hi, shiftSlot_gives _ h hi⟩, fun i => ?_,
    fun i => issueOne_setS h rfl rfl rfl rfl rfl, fun k i j v => ⟨sReg_zero k, sReg_zero _, putS_zero k v, fun hk hi => ⟨?_, fun hj => ?_, ?_⟩⟩⟩
  case refine_1 => exact BitVec.mul_def ..
  case refine_2 =>
    rw [BitVec.ofInt_add, BitVec.ofInt_toInt]
    rfl
  case refine_3 => exact issueOne_setS h rfl rfl rfl rfl rfl
  case refine_4 => rw [sReg_putS i v (smWf_sorted hk) hi, if_pos rfl]
  case refine_5 => rw [sReg_putS j v (smWf_sorted hk) hi, if_neg hj]
  case refine_6 =>
    rw [putS_s v hi]
    exact smWf_smSet _ _ hk

end Sys2Proof.Machine
end

section
/-! PROOFS. O3: where control goes after a bundle (R169, R172, R173). -/

namespace Sys2Proof.Machine

/-! ## The next PC -/

theorem nextPc_jump (pc : Nat) (ls : List LoopFrame) (tgt : Nat) : nextPc pc ls (.jump tgt) = some ((tgt : Int), leaveLoops ls tgt) := by
  simp [nextPc]

theorem nextPc_loop {n : Nat} (pc : Nat) (ls : List LoopFrame) (len : Nat) (hn : n ≠ 0) :
    nextPc pc ls (.loop n len) = some (((pc + 1 : Nat) : Int), { first := pc + 1, len := len, left := n } :: ls) := if_neg hn

/-- A loop of no iterations skips its body. -/
theorem nextPc_skip (pc len : Nat) : nextPc pc [] (.loop 0 len) = some (((pc + 1 + len : Nat) : Int), []) := rfl

/-- The end of the innermost body goes back to its first bundle while iterations remain. -/
theorem nextPc_iterate {pc : Nat} {f : LoopFrame} (hend : pc + 1 = f.first + f.len) (hleft : 1 < f.left) :
    nextPc pc [f] .seq = some ((f.first : Int), [{ f with left := f.left - 1 }]) := by
  simp [nextPc, reachEnd, hend, hleft]

theorem nextPc_leave {pc : Nat} {f : LoopFrame} (hend : pc + 1 = f.first + f.len) (hleft : f.left ≤ 1) :
    nextPc pc [f] .seq = some (((pc + 1 : Nat) : Int), []) := by
  simp [nextPc, reachEnd, hend, Nat.not_lt.mpr hleft]

section
variable {s : State} {c : BitVec 8} (ha : Awake s) (hi : canIssue s c.toNat = true)
include ha hi

/-- A slot of the S slot that is ready and neither faults nor reads memory goes where its flow says. -/
theorem issueOne_flows {u : State} {o : SlotOp} {k : Core} {pc : Nat} {ls : List LoopFrame} (hr : o.ready s c.toNat = true)
    (hf : o.fault s c.toNat = none) (hs : o.sram s c.toNat = []) (hrun : SlotRuns s u c.toNat k (o.run s s c.toNat))
    (hk : SameRun k (getCore s c.toNat))
    (hn : nextPc (getCore s c.toNat).pc.toNat (getCore s c.toNat).loops (o.flow (getCore s c.toNat)) = some ((pc : Int), ls))
    (hb : pc < 131072) : ∃ t, issueOne c o s = .next t ∧ CoreGoes s u t c.toNat k pc ls := by
  obtain ⟨hjob, hend⟩ := canIssue_job hi
  obtain ⟨hj, he, hpc, hloops⟩ := hk
  refine ⟨_, rfl, ?_⟩
  rw [awake_runs ha]
  exact issue_goes (w := s) hi (by simp [hr]) (by simp [hf]) (by simp [hs, sramReads_nil]) (by simpa using hrun) (hj ▸ hjob) (he.trans hend) hpc
    (by rw [hpc, hloops]; exact hn) hb

/-- A taken branch. -/
theorem branch_taken {a : BitVec 5} {off : BitVec 11} {p : U32 → Bool} {tgt : Nat} (hp : p (sReg (getCore s c.toNat) a) = true)
    (ht : (tgt : Int) = ((getCore s c.toNat).pc.toNat : Int) + off.toInt) (hb : tgt < 131072) :
    ∃ t, issueOne c (branchSlot a off p) s = .next t ∧
      CoreGoes s s t c.toNat (getCore s c.toNat) tgt (leaveLoops (getCore s c.toNat).loops tgt) := by
  refine issueOne_flows ha hi rfl rfl rfl (slotRuns_id s c.toNat) (.refl _) ?_ hb
  simp only [branchSlot, hp, if_true, branchTo]
  rw [← ht]
  exact nextPc_jump ..

/-- A branch that is not taken. -/
theorem branch_passed {a : BitVec 5} {off : BitVec 11} {p : U32 → Bool} (hp : p (sReg (getCore s c.toNat) a) = false)
    (hl : (getCore s c.toNat).loops = []) (hb : (getCore s c.toNat).pc.toNat + 1 < 131072) :
    ∃ t, issueOne c (branchSlot a off p) s = .next t ∧
      CoreGoes s s t c.toNat (getCore s c.toNat) ((getCore s c.toNat).pc.toNat + 1) [] := by
  refine issueOne_flows ha hi rfl rfl rfl (slotRuns_id s c.toNat) (.refl _) ?_ hb
  simp only [branchSlot, hp, hl]
  exact nextPc_seq

theorem jump_goes {off : BitVec 11} {tgt : Nat} (ht : (tgt : Int) = ((getCore s c.toNat).pc.toNat : Int) + off.toInt) (hb : tgt < 131072) :
    ∃ t, exec (.iJmp c off) s = .next t ∧
      CoreGoes s s t c.toNat (getCore s c.toNat) tgt (leaveLoops (getCore s c.toNat).loops tgt) := by
  refine issueOne_flows (o := opJmp off) ha hi rfl rfl rfl (slotRuns_id s c.toNat) (.refl _) ?_ hb
  simp only [opJmp, branchTo]
  rw [← ht]
  exact nextPc_jump ..

theorem call_goes {off : BitVec 11} {tgt : Nat} (ht : (tgt : Int) = ((getCore s c.toNat).pc.toNat : Int) + off.toInt) (hb : tgt < 131072) :
    ∃ t, exec (.iCall c off) s = .next t ∧
      CoreGoes s s t c.toNat (putS (getCore s c.toNat) 31 (BitVec.ofNat 32 ((getCore s c.toNat).pc.toNat + 1))) tgt
        (leaveLoops (getCore s c.toNat).loops tgt) := by
  have hlink : (getCore s c.toNat).pc.setWidth 32 + 1 = BitVec.ofNat 32 ((getCore s c.toNat).pc.toNat + 1) := by
    refine BitVec.eq_of_toNat_eq ?_
    simp
  refine issueOne_flows (o := opCall off) ha hi rfl rfl rfl (hlink ▸ slotRuns_setS _ _ (canIssue_job hi).1) (sameRun_putS ..) ?_ hb
  simp only [opCall, branchTo]
  rw [← ht]
  exact nextPc_jump ..

theorem jr_goes {a : BitVec 5} (hb : (sReg (getCore s c.toNat) a).toNat < 131072) :
    ∃ t, exec (.iJr c a) s = .next t ∧
      CoreGoes s s t c.toNat (getCore s c.toNat) (sReg (getCore s c.toNat) a).toNat
        (leaveLoops (getCore s c.toNat).loops (sReg (getCore s c.toNat) a).toNat) := by
  refine issueOne_flows (o := opJr a) ha hi rfl (if_neg (Nat.not_le.mpr hb)) rfl (slotRuns_id s c.toNat) (.refl _) ?_ hb
  simp only [opJr]
  rw [show ((sReg (getCore s c.toNat) a).toNat : Int) % 131072 = (sReg (getCore s c.toNat) a).toNat by omega]
  exact nextPc_jump ..

/-- LOOP where fewer than two loops are active. -/
theorem loop_goes {a : BitVec 5} {i : BitVec 6} {pc : Nat} {ls : List LoopFrame} (h0 : i ≠ 0) (hl : (getCore s c.toNat).loops.length < 2)
    (hn : nextPc (getCore s c.toNat).pc.toNat (getCore s c.toNat).loops (.loop (sReg (getCore s c.toNat) a).toNat i.toNat) = some ((pc : Int), ls))
    (hb : pc < 131072) : ∃ t, exec (.iLoop c a i) s = .next t ∧ CoreGoes s s t c.toNat (getCore s c.toNat) pc ls := by
  have hslot : opLoop a i = { flow := fun k => .loop (sReg k a).toNat i.toNat
                              fault := fun s c => if 2 ≤ (getCore s c).loops.length then some ⟨5, 0⟩ else none } := if_neg h0
  refine issueOne_flows (o := opLoop a i) ha hi (by rw [hslot]) (by rw [hslot]; exact if_neg (Nat.not_le.mpr hl)) (by rw [hslot])
    (by rw [hslot]; exact slotRuns_id s c.toNat) (.refl _) (by rw [hslot]; exact hn) hb

/-- LI at the end of a body. -/
theorem li_goes {d : BitVec 5} {v : U32} {pc : Nat} {ls : List LoopFrame}
    (hn : nextPc (getCore s c.toNat).pc.toNat (getCore s c.toNat).loops .seq = some ((pc : Int), ls)) (hb : pc < 131072) :
    ∃ t, exec (.iLi c d v) s = .next t ∧ CoreGoes s s t c.toNat (putS (getCore s c.toNat) d v) pc ls :=
  issueOne_flows (o := opLi d v) ha hi rfl rfl rfl (slotRuns_setS _ _ (canIssue_job hi).1) (sameRun_putS ..) hn hb

end

/-! ## The fetch of a bundle -/

theorem sramRead_eq (s : State) (c : Nat) : ∃ x, sramRead s c = { s with flt := { s.flt with wins := x } } := winPass_eq ..

theorem awake_sramRead {s : State} (c : Nat) (h : Awake s) : Awake (sramRead s c) := by
  obtain ⟨x, hx⟩ := sramRead_eq s c
  rw [hx]
  exact h

theorem canIssue_sramRead (s : State) (c q : Nat) : canIssue (sramRead s c) q = canIssue s q := by
  obtain ⟨x, hx⟩ := sramRead_eq s c
  rw [hx]
  rfl

theorem getCore_sramRead (s : State) (c q : Nat) : getCore (sramRead s c) q = getCore s q := getCore_of_cores (winPass_cores ..) q

/-- A step from the state in which the bundle has been fetched is one from the state before. -/
theorem coreGoes_sramRead {s u t : State} {c pc : Nat} {k : Core} {ls : List LoopFrame} (h : CoreGoes (sramRead s c) u t c k pc ls) :
    CoreGoes s u t c k pc ls := by
  have hphys : physCore (sramRead s c) c = physCore s c := by
    obtain ⟨x, hx⟩ := sramRead_eq s c
    rw [hx]
    rfl
  unfold CoreGoes at *
  simpa only [getCore_sramRead, hphys] using h

/-- Settles O3: control goes where the flow of the slot says. -/
theorem controlFlow : Obligations.ControlFlow := by
  intro s c a ha hi k pc goes kept
  refine ⟨fun off tgt ht hb => ⟨fun hx => ?_, fun hx => ?_, fun hx => ?_, fun hx => ?_, jump_goes ha hi ht hb, call_goes ha hi ht hb⟩,
    fun off hl hb => ⟨fun hx => ?_, fun hx => ?_, fun hx => ?_, fun hx => ?_⟩, jr_goes ha hi,
    fun i h0 hl hb hx => ?_, fun i h0 hl hb hx => ?_, fun f d v hl hend hb => ⟨fun hleft => ?_, fun hleft => ?_⟩,
    fun d v w hf hl hb hw hfetch => ?_⟩
  case refine_1 => exact branch_taken ha hi (by simpa using hx) ht hb
  case refine_2 => exact branch_taken ha hi (by simpa using hx) ht hb
  case refine_3 => exact branch_taken ha hi (by simpa [BitVec.msb_eq_toInt] using hx) ht hb
  case refine_4 => exact branch_taken ha hi (by simpa [BitVec.msb_eq_toInt] using hx) ht hb
  case refine_5 => exact branch_passed ha hi (by simpa using hx) hl hb
  case refine_6 => exact branch_passed ha hi (by simpa using hx) hl hb
  case refine_7 => exact branch_passed ha hi (by simpa [BitVec.msb_eq_toInt] using hx) hl hb
  case refine_8 => exact branch_passed ha hi (by simpa [BitVec.msb_eq_toInt] using hx) hl hb
  case refine_9 =>
    refine loop_goes ha hi h0 hl (nextPc_loop _ _ _ fun hn => hx (BitVec.eq_of_toNat_eq hn)) hb
  case refine_10 =>
    have hx' : (sReg (getCore s c.toNat) a).toNat = 0 := congrArg BitVec.toNat hx
    have hl' : (getCore s c.toNat).loops = [] := hl
    exact loop_goes ha hi h0 (by rw [hl']; decide) (by rw [hl', hx']; exact nextPc_skip ..) hb
  case refine_11 => exact li_goes ha hi (hl ▸ nextPc_iterate hend hleft) (by omega)
  case refine_12 => exact li_goes ha hi (hl ▸ nextPc_leave hend hleft) hb
  case refine_13 =>
    have hsame := (bundleIsInstruction (.iLi c d v) c w s hw hfetch hf ha.2.2).1 ha hi
    obtain ⟨t, hex, hgo⟩ := li_goes (d := d) (v := v) (awake_sramRead c.toNat ha) ((canIssue_sramRead ..).trans hi)
      (ls := []) (by rw [getCore_sramRead, show (getCore s c.toNat).loops = [] from hl]; exact nextPc_seq) hb
    rw [getCore_sramRead] at hgo
    exact ⟨t, hsame.trans hex, coreGoes_sramRead hgo⟩

end Sys2Proof.Machine
end

section
/-! PROOFS. O4: CSRR, CSRW, SYNC and END (R172, R174, R180, R193); what a bundle that waits leaves. -/

namespace Sys2Proof.Machine

/-! ## A bundle that waits -/

/-- What a bundle that waits leaves: the core's own state alone differs. -/
def CoreWaits (s t : State) (c : Nat) : Prop :=
  getCore t c = { getCore s c with st := 3 } ∧ t = { s with cores := t.cores } ∧ ∀ q, q ≠ c → getCore t q = getCore s q

theorem issue_waits {s : State} {c : Nat} {ops : List SlotOp} (hi : canIssue s c = true) (hr : ops.all (fun o => o.ready s c) = false)
    (hw : ops.foldl (fun t o => if o.ready s c then t else o.onWait t c) s = s) : CoreWaits s (issue s c ops) c := by
  obtain ⟨hjob, hend⟩ := canIssue_job hi
  have hissue : issue s c ops = modCore s c (fun k => { k with st := if k.ending then k.st else 3 }) := by
    unfold issue
    simp [hi, hr, hw]
  obtain ⟨hc, hq, ht⟩ := slotRuns_mod (s := s) (c := c) (g := fun k => { k with st := if k.ending then k.st else 3 }) hjob
  rw [hissue]
  refine ⟨hc.trans ?_, ht, hq⟩
  simp [hend]

/-- A slot of the S slot that is not ready, and does nothing as it waits. -/
theorem issueOne_waits {s : State} {c : BitVec 8} {o : SlotOp} (h : Straight s c.toNat) (hr : o.ready s c.toNat = false)
    (hw : o.onWait s c.toNat = s) : ∃ t, issueOne c o s = .next t ∧ CoreWaits s t c.toNat := by
  obtain ⟨ha, hi, -, -⟩ := h
  refine ⟨_, rfl, ?_⟩
  rw [awake_runs ha]
  exact issue_waits hi (by simp [hr]) (by simp [hr, hw])

/-- The same of an M or X slot. -/
theorem issueMX_waits {s : State} {c : BitVec 8} {o : SlotOp} (h : Straight s c.toNat) (hr : o.ready s c.toNat = false)
    (hw : o.onWait s c.toNat = s) : ∃ t, issueMX c o s = .next t ∧ CoreWaits s t c.toNat := by
  obtain ⟨ha, hi, -, -⟩ := h
  refine ⟨_, rfl, ?_⟩
  rw [awake_runs ha]
  exact issue_waits hi (by simp [hr]) (by simp [hr, hw, nopSlot])

/-- A bundle with which the core ends. -/
theorem advance_ends {s : State} {c : Nat} (fl : Flow) (he : (getCore s c).ending = true) (hj : (getCore s c).job.isSome = true) :
    getCore (advance s c fl) c = { getCore s c with lastPc := (getCore s c).pc, st := 4 } ∧
    (∀ q, q ≠ c → getCore (advance s c fl) q = getCore s q) ∧
    advance s c fl = { c64 s 0x30048 1 with cores := (advance s c fl).cores } := by
  have hadv : advance s c fl = c64 (modCore s c (fun k => { k with lastPc := k.pc, st := if k.ending then 4 else 2 })) 0x30048 1 := by
    unfold advance
    exact if_pos he
  obtain ⟨hc, hq, -⟩ := slotRuns_mod (s := s) (c := c) (g := fun k => { k with lastPc := k.pc, st := if k.ending then 4 else 2 }) hj
  rw [hadv]
  refine ⟨(getCore_of_cores (c64_cores ..) c).trans (hc.trans ?_), fun q hne => (getCore_of_cores (c64_cores ..) q).trans (hq q hne), rfl⟩
  simp [he]

/-! ## Control registers -/

section
variable {s : State} {c : BitVec 8} (h : Straight s c.toNat)
include h

/-- CSRR of a register that is not the cycle counter. -/
theorem csrr_goes (d : BitVec 5) {i : BitVec 11} (hi : i ≠ 2) : ∃ t, exec (.iCsrr c d i) s = .next t ∧
    CoreStep s t c.toNat (putS (getCore s c.toNat) d (BitVec.ofNat 32 (csrValue s c.toNat i.toNat))) :=
  issueOne_setS (o := opCsrr d i) h rfl rfl rfl (if_neg hi) rfl

/-- CSRR of the cycle counter takes two free values, of which one is latched. -/
theorem csrr_cycles (d : BitVec 5) : ∃ t, exec (.iCsrr c d 2) s = .next t ∧
    CoreGoes s { s with freeCtr := s.freeCtr + 2 } t c.toNat
      (putS { getCore s c.toNat with cyclesHi := Config.freeWord (s.freeCtr + 1) } d (Config.freeWord s.freeCtr))
      ((getCore s c.toNat).pc.toNat + 1) [] := by
  refine issueOne_plain (o := opCsrr d 2) h rfl rfl rfl ?_ ((sameRun_putS ..).trans ⟨rfl, rfl, rfl, rfl⟩) rfl
  have hlatch := (slotRuns_of_cores (s := s) (t := { s with freeCtr := s.freeCtr + 2 }) c.toNat rfl).mod
    (g := fun k => { k with cyclesHi := Config.freeWord (s.freeCtr + 1) }) h.job
  exact hlatch.setS h.job d (Config.freeWord s.freeCtr)

theorem csrw_ptp (d : BitVec 5) : ∃ t, exec (.iCsrw c d 4) s = .next t ∧ CoreStep s t c.toNat
    { getCore s c.toNat with ptpCol := BitVec.ofNat 5 (sReg (getCore s c.toNat) d).toNat
                             ptpRow := BitVec.ofNat 5 ((sReg (getCore s c.toNat) d).toNat / 256) } := by
  have hrow : BitVec.ofNat 5 (fld (sReg (getCore s c.toNat) d).toNat 8 5) = BitVec.ofNat 5 ((sReg (getCore s c.toNat) d).toNat / 256) := by
    refine BitVec.eq_of_toNat_eq ?_
    simp only [BitVec.toNat_ofNat, fld, Nat.shiftRight_eq_div_pow, Nat.mod_mod]
  refine issueOne_plain (o := opCsrw d 4) h rfl rfl rfl ?_ ⟨rfl, rfl, rfl, rfl⟩ rfl
  rw [← hrow]
  exact slotRuns_mod (g := fun k => { k with ptpCol := BitVec.ofNat 5 (sReg (getCore s c.toNat) d).toNat
                                             ptpRow := BitVec.ofNat 5 (fld (sReg (getCore s c.toNat) d).toNat 8 5) }) h.job

theorem csrw_satgrp (d : BitVec 5) : ∃ t, exec (.iCsrw c d 5) s = .next t ∧ CoreStep s t c.toNat
    { getCore s c.toNat with satgrp := BitVec.ofNat 12 (sReg (getCore s c.toNat) d).toNat } :=
  issueOne_plain (o := opCsrw d 5) h rfl rfl rfl
    (slotRuns_mod (g := fun k => { k with satgrp := BitVec.ofNat 12 (sReg (getCore s c.toNat) d).toNat }) h.job) ⟨rfl, rfl, rfl, rfl⟩ rfl

/-- A write of any other control register is discarded. -/
theorem csrw_other (d : BitVec 5) {i : BitVec 11} (h4 : i ≠ 4) (h5 : i ≠ 5) :
    ∃ t, exec (.iCsrw c d i) s = .next t ∧ CoreStep s t c.toNat (getCore s c.toNat) := by
  have hrun : (opCsrw d i).run s s c.toNat = s := (if_neg h4).trans (if_neg h5)
  exact issueOne_plain (o := opCsrw d i) h rfl rfl rfl (by rw [hrun]; exact slotRuns_id s c.toNat) (.refl _) rfl

/-- SYNC issues once no DMA descriptor of the core is left. -/
theorem sync_goes (hd : (getCore s c.toNat).dmas = []) : ∃ t, exec (.iSync c) s = .next t ∧ CoreStep s t c.toNat (getCore s c.toNat) :=
  issueOne_plain (o := opSync) h (by simp [opSync, hd]) rfl rfl (slotRuns_id s c.toNat) (.refl _) rfl

theorem sync_waits (hd : (getCore s c.toNat).dmas ≠ []) : ∃ t, exec (.iSync c) s = .next t ∧ CoreWaits s t c.toNat :=
  issueOne_waits (o := opSync) h (by simpa [opSync] using hd) rfl

/-- END: the core's part of the job ends, and its PC stays. -/
theorem end_goes : ∃ t, exec (.iEnd c) s = .next t ∧
    getCore t c.toNat = { getCore s c.toNat with ending := true, st := 4, lastPc := (getCore s c.toNat).pc } ∧
    (∀ q, q ≠ c.toNat → getCore t q = getCore s q) ∧
    t = { c64 (winPass s (winKey 3 (physCore s c.toNat)) 1) 0x30048 1 with cores := t.cores } := by
  obtain ⟨ha, hi, -, -⟩ := h
  have hjob := (canIssue_job hi).1
  have hissue : issue s c.toNat [opEnd] = advance (winPass (modCore s c.toNat (fun k => { k with ending := true }))
      (winKey 3 (physCore s c.toNat)) 1) c.toNat .seq := by
    unfold issue
    simp [hi, opEnd, flowOf, sramReads_nil]
  obtain ⟨hc, hq, -⟩ := slotRuns_mod (s := s) (c := c.toNat) (g := fun k => { k with ending := true }) hjob
  have hpass : ∀ q, getCore (winPass (modCore s c.toNat (fun k => { k with ending := true })) (winKey 3 (physCore s c.toNat)) 1) q =
      getCore (modCore s c.toNat (fun k => { k with ending := true })) q := getCore_of_cores (winPass_cores ..)
  refine ⟨_, rfl, ?_⟩
  rw [awake_runs ha, hissue]
  obtain ⟨hc', hq', ht'⟩ := advance_ends (c := c.toNat) .seq (by rw [hpass, hc]) (by rw [hpass, hc]; exact hjob)
  refine ⟨by rw [hc', hpass, hc], fun q hne => by rw [hq' q hne, hpass, hq q hne], ?_⟩
  rw [ht']
  generalize (advance _ c.toNat .seq).cores = x
  show ({ c64 (winPass { s with cores := _ } (winKey 3 (physCore s c.toNat)) 1) 0x30048 1 with cores := x } : State) = _
  rw [winPass_withCores]
  rfl

end

/-- A control register that R174 does not list reads 0. -/
theorem csrValue_unlisted (s : State) (c : Nat) {i : Nat} (hi : i = 6 ∨ i = 7 ∨ i = 0xE ∨ i = 0xF ∨ 0x10 < i) : csrValue s c i = 0 := by
  rcases hi with rfl | rfl | rfl | rfl | hi
  · rfl
  · rfl
  · rfl
  · rfl
  · obtain ⟨j, rfl⟩ := Nat.exists_eq_add_of_le' (Nat.succ_le_of_lt hi)
    rfl

theorem csrValue_dmaDone (s : State) (c : Nat) {ch : Nat} (hch : ch < 4) :
    csrValue s c (8 + ch) = (smGet 0 (getCore s c).dmaDone ch).toNat := by
  obtain rfl | rfl | rfl | rfl : ch = 0 ∨ ch = 1 ∨ ch = 2 ∨ ch = 3 := by omega
  all_goals rfl

/-- Settles O4: each instruction is its slot. -/
theorem controlRegisters : Obligations.ControlRegisters := by
  intro s c d h
  exact ⟨fun i hi => csrr_goes h d hi, csrr_cycles h d, rfl, rfl, rfl, rfl, rfl, fun ch => csrValue_dmaDone s c.toNat, rfl, rfl, rfl,
    fun i => csrValue_unlisted s c.toNat, csrw_ptp h d, csrw_satgrp h d, fun i => csrw_other h d, sync_goes h, sync_waits h, end_goes h⟩

end Sys2Proof.Machine
end

section
/-! PROOFS. O9: the X slot on the core's own queues (R177, R181, R206, R214, R230). -/

namespace Sys2Proof.Machine

section
variable {s : State} {c : BitVec 8} (h : Straight s c.toNat)
include h

/-- DMA queues its descriptor, which is one read of the SRAM. -/
theorem dma_goes {a : BitVec 5} {ch : BitVec 2} {d : DmaDesc} (hd : dmaAt s c.toNat (sReg (getCore s c.toNat) a) ch = some d)
    (hroom : ((getCore s c.toNat).dmas.filter (fun e => e.ch == ch && !e.ran)).length < 8) (hfl : s.flaws = []) :
    ∃ t, exec (.iDma c a ch) s = .next t ∧ CoreGoes s (sramRead s c.toNat) t c.toNat
      { getCore s c.toNat with dmas := (getCore s c.toNat).dmas ++ [d], order := (getCore s c.toNat).order + 1 }
      ((getCore s c.toNat).pc.toNat + 1) [] := by
  refine issueMX_goes (w := sramRead s c.toNat) (o := opDma a ch) h (decide_eq_true hroom) (by simp [opDma, hd]) (sramReads_one hfl) ?_
    ⟨rfl, rfl, rfl, rfl⟩
  simp only [opDma, hd]
  exact (slotRuns_of_cores _ (winPass_cores ..)).mod (g := fun k => { k with dmas := k.dmas ++ [d], order := k.order + 1 }) h.job

/-- DMAW issues once its channel has no descriptor left. -/
theorem dmaw_goes {ch : BitVec 2} (hd : ∀ e ∈ (getCore s c.toNat).dmas, e.ch ≠ ch) :
    ∃ t, exec (.iDmaw c ch) s = .next t ∧ CoreStep s t c.toNat (getCore s c.toNat) :=
  issueMX_plain (o := opDmaw ch) h (by simpa [opDmaw] using hd) rfl rfl (slotRuns_id s c.toNat) (.refl _)

theorem dmaw_waits {ch : BitVec 2} (hd : ∃ e ∈ (getCore s c.toNat).dmas, e.ch = ch) :
    ∃ t, exec (.iDmaw c ch) s = .next t ∧ CoreWaits s t c.toNat :=
  issueMX_waits (o := opDmaw ch) h (by simpa [opDmaw] using hd) rfl

/-- An X slot that writes scalar register `d`. -/
theorem issueMX_setS {d : BitVec 5} {v : U32} {o : SlotOp} (hr : o.ready s c.toNat = true) (hf : o.fault s c.toNat = none)
    (hs : o.sram s c.toNat = []) (hrun : o.run s s c.toNat = setS s c.toNat d v) :
    ∃ t, issueMX c o s = .next t ∧ CoreStep s t c.toNat (putS (getCore s c.toNat) d v) :=
  issueMX_plain h hr hf hs (hrun ▸ slotRuns_setS d v h.job) (sameRun_putS ..)

/-- An X slot that takes the core from `k` to `k'`. -/
theorem issueMX_mod {g : Core → Core} {o : SlotOp} {k : Core} (hr : o.ready s c.toNat = true) (hf : o.fault s c.toNat = none)
    (hs : o.sram s c.toNat = []) (hrun : o.run s s c.toNat = modCore s c.toNat g) (hg : g (getCore s c.toNat) = k)
    (hk : SameRun k (getCore s c.toNat)) : ∃ t, issueMX c o s = .next t ∧ CoreStep s t c.toNat k := by
  subst hg
  exact issueMX_plain h hr hf hs (hrun ▸ slotRuns_mod (hk.job_isSome h.job)) hk

end

/-- Settles O9: each slot is one write of its core, or waits. -/
theorem crossSlot : Obligations.CrossSlot := by
  intro s c a b ch h
  refine ⟨fun d hd hroom hfl => dma_goes h hd hroom hfl, fun hfull => ?_, dmaw_goes h, dmaw_waits h, fun hne => ?_, fun he => ?_,
    fun m ms hin => ?_, fun he => ?_, fun hne => ?_, fun he => ?_, fun m ms hin => ?_, fun he => ?_, fun hdone => ?_, fun hdone hout => ?_⟩
  case refine_1 => exact issueMX_waits (o := opDma a ch) h (decide_eq_false (Nat.not_lt.mpr hfull)) rfl
  case refine_2 => exact issueMX_setS (o := opRecv a) h (by simpa [opRecv] using hne) rfl rfl rfl
  case refine_3 => exact issueMX_waits (o := opRecv a) h (by simpa [opRecv] using he) rfl
  case refine_4 => exact issueMX_mod (o := opRpop) h rfl rfl rfl rfl (by simp [hin]) ⟨rfl, rfl, rfl, rfl⟩
  case refine_5 => exact issueMX_mod (o := opRpop) h rfl rfl rfl rfl (by simp [he]) ⟨rfl, rfl, rfl, rfl⟩
  case refine_6 => exact issueMX_setS (o := opEpeek a) h rfl rfl rfl (by simp [opEpeek, hne])
  case refine_7 => exact issueMX_setS (o := opEpeek a) h rfl rfl rfl (by simp [opEpeek, he])
  case refine_8 => exact issueMX_mod (o := opEpop) h rfl rfl rfl rfl (by simp [hin]) ⟨rfl, rfl, rfl, rfl⟩
  case refine_9 => exact issueMX_mod (o := opEpop) h rfl rfl rfl rfl (by simp [he]) ⟨rfl, rfl, rfl, rfl⟩
  case refine_10 => exact issueMX_mod (o := opKwait a b) h hdone rfl rfl rfl rfl ⟨rfl, rfl, rfl, rfl⟩
  case refine_11 => exact issueMX_waits (o := opKwait a b) h hdone (by simp [opKwait, hout])

end Sys2Proof.Machine
end

section
/-! PROOFS. O11: program faults, and what they leave (R171 to R173, R178, R181, R184, R194, R202). -/

namespace Sys2Proof.Machine

/-! ## Bundles that fault -/

section
variable {s : State} {c : BitVec 8} (ha : Awake s) (hi : canIssue s c.toNat = true)
include ha hi

theorem issueOne_faults {o : SlotOp} {f : PFault} (hr : o.ready s c.toNat = true) (hf : o.fault s c.toNat = some f) :
    issueOne c o s = .next (programFault s c.toNat f) := by
  refine congrArg Host.Outcome.next ((awake_runs ha _).trans ?_)
  simp [issue, hi, hr, hf]

theorem issueMX_faults {o : SlotOp} {f : PFault} (hr : o.ready s c.toNat = true) (hf : o.fault s c.toNat = some f) :
    issueMX c o s = .next (programFault s c.toNat f) := by
  refine congrArg Host.Outcome.next ((awake_runs ha _).trans ?_)
  simp [issue, hi, hr, hf, nopSlot]

theorem illegal_faults : issueOne c illegalSlot s = .next (programFault s c.toNat ⟨1, 0⟩) := issueOne_faults ha hi rfl rfl

theorem illegalMX_faults : issueMX c illegalSlot s = .next (programFault s c.toNat ⟨1, 0⟩) := issueMX_faults ha hi rfl rfl

/-- An illegal bundle faults once it has been fetched. -/
theorem bundleIssue_illegal (hd : decodeBundle (fetchBundle s c.toNat) = none) (hfl : s.flaws = []) :
    exec (.bundleIssue c) s = .next (programFault (sramRead s c.toNat) c.toNat ⟨1, 0⟩) := by
  have hd' : decodeBundle (fetchBundle (sramRead s c.toNat) c.toNat) = none := by
    obtain ⟨x, hx⟩ := sramRead_eq s c.toNat
    rw [hx]
    exact hd
  have hi' : canIssue (sramRead s c.toNat) c.toNat = true := (canIssue_sramRead ..).trans hi
  refine congrArg Host.Outcome.next ((awake_runs ha _).trans ?_)
  rw [sramReads_one hfl]
  show (if (!canIssue s c.toNat) = true then s else match decodeBundle (fetchBundle (sramRead s c.toNat) c.toNat) with
    | some ops => issue (sramRead s c.toNat) c.toNat ops
    | none => issue (sramRead s c.toNat) c.toNat [illegalSlot]) = _
  rw [hd', hi]
  simp [issue, hi', illegalSlot]

/-- A shift by 32 places or more. -/
theorem shiftSlot_faults {d a : BitVec 5} {i : BitVec 6} {f : U32 → Nat → U32} (h : 32 ≤ i.toNat) :
    issueOne c (shiftSlot d a i f) s = .next (programFault s c.toNat ⟨1, 0⟩) := by
  unfold shiftSlot
  rw [if_neg (Nat.not_lt.mpr h)]
  exact illegal_faults ha hi

end

/-! ## Accesses -/

theorem accessFault_misaligned {x n : Nat} (wr : Bool) (h : x % n ≠ 0) : accessFault x n wr = some ⟨2, x⟩ := if_pos h

theorem accessFault_outside {x n : Nat} (wr : Bool) (h : x % n = 0)
    (hx : (0x101400 ≤ x ∧ x < 0x102000) ∨ (0x102800 ≤ x ∧ x < 0x103800) ∨ 0x103840 ≤ x) : accessFault x n wr = some ⟨3, x⟩ := by
  have hsram : ¬ x < sramSize := by
    unfold sramSize
    omega
  have hout : localOk x = false := by
    simp [localOk, hsram]
    omega
  simp [accessFault, h, hout]

theorem accessFault_readOnly {x n : Nat} (h : x % n = 0) (hx : (0x100000 ≤ x ∧ x < 0x101400) ∨ (0x102000 ≤ x ∧ x < 0x102800) ∨
    (0x103800 ≤ x ∧ x < 0x103840 ∧ ¬ (x = 0x103830 ∧ n = 4))) : accessFault x n true = some ⟨4, x⟩ := by
  have hsram : ¬ x < sramSize := by
    unfold sramSize
    omega
  have hin : localOk x = true := by
    simp [localOk, hsram]
    omega
  have hro : (decide (x < sramSize) || (x == 0x103830 && n == 4)) = false := by
    simp [hsram]
    omega
  simp [accessFault, h, hin, hro]

/-- The faults of a load or store of `n` bytes at `x`. -/
theorem access_faults {s : State} {c : BitVec 8} {o : SlotOp} {x n : Nat} {st : Bool} (ha : Awake s) (hi : canIssue s c.toNat = true)
    (hr : o.ready s c.toNat = true) (hf : o.fault s c.toNat = accessFault x n st) :
    (x % n ≠ 0 → issueOne c o s = .next (programFault s c.toNat ⟨2, x⟩)) ∧
    (x % n = 0 → (0x101400 ≤ x ∧ x < 0x102000) ∨ (0x102800 ≤ x ∧ x < 0x103800) ∨ 0x103840 ≤ x →
      issueOne c o s = .next (programFault s c.toNat ⟨3, x⟩)) ∧
    (x % n = 0 → st = true → (0x100000 ≤ x ∧ x < 0x101400) ∨ (0x102000 ≤ x ∧ x < 0x102800) ∨
      (0x103800 ≤ x ∧ x < 0x103840 ∧ ¬ (x = 0x103830 ∧ n = 4)) → issueOne c o s = .next (programFault s c.toNat ⟨4, x⟩)) := by
  refine ⟨fun h => ?_, fun h hx => ?_, fun h hst hx => ?_⟩
  · exact issueOne_faults ha hi hr (hf.trans (accessFault_misaligned st h))
  · exact issueOne_faults ha hi hr (hf.trans (accessFault_outside st h hx))
  · subst hst
    exact issueOne_faults ha hi hr (hf.trans (accessFault_readOnly h hx))

/-! ## The end of a run on its cores -/

/-- What the end of a run leaves of a core. -/
def haltedCore (k : Core) (st : CoreSt) : Core :=
  { k with st := if k.st = 5 then 5 else st, ending := true, dmas := [], ksigs := [], outb := [], waitOut := false, waitDone := false }

theorem ending_ne_default {k : Core} (h : k.ending = true) : k ≠ ({} : Core) := by
  intro e
  rw [e] at h
  simp at h

theorem haltedCore_twice (k : Core) (st : CoreSt) : haltedCore (haltedCore k st) st = haltedCore k st := by
  have hst : (if (if k.st = 5 then 5 else st) = 5 then 5 else st) = if k.st = 5 then 5 else st := by split_ifs <;> simp_all
  unfold haltedCore
  rw [hst]

/-- A core that has been written, if what is written is not the core of the reset state. -/
theorem getCore_modCore_eq {s : State} {c : Nat} {g : Core → Core} (q : Nat) (h : (g (getCore s c)).ending = true) :
    getCore (modCore s c g) q = if q = c then g (getCore s c) else getCore s q := by
  split
  case isTrue hq =>
    subst hq
    exact smUpd_same s.cores q g (ending_ne_default h)
  case isFalse hq => exact smUpd_ne s.cores g (ending_ne_default h) hq

/-- The cores of a list that are halted. -/
theorem getCore_haltAll (cs : List Nat) (s : State) (st : CoreSt) (q : Nat) :
    getCore (cs.foldl (fun t c => modCore t c (haltedCore · st)) s) q = if q ∈ cs then haltedCore (getCore s q) st else getCore s q := by
  induction cs generalizing s with
  | nil => rfl
  | cons c cs ih =>
    rw [List.foldl_cons, ih, getCore_modCore_eq (g := (haltedCore · st)) q rfl]
    by_cases hc : q = c
    · subst hc
      simp [haltedCore_twice]
    · simp [hc]

/-- Halting cores changes nothing but the cores. -/
theorem haltAll_only (cs : List Nat) (s : State) (st : CoreSt) :
    ∃ x, cs.foldl (fun t c => modCore t c (haltedCore · st)) s = { s with cores := x } :=
  foldl_keeps (P := fun t => ∃ x, t = { s with cores := x }) (fun t c ⟨x, h⟩ => by rw [h]; exact ⟨_, rfl⟩) cs s ⟨_, rfl⟩

/-- The messages of a job's cores that are on the mesh. -/
def ofJobCores (s : State) (jn : Nat) (m : Msg) : Bool := (jobCores s jn).any (fun c => physCore s c == m.src.toNat)

theorem haltCores_eq (s : State) (jn : Nat) (st : CoreSt) : ∃ b o w, haltCores s jn st =
    (jobCores s jn).foldl (fun t c => modCore t c (haltedCore · st))
      { s with msgs := s.msgs.filter (fun m => !ofJobCores s jn m), bounces := b, knotOps := o, knotWaits := w } :=
  ⟨_, _, _, rfl⟩

/-- The end of a run: its cores are halted and their messages gone, and of the rest nothing that a fault reports changes. -/
theorem haltCores_leaves (s : State) (jn : Nat) (st : CoreSt) :
    (∀ q, getCore (haltCores s jn st) q = if q ∈ jobCores s jn then haltedCore (getCore s q) st else getCore s q) ∧
    (haltCores s jn st).msgs = s.msgs.filter (fun m => !ofJobCores s jn m) ∧ (haltCores s jn st).jobs = s.jobs ∧
    (haltCores s jn st).regs = s.regs ∧ (haltCores s jn st).ctrs = s.ctrs := by
  obtain ⟨b, o, w, h⟩ := haltCores_eq s jn st
  rw [h]
  refine ⟨fun q => getCore_haltAll .., ?_⟩
  obtain ⟨x, hx⟩ := haltAll_only (jobCores s jn)
    { s with msgs := s.msgs.filter (fun m => !ofJobCores s jn m), bounces := b, knotOps := o, knotWaits := w } st
  rw [hx]
  exact ⟨rfl, rfl, rfl, rfl⟩

theorem jobCores_of_cores {s t : State} (h : t.cores = s.cores) (jn : Nat) : jobCores t jn = jobCores s jn := by
  unfold jobCores
  rw [h]

/-! ## The shared program fault (R194, R202) -/

/-- A map whose unlisted keys read as `d` stays canonical when one of them is written. -/
theorem smWf_smSet_at {α : Type} [DecidableEq α] {d : Nat → α} {m : SMap α} (k : Nat) (v : α) (h : smWf d m = true) :
    smWf d (smSet (d k) m k v) = true := by
  have hsorted := smSorted_smSet (d := d k) (k := k) v (smWf_sorted h)
  unfold smWf at h ⊢
  simp only [Bool.and_eq_true, List.all_eq_true, Bool.not_eq_true', decide_eq_false_iff_not] at h ⊢
  refine ⟨?_, fun e he => ?_⟩
  · revert hsorted
    cases smSet (d k) m k v with
    | nil => exact fun _ => rfl
    | cons x r => exact fun hsorted => hsorted
  · rcases mem_smSet he with hm | ⟨rfl, hv⟩
    · exact h.2 e hm
    · exact hv

/-- The state in which a fault has been counted and logged, unless a fault is logged already. -/
def faultLogged (s : State) (w addr : Nat) : State :=
  if bitOf (reg (c32 s 0x30068 1) 0x30080) 31 then c32 s 0x30068 1 else setReg (setReg (c32 s 0x30068 1) 0x30080 w) 0x30084 addr

theorem reg_faultLogged {s : State} (w addr : Nat) (h : smWf regReset s.regs = true) (hw : w < 2 ^ 32) (ha : addr < 2 ^ 32) :
    reg (faultLogged s w addr) 0x30080 = (if bitOf (reg s 0x30080) 31 then reg s 0x30080 else w) ∧
    reg (faultLogged s w addr) 0x30084 = if bitOf (reg s 0x30080) 31 then reg s 0x30084 else addr := by
  have hfirst : smWf regReset (setReg (c32 s 0x30068 1) 0x30080 w).regs = true := smWf_smSet_at (d := regReset) _ _ h
  have hbit : reg (c32 s 0x30068 1) 0x30080 = reg s 0x30080 := rfl
  unfold faultLogged
  rw [hbit]
  split
  · exact ⟨rfl, rfl⟩
  · rw [reg_setReg _ _ hfirst, reg_setReg _ _ hfirst, reg_setReg (s := c32 s 0x30068 1) _ _ h]
    exact ⟨Nat.mod_eq_of_lt hw, Nat.mod_eq_of_lt ha⟩

theorem faultLogged_leaves (s : State) (w addr : Nat) :
    (faultLogged s w addr).cores = s.cores ∧ (faultLogged s w addr).jobs = s.jobs ∧ (faultLogged s w addr).msgs = s.msgs ∧
    (faultLogged s w addr).flt = s.flt ∧ (faultLogged s w addr).ctrs = (c32 s 0x30068 1).ctrs := by
  unfold faultLogged
  split <;> exact ⟨rfl, rfl, rfl, rfl, rfl⟩

/-- A record counts in the counters of the fault manager alone. -/
theorem ctr_logRec_other {s : State} {code o : Nat} (i : LogInfo) (h1 : o ≠ 0x90048) (h2 : o ≠ 0x9004C) :
    ctr (logRec s code 2 i) o = ctr s o := by
  have hclass : ctr (classCtr s 2) o = ctr s o := ctr_c32_one_ne s h1
  have hput : ∀ (t : State) w, ctr (logPut t w) o = ctr t o := fun t w => by
    unfold logPut
    split
    · exact (ctr_c32_one_ne _ h2).trans rfl
    · rfl
  refine Eq.trans ?_ ((hput (classCtr s 2) (logWords s.flt.rseq.toNat code 2 i)).trans hclass)
  unfold logRec ctr
  simp

/-- A program fault, on the state in which it has been counted, logged and recorded. -/
theorem programFault_eq {s : State} {c jn : Nat} {f : PFault} (hj : (getCore s c).job = some jn) :
    ∃ i, programFault s c f =
      modCore (stopJob (logRec (faultLogged s (c + f.cause * 2 ^ 8 + (getCore s c).pc.toNat * 2 ^ 12 + 2 ^ 31) f.addr) 0x06 2 i) jn stBad 4) c
        (fun k => { k with st := 5 }) := by
  unfold programFault
  rw [hj]
  exact ⟨_, rfl⟩

/-- The job keeps a status that had ended it before. -/
theorem getJob_failJob {s : State} {jn st : Nat} {j : Job} (h : getJob s jn = some j) :
    getJob (failJob s jn st) jn = some { j with err := some (j.err.getD (BitVec.ofNat 8 st)) } := by
  unfold failJob modJob
  rw [h]
  exact getJob_setJob ..

/-- The end of a job by a status: the job, its cores and its messages. -/
theorem stopJob_leaves {s : State} {jn st : Nat} {cst : CoreSt} {j : Job} (hjob : getJob s jn = some j) :
    getJob (stopJob s jn st cst) jn = some { j with err := some (j.err.getD (BitVec.ofNat 8 st)) } ∧
    (∀ q, getCore (stopJob s jn st cst) q = if q ∈ jobCores s jn then haltedCore (getCore s q) cst else getCore s q) ∧
    (stopJob s jn st cst).msgs = s.msgs.filter (fun m => !ofJobCores s jn m) ∧
    (stopJob s jn st cst).regs = s.regs ∧ (stopJob s jn st cst).ctrs = s.ctrs := by
  obtain ⟨hcore, hmsgs, hjobs, hregs, hctrs⟩ := haltCores_leaves (failJob s jn st) jn cst
  have hfail : getJob (stopJob s jn st cst) jn = getJob (failJob s jn st) jn := congrArg (smGet none · jn) hjobs
  exact ⟨hfail.trans (getJob_failJob hjob), hcore, hmsgs, hregs, hctrs⟩

/-- What a program fault leaves. -/
theorem programFault_leaves {s : State} {c jn : Nat} {f : PFault} {j : Job} (hc : c < 256) (hj : (getCore s c).job = some jn)
    (hjob : getJob s jn = some j) (hregs : smWf regReset s.regs = true) (hcause : f.cause < 16) (haddr : f.addr < 2 ^ 32)
    (hin : c ∈ jobCores s jn) :
    getJob (programFault s c f) jn = some { j with err := some (j.err.getD (BitVec.ofNat 8 stBad)) } ∧
    (∀ q, getCore (programFault s c f) q = if q ∈ jobCores s jn then
        { getCore s q with
          st := if q = c ∨ (getCore s q).st = 5 then 5 else 4
          ending := true, dmas := [], ksigs := [], outb := [], waitOut := false, waitDone := false }
      else getCore s q) ∧
    (programFault s c f).msgs = s.msgs.filter (fun m => !(jobCores s jn).any (fun q => physCore s q == m.src.toNat)) ∧
    ctr (programFault s c f) 0x30068 = satAdd 32 (ctr s 0x30068) 1 ∧
    reg (programFault s c f) 0x30080 = (if bitOf (reg s 0x30080) 31 then reg s 0x30080
      else c + f.cause * 2 ^ 8 + (getCore s c).pc.toNat * 2 ^ 12 + 2 ^ 31) ∧
    reg (programFault s c f) 0x30084 = if bitOf (reg s 0x30080) 31 then reg s 0x30084 else f.addr := by
  obtain ⟨i, hfault⟩ := programFault_eq (f := f) hj
  have hpc := (getCore s c).pc.isLt
  obtain ⟨hlog, hlogAddr⟩ := reg_faultLogged (c + f.cause * 2 ^ 8 + (getCore s c).pc.toNat * 2 ^ 12 + 2 ^ 31) f.addr hregs (by omega) haddr
  obtain ⟨hcores, hjobs, hmsgs, hflt, hctrs⟩ := faultLogged_leaves s (c + f.cause * 2 ^ 8 + (getCore s c).pc.toNat * 2 ^ 12 + 2 ^ 31) f.addr
  rw [hfault]
  generalize faultLogged s (c + f.cause * 2 ^ 8 + (getCore s c).pc.toNat * 2 ^ 12 + 2 ^ 31) f.addr = u
    at hlog hlogAddr hcores hjobs hmsgs hflt hctrs ⊢
  have hcount : ctr (logRec u 0x06 2 i) 0x30068 = satAdd 32 (ctr s 0x30068) 1 := by
    rw [ctr_logRec_other i (by decide) (by decide), ← ctr_c32_one]
    exact congrArg (smGet 0 · 0x30068) hctrs
  have hmap : (logRec u 0x06 2 i).flt.map = s.flt.map :=
    (congrArg RepairView.map (repairView_logRec u 0x06 2 i)).trans (congrArg FaultMgr.map hflt)
  obtain ⟨hcores', hjobs', hmsgs', hregs'⟩ : (logRec u 0x06 2 i).cores = s.cores ∧ (logRec u 0x06 2 i).jobs = s.jobs ∧
      (logRec u 0x06 2 i).msgs = s.msgs ∧ (logRec u 0x06 2 i).regs = u.regs := by simp [hcores, hjobs, hmsgs]
  generalize logRec u 0x06 2 i = v at hcount hmap hcores' hjobs' hmsgs' hregs' ⊢
  have hcs : jobCores v jn = jobCores s jn := jobCores_of_cores hcores' jn
  have hphys : ∀ q, physCore v q = physCore s q := fun q => by
    unfold physCore physOf
    rw [hmap]
  obtain ⟨hend, hcore, hmesh, hregs'', hctrs''⟩ := stopJob_leaves (s := v) (jn := jn) (st := stBad) (cst := 4) (j := j)
    ((congrArg (smGet none · jn) hjobs').trans hjob)
  have hreg : ∀ o, reg (stopJob v jn stBad 4) o = reg u o := fun o => by
    unfold reg
    rw [hregs'', hregs']
  refine ⟨hend, fun q => ?_, ?_, ?_, ?_, ?_⟩
  · rw [getCore_modCore_eq q (by rw [hcore, hcs, if_pos hin]; rfl), hcore, hcore, hcs, getCore_of_cores hcores',
      getCore_of_cores hcores', if_pos hin]
    by_cases hq : q = c
    · subst hq
      simp [hin, haltedCore]
    · simp [hq, haltedCore]
  · refine hmesh.trans ?_
    rw [hmsgs']
    unfold ofJobCores
    simp only [hcs, hphys]
  · exact (congrArg (smGet 0 · 0x30068) hctrs'').trans hcount
  · exact (hreg 0x30080).trans hlog
  · exact (hreg 0x30084).trans hlogAddr

/-- Settles O11: each cause is the fault of its slot, and what a fault leaves is that of the shared operation. -/
theorem illegalAndFaulting : Obligations.IllegalAndFaulting := by
  intro s c d a vd va vb i ha hi
  refine ⟨bundleIssue_illegal ha hi, fun h => ⟨shiftSlot_faults ha hi h, shiftSlot_faults ha hi h, shiftSlot_faults ha hi h⟩,
    illegal_faults ha hi, ?_, ?_, fun ty => illegalMX_faults ha hi, fun buf m hcb => ?_, fun j x n st hmem => ?_, fun h => ?_,
    fun h0 hl => ?_, fun tile m hcol => ?_, fun ch hroom hd => ?_,
    fun f jn j hj hjob hregs hcause haddr hin => programFault_leaves c.isLt hj hjob hregs hcause haddr hin⟩
  case refine_1 =>
    have hslot : opVcvt vd va 1 vb = illegalSlot := if_pos (.inl rfl)
    exact (congrArg (issueMX c · s) hslot).trans (illegalMX_faults ha hi)
  case refine_2 =>
    have hslot : opVcvt vd va vb 1 = illegalSlot := if_pos (.inr rfl)
    exact (congrArg (issueMX c · s) hslot).trans (illegalMX_faults ha hi)
  case refine_3 => exact issueMX_faults (o := opPtb buf va vb m) ha hi rfl (by simp [opPtb, hcb])
  case refine_4 =>
    simp only [List.mem_cons, List.not_mem_nil, or_false, Prod.mk.injEq] at hmem
    rcases hmem with ⟨rfl, rfl, rfl, rfl⟩ | ⟨rfl, rfl, rfl, rfl⟩ | ⟨rfl, rfl, rfl, rfl⟩ | ⟨rfl, rfl, rfl, rfl⟩ | ⟨rfl, rfl, rfl, rfl⟩ |
      ⟨rfl, rfl, rfl, rfl⟩ | ⟨rfl, rfl, rfl, rfl⟩ | ⟨rfl, rfl, rfl, rfl⟩
    case inl => exact access_faults (o := opLw d a i) ha hi rfl rfl
    case inr.inl => exact access_faults (o := opLwp d a i) ha hi rfl rfl
    case inr.inr.inl => exact access_faults (o := opVld vd a i) ha hi rfl rfl
    case inr.inr.inr.inl => exact access_faults (o := opVldp vd a i) ha hi rfl rfl
    case inr.inr.inr.inr.inl => exact access_faults (o := opSw d a i) ha hi rfl rfl
    case inr.inr.inr.inr.inr.inl => exact access_faults (o := opSwp d a i) ha hi rfl rfl
    case inr.inr.inr.inr.inr.inr.inl => exact access_faults (o := opVst vd a i) ha hi rfl rfl
    case inr.inr.inr.inr.inr.inr.inr => exact access_faults (o := opVstp vd a i) ha hi rfl rfl
  case refine_5 => exact issueOne_faults (o := opJr a) ha hi rfl (if_pos h)
  case refine_6 =>
    have hslot : opLoop a i = { flow := fun k => .loop (sReg k a).toNat i.toNat
                                fault := fun s c => if 2 ≤ (getCore s c).loops.length then some ⟨5, 0⟩ else none } := if_neg h0
    exact issueOne_faults (o := opLoop a i) ha hi (by rw [hslot]) (by rw [hslot]; exact if_pos hl)
  case refine_7 => exact issueMX_faults (o := opPta tile va m) ha hi rfl (if_pos hcol)
  case refine_8 => exact issueMX_faults (o := opDma a ch) ha hi (decide_eq_true hroom) (by simp [opDma, hd])

end Sys2Proof.Machine
end
